-- ==== Sys2Proof/Word.lean ====
section
/-!
DEFINITION. The word types of the block. Registers are 32 bits wide (R6); byte stores hold 8-bit cells.
-/
namespace Sys2Proof

/-- A register word (R6). -/
abbrev Word := BitVec 32

/-- One byte of a buffer, a frame or a store. -/
abbrev Byte := BitVec 8

end Sys2Proof
end

