-- ==== Sys2Proof/Machine/Bytes.lean ====
section
/-!
DEFINITION. Bit fields, signed numbers, byte order, rounding and check codes.
-/
namespace Sys2Proof.Machine

/-- Bits `hi:lo` of a number. -/
def bits (v hi lo : Nat) : Nat := v / 2 ^ lo % 2 ^ (hi + 1 - lo)

/-- Bit `i` of a number. -/
def bitOf (v i : Nat) : Bool := v / 2 ^ i % 2 == 1

/-- A number of `w` bits read as two's complement. -/
def signed (w v : Nat) : Int := if v % 2 ^ w < 2 ^ (w - 1) then (v % 2 ^ w : Nat) else (v % 2 ^ w : Nat) - (2 ^ w : Nat)

/-- The `w` low bits of an integer in two's complement. -/
def twos (w : Nat) (v : Int) : Nat := (v % (2 ^ w : Nat)).toNat

def natOf (b : Bool) : Nat := if b then 1 else 0

/-- The number whose bit `i` is `f i`, for `i` below `n`. -/
def maskOf (n : Nat) (f : Nat → Bool) : Nat := (List.range n).foldl (fun a i => a + natOf (f i) * 2 ^ i) 0

/-- Little-endian bytes of a number. -/
def leBytes : Nat → Nat → List Byte
  | 0, _ => []
  | n + 1, v => BitVec.ofNat 8 v :: leBytes n (v / 256)

/-- Big-endian bytes of a number. -/
def beBytes (n v : Nat) : List Byte := (leBytes n v).reverse

def zeros (n : Nat) : List Byte := List.replicate n 0

/-- A byte string as a little-endian number. -/
def leVal : List Byte → Nat
  | [] => 0
  | b :: t => b.toNat + 256 * leVal t

/-- The `n` bytes from position `o` on. -/
def slice (l : List Byte) (o n : Nat) : List Byte := (l.drop o).take n

/-- The little-endian number in `n` bytes at position `o`. -/
def lle (l : List Byte) (o n : Nat) : Nat := leVal (slice l o n)

/-- The big-endian number in `n` bytes at position `o`. -/
def lbe (l : List Byte) (o n : Nat) : Nat := leVal (slice l o n).reverse

/-- `num / den` rounded to the nearest integer, halves away from zero. -/
def roundAway (num : Int) (den : Nat) : Int :=
  if 0 ≤ num then (((2 * num.natAbs + den) / (2 * den) : Nat) : Int) else -(((2 * num.natAbs + den) / (2 * den) : Nat) : Int)

/-- The little-endian words of a byte string, `n` of them. -/
def wordsOf (l : List Byte) (n : Nat) : List Nat := (List.range n).map fun i => lle l (4 * i) 4

/-- CRC-16/CCITT over bytes (R489). -/
def crc16 (l : List Byte) : Nat :=
  l.foldl (fun c b => (List.range 8).foldl (fun c i =>
    if bitOf c 15 != bitOf b.toNat (7 - i) then (2 * c % 65536) ^^^ 0x1021 else 2 * c % 65536) c) 0xFFFF

/-- CRC-32, reflected, polynomial 0xEDB88320, initial and final 0xFFFFFFFF (PRESUMED, log entry 21). -/
def crc32 (l : List Byte) : Nat :=
  (l.foldl (fun c b => (List.range 8).foldl (fun c _ => if c % 2 = 1 then (c / 2) ^^^ 0xEDB88320 else c / 2) (c ^^^ b.toNat))
    0xFFFFFFFF) ^^^ 0xFFFFFFFF

end Sys2Proof.Machine
end

