-- ==== Sys2Proof/Machine/Cipher.lean ====
section
/-!
DEFINITION. The ciphers and hashes that the spec names: SHA-256 (R32), AES-128 and AES-256, AES-CCM with a 2-byte length and an
8-byte MIC (R115, R278, R387), AES-CMAC (R473), AES key wrap (R470), and ECDSA and ECDH over P-256 (R31, R472). The algorithms are
those of the standards that the spec names them by (log entry 3). Words and field elements are natural numbers.
-/
namespace Sys2Proof.Machine.Cipher

/-! ### SHA-256 -/

/-- The 64 round constants, 32 bits each, and the 8 words of the initial state, first word lowest. -/
def shaK : Nat :=
  0xc67178f2bef9a3f7a4506ceb90befffa8cc7020884c8781478a5636f748f82ee682e6ff35b9cca4f4ed8aa4a391c0cb334b0bcb52748774c1e376c0819a4c116106aa070f40e3585d6990624d192e819c76c51a3c24b8b70a81a664ba2bfe8a192722c8581c2c92e766a0abb650a735453380d134d2c6dfc2e1b213827b70a851429296706ca6351d5a79147c6e00bf3bf597fc7b00327c8a831c66d983e515276f988da5cb0a9dc4a7484aa2de92c6f240ca1cc0fc19dc6efbe4786e49b69c1c19bf1749bdc06a780deb1fe72be5d74550c7dc3243185be12835b01d807aa98ab1c5ed5923f82a459f111f13956c25be9b5dba5b5c0fbcf71374491428a2f98
def shaInit : Nat := 0x5be0cd191f83d9ab9b05688c510e527fa54ff53a3c6ef372bb67ae856a09e667

/-- A word of a packed table. -/
def word32 (t i : Nat) : Nat := t / 2 ^ (32 * i) % 2 ^ 32

def rotr (x n : Nat) : Nat := x / 2 ^ n + x % 2 ^ n * 2 ^ (32 - n)

/-- The message schedule continued by `n` words; the list holds the last 16, newest first. -/
def shaSchedule : Nat → List Nat → List Nat
  | 0, w => w
  | n + 1, w =>
    let a := w.getD 14 0
    let b := w.getD 1 0
    let s0 := rotr a 7 ^^^ rotr a 18 ^^^ a / 8
    let s1 := rotr b 17 ^^^ rotr b 19 ^^^ b / 1024
    shaSchedule n ((w.getD 15 0 + s0 + w.getD 6 0 + s1) % 2 ^ 32 :: w)

structure ShaState where
  a : Nat
  b : Nat
  c : Nat
  d : Nat
  e : Nat
  f : Nat
  g : Nat
  h : Nat

def shaRound (i w : Nat) (x : ShaState) : ShaState :=
  let s1 := rotr x.e 6 ^^^ rotr x.e 11 ^^^ rotr x.e 25
  let ch := x.e &&& x.f ^^^ (2 ^ 32 - 1 - x.e) &&& x.g
  let t1 := x.h + s1 + ch + word32 shaK i + w
  let s0 := rotr x.a 2 ^^^ rotr x.a 13 ^^^ rotr x.a 22
  let maj := x.a &&& x.b ^^^ x.a &&& x.c ^^^ x.b &&& x.c
  ⟨(t1 + s0 + maj) % 2 ^ 32, x.a, x.b, x.c, (x.d + t1) % 2 ^ 32, x.e, x.f, x.g⟩

def shaRounds : Nat → List Nat → ShaState → ShaState
  | _, [], x => x
  | i, w :: ws, x => shaRounds (i + 1) ws (shaRound i w x)

/-- One block of 64 bytes joins the state. -/
def shaBlock (x : ShaState) (block : List Byte) : ShaState :=
  let w := (List.range 16).map fun i => lbe block (4 * i) 4
  let y := shaRounds 0 (shaSchedule 48 w.reverse).reverse x
  let add (p q : Nat) : Nat := (p + q) % 2 ^ 32
  ⟨add x.a y.a, add x.b y.b, add x.c y.c, add x.d y.d, add x.e y.e, add x.f y.f, add x.g y.g, add x.h y.h⟩

/-- The blocks of a padded message, at most `n`. -/
def shaBlocks : Nat → List Byte → ShaState → ShaState
  | 0, _, x => x
  | n + 1, l, x => if l.isEmpty then x else shaBlocks n (l.drop 64) (shaBlock x (l.take 64))

/-- SHA-256 of a byte string, as a 256-bit number, first byte most significant. -/
def sha256 (l : List Byte) : Nat :=
  let pad := l ++ (0x80 : Byte) :: zeros ((119 - l.length % 64) % 64) ++ beBytes 8 (8 * l.length)
  let i := word32 shaInit
  let x := shaBlocks (l.length / 64 + 2) pad ⟨i 0, i 1, i 2, i 3, i 4, i 5, i 6, i 7⟩
  [x.a, x.b, x.c, x.d, x.e, x.f, x.g, x.h].foldl (fun acc w => acc * 2 ^ 32 + w) 0

/-! ### AES -/

/-- The S-box, byte 0 lowest. -/
def sboxTable : Nat :=
  0x16bb54b00f2d99416842e6bf0d89a18cdf2855cee9871e9b948ed9691198f8e19e1dc186b95735610ef6034866b53e708a8bbd4b1f74dde8c6b4a61c2e2578ba08ae7a65eaf4566ca94ed58d6d37c8e779e4959162acd3c25c2406490a3a32e0db0b5ede14b8ee4688902a22dc4f816073195d643d7ea7c41744975fec130ccdd2f3ff1021dab6bcf5389d928f40a351a89f3c507f02f94585334d43fbaaefd0cf584c4a39becb6a5bb1fc20ed00d153842fe329b3d63b52a05a6e1b1a2c830975b227ebe28012079a059618c323c7041531d871f1e5a534ccf73f362693fdb7c072a49cafa2d4adf04759fa7dc982ca76abd7fe2b670130c56f6bf27b777c63
def sbox (x : Nat) : Nat := sboxTable / 2 ^ (8 * x) % 256

/-- The inverse of the S-box, byte 0 lowest. -/
def sboxInvTable : Nat :=
  0x7d0c2155631469e126d677ba7e042b17619953833cbbebc8b0f52aae4d3be0a0ef9cc9939f7ae52d0d4ab519a97f51605fec8027591012b131c7078833a8dd1ff45acd78fec0db9a2079d2c64b3e56fc1bbe18aa0e62b76f89c5291d711af1476edf751ce837f9e28535ade72274ac9673e6b4f0cecff297eadc674f4111913a6b8a130103bdafc1020f3fca8f1e2cd00645b3b80558e4f70ad3bc8c00abd890849d8da75746155edab9edfd5048706c92b6655dcc5ca4d41698688664f6f87225d18b6d49a25b76b224d92866a12e084ec3fa420b954cee3d23c2a632947b54cbe9dec444438e3487ff2f9b8239e37cfbd7f3819ea340bf38a53630d56a0952
def sboxInv (x : Nat) : Nat := sboxInvTable / 2 ^ (8 * x) % 256

/-- Multiplication by x in the field of 256 elements, and by a small constant. -/
def xtime (b : Nat) : Nat := if b < 128 then 2 * b else (2 * b) ^^^ 0x11B
def gmul (k b : Nat) : Nat :=
  let b2 := xtime b
  let b4 := xtime b2
  let b8 := xtime b4
  (if bitOf k 0 then b else 0) ^^^ (if bitOf k 1 then b2 else 0) ^^^ (if bitOf k 2 then b4 else 0) ^^^ (if bitOf k 3 then b8 else 0)

/-- Four bytes of a key-schedule word, each through the S-box. -/
def subWord (w : List Nat) : List Nat := w.map sbox
def xorList (a b : List Nat) : List Nat := (a.zip b).map fun p => p.1 ^^^ p.2

/-- The key schedule: `n` more words for a key of `nk` words; the list holds the words so far, newest first. -/
def expandKey (nk : Nat) : Nat → Nat → Nat → List (List Nat) → List (List Nat)
  | 0, _, _, ws => ws
  | n + 1, i, rc, ws =>
    let prev := ws.headD []
    let back := ws.getD (nk - 1) []
    if i % nk = 0 then
      let t := subWord (prev.drop 1 ++ prev.take 1)
      expandKey nk n (i + 1) (xtime rc) (xorList back (xorList t [rc, 0, 0, 0]) :: ws)
    else if nk = 8 ∧ i % nk = 4 then expandKey nk n (i + 1) rc (xorList back (subWord prev) :: ws)
    else expandKey nk n (i + 1) rc (xorList back prev :: ws)

/-- A byte string in words of four. -/
def quads : List Nat → List (List Nat)
  | a :: b :: c :: d :: t => [a, b, c, d] :: quads t
  | _ => []

/-- The round keys of a key of 16 or 32 bytes, 16 bytes each, first round first. -/
def roundKeys (key : List Byte) : List (List Nat) :=
  let nk := key.length / 4
  let rounds := nk + 6
  let ws := (expandKey nk (4 * (rounds + 1) - nk) nk 1 (quads (key.map BitVec.toNat)).reverse).reverse
  (List.range (rounds + 1)).map fun r => (((ws.drop (4 * r)).take 4).flatMap id)

def shiftRows (s : List Nat) : List Nat := (List.range 16).map fun i => s.getD ((i + 4 * (i % 4)) % 16) 0
def unshiftRows (s : List Nat) : List Nat := (List.range 16).map fun i => s.getD ((i + 12 * (i % 4)) % 16) 0

/-- A column mixed by the circulant of four constants. -/
def mixColumn (k : List Nat) (c : List Nat) : List Nat :=
  (List.range 4).map fun r => (List.range 4).foldl (fun acc j => acc ^^^ gmul (k.getD ((j + 4 - r) % 4) 0) (c.getD j 0)) 0

def mixColumns (k : List Nat) (s : List Nat) : List Nat := (quads s).flatMap (mixColumn k)

def encRounds : List (List Nat) → List Nat → List Nat
  | [], s => s
  | [k], s => xorList (shiftRows (s.map sbox)) k
  | k :: ks, s => encRounds ks (xorList (mixColumns [2, 3, 1, 1] (shiftRows (s.map sbox))) k)

/-- The rounds undone, the last round's key first; the first key of all is added by the caller. -/
def decRounds : List (List Nat) → List Nat → List Nat
  | [], s => s
  | [k], s => xorList ((unshiftRows s).map sboxInv) k
  | k :: ks, s => decRounds ks (mixColumns [14, 11, 13, 9] (xorList ((unshiftRows s).map sboxInv) k))

def toBytes (s : List Nat) : List Byte := s.map (BitVec.ofNat 8)

/-- AES encryption and decryption of one block of 16 bytes, under a key of 16 or 32. -/
def aesEnc (key block : List Byte) : List Byte :=
  match roundKeys key with
  | k :: ks => toBytes (encRounds ks (xorList (block.map BitVec.toNat) k))
  | [] => block

def aesDec (key block : List Byte) : List Byte :=
  match (roundKeys key).reverse with
  | k :: ks => toBytes (decRounds ks (xorList (block.map BitVec.toNat) k))
  | [] => block

def xorBytes (a b : List Byte) : List Byte := (a.zip b).map fun p => p.1 ^^^ p.2

/-! ### CCM -/

/-- The CBC-MAC of a padded byte string, at most `n` blocks, from a chaining value. -/
def cbcMac (key : List Byte) : Nat → List Byte → List Byte → List Byte
  | 0, _, x => x
  | n + 1, l, x => if l.isEmpty then x else cbcMac key n (l.drop 16) (aesEnc key (xorBytes x (l.take 16)))

/-- Zeros to the next whole block. -/
def padBlock (l : List Byte) : List Byte := l ++ zeros ((16 - l.length % 16) % 16)

/-- Counter block `i` of a 13-byte nonce. -/
def ccmCounter (nonce : List Byte) (i : Nat) : List Byte := (1 : Byte) :: nonce ++ beBytes 2 i

/-- The key stream over a message, from counter block 1 on. -/
def ccmCrypt (key nonce msg : List Byte) : List Byte :=
  xorBytes msg ((List.range ((msg.length + 15) / 16)).flatMap fun i => aesEnc key (ccmCounter nonce (i + 1)))

/-- The 8-byte MIC over associated data of fewer than 65,280 bytes and a message in clear. -/
def ccmMic (key nonce aad msg : List Byte) : List Byte :=
  let b0 := BitVec.ofNat 8 (64 * natOf (!aad.isEmpty) + 8 * 3 + 1) :: nonce ++ beBytes 2 msg.length
  let data := b0 ++ (if aad.isEmpty then [] else padBlock (beBytes 2 aad.length ++ aad)) ++ padBlock msg
  xorBytes ((cbcMac key (data.length / 16) data (zeros 16)).take 8) (aesEnc key (ccmCounter nonce 0))

/-! ### CMAC -/

/-- A block doubled in the field of 2^128 elements. -/
def cmacDouble (v : Nat) : Nat := if v < 2 ^ 127 then 2 * v else (2 * v - 2 ^ 128) ^^^ 0x87

/-- AES-CMAC of a byte string, 16 bytes. -/
def cmac (key l : List Byte) : List Byte :=
  let k1 := cmacDouble (lbe (aesEnc key (zeros 16)) 0 16)
  let full := l.length % 16 == 0 && !l.isEmpty
  let n := if full then l.length - 16 else l.length - l.length % 16
  let tail := l.drop n
  let last := if full then xorBytes tail (beBytes 16 k1)
    else xorBytes (padBlock (tail ++ [0x80])) (beBytes 16 (cmacDouble k1))
  cbcMac key (n / 16 + 1) (l.take n ++ last) (zeros 16)

/-! ### Key wrap (RFC 3394) -/

/-- One step of a wrap: the register, and the block it meets. -/
def wrapStep (kek : List Byte) (t : Nat) (a r : List Byte) : List Byte × List Byte :=
  let b := aesEnc kek (a ++ r)
  (beBytes 8 (lbe b 0 8 ^^^ t), b.drop 8)

def wrapPass (kek : List Byte) : Nat → List Byte → List (List Byte) → List (List Byte) → List Byte × List (List Byte)
  | _, a, [], done => (a, done.reverse)
  | t, a, r :: rs, done =>
    let p := wrapStep kek t a r
    wrapPass kek (t + 1) p.1 rs (p.2 :: done)

def octuples (l : List Byte) : List (List Byte) := (List.range (l.length / 8)).map fun i => slice l (8 * i) 8

/-- The 8-byte initial value. -/
def wrapIv : List Byte := List.replicate 8 0xA6

/-- The wrap of a plaintext of whole 8-byte blocks. -/
def wrap (kek plain : List Byte) : List Byte :=
  let rs := octuples plain
  let r := (List.range 6).foldl (fun (s : List Byte × List (List Byte)) j => wrapPass kek (rs.length * j + 1) s.1 s.2 []) (wrapIv, rs)
  r.1 ++ r.2.flatMap id

def unwrapStep (kek : List Byte) (t : Nat) (a r : List Byte) : List Byte × List Byte :=
  let b := aesDec kek (beBytes 8 (lbe a 0 8 ^^^ t) ++ r)
  (b.take 8, b.drop 8)

/-- One pass undone, over the blocks from last to first. -/
def unwrapPass (kek : List Byte) : Nat → List Byte → List (List Byte) → List (List Byte) → List Byte × List (List Byte)
  | _, a, [], done => (a, done)
  | t, a, r :: rs, done =>
    let p := unwrapStep kek t a r
    unwrapPass kek (t - 1) p.1 rs (p.2 :: done)

/-- The check value and the plaintext of a wrap. -/
def unwrap (kek blob : List Byte) : List Byte × List Byte :=
  let rs := octuples (blob.drop 8)
  let n := rs.length
  let r := (List.range 6).foldl (fun (s : List Byte × List (List Byte)) j => unwrapPass kek (n * (6 - j)) s.1 s.2.reverse [])
    (blob.take 8, rs)
  (r.1, r.2.flatMap id)

/-! ### P-256 -/

def p256 : Nat := 2 ^ 256 - 2 ^ 224 + 2 ^ 192 + 2 ^ 96 - 1
def n256 : Nat := 0xFFFFFFFF00000000FFFFFFFFFFFFFFFFBCE6FAADA7179E84F3B9CAC2FC632551
def b256 : Nat := 0x5AC635D8AA3A93E7B3EBBD55769886BC651D06B0CC53B0F63BCE3C3E27D2604B
def gx256 : Nat := 0x6B17D1F2E12C4247F8BCE6E563A440F277037D812DEB33A0F4A13945D898C296
def gy256 : Nat := 0x4FE342E2FE1A7F9B8EE7EB4A7C0F9E162BCE33576B315ECECBB6406837BF51F5

/-- `b ^ e` modulo `m`, `fuel` bits of `e` at most. -/
def powMod (m : Nat) : Nat → Nat → Nat → Nat
  | 0, _, _ => 1
  | fuel + 1, b, e => if e = 0 then 1 else
    let h := powMod m fuel (b * b % m) (e / 2)
    if e % 2 = 1 then b * h % m else h

/-- A point in Jacobian coordinates; `z` 0 is the point at infinity. -/
structure Point where
  x : Nat
  y : Nat
  z : Nat

def Point.inf : Point := ⟨1, 1, 0⟩

/-- Subtraction modulo the field's prime. -/
def fsub (a b : Nat) : Nat := (a + p256 - b) % p256

def Point.double (q : Point) : Point :=
  if q.z = 0 ∨ q.y = 0 then .inf else
  let yy := q.y * q.y % p256
  let s := 4 * q.x * yy % p256
  let zz := q.z * q.z % p256
  let m := 3 * fsub q.x zz * ((q.x + zz) % p256) % p256
  let x := fsub (m * m % p256) (2 * s % p256)
  ⟨x, fsub (m * fsub s x % p256) (8 * (yy * yy % p256) % p256), 2 * q.y * q.z % p256⟩

def Point.add (q r : Point) : Point :=
  if q.z = 0 then r else if r.z = 0 then q else
  let z1 := q.z * q.z % p256
  let z2 := r.z * r.z % p256
  let u1 := q.x * z2 % p256
  let u2 := r.x * z1 % p256
  let s1 := q.y * (z2 * r.z % p256) % p256
  let s2 := r.y * (z1 * q.z % p256) % p256
  if u1 = u2 then (if s1 = s2 then q.double else .inf) else
  let h := fsub u2 u1
  let t := fsub s2 s1
  let hh := h * h % p256
  let hhh := h * hh % p256
  let v := u1 * hh % p256
  let x := fsub (fsub (t * t % p256) hhh) (2 * v % p256)
  ⟨x, fsub (t * fsub v x % p256) (s1 * hhh % p256), h * (q.z * r.z % p256) % p256⟩

/-- `k` times a point, `fuel` bits of `k` at most. -/
def Point.mul : Nat → Nat → Point → Point
  | 0, _, _ => .inf
  | fuel + 1, k, q => if k = 0 then .inf else
    let h := Point.mul fuel (k / 2) q
    let d := h.double
    if k % 2 = 1 then d.add q else d

/-- The affine coordinates of a point. -/
def Point.affine (q : Point) : Nat × Nat :=
  let i := powMod p256 256 q.z (p256 - 2)
  let ii := i * i % p256
  (q.x * ii % p256, q.y * (ii * i % p256) % p256)

def onCurve (x y : Nat) : Bool :=
  decide (x < p256) && decide (y < p256) && y * y % p256 == (x * x * x + (p256 - 3) * x + b256) % p256

/-- A public key of 64 bytes, x then y, big-endian. -/
def pubPoint (pub : List Byte) : Point := ⟨lbe pub 0 32, lbe pub 32 32, 1⟩

/-- An ECDSA signature, r then s, over a hash, verifies under a public key. -/
def ecdsaOk (pub : List Byte) (hash : Nat) (sig : List Byte) : Bool :=
  let r := lbe sig 0 32
  let s := lbe sig 32 32
  let w := powMod n256 256 s (n256 - 2)
  let q := (Point.mul 256 (hash * w % n256) ⟨gx256, gy256, 1⟩).add (Point.mul 256 (r * w % n256) (pubPoint pub))
  pub.length == 64 && sig.length == 64 && onCurve (lbe pub 0 32) (lbe pub 32 32) && decide (0 < r ∧ r < n256 ∧ 0 < s ∧ s < n256) &&
    q.z != 0 && q.affine.1 % n256 == r

/-- The signature over a hash by a private key, with the per-signature number `k`. -/
def ecdsaSign (priv hash k : Nat) : List Byte :=
  let r := (Point.mul 256 k ⟨gx256, gy256, 1⟩).affine.1 % n256
  let s := powMod n256 256 k (n256 - 2) * ((hash + r * priv) % n256) % n256
  beBytes 32 r ++ beBytes 32 s

/-- The public key of a private key, and the x coordinate shared with a peer's public key. -/
def publicOf (priv : Nat) : List Byte :=
  let q := (Point.mul 256 priv ⟨gx256, gy256, 1⟩).affine
  beBytes 32 q.1 ++ beBytes 32 q.2
def ecdhX (priv : Nat) (pub : List Byte) : List Byte := beBytes 32 (Point.mul 256 priv (pubPoint pub)).affine.1

end Sys2Proof.Machine.Cipher
end

