-- ==== Sys2Proof/Machine/Frames.lean ====
section
/-!
DEFINITION. What crosses the block's boundary: descriptors and buffers of host memory, lantern frames and ridge frames. All of it
is plain data.
-/
namespace Sys2Proof

open Machine

/-- A 128-bit key value (R466), and its 16 bytes. -/
abbrev Key := BitVec 128
def Key.bytes (k : Key) : List Byte := beBytes 16 k.toNat

/-- One entry of a scatter-gather list, as its 16 bytes read (R352). -/
structure SgEntry where
  raw : List Byte
  deriving DecidableEq, Repr

def SgEntry.addr (e : SgEntry) : Nat := lle e.raw 0 8
def SgEntry.length (e : SgEntry) : Nat := lle e.raw 8 4
def SgEntry.link (e : SgEntry) : Bool := bitOf (lle e.raw 12 4) 0
/-- Bits 31:1 of SFLAGS are not all zero. -/
def SgEntry.reserved (e : SgEntry) : Bool := lle e.raw 12 4 / 2 != 0

/-- A descriptor as a read of host memory returns it, 32 bytes, with what its list and its buffer read as (R350–R352). -/
structure Desc where
  raw : List Byte
  list : List SgEntry
  data : List Byte
  deriving DecidableEq, Repr

namespace Desc
def flags (d : Desc) : Nat := lle d.raw 0 1
def own (d : Desc) : Bool := bitOf d.flags 0
def sg (d : Desc) : Bool := bitOf d.flags 1
def notify (d : Desc) : Bool := bitOf d.flags 2
def swap (d : Desc) : Nat := bits d.flags 4 3
def nosnoop (d : Desc) : Bool := bitOf d.flags 5
/-- Bits 7:6 of FLAGS are not zero. -/
def reserved (d : Desc) : Bool := bits d.flags 7 6 != 0
def sgCount (d : Desc) : Nat := lle d.raw 1 1
def opcode (d : Desc) : Nat := lle d.raw 2 2
def tag (d : Desc) : Nat := lle d.raw 4 4
def length (d : Desc) : Nat := lle d.raw 8 4
def param (d : Desc) : Nat := lle d.raw 12 4
def addr (d : Desc) : Nat := lle d.raw 16 8
/-- Bytes 24–31 are zero, as R351 asks. -/
def tailZero (d : Desc) : Bool := lle d.raw 24 8 == 0
end Desc

/-! ### Frames of the Tolade protocol -/

/-- The key that seals a TLP frame (R114): an epoch key or a join key, by what it is derived from. -/
inductive TlpKey where
  | epoch (knet : Key) (e : Nat)
  | join (knet : Key) (eui : Nat)
  deriving DecidableEq, Repr

/-- E(K_NET, x) of R114. An EUI's transmission order is that of its bytes in a JOIN, little-endian. -/
def TlpKey.value : TlpKey → List Byte
  | .epoch k e => Cipher.aesEnc k.bytes ([0x54, 0x4C, 0x50, 0x45] ++ leBytes 1 e ++ zeros 11)
  | .join k eui => Cipher.aesEnc k.bytes (leBytes 8 eui ++ [0x4A, 0x4F, 0x49, 0x4E] ++ zeros 4)

/-- Under what a frame is sealed: its key, and the origin course's TAI seconds (bits 31:0) in the nonce (R115). -/
structure TlpSeal where
  key : TlpKey
  course : Nat
  deriving DecidableEq, Repr

/-- A TLP frame in clear (R110): the header, the body, and what it is sealed under. -/
structure TlpFrame where
  typ : Nat
  hops : Nat
  copy : Nat
  epoch : Nat
  spar : Nat
  sender : Nat
  courseLo : Nat
  originSlot : Nat
  body : List Byte
  mic : TlpSeal
  deriving DecidableEq, Repr

/-- The 8-byte header (R110). -/
def tlpHeader (f : TlpFrame) : List Byte :=
  leBytes 1 (f.typ % 16 + 16 * (f.hops % 8) + 128 * (f.copy % 2)) ++ leBytes 1 f.epoch ++ leBytes 2 f.spar ++ leBytes 2 f.sender ++
    leBytes 1 f.courseLo ++ leBytes 1 f.originSlot

/-- The 13-byte nonce (R115). -/
def tlpNonce (f : TlpFrame) (course : Nat) : List Byte :=
  leBytes 2 f.sender ++ leBytes 2 f.spar ++ leBytes 1 f.epoch ++ leBytes 1 f.typ ++ leBytes 4 course ++ leBytes 1 f.originSlot ++ zeros 2

/-- How many bytes of a body are associated data (R116): all of a BEACON's, a JOIN's EUI, else none. -/
def tlpClear (typ : Nat) (n : Nat) : Nat := if typ = 0 then n else if typ = 0xB then min 8 n else 0

/-- The associated data: the header with bits 7:4 of byte 0 zero, and the clear part of the body (R116). -/
def tlpAad (f : TlpFrame) (body : List Byte) : List Byte := tlpHeader { f with hops := 0, copy := 0 } ++ body.take (tlpClear f.typ body.length)

/-- The octets of a frame on the air, without the FCS (R109, R115, R116): header, body sealed under its key, MIC. -/
def TlpFrame.octets (f : TlpFrame) : List Byte :=
  let k := f.mic.key.value
  let nonce := tlpNonce f f.mic.course
  let n := tlpClear f.typ f.body.length
  tlpHeader f ++ f.body.take n ++ Cipher.ccmCrypt k nonce (f.body.drop n) ++ Cipher.ccmMic k nonce (tlpAad f f.body) (f.body.drop n)

/-- The fields of received octets; `body` is what lies between the header and the MIC, still sealed. -/
def tlpParse (o : List Byte) (s : TlpSeal) : TlpFrame :=
  let b := lle o 0 1
  ⟨b % 16, bits b 6 4, bits b 7 7, lle o 1 1, lle o 2 2, lle o 4 2, lle o 6 1, lle o 7 1, slice o 8 (o.length - 16), s⟩

/-- Received octets opened under a seal: the frame with its body in clear, where the MIC holds. -/
def tlpOpen (o : List Byte) (s : TlpSeal) : Option TlpFrame :=
  let f := tlpParse o s
  let n := tlpClear f.typ f.body.length
  let k := s.key.value
  let nonce := tlpNonce f s.course
  let msg := Cipher.ccmCrypt k nonce (f.body.drop n)
  let body := f.body.take n ++ msg
  if Cipher.ccmMic k nonce (tlpAad f body) msg = slice o (o.length - 8) 8 then some { f with body := body } else none

/-! ### Ridge frames -/

/-- A ridge frame (R386): the header's fields, and the payload in clear where the frame is handled in the module. On the wire and
in a queue (`wire`) the payload is what stands after the header: sealed, with its MIC, unless OPEN is set. -/
structure RidgeFrame where
  cls : Fin 4
  ttl : Nat
  dst : Nat
  src : Nat
  isOpen : Bool
  turned : Bool
  boot : Nat
  seq : Nat
  payload : List Byte
  deriving DecidableEq, Repr

/-- The 16-byte header of a frame with `n` payload bytes (R386). -/
def ridgeHeader (f : RidgeFrame) (n : Nat) : List Byte :=
  beBytes 1 (0x10 + 4 * f.cls.toNat) ++ beBytes 1 f.ttl ++ beBytes 2 (f.dst % 4096) ++ beBytes 2 (f.src % 4096) ++
    beBytes 1 (natOf f.isOpen + 2 * natOf f.turned) ++ [0] ++ beBytes 2 f.boot ++ beBytes 4 f.seq ++ beBytes 2 n

/-- The nonce, and the associated data (R387). -/
def ridgeNonce (f : RidgeFrame) : List Byte :=
  beBytes 2 (f.src % 4096) ++ beBytes 2 f.boot ++ beBytes 4 f.seq ++ beBytes 1 (0x10 + 4 * f.cls.toNat) ++ zeros 4
def ridgeAad (f : RidgeFrame) (n : Nat) : List Byte := ridgeHeader { f with ttl := 0, turned := false } n

/-- A frame sealed under K_FAB, as it stands on the wire and in a queue (R387). -/
def RidgeFrame.seal (f : RidgeFrame) (k : Key) : RidgeFrame :=
  { f with payload := Cipher.ccmCrypt k.bytes (ridgeNonce f) f.payload ++
      Cipher.ccmMic k.bytes (ridgeNonce f) (ridgeAad f f.payload.length) f.payload }

/-- LENGTH of a frame on the wire: what stands after the header without the MIC. -/
def RidgeFrame.wireLength (f : RidgeFrame) : Nat := if f.isOpen then f.payload.length else f.payload.length - 8

/-- A sealed frame opened under K_FAB, where its MIC holds (R387). -/
def RidgeFrame.unseal (f : RidgeFrame) (k : Key) : Option RidgeFrame :=
  let n := f.wireLength
  let msg := Cipher.ccmCrypt k.bytes (ridgeNonce f) (f.payload.take n)
  if f.payload.drop n = Cipher.ccmMic k.bytes (ridgeNonce f) (ridgeAad f n) msg then some { f with payload := msg } else none

/-- The message kind of a frame in clear: its payload's first byte (R390). -/
def RidgeFrame.kind (f : RidgeFrame) : Nat := (f.payload.headD 0).toNat

/-- The octets of a frame on the wire (R386). -/
def RidgeFrame.octets (f : RidgeFrame) : List Byte := ridgeHeader f f.wireLength ++ f.payload

/-- Received octets as a frame on the wire; none where the version, a reserved bit or LENGTH is wrong (R386). Padding after the
frame is left. -/
def ridgeParse (o : List Byte) : Option RidgeFrame :=
  let v := lbe o 0 1
  let fl := lbe o 6 1
  let sealed := if bitOf fl 0 then 0 else 8
  let n := lbe o 14 2
  if v / 16 = 1 ∧ v % 4 = 0 ∧ lbe o 2 2 < 4096 ∧ lbe o 4 2 < 4096 ∧ fl < 4 ∧ lbe o 7 1 = 0 ∧ 1 ≤ n ∧ n ≤ 1476 ∧ 16 + n + sealed ≤ o.length then
    some ⟨Fin.ofNat 4 (bits v 3 2), lbe o 1 1, lbe o 2 2, lbe o 4 2, bitOf fl 0, bitOf fl 1, lbe o 8 2, lbe o 10 4,
      slice o 16 (n + sealed)⟩
  else none

end Sys2Proof
end

