-- ==== Sys2Proof/Machine/Sparse.lean ====
section
/-!
DEFINITION. Sparse stores. A store of many like cells (the register file, the contexts, a byte array) is a list of
(key, value) pairs in one canonical form: keys strictly rising, and no entry equal to what an unlisted key reads as,
which is the function `d`. Equal stores are then equal lists.
-/
namespace Sys2Proof.Machine

/-- A store by number; what an unlisted key reads as is given beside it. -/
abbrev Sparse (α : Type) := List (Nat × α)

/-- The value at key `k`. -/
def sget {α : Type} (d : Nat → α) : Sparse α → Nat → α
  | [], k => d k
  | (j, v) :: t, k => if j = k then v else sget d t k

/-- The store without key `k`. -/
def serase {α : Type} : Sparse α → Nat → Sparse α
  | [], _ => []
  | (j, v) :: t, k => if j = k then serase t k else (j, v) :: serase t k

/-- Put a pair at its place in key order. -/
def sinsert {α : Type} (k : Nat) (v : α) : Sparse α → Sparse α
  | [] => [(k, v)]
  | (j, w) :: t => if k < j then (k, v) :: (j, w) :: t else (j, w) :: sinsert k v t

/-- Write `v` at key `k`, keeping the canonical form: a value equal to the unlisted one removes the entry. -/
def sset {α : Type} [DecidableEq α] (d : Nat → α) (m : Sparse α) (k : Nat) (v : α) : Sparse α :=
  if v = d k then serase m k else sinsert k v (serase m k)

/-- The canonical form, as a Bool. -/
def swf {α : Type} [DecidableEq α] (d : Nat → α) : Sparse α → Bool
  | [] => true
  | [(k, v)] => decide (v ≠ d k)
  | (k, v) :: (j, w) :: t => decide (v ≠ d k) && decide (k < j) && swf d ((j, w) :: t)

/-- Rewrite every listed value, keeping the canonical form (entries that become the unlisted value go). -/
def smap {α : Type} [DecidableEq α] (d : Nat → α) (f : Nat → α → α) : Sparse α → Sparse α
  | [] => []
  | (k, v) :: t => if f k v = d k then smap d f t else (k, f k v) :: smap d f t

end Sys2Proof.Machine
end

