-- ==== Sys2Proof/Machine/TypesLog.lean ====
section
/-!
DEFINITION. State of the soffit log and the skylight port (chapter 16).
-/
namespace Sys2Proof.Machine

/-- A valid soffit record (R486–R488), by field. `t` is OP_SEC or the low NSEQ bits, `cyc` is CYCLES or the high ones. -/
structure SofRec where
  cls : Nat
  dormer : Bool
  priv : Bool
  lost : Bool
  code : Nat
  t : Nat
  cyc : Nat
  sub : Nat
  p0 : Nat
  p1 : Nat
  p2 : Nat
  p3 : Nat
  count : Nat
  deriving DecidableEq, Repr

/-- A replay in progress (R503). -/
structure Replay where
  store : Nat
  area : Nat
  pos : Nat
  left : Nat
  deriving DecidableEq, Repr

/-- One queued skylight packet (R507). -/
structure SkyPkt where
  src : Nat
  time : Nat
  data : Nat
  deriving DecidableEq, Repr

/-- The log and the trace port beside their registers. -/
structure Log where
  /-- records by store, area and position (key `sofKey`); `none` where the position holds no valid record -/
  recs : Sparse (Option SofRec)
  /-- operating seconds and power-ups (R488), class N -/
  opSec : Nat
  cycles : Nat
  /-- tokens taken from each code's bucket (R494), by code -/
  spent : Sparse Nat
  /-- suppressed counts by code (R494) -/
  supp : Sparse Nat
  /-- event 59 has fired in this course (R495) -/
  evt59 : Bool
  /-- the privileged buffer, oldest first: store and record (R496) -/
  priv : List (Nat × SofRec)
  /-- records lost from it since the last move (R498) -/
  lostSince : Nat
  replay : Option Replay
  /-- the trace queue (R510), and the drops since the last LOST packet -/
  sky : List SkyPkt
  skyDrops : Nat
  deriving DecidableEq, Repr

def Log.reset : Log := ⟨[], 0, 0, [], [], false, [], 0, none, [], 0⟩

end Sys2Proof.Machine
end

