-- ==== Sys2Proof/Machine/TypesDmr.lean ====
section
/-!
DEFINITION. The dormer (chapters 08 and 09): a sealed island with its own state, its frames, and what a step measures.
-/
namespace Sys2Proof

/-- What reaches the dormer in a step: the codes of its channels, and what the lands and the time channel bring. -/
structure Meas where
  /-- the step's samples, in order: the signed 24-bit codes of current channels 0–15, then of L1, L2, L3 and N–PE (R259) -/
  codes : List (List Int)
  /-- TAI seconds and slot that the step covers, while slot marks arrive -/
  mark : Option (Nat × Nat)
  /-- TAI − UTC as carried by the time channel -/
  utc : Option Nat
  /-- rising zero crossings of the fundamental of L1, L2 and L3 within the step, in ns since power-up, oldest first (R263) -/
  cross : List (List Nat)
  /-- one-cycle RMS of L1–L3 at each refresh within the step, in 10 mV -/
  cycle : List (List Nat)
  /-- impedance at 3,125 Hz of the channel under test, in 0.1 mΩ -/
  imp : Nat
  /-- the seal switch is pressed at the step's end -/
  switch : Bool
  deriving DecidableEq, Repr

/-- Samples in the step, as the rule of R261 gives it. -/
def Meas.n (m : Meas) : Nat := m.codes.length

namespace Machine

/-- One feeder's block of a SNAPSHOT (R277). -/
structure FeederBlk where
  pNet : Int
  p : List Int
  qNet : Int
  sNet : Nat
  irms : List Nat
  e : List Int
  pf : Int
  deriving DecidableEq, Repr

def FeederBlk.zero : FeederBlk := ⟨0, [0, 0, 0], 0, 0, [0, 0, 0, 0], [0, 0, 0], 0⟩

/-- The body of a SNAPSHOT frame (R277); `totals` holds total q of feeder f at 8 × f + q. -/
structure SnapBody where
  vrms : List Nat
  ang2 : Nat
  ang3 : Nat
  feeders : List FeederBlk
  totals : List Nat
  deriving DecidableEq, Repr

/-- The body of a STATE frame (R319). -/
structure StateBody where
  sealState : Nat
  lidOpen : Bool
  switch : Bool
  gateOpen : Bool
  meterFault : Bool
  ovf : List Bool
  session : Nat
  result : Nat
  nonce : Nat
  nextSeq : Nat
  gateLeft : Nat
  breaks : Nat
  sessions : Nat
  reserveLeft : Nat
  utc : Nat
  logCount : Nat
  pulse : List Byte
  pending : List Nat
  runIvl : Nat
  run : List Nat
  newest : List (Option SofRec)
  replayPos : Nat
  replay : List (Option SofRec)
  deriving DecidableEq, Repr

inductive DmrBody where
  | snapshot (b : SnapBody)
  | info (ident meas : List Byte)
  | interval (ivl : Nat) (words : List Nat)
  | profile (first feeder : Nat) (words : List Nat)
  | state (b : StateBody)
  deriving DecidableEq, Repr

/-- A frame of the dormer by field (R276); its octets carry LENGTH, KIND, FORMAT and the MIC beside (R278). -/
structure DmrFrame where
  stepNo : Nat
  samples : Nat
  flags : Nat
  tagSec : Nat
  tagSlot : Nat
  vstate : Nat
  sagSwell : Nat
  feeders : Nat
  openCt : Nat
  noload : Nat
  reverse : Nat
  freq : Nat
  seq : Nat
  body : DmrBody
  deriving DecidableEq, Repr

/-- What a state copy holds (R298). -/
structure StateCopy where
  seq : Nat
  totals : Vector Nat 32
  resid : Vector Nat 32
  ivl : Option Nat
  bases : Vector Nat 16
  ivlFlags : Nat
  seenImp : Vector Bool 4
  seenExp : Vector Bool 4
  acc : Vector Int 4
  pending : Vector Nat 4
  stepNo : Nat
  tag : Nat
  utc : Nat
  /-- CRC-32 of the rest -/
  crc : Nat
  deriving DecidableEq, Repr

/-- The octets of a copy that its CRC covers: the fields in order, each in a fixed width (log entry 86). -/
def StateCopy.bytes (c : StateCopy) : List Byte :=
  leBytes 4 c.seq ++ c.totals.toList.flatMap (leBytes 8) ++ c.resid.toList.flatMap (leBytes 2) ++
    leBytes 5 (match c.ivl with | some n => n + 1 | none => 0) ++ c.bases.toList.flatMap (leBytes 8) ++ leBytes 1 c.ivlFlags ++
    leBytes 1 (maskOf 4 fun f => c.seenImp.toList.getD f false) ++ leBytes 1 (maskOf 4 fun f => c.seenExp.toList.getD f false) ++
    c.acc.toList.flatMap (fun a => leBytes 8 (twos 64 a)) ++ c.pending.toList.flatMap (leBytes 2) ++ leBytes 6 c.stepNo ++ leBytes 6 c.tag ++
    leBytes 1 c.utc

/-- A copy as it is written: its CRC-32 over the rest (R298). -/
def StateCopy.sealed (c : StateCopy) : StateCopy := { c with crc := crc32 c.bytes }

/-- A copy as it is read, with the bits of its CRC word that no longer agree with what it covers: valid where none is. -/
def StateCopy.valid (c : StateCopy) (upset : Nat) : Bool := (c.crc ^^^ upset) == crc32 c.bytes

def StateCopy.fresh (seq : Nat) : StateCopy :=
  StateCopy.sealed {
    seq := seq, totals := Vector.replicate 32 0, resid := Vector.replicate 32 0, ivl := none, bases := Vector.replicate 16 0,
    ivlFlags := 0, seenImp := Vector.replicate 4 false, seenExp := Vector.replicate 4 false, acc := Vector.replicate 4 0,
    pending := Vector.replicate 4 0, stepNo := 0, tag := 0, utc := 0, crc := 0 }

/-- A flag that is set and cleared after runs of steps (R270): the flag and the two runs. -/
structure Deb where
  on : Bool
  up : Nat
  down : Nat
  deriving DecidableEq, Repr

def Deb.off : Deb := ⟨false, 0, 0⟩

/-- One pulse output (R303–R306). `acc` and `pending` are the accumulator and the pending count; `accr` the accruals of the
last steps, newest first; `lost` those lost in the course; `last` the start of the last pulse in samples. -/
structure PulseOut where
  acc : Int
  pending : Nat
  accr : List Nat
  lost : Nat
  ovf : Bool
  last : Option Nat
  on : Bool
  deriving DecidableEq, Repr

def PulseOut.reset : PulseOut := ⟨0, 0, [], 0, false, none, false⟩

structure Dormer where
  /-- K_DL of the dormer link, and the metrology key (R278, R310) -/
  kDl : Key
  metroPub : BitVec 512
  /-- halted after a flush (R300) -/
  halted : Bool
  meterFault : Bool
  ident : List Byte
  /-- the sealed blocks in force, and the previous ones (R297) -/
  meas : List Byte
  pulse : List Byte
  prevMeas : List Byte
  prevPulse : List Byte
  /-- blocks that a CLOSE applies from the next step boundary (R312) -/
  apply : Option (List Byte × List Byte)
  /-- such a change took effect at the last step boundary -/
  changed : Bool
  /-- power-ups (R488) -/
  cycles : Nat
  stepNo : Nat
  /-- the STEP_NO in MRAM (R279) -/
  stepStored : Nat
  seq : Nat
  /-- tag of the last step, as 100 × TAI seconds + slot -/
  tag : Nat
  utc : Nat
  clkInternal : Bool
  timeFree : Bool
  aligning : Bool
  /-- steps that still carry SETTLING (R273) -/
  settle : Nat
  /-- samples taken since power-up -/
  clock : Nat
  /-- the codes of the previous step, which the filters of R259 and R263 still hold -/
  past : List (List Int)
  /-- the last rising zero crossings of L1–L3, newest first, at most 11 (R263) -/
  cross : Vector (List Nat) 3
  /-- channels in NO_LOAD, with the steps in a row below 0.050 % of In (R266), by channel -/
  load : Vector Deb 16
  pseq : Deb
  undet : Bool
  missingN : Deb
  openCt : Vector Deb 16
  sag : Vector Bool 3
  swell : Vector Bool 3
  /-- reverse flow by bit of REVERSE -/
  reverse : Vector Deb 16
  /-- total q of feeder f at 8 × f + q, and its residue (R284, R285) -/
  totals : Vector Nat 32
  resid : Vector Nat 32
  /-- the open interval, T_open at 4 × f + k, and the flags of R293 that are not per feeder -/
  ivl : Option Nat
  bases : Vector Nat 16
  ivlFlags : Nat
  seenImp : Vector Bool 4
  seenExp : Vector Bool 4
  /-- the course in which the interval after one that closed was opened, until its INTERVAL frame has gone (R316) -/
  ivlDue : Option Nat
  /-- words of the load profile (R296), at 16 × (N mod 3,360) + 4 × f + word -/
  profile : Sparse Nat
  newest : Nat
  /-- position in the PROFILE cycle: N0, b, and the feeders still to send for b (R318) -/
  cycleN : Nat
  cycleB : Nat
  cycleF : List Nat
  copies : Vector (Option StateCopy) 2
  pulses : Vector PulseOut 4
  /-- 0 FACTORY, 1 BROKEN, 2 RESEALED (R308) -/
  sealState : Nat
  breaks : Nat
  sessions : Nat
  lidOpen : Bool
  switch : Bool
  /-- steps left of the gate; the gate is open until it is shut (R309) -/
  gateOpen : Bool
  gateLeft : Nat
  /-- 0 IDLE, 1 ARMED, 2 OPEN -/
  session : Nat
  nonce : Nat
  nextSeq : Nat
  result : Nat
  staged : Option (List Byte) × Option (List Byte)
  /-- the LEGAL log (R297, R314): records at position (0–1,023 FIRST, 1,024–9,215 LAST), and what each area holds -/
  log : Sparse (Option SofRec)
  logCount : Nat
  firstUsed : Nat
  reserveUsed : Nat
  replayPos : Nat
  /-- octets of the frames sent, newest first -/
  sent : List (List Byte)
  /-- the counter of free values -/
  free : Nat
  deriving DecidableEq, Repr

/-- Words of the profile that no interval has filled read as MISSING (R296). -/
def profileDefault (k : Nat) : Nat := if k % 4 = 1 then 2 ^ 30 else 0

/-- The dormer of a new module, powered and unsealed since manufacture, with sealed blocks of zeros (log entry 23). -/
def Dormer.reset : Dormer :=
  { kDl := 0, metroPub := 0, halted := false, meterFault := false, ident := List.replicate 128 0, meas := List.replicate 240 0,
    pulse := List.replicate 24 0, prevMeas := List.replicate 240 0, prevPulse := List.replicate 24 0, apply := none,
    changed := false, cycles := 1, stepNo := 0, stepStored := 0, seq := 0, tag := 0, utc := 0, clkInternal := false,
    timeFree := true, aligning := false, settle := 20, clock := 0, past := [], cross := Vector.replicate 3 [], load := Vector.replicate 16 ⟨true, 0, 0⟩, pseq := Deb.off,
    undet := false, missingN := Deb.off, openCt := Vector.replicate 16 Deb.off, sag := Vector.replicate 3 false,
    swell := Vector.replicate 3 false, reverse := Vector.replicate 16 Deb.off, totals := Vector.replicate 32 0,
    resid := Vector.replicate 32 0, ivl := none, bases := Vector.replicate 16 0, ivlFlags := 0,
    seenImp := Vector.replicate 4 false, seenExp := Vector.replicate 4 false, ivlDue := none, profile := [], newest := 0, cycleN := 0,
    cycleB := 140, cycleF := [], copies := ⟨#[some (StateCopy.fresh 0), some (StateCopy.fresh 1)], rfl⟩,
    pulses := Vector.replicate 4 PulseOut.reset, sealState := 0, breaks := 0, sessions := 0, lidOpen := false, switch := false,
    gateOpen := false, gateLeft := 0, session := 0, nonce := 0, nextSeq := 0, result := 0, staged := (none, none), log := [],
    logCount := 0, firstUsed := 0, reserveUsed := 0, replayPos := 0, sent := [], free := 0 }

end Machine
end Sys2Proof
end

