-- ==== Sys2Proof/Machine/TypesHost.lean ====
section
/-!
DEFINITION. State of the host interface (chapter 11): the rings, the DMA engine, the PCIe function, and what the block
has put on its lands and buses.
-/
namespace Sys2Proof

/-- A field I/O land (R576): eave output and fault input of a channel, NTC input, gable line (0–47) or bus land (48–53), analogue
input, pulse input, tamper input. -/
inductive FieldLand where
  | eav (n : Fin 16)
  | flt (n : Fin 16)
  | ntc (k : Fin 8)
  | gbl (n : Fin 54)
  | ain (n : Fin 2)
  | pls (n : Fin 2)
  | tamp (n : Fin 4)
  deriving DecidableEq, Repr

end Sys2Proof

namespace Sys2Proof.Machine

/-- What a command is written back with: STATUS, DETAIL, DONE_LEN and the data returned (R350, R354). -/
structure Reply where
  status : Nat
  detail : Nat
  doneLen : Nat
  data : List Byte
  deriving DecidableEq, Repr

/-- One host ring beside its registers (R349, R359–R368). Counts of descriptors are whole numbers here; a doorbell and
HST_RING_DB show them modulo 131,072 (R359). -/
structure Ring where
  /-- descriptors taken since the ring was enabled, TAKEN of R360 -/
  taken : Nat
  /-- a doorbell latched and not yet acted on (R362) -/
  latched : Option Nat
  /-- the last doorbell value written (R359) -/
  lastDb : Nat
  /-- 0, or 1 more than the repeated reads made of a descriptor found with OWN clear (R361) -/
  early : Nat
  /-- stopped at such a descriptor until the next doorbell (R361) -/
  stalled : Bool
  /-- a command whose write-back is still to come (R475): its position in the ring and its descriptor -/
  cur : Option (Nat × Desc)
  /-- upload: empty buffers taken, oldest first, with their ring positions -/
  free : List (Nat × Desc)
  /-- upload: records packed into the buffer in fill, oldest first (R366); the buffer is the head of `free` -/
  fill : List (List Byte)
  /-- upload: records held by the source while no buffer is free, at most 64 (R367) -/
  waiting : List (List Byte)
  /-- upload: descriptors written back since the ring was enabled, for the occupancy of R367 -/
  wb : Nat
  /-- within HOLDOFF of the last firing of the ring's event (R368) -/
  holding : Bool
  /-- the event held until the end of HOLDOFF (R368) -/
  held : Option Nat
  /-- the next command waits for the key store, or for the heartbeat to take inputs (R417, R475): the ring lets its turn pass -/
  parked : Bool
  /-- the answer of a command that completed in D3hot, to be written back at its end (R347) -/
  late : Option Reply
  deriving DecidableEq, Repr

/-- The ring right after reset: nothing taken, latched or held (R379). -/
def Ring.reset : Ring :=
  ⟨0, none, 0, 0, false, none, [], [], [], 0, false, none, false, none⟩

/-- The host interface beside its registers. -/
structure HostSt where
  rings : Vector Ring 32
  /-- MSI-X Enable and Function Mask of the function's capability (R343, R369) -/
  msixEnable : Bool
  funcMask : Bool
  /-- Bus Master Enable (R541) -/
  busMaster : Bool
  /-- Max Payload Size and Max Read Request Size in force, in bytes (R343, R371) -/
  maxPayload : Nat
  maxRead : Nat
  /-- the function is in D3hot (R347) -/
  d3hot : Bool
  /-- the last access completed with Unsupported Request (R6, R346) -/
  unsupported : Bool
  /-- the CMD ring last served (R355) -/
  served : Nat
  /-- the DMA channel last granted a burst, by priority level (R371) -/
  granted : Vector Nat 4
  /-- words that reads of RL groups have latched, by BAR0 address, each held as one more than its value; 0 is none (R7) -/
  latch : Sparse Nat
  deriving DecidableEq, Repr

def HostSt.reset : HostSt :=
  { rings := Vector.replicate 32 Ring.reset, msixEnable := false, funcMask := false, busMaster := false, maxPayload := 128, maxRead := 512,
    d3hot := false, unsupported := false, served := 7, granted := Vector.replicate 4 15, latch := [] }

/-- The attributes of a PCIe request: Relaxed Ordering, ID-Based Ordering, No Snoop (R344). -/
structure Attr where
  relaxed : Bool
  idBased : Bool
  noSnoop : Bool
  deriving DecidableEq, Repr

/-- The attributes of every request but a read of a buffer with NOSNOOP (R344). -/
def Attr.plain : Attr := ⟨false, false, false⟩

/-- The gable port's outputs (R332, R333): GBL_OE, GBL_PRE and a line's switch with their levels, the GBL_LAT pulse, and a shift on
GBL_SDO: the grey bytes in the order sent, and the check word. -/
inductive GablePin where
  | oe (high : Bool)
  | pre (high : Bool)
  | line (n : Nat) (on : Bool)
  | lat
  | shift (grey : List Nat) (check : Nat)
  deriving DecidableEq, Repr

/-- What the function's configuration space shows of R343 and R345, by item. -/
inductive ConfigItem where
  | vendorId | deviceId | classCode | subsystemId | maxPayload | tags | msixVectors | aer | ecrc | ctoRanges | ctoDisable | flr | aspm
  | powerStates | bar (n : Fin 6)
  deriving DecidableEq, Repr

/-- What the block has put on a bus or a land. -/
inductive Output where
  /-- a DMA read request, or a write, of one burst (R371): channel, host address, bytes, attributes (R344) -/
  | hostRead (chan addr len : Nat) (attr : Attr)
  | hostWrite (chan addr : Nat) (data : List Byte) (attr : Attr)
  /-- a channel's completion pulse at the end of a transfer (R371) -/
  | dmaDone (chan : Nat)
  /-- an MSI-X message (R369) -/
  | msix (vector : Nat)
  /-- what a register read returns (R7) -/
  | readData (addr value : Nat)
  /-- what a read of an item of configuration space returns (R343) -/
  | configData (item : ConfigItem) (value : Nat)
  /-- a TLP frame sent on a lane (R39): lane, slot, channel entry, octets (R109, R115) -/
  | laneTx (lane slot chan : Nat) (octets : List Byte)
  /-- a reduced probe (R103, R105) -/
  | laneProbe (lane slot : Nat)
  /-- a ridge frame put on a port (R405): its octets (R386) -/
  | ridgeTx (port : Nat) (octets : List Byte)
  /-- a PTP message sent on a port: messageType, sequenceId (R452) -/
  | ptpTx (port typ seq : Nat)
  /-- a skylight packet on SKY_D3–SKY_D0, nibble by nibble, with the idle nibble after it (R506, R507) -/
  | sky (nibbles : List Nat)
  /-- a time-triggered output driven active or inactive (R461) -/
  | tto (n : Nat) (active : Bool)
  /-- a service UART answer (R529): code, chunk or field -/
  | uart (code field : Nat)
  /-- a sealed-session command passed to the dormer (R310) -/
  | toDormer (bytes : List Byte)
  /-- a ridge frame that the module delivers to itself (R401): arrival port (2 for an originated frame), frame in clear -/
  | deliver (port : Nat) (f : RidgeFrame)
  /-- a cell that the lane sends as IDLE, or leaves empty -/
  | laneIdle (lane slot : Nat)
  /-- a pin of the gable port moves (R332, R333) -/
  | gable (x : GablePin)
  /-- the protective state of an over-voltage field land begins or ends (R577): an output is high-impedance, every gable line is
  held off, an AIN land's shunt is open -/
  | guarded (land : FieldLand) (on : Bool)
  deriving DecidableEq, Repr

end Sys2Proof.Machine
end

