-- ==== Sys2Proof/Machine/TypesPlan.lean ====
section
/-!
DEFINITION. State of the yelm executor and of the plan banks (chapter 02) beside their registers.
-/
namespace Sys2Proof.Machine

/-- A plan bank's NOR (R60): the image's bytes, and how many were written. -/
structure Bank where
  img : Sparse Byte
  written : Nat
  deriving DecidableEq, Repr

def Bank.empty : Bank := ⟨[], 0⟩

/-- A group's plan level and ramp code, and the order number of the event that set them (R55, R56). -/
structure GroupPlan where
  level : Nat
  ramp : Nat
  order : Nat
  deriving DecidableEq, Repr

/-- One 12-bit entry a lantern takes at a stated instant: a base command, a wave level or a base hold (R131, R198).
`word` is the entry as sent, `at'` the instant in slots of TAI (100 × seconds + slot), `wave` the wave context that
owns it, if any, and `until'` the end of its hold in slots. -/
structure PendEntry where
  lantern : Nat
  level : Nat
  ramp : Nat
  at' : Nat
  until' : Nat
  wave : Option Nat
  spar : Nat
  deriving DecidableEq, Repr

/-- A cell that a lane executes, or will execute in the next slot (R29, R36, R39). -/
structure Cell where
  /-- the cell word -/
  word : Nat
  /-- its first slot, as 100 × TAI seconds + slot -/
  start : Nat
  /-- executed on behalf of the partner's seat (R41) -/
  shadow : Bool
  /-- the frame built for it, once sealed -/
  frame : Option TlpFrame
  /-- the frame's wave entries and base commands, placed when the cell begins (R198) -/
  entries : List PendEntry
  /-- the cell is sent as IDLE, or sends nothing, and has been counted -/
  idle : Bool
  /-- the partner's frame was heard in it -/
  heard : Bool
  deriving DecidableEq, Repr

/-- What is counted of one course for the health criteria (R68). -/
structure Metrics where
  reports : Vector Nat 8
  /-- (lane, lantern) pairs heard, each once -/
  heard : List (Nat × Nat)
  underruns : Vector Nat 8
  micFail : Vector Nat 8
  frames : Vector Nat 8
  fallbacks : Nat
  mismatches : Nat
  deriving DecidableEq, Repr

def Metrics.zero : Metrics :=
  ⟨Vector.replicate 8 0, [], Vector.replicate 8 0, Vector.replicate 8 0, Vector.replicate 8 0, 0, 0⟩

/-- The executor beside its registers. -/
structure Ylm where
  banks : Vector Bank 2
  /-- the bank whose resident sections the running working area holds -/
  run : Option (Fin 2)
  /-- the idle working area: the bank being loaded or loaded, and whether loading is complete (R63) -/
  idle : Option (Fin 2 × Bool)
  /-- the standby's confirmation of a pair arm (R65) -/
  pairConf : Bool
  /-- the bank was armed with no plan running (R62) -/
  armNoPlan : Bool
  /-- a pending rollback (R593): the course boundaries still to come, its own the last of them, and whether it was commanded -/
  rollback : Option (Nat × Bool)
  /-- the course in which LISTEN was entered (R563) -/
  listenAt : Nat
  /-- courses run since the switch, and courses of the old epoch that preceded it (R69, R70) -/
  sinceSwitch : Nat
  oldCourses : Nat
  /-- metrics of the course in progress, and of the last courses, newest first (R70) -/
  cur : Metrics
  hist : List Metrics
  /-- UTC day of the last ALMANAC_LOW record (R59) -/
  lowDay : Option Int
  /-- plan levels by group, and the number of events applied in forming them (R55) -/
  groups : Sparse GroupPlan
  evOrder : Nat
  /-- per lane, the cell being executed and the one fetched for the next slot -/
  cells : Vector (Option Cell) 8
  next : Vector (Option Cell) 8
  /-- an underrun occurred in the course in progress (R46) -/
  underrun : Bool
  /-- the course and slot last executed, as 100 × TAI seconds + slot -/
  slot : Nat
  /-- the seat-0 transmit cells lately built: first slot, lane, frame; for their twins and for FRAME_HASH (R120, R422) -/
  built : List (Nat × Nat × Option TlpFrame)
  /-- the cells of the slot to come are fetched at its boundary, where a switch or a rollback is due -/
  deferred : Bool
  /-- LISTEN has not been left since the last POR, BOR, WDR or ZRS (R129) -/
  fresh : Bool
  /-- the run of course positions in progress was executed from position 0 on (R108) -/
  hourWhole : Bool
  deriving DecidableEq, Repr

def Ylm.reset : Ylm :=
  { banks := Vector.replicate 2 Bank.empty, run := none, idle := none, pairConf := false, armNoPlan := false,
    rollback := none, listenAt := 0, sinceSwitch := 0, oldCourses := 0, cur := Metrics.zero, hist := [], lowDay := none,
    groups := [], evOrder := 0, cells := Vector.replicate 8 none, next := Vector.replicate 8 none, underrun := false,
    slot := 0, built := [], deferred := false, fresh := true, hourWhole := false }

end Sys2Proof.Machine
end

