-- ==== Sys2Proof/Machine/TypesCtx.lean ====
section
/-!
DEFINITION. State of the context store, the gutters, coalescing, zone tallies, the join queue and the inputs
(chapters 01, 04 and 05) beside their registers.
-/
namespace Sys2Proof.Machine

/-- A lantern context (R166), by field. `waveEnd` is the end instant as 100 × TAI seconds + slot, of which the record
shows bits 23:0. The last five fields remember the last entry composed for the lantern (R158, R238). -/
structure Ctx where
  joined : Bool
  inPlan : Bool
  /-- excluded after an uncorrectable ECC error, until the next course boundary -/
  excluded : Bool
  euiRef : Nat
  primary : Nat
  secondary : Nat
  relayParent : Nat
  feeder : Nat
  depth : Nat
  groups : List Nat
  fluxGain : Nat
  cctOffset : Int
  loopGroup : Nat
  levelMin : Nat
  levelMax : Nat
  curve : List Nat
  base : Nat
  baseRamp : Nat
  wave : Nat
  waveRamp : Nat
  waveEnd : Nat
  back : Nat
  waveOn : Bool
  ovr : Nat
  ovrUntil : Nat
  now : Nat
  target : Nat
  targetRamp : Nat
  status : Nat
  faults : Nat
  lastSpar : Nat
  lastHeard : Nat
  energy : Nat
  lux : Nat
  temp : Nat
  link : Nat
  fw : Nat
  zone : Nat
  tally : List Nat
  reportPend : Bool
  tallyPend : Bool
  detectPend : Bool
  elided : Nat
  lastTerm : Nat
  lastL0 : Nat
  lastLevel : Nat
  lastFloor : Nat
  floorHeld : Bool
  deriving DecidableEq, Repr

/-- A context that no bundle fills. -/
def Ctx.blank : Ctx :=
  { joined := false, inPlan := false, excluded := false, euiRef := 0, primary := 0, secondary := 0, relayParent := 0, feeder := 0,
    depth := 0, groups := [], fluxGain := 0, cctOffset := 0, loopGroup := 0, levelMin := 0, levelMax := 0, curve := [], base := 0,
    baseRamp := 0, wave := 0, waveRamp := 0, waveEnd := 0, back := 0, waveOn := false, ovr := 0, ovrUntil := 0, now := 0,
    target := 0, targetRamp := 0, status := 0, faults := 0, lastSpar := 0, lastHeard := 0, energy := 0, lux := 0, temp := 0,
    link := 0, fw := 0, zone := 0, tally := [0, 0, 0, 0], reportPend := false, tallyPend := false, detectPend := false, elided := 0,
    lastTerm := 0, lastL0 := 0, lastLevel := 0, lastFloor := 0, floorHeld := false }

/-- A gutter stage (R172): MEDIUM in bit 39, POISON, EOP, SOP, PARITY in bits 35:32, DATA in bits 31:0. -/
abbrev Stage := BitVec 40

/-- A gutter (R172–R178): its occupied stages from the head on, the read position in them, the mark, and whether the marked packet
has been rewound. -/
structure Gutter where
  stages : List Stage
  read : Nat
  mark : Option Nat
  rewound : Bool
  deriving DecidableEq, Repr

def Gutter.empty : Gutter := ⟨[], 0, none, false⟩

/-- A packet as the protocol engine reads it (R173): the frame's octets, and the header word's slot and course of reception and
link level. -/
structure Packet where
  octets : List Byte
  rxSlot : Nat
  rxCourse : Nat
  link : Nat
  deriving DecidableEq, Repr

/-- What waits in a lane's direct queue (R37): the level of a lantern, from a slot on (R157), or a schedule part owed to one that has
joined (R146). -/
inductive Direct where
  | level (lantern slot : Nat)
  | part (lantern part : Nat)
  deriving DecidableEq, Repr

/-- An entry of a coalescing pending list (R181): the lantern, and the reception time of the latest merged frame. -/
structure PendUp where
  lantern : Nat
  rxTime : Nat
  rxSlot : Nat
  deriving DecidableEq, Repr

/-- The answer to a JOIN (R137, R148, R149): JOIN_ACCEPT of a lantern with KEEP, JOIN_REFUSE with its REASON, or the
lantern's part of a BLOCK_CONFIRM. -/
inductive JoinAns where
  | accept (lantern : Nat) (keep : Bool)
  | refuse (reason : Nat)
  | confirm (lantern : Nat)
  deriving DecidableEq, Repr

/-- A JOIN waiting for its answer, which may be sent from slot `slot` on (R20, R148). -/
structure JoinReq where
  eui : Nat
  ans : JoinAns
  slot : Nat
  deriving DecidableEq, Repr

/-- What an input of R20 does. -/
inductive InputKind where
  /-- a host override (R159): OVR word, scope, target, OVR_UNTIL -/
  | override (word scope target until' : Nat)
  /-- a loop-group scale (R236): group, scale, ramp code -/
  | scale (g s ramp : Nat)
  /-- a host set-point (R231): loop, BF word -/
  | setpoint (loop bf : Nat)
  /-- a join answer by EUI (R148): 0 accept, else the REASON of a refusal -/
  | join (eui reason : Nat)
  /-- lanterns of a block confirmed (R149) -/
  | confirm (block map : Nat)
  /-- QUIET and REJOIN of the beacon (R129) -/
  | quiet (q : Nat) (rejoin : Bool)
  deriving DecidableEq, Repr

/-- An input with its input slot, as 100 × TAI seconds + slot (R20). -/
structure Input where
  slot : Nat
  kind : InputKind
  deriving DecidableEq, Repr

/-- Contexts and intake beside their registers. -/
structure CtxSt where
  ctx : Sparse Ctx
  /-- the module's EUI table (R166) -/
  euis : Sparse Nat
  /-- base commands waiting for their instant of effect (R132) -/
  baseCmds : List PendEntry
  gutters : Vector Gutter 8
  /-- the gutter last served, for DETECT and for other packets (R177) -/
  served : Nat
  /-- pending lists of REPORT, TALLY and DETECT, oldest first (R181) -/
  pend : Vector (List PendUp) 3
  /-- zone counters (R184), running and completed, at key 12 × zone + 4 × interval + class -/
  run : Sparse Nat
  done : Sparse Nat
  /-- inputs accepted and not yet applied, in acceptance order (R20–R23) -/
  inputs : List Input
  /-- each loop group's scale in the slot before the present one (R196) -/
  prevScale : Vector Nat 16
  /-- ramp code that came with each loop group's scale (R158) -/
  scaleRamp : Vector Nat 16
  /-- joins waiting for an answer, oldest first (R148) -/
  joinQ : List JoinReq
  /-- the direct queue of each lane, head first (R37) -/
  direct : Vector (List Direct) 8
  /-- schedule push of the armed epoch (R150): the next lantern and part -/
  push : Option (Nat × Nat)
  /-- previous epoch, and the boundary at which the running epoch took effect (R118) -/
  prevEpoch : Option Nat
  epochAt : Nat
  /-- QUIET of the present course's beacons, whether a beacon has gone out since it was set, and the courses of REJOIN left (R129) -/
  quiet : Nat
  beaconed : Bool
  rejoin : Nat
  /-- lanterns whose present silence has been named (R154) -/
  silent : List Nat
  /-- lanterns answered in this course, which are joined from the next course boundary on (R149) -/
  joining : List Nat
  deriving DecidableEq, Repr

def CtxSt.reset : CtxSt :=
  { ctx := [], euis := [], baseCmds := [], gutters := Vector.replicate 8 Gutter.empty, served := 7, pend := Vector.replicate 3 [], run := [],
    done := [], inputs := [], prevScale := Vector.replicate 16 4096, scaleRamp := Vector.replicate 16 0, joinQ := [], direct := Vector.replicate 8 [], push := none, prevEpoch := none,
    epochAt := 0, quiet := 0, beaconed := false, rejoin := 0, silent := [], joining := [] }

end Sys2Proof.Machine
end

