-- ==== Sys2Proof/Machine/TypesWave.lean ====
section
/-!
DEFINITION. State of the wave engine (chapter 06) beside its registers.
-/
namespace Sys2Proof.Machine

/-- A step of a cascade, a hand-off or a zone hold: its target, cascade level, ramp code and BACK code, with the compiled
start and end as absolute slots; for a zone hold's step (`rel`) the start is the frame's execute-at and `stop` its HOLD
(R188, R195, R200). -/
structure WStep where
  lantern : Nat
  level : Nat
  ramp : Nat
  start : Nat
  stop : Nat
  back : Nat
  rel : Bool
  deriving DecidableEq, Repr

/-- A wave context (R202 and its record), with the cascade's own steps not yet taken into a frame. -/
structure WaveCtx where
  state : Nat
  next : Nat
  entry : Nat
  zone : Nat
  merges : Nat
  source : Nat
  dSlot : Nat
  exec : Nat
  endSlot : Nat
  lantern : Nat
  deriving DecidableEq, Repr

def WaveCtx.free : WaveCtx := ⟨0, 0, 0, 0, 0, 0, 0, 0, 0, 0⟩

/-- A WAVE frame staged for a seat-0 cell (R194, R197): the cell's lane and absolute first slot, the frame (none where no entry
is left), its entries with their BACK codes, the WAVE_ID that it carries, the wave context it belongs to (none for a zone hold),
whether it is the first frame of its wave, whether this module's copy is not sent (R206), and whether its entries are placed. -/
structure Bound where
  lane : Nat
  slot : Nat
  frame : Option TlpFrame
  entries : List (PendEntry × Nat)
  waveId : Nat
  wave : Option Nat
  first : Bool
  noSend : Bool
  placed : Bool
  deriving DecidableEq, Repr

/-- One wave or zone hold in a lane's continuation queue (R197): the WAVE_ID its frames carry, its wave context if it has
one, its relay lead, and the steps still to send. -/
structure Cont where
  waveId : Nat
  wave : Option Nat
  lead : Nat
  steps : List WStep
  deriving DecidableEq, Repr

/-- A WAVE_DECISION payload (R204). `lantern` is 0xFFFF with NONE; `steps` come with a HANDOFF. -/
structure WaveDec where
  dkind : Nat
  seq : Nat
  waveId : Nat
  lane : Nat
  ref : Nat
  decSlot : Nat
  dSlot : Nat
  bindSlot : Nat
  lantern : Nat
  source : Nat
  steps : List WStep
  deriving DecidableEq, Repr

/-- A DETECT_FWD payload (R207). -/
structure DetectFwd where
  lantern : Nat
  spar : Nat
  rxCourse : Nat
  rxSlot : Nat
  lane : Nat
  body : List Byte
  deriving DecidableEq, Repr

structure Wav where
  ctxs : Vector WaveCtx 256
  bound : List Bound
  conts : Vector (List Cont) 8
  /-- the pending-entry store, and the places reserved in it (R198) -/
  store : List (PendEntry × Nat)
  reserved : Nat
  /-- zones held in this course (R199); events 31 and 32 fired in it (R203) -/
  held : List Nat
  evt31 : Bool
  evt32 : Bool
  /-- SEQ of the last decision sent or applied (R204, R205) -/
  seq : Nat
  deriving DecidableEq, Repr

def Wav.reset : Wav :=
  { ctxs := Vector.replicate 256 WaveCtx.free, bound := [], conts := Vector.replicate 8 [], store := [], reserved := 0, held := [],
    evt31 := false, evt32 := false, seq := 0 }

end Sys2Proof.Machine
end

