-- ==== Sys2Proof/Machine/TypesPair.lean ====
section
/-!
DEFINITION. State of the ridge fabric (chapter 12) and of the pair (chapter 13) beside their registers, with the pair's
messages by field.
-/
namespace Sys2Proof

/-- How a plan command reaches the module (R61, R65): on a CMD ring, or from the active module of its pair, with the PARAM and
the immediate of the command that the active accepted. -/
inductive PlanVia where
  | host (r : Fin 8) (d : Desc)
  | pair (param imm : Nat)
  deriving DecidableEq, Repr

/-- How PLAN_ARM reaches the module (R61, R65): from the host, with the SHA-256 that the standby has reported for its VERIFIED bank,
if it has; from the active module of the pair, with the SHA-256 of the active's bundle; or as the standby's confirmation of an arm, with
the SHA-256 of the bundle that it has armed. -/
inductive ArmBy where
  | host (r : Fin 8) (d : Desc) (report : Option Nat)
  | pair (param imm sha : Nat)
  | confirm (sha : Nat)
  deriving DecidableEq, Repr

/-- What a lane measures of a frame it has sent (R101, R105): forward power in dBm in 0.5 dB units, return loss in 0.25 dB units and
whether the reflection's phase is that of a short; or the driver's peak current in mA, the percentage of payload symbols in
current limit, and whether any symbol was. -/
inductive TxMeas where
  | radio (fwd : Int) (rloss : Nat) (short : Bool)
  | line (peak pct : Nat) (anyLimit : Bool)
  deriving DecidableEq, Repr

/-- A frame that a lane has received (R98): its octets without the FCS, the absolute slot in which its preamble began, the link
level, whether the partner's antenna received it better (R100), whether its FCS or Reed-Solomon check holds, and whether it was
still in progress at the end of the cell in which it began. -/
structure RxFrame where
  octets : List Byte
  slot : Nat
  link : Nat
  div : Bool
  good : Bool
  pastEnd : Bool
  deriving DecidableEq, Repr

/-- A HELLO payload (R394). -/
structure HelloMsg where
  port : Nat
  pstate : Nat
  provisional : Bool
  planned : Bool
  keyReady : Bool
  eui : Nat
  addr : Nat
  heardAddr : Nat
  heardPort : Nat
  epoch : Nat
  period : Nat
  /-- sent with OPEN set -/
  isOpen : Bool
  deriving DecidableEq, Repr

/-- What a fabric port receives (R384): a frame whose FCS fails, or the octets of an Ethernet II frame without its FCS. -/
inductive EthFrame where
  | badFcs
  | good (octets : List Byte)
  deriving DecidableEq, Repr

/-- An input record of a heartbeat (R416). -/
structure InRec where
  kind : Nat
  sub : Nat
  slot : Nat
  arg : List Byte
  deriving DecidableEq, Repr

/-- A HEARTBEAT payload (R415). -/
structure HbMsg where
  active : Bool
  seat : Nat
  muted : Bool
  inSync : Bool
  keyReady : Bool
  plan : Bool
  epoch : Nat
  hbSeq : Nat
  swapAt : Nat
  swapCause : Nat
  inputs : List InRec
  deriving DecidableEq, Repr

/-- A DIGEST payload (R423). -/
structure Digest where
  epoch : Nat
  course : Nat
  frames : Nat
  decSeq : Nat
  inputs : Nat
  hash : Nat
  model : List Nat
  scale : List Nat
  busy : Nat
  deriving DecidableEq, Repr

namespace Machine

/-- A fabric port beside its registers. -/
structure RPort where
  /-- frames queued, oldest first (R404) -/
  queue : List RidgeFrame
  /-- deficits of REPORT and BULK (R405), and the class whose turn it is: 2 or 3 -/
  defReport : Nat
  defBulk : Nat
  turn : Nat
  /-- valid HELLOs in a row that name this port and do not match (R396) -/
  wrong : Nat
  /-- the course in which event 48 last fired (R406) -/
  evt48 : Option Nat
  /-- the link at the pins: up, the PHY's word is for 1000 Mbit/s full duplex, LOS is high (R383) -/
  up : Bool
  fast : Bool
  los : Bool
  /-- slots in which the last 10 HELLO frames went to the queue, newest first (R395) -/
  hellos : List Nat
  deriving DecidableEq, Repr

def RPort.reset : RPort := ⟨[], 0, 0, 2, 0, none, false, false, false, []⟩

/-- What R389 keeps for a source: BOOT, the highest SEQ, and the SEQ values below it delivered within the window. -/
structure Seen where
  boot : Nat
  high : Nat
  window : List Nat
  deriving DecidableEq, Repr

structure Rdg where
  ports : Vector RPort 2
  /-- SEQ of the next frame originated (R388) -/
  seq : Nat
  seen : Sparse (Option Seen)
  deriving DecidableEq, Repr

def Rdg.reset : Rdg := ⟨Vector.replicate 2 RPort.reset, 0, []⟩

/-- What a digest takes of the end of a slot's update: the slot, MODEL_TGT by feeder, the scales, and the wave contexts not FREE (R423). -/
structure LastSlot where
  slot : Nat
  model : List Nat
  scale : List Nat
  busy : Nat
  deriving DecidableEq, Repr

structure Red where
  /-- 0 no role taken yet, 1 STANDBY, 2 ACTIVE -/
  role : Nat
  /-- the last valid heartbeat -/
  partner : Option HbMsg
  hbSeq : Nat
  /-- input records accepted since the last heartbeat (R416) -/
  toSend : List InRec
  /-- inputs of the last two courses (R427), and the latest INPUT_SLOT received (R420) -/
  inLog : List Input
  /-- wave decisions of the last two courses, each with the slot and the µs at which it came (R427) -/
  decLog : List (Nat × Nat × WaveDec)
  lastInput : Nat
  /-- heartbeats in a row that showed ACTIVE, and STANDBY (R432, R433) -/
  actRun : Nat
  sbyRun : Nat
  /-- a change of role to be made at the next slot boundary: role and cause (R419) -/
  pendRole : Option (Nat × Nat)
  inCount : Nat
  /-- as the last slot boundary of the course left it (R423) -/
  last : Option LastSlot
  /-- digests of the latest courses, own and the partner's, newest first -/
  own : List Digest
  theirs : List Digest
  /-- the course last compared -/
  compared : List Nat
  missRun : Nat
  /-- MUTED to be set, and to be cleared, at the next slot boundary -/
  mutePend : Bool
  clearPend : Bool
  /-- active: the course of the snapshot being sent, failures in a row, the first course of the next try (R426, R427) -/
  resync : Option Nat
  fails : Nat
  nextTry : Nat
  /-- standby: chunks received of the snapshot of the course named, with their data (R427) -/
  chunks : List (Nat × List Byte)
  chunkCount : Nat
  snap : Option Nat
  /-- the boundary at which a snapshot was applied (R427) -/
  applied : Option Nat
  /-- cause of the swap announced or echoed, and whether it is announced by this module (R428, R429) -/
  swapCause : Nat
  announced : Bool
  /-- TAI second since which the partner has shown IN_SYNC (R428) -/
  syncSince : Option Nat
  deriving DecidableEq, Repr

def Red.reset : Red :=
  { role := 0, partner := none, hbSeq := 0, toSend := [], inLog := [], decLog := [], lastInput := 0, actRun := 0, sbyRun := 0, pendRole := none,
    inCount := 0, last := none, own := [], theirs := [], compared := [], missRun := 0, mutePend := false, clearPend := false, resync := none, fails := 0,
    nextTry := 0, chunks := [], chunkCount := 0, snap := none, applied := none, swapCause := 0, announced := false,
    syncSince := none }

end Machine
end Sys2Proof
end

