-- ==== Sys2Proof/Machine/TypesSys.lean ====
section
/-!
DEFINITION. State of the key store and the tamper monitor (chapter 15), of updates (chapter 17), of the modes and the
supply (chapters 18 and 19), and of the dormer's mirror on the main side (chapters 08 and 09), beside their registers.
-/
namespace Sys2Proof

/-- What a start finds at the lands (R480, R542, R562): SVC_COMM held low, the calendar's sub-second count, the mesh broken, and
the mask of the tamper inputs that are open. -/
structure StartIn where
  strap : Bool
  sub : Nat
  mesh : Bool
  tamp : Nat
  deriving DecidableEq, Repr

namespace Machine

/-- A working key in its engine register. -/
structure WKey where
  key : Key
  keyId : Nat
  deriving DecidableEq, Repr

/-- A NOR slot of the key store: a blob of 72 bytes (R470). -/
structure KSlot where
  blob : List Byte
  autoload : Bool
  deriving DecidableEq, Repr

/-- A key operation that is written back when complete (R475): its ring, while an FLR or PFR has not ended that (R379), its opcode and
its buffer. -/
structure KeyOp where
  ring : Option Nat
  opcode : Nat
  data : List Byte
  deriving DecidableEq, Repr

structure KeySt where
  /-- OWNER_PUB, x then y (R466) -/
  ownerPub : Option (BitVec 512)
  /-- K_OWN as the key store holds it, and its blob in NOR under KW_ROOT (R474) -/
  kOwn : Option (BitVec 256)
  ownBlob : Option (List Byte)
  /-- K_NET, K_FAB, K_HST, K_IMG -/
  work : Vector (Option WKey) 4
  slots : Vector (Option KSlot) 64
  op : Option KeyOp
  /-- sources that have raised their class and are not re-armed: TAMP0–3, mesh (R478) -/
  raised : Vector Bool 5
  /-- a tamper in DAYLIGHT: ZRS pending, and events to fire at the wake (R480) -/
  zrsPend : Bool
  evtPend : List Nat
  deriving DecidableEq, Repr

def KeySt.reset : KeySt :=
  ⟨none, none, none, Vector.replicate 4 none, Vector.replicate 64 none, none, Vector.replicate 5 false, false, []⟩

/-- A module image being fetched at a port (R525, R529): from whom, and what its call gave. -/
structure ImgChain where
  caller : Nat
  depth : Nat
  actAt : Nat
  /-- the header that the call gave; empty in RECOVERY, where there is no call -/
  header : List Byte
  chunk : Nat
  /-- pieces received of the chunk -/
  pieces : List (Nat × List Byte)
  deriving DecidableEq, Repr

/-- A ligger chain (R532, R535). -/
structure LChain where
  /-- resume count, and the lantern named by RESUME; 0xFFFF for none -/
  resume : Nat
  named : Nat
  /-- next segment: 0 the map, then 1 + SEG -/
  seg : Nat
  /-- the course in which LAST was sent -/
  lastAt : Option Nat
  /-- lanterns left out of the maps; the lantern that the present resumes are for, and how many there have been -/
  out : List Nat
  resumed : Nat
  tries : Nat
  deriving DecidableEq, Repr

/-- A chunk being written (R521): whether it reads back equal, whether it is the last, and the ring of the IMAGE_WRITE that
brought it. -/
structure ChunkWrite where
  readOk : Bool
  last : Bool
  ring : Option Nat
  deriving DecidableEq, Repr

structure Upd where
  /-- the image region (R519): octets, COMPLETE, recorded FW_HASH -/
  img : Sparse Byte
  complete : Bool
  fwHash : Nat
  /-- chunks held, written and read back -/
  held : Nat
  /-- the NOR still holds the image written at manufacture (log entry 35) -/
  factory : Bool
  /-- a chunk being written and not yet read back -/
  writing : Option ChunkWrite
  /-- the running image: VERSION, SECURITY, BODY0_HASH, hash -/
  runVer : Nat
  runBody0 : Nat
  runHash : Nat
  stagedSec : Nat
  /-- the activation set: its TAI second, 0 for at once, and whether a chain's ACT_AT set it (R522, R527) -/
  actAt : Option (Nat × Bool)
  /-- images being fetched, by port; the header of the last call sent on each port; the cause and the version that the called
  module has reported -/
  fetch : Vector (Option ImgChain) 2
  called : Vector (List Byte) 2
  outcome : Vector (Option (Nat × Nat)) 2
  /-- RECOVERY: the path that owns the download (0 PCIe, 1 port A, 2 port B, 3 UART), and the UART's bytes so far -/
  owner : Option Nat
  uart : List Byte
  /-- the lantern image (R530): octets, whether it is whole and valid, and the next octet of a write in progress -/
  limg : Sparse Byte
  limgOk : Bool
  limgPos : Option Nat
  /-- IMAGE_ID for which the progress entries stand -/
  limgId : Nat
  /-- running chains by number, and progress by lantern (R534) -/
  chains : Sparse (Option LChain)
  progress : Sparse Nat
  /-- scheduled starts, stops and resumes: boundary, action, chain, resume lantern (R536) -/
  sched : List (Nat × Nat × Nat × Nat)
  deriving DecidableEq, Repr

def Upd.reset : Upd :=
  { img := [], complete := true, fwHash := 0, held := 0, factory := true, writing := none, runVer := 0, runBody0 := 0, runHash := 0,
    stagedSec := 0, actAt := none, fetch := Vector.replicate 2 none, called := Vector.replicate 2 [],
    outcome := Vector.replicate 2 none, owner := none, uart := [], limg := [], limgOk := false,
    limgPos := none, limgId := 0, chains := [], progress := [], sched := [] }

/-- The class N items that live in registers or SRAM between flushes (R550): RECNO words, BOOT, probation courses remaining, the
retained ADDEND and UTC offset. The calendar's shadow registers are of retention V (R464), so that nothing of them is seen again. -/
structure MramCopy where
  recno : List Nat
  boot : Nat
  probation : Nat
  addend : Nat
  utc : Option Int
  deriving DecidableEq, Repr

def MramCopy.reset : MramCopy := ⟨List.replicate 8 0, 0, 0, 0x50000000, none⟩

structure Pwr where
  /-- class N items as MRAM last took them (R550, R573) -/
  mram : MramCopy
  /-- HOLDUP_OK was clear at HOLD entry (R573) -/
  weak : Bool
  /-- courses in a row in which every condition of R545 held -/
  dayRun : Nat
  /-- the plan wake instant, in UTC seconds since 1970 (R546) -/
  wakeAt : Option Nat
  /-- an FBR scheduled: the course boundaries still to come before it, and its cause (R559) -/
  fbr : Option (Nat × Nat)
  /-- lock of the root PLL is lost (R556) -/
  unlocked : Bool
  /-- field lands that are over-voltage (R577) -/
  overV : List FieldLand
  deriving DecidableEq, Repr

def Pwr.reset : Pwr := ⟨MramCopy.reset, false, 0, none, none, false, []⟩

/-- Fuses (R561), the keys fused at manufacture (R466), the public key in mask ROM for images (R516), and the device certificate in
NOR (R466). -/
structure Fuse where
  eui : Nat
  variant : Nat
  silicon : Nat
  kRoot : BitVec 256
  aDev : BitVec 256
  kAgr : BitVec 256
  kDl : Key
  fwPub : BitVec 512
  cert : List Byte
  deriving DecidableEq, Repr

def Fuse.reset : Fuse := ⟨0, 0, 0, 0, 0, 0, 0, 0, []⟩

/-- A phase's sag or swell in progress, from the snapshot flags (R270): the extreme VRMS and the steps. -/
structure Dip where
  extreme : Nat
  steps : Nat
  deriving DecidableEq, Repr

/-- The dormer's mirror beside its registers (R280–R283, R319, R320). -/
structure Mir where
  /-- verified SNAPSHOT frames in a row, up to 3 -/
  upRun : Nat
  /-- SEQ and STEP_NO of the last verified frame -/
  lastSeq : Option (Nat × Nat)
  snap : Option DmrFrame
  ident : List Byte
  meas : List Byte
  state : Option StateBody
  sag : Vector (Option Dip) 3
  swell : Vector (Option Dip) 3
  /-- session commands passed to the dormer and not yet acted on, oldest first (R310) -/
  link : List (List Byte)
  /-- RESERVE_LEFT has read 0 (R501) -/
  spent : Bool
  /-- DMR_ALARM of the newest verified SNAPSHOT that found or made LINK_UP set: events 37–40 compare with it (R282) -/
  alarmSeen : Nat
  deriving DecidableEq, Repr

def Mir.reset : Mir :=
  ⟨0, none, none, zeros 128, zeros 240, none, Vector.replicate 3 none, Vector.replicate 3 none, [], false, 0⟩

/-- What a host access reaches outside the rows that name one register: a write or a read of a word of BAR0 (R7), a narrower or
unaligned access of BAR0 (R6), an access of BAR2 that is not an aligned 32-bit write (R346), the MSI-X capability's Enable and
Function Mask (R343, R369), Bus Master Enable of the Command register, the payload and read request sizes of Device Control (R371), or
a read of configuration space (R343). -/
inductive RegTarget where
  | bar0 (addr value : Nat)
  | read (addr : Nat)
  | narrow
  | bar2Bad
  | msix (enable mask : Bool)
  | command (busMaster : Bool)
  | deviceControl (payload request : Fin 6)
  | config (item : ConfigItem)
  deriving DecidableEq, Repr

end Machine
end Sys2Proof
end

