-- ==== Sys2Proof/Machine/TypesTime.lean ====
section
/-!
DEFINITION. State of the calendar, the wake timers and the network clock (chapter 14) beside their registers.
-/
namespace Sys2Proof

/-- A PTP message as the engine takes it on a port (R452, R455): its domain, and its source's clockIdentity in the dataset of an
Announce (priority1, clockClass, clockAccuracy, offsetScaledLogVariance, priority2, clockIdentity) or by itself. Times are whole
nanoseconds: origin times as the message carries them, corrections signed, and ingress stamps as the MAC takes them. -/
inductive PtpMsg where
  | announce (port : Fin 2) (domain : Nat) (timescale : Bool) (dataset : List Nat) (utcOffset : Nat) (utcValid leap61 leap59 : Bool)
  | sync (port : Fin 2) (domain source seq : Nat) (twoStep : Bool) (origin : Nat) (corr : Int) (stamp : Nat)
  | followUp (port : Fin 2) (domain source seq origin : Nat) (corr : Int)
  | delayReq (port : Fin 2) (domain source seq stamp : Nat)
  | delayResp (port : Fin 2) (domain source seq receive : Nat) (corr : Int) (requester : Nat)
  deriving DecidableEq, Repr

namespace Machine

/-- One entry of the transmit time-stamp queue (R460). -/
structure Stamp where
  port : Nat
  typ : Nat
  seq : Nat
  sec : Nat
  ns : Nat
  deriving DecidableEq, Repr

/-- One time-triggered output (R461): whether it is active, its pending edge in ns of the local clock, and whether the
edge is its first. -/
structure Tto where
  active : Bool
  edge : Option Nat
  first : Bool
  deriving DecidableEq, Repr

/-- An announced leap second (R598): the offset before it and after it, and the TAI second that begins the next UTC day under the new
one. -/
structure Leap where
  old : Int
  new : Int
  at' : Nat
  deriving DecidableEq, Repr

/-- The clocks beside their registers. -/
structure Time where
  /-- the local clock: TAI seconds (48 bits), nanoseconds (30 bits), fraction in 2^-28 ns (R454) -/
  sec : Nat
  ns : Nat
  frac : Nat
  /-- consecutive offsets within ±1 µs in LOCKING, and outside it in LOCKED (R456) -/
  inRun : Nat
  outRun : Nat
  /-- FORCE is pending (R459) -/
  force : Bool
  /-- a qualified external master is known, and its dataset for the comparison of R453 -/
  master : Option (List Nat)
  /-- the delay request-response exchange with the master (R452), in ns: a two-step Sync that awaits its Follow_Up (port, sequenceId, its
  stamp less its correction); Sync reception less origin, last found; the Delay_Req sent (port, sequenceId, its stamp); the mean path
  delay -/
  syncWait : Option (Nat × Nat × Int)
  syncDiff : Option Int
  delayReq : Option (Nat × Nat × Nat)
  pathDelay : Option Int
  /-- the last ADDEND held in LOCKED (R456), class N -/
  addendKept : Nat
  /-- the stamps waiting in the queue, oldest first (R460) -/
  tsq : List Stamp
  tto : Vector Tto 4
  /-- the UTC offset in force, TAI − UTC (R58) -/
  utcOff : Int
  /-- the UTC offset retained in class N (R58), if one was learnt -/
  utcKept : Option Int
  /-- the leap second that PTP has announced (R598) -/
  leap : Option Leap
  /-- a step of the calendar awaits the next UTC second (R445) -/
  syncStep : Bool
  /-- the phase of the calendar at the last comparison of R445, local clock less calendar, in crystal cycles -/
  trimPhase : Option Int
  deriving DecidableEq, Repr

def Time.reset : Time :=
  { sec := 0, ns := 0, frac := 0, inRun := 0, outRun := 0, force := false, master := none, syncWait := none, syncDiff := none,
    delayReq := none, pathDelay := none,
    addendKept := 0x50000000, tsq := [], tto := Vector.replicate 4 ⟨false, none, true⟩,
    utcOff := 0, utcKept := none, leap := none, syncStep := false, trimPhase := none }

end Machine
end Sys2Proof
end

