-- ==== Sys2Proof/Syntax.lean ====
section
/-!
DEFINITION. The commands: one constructor a row of the opcode table, in the table's order, with the row's operands. The
table gives the rows no fields (log entry 1); an operand carries what the block cannot know of itself: which of several like
things the event concerns, and what its buses, lands and measurements bring.
-/
namespace Sys2Proof

open Machine

inductive Instr where
  /-- COURSE_BOUNDARY (R26). TAI second `tai` begins by the local clock; `loud` is the mask of lanes whose received level, or noise, stayed above its limit in every receive cell of the course just ended; `lines` is the mask of gable lines whose retry finds them within limits. -/
  | courseBoundary (tai : Nat) (loud : Nat) (lines : Nat)
  /-- SLOT_FETCH (R29). One slot ahead, the executor fetches the eight cell words of the slot and payload fill begins from contexts with every due input applied. -/
  | slotFetch
  /-- FILL_DEADLINE (R43). At T − 300 µs; `late` is the mask of lanes whose plan content the protocol engine has not sealed. -/
  | fillDeadline (late : Nat)
  /-- BIND_CUTOFF (R44). At T-60 us, a WAVE_RESERVE cell with no staged wave command is counted as unused. -/
  | bindCutoff
  /-- LANE_RETUNE (R99). A lane retunes for its next cell; `locked` says whether its synthesiser was locked 50 µs before the cell's start. -/
  | laneRetune (l : Fin 8) (locked : Bool)
  /-- CELL_START (R39). A cell begins on a lane; a transmit cell sends its frame 250 us later, receive and SHADOW cells listen, and wave entries enter the pending-entry store. -/
  | cellStart (l : Fin 8)
  /-- TX_FRAME_DONE (R101). At the end of a transmitted radio frame the lane measures forward power and return loss and classifies the frame. -/
  | txFrameDone (l : Fin 8) (x : TxMeas)
  /-- RX_FRAME (R98). A lane completes reception of a frame in a receive or SHADOW cell and writes it as one packet into its gutter. -/
  | rxFrame (l : Fin 8) (x : RxFrame)
  /-- PACKET_RELEASE (R125). The next packet leaves its gutter, `us` µs into the present slot: a word of it that lost bits there, with their mask, and a context in which an uncorrectable ECC error is met. -/
  | packetRelease (upset : Option (Nat × Nat)) (ecc : Option (Fin 8192)) (us : Nat)
  /-- SLOT_BOUNDARY (R165). The slot `abs` begins, as 100 × TAI seconds + slot by the local clock. -/
  | slotBoundary (abs : Nat)
  /-- OVERRIDE_EXPIRY (R160). An override whose OVR_UNTIL has been reached is cleared at a course boundary. -/
  | overrideExpiry
  /-- LANTERN_SILENT (R154). A joined lantern silent for SILENT_COURSES fires event 28 and is named in a soffit record. -/
  | lanternSilent (lantern : Fin 8192)
  /-- EPOCH_SWITCH (R60). At the armed switch instant the bank becomes PROBATION, the running bank PREVIOUS, and the new epoch takes effect. -/
  | epochSwitch
  /-- ARM_LOAD_COMPLETE (R63). Loading of an armed bank's resident sections into the idle working area completes. -/
  | armLoadComplete
  /-- ARM_LATE (R63). One second before the switch instant with loading incomplete, the bank returns to VERIFIED and ARM_LATE is set. -/
  | armLate
  /-- PAIR_MISMATCH (R65). Two seconds before the switch instant without the standby's confirmation, both modules return the bank to VERIFIED. -/
  | pairMismatch
  /-- PROBATION_WINDOW_END (R69). The windows that end at this course boundary are evaluated; `told` is the criterion that the active module found failing, in a standby. -/
  | probationWindowEnd (told : Option Nat)
  /-- ROLLBACK_BOUNDARY (R593). At the rollback boundary of a pending rollback the bank states change and the previous bundle runs again. -/
  | rollbackBoundary
  /-- PLAN_LOAD_COMPLETE (R75). At power-up the executor finishes re-verifying and loading its bank, and rebuilds contexts, before LISTEN. -/
  | planLoadComplete
  /-- LISTEN_END (R563). After exactly 2 courses of LISTEN the executor enters RUNNING and takes its role. -/
  | listenEnd
  /-- EAV_TICK (R327). A 1 ms tick; `ntc` gives the resistance of each NTC input in Ω, from input 0 on. -/
  | eavTick (ntc : List Nat)
  /-- EAV_FAULT (R330). A channel's OPEN, SHORT, STUCK or FLT (0–3) is detected, or OPEN or FLT ends. -/
  | eavFault (n : Fin 16) (kind : Fin 4) (on : Bool)
  /-- EAV_SHORT_PROBE (R330). Once a second a channel off for SHORT or STUCK sends a one-period probe and clears after three good probes. -/
  | eavShortProbe (n : Fin 16) (good : Bool)
  /-- GABLE_LINE_PERIOD (R332). A line period begins; `sdi` is what GBL_SDI returns during its shift (R333): per driver 16 open and 16 short bits, then the check word. -/
  | gableLinePeriod (sdi : List Byte)
  /-- LINE_SHORT (R340). A line output over 40 mA for 2 us sets LINE_SHORT and holds the line off. -/
  | lineShort (line : Fin 48)
  /-- PURLIN_SAMPLE (R219). The sample instant, in units of 100 µs of TAI by the local clock. -/
  | purlinSample (t : Nat)
  /-- AIN_CONVERSION (R227). The 16-bit codes of AIN0 and AIN1. -/
  | ainConversion (x0 : Nat) (x1 : Nat)
  /-- HEARTBEAT_TX (R415). Every 1 ms each module sends a HEARTBEAT with its flags and pending input records to its partner. -/
  | heartbeatTx
  /-- HEARTBEAT_RX (R418). A HEARTBEAT delivered (R415). -/
  | heartbeatRx (f : RidgeFrame)
  /-- ROLE_CHANGE (R419). A module takes a new role at a slot boundary and fires event 49. -/
  | roleChange
  /-- PARTNER_LOST (R419). No valid heartbeat for LOSS_MS marks the partner lost, fires event 50 and lets a standby take over. -/
  | partnerLost
  /-- START_ROLE_TIMEOUT (R419). With no valid heartbeat within 2 s of reaching RUNNING the module becomes ACTIVE. -/
  | startRoleTimeout
  /-- DIGEST_TX (R423). At +20 ms after a course boundary each module sends the DIGEST of the course just ended. -/
  | digestTx
  /-- DIGEST_RX (R424). A DIGEST delivered (R423). -/
  | digestRx (f : RidgeFrame)
  /-- DIGEST_MISSING (R424). A partner DIGEST not arrived by +100 ms is counted, and two in a row clear IN_SYNC. -/
  | digestMissing
  /-- RESYNC_SNAPSHOT (R426). Seeing a MUTED partner, the active module takes a snapshot at the next course boundary and sends it in RESYNC messages. -/
  | resyncSnapshot
  /-- RESYNC_RX (R426). A RESYNC message delivered (R426). -/
  | resyncRx (f : RidgeFrame)
  /-- RESYNC_APPLY (R427). One second after the snapshot; `missing` tells the active module that a chunk did not arrive. -/
  | resyncApply (missing : Bool)
  /-- SWAP_ANNOUNCE (R428). The active module announces a scheduled swap in SWAP_AT 60 courses ahead, and event 51 fires. -/
  | swapAnnounce
  /-- REVERT_HOLDOFF (R428). After HOLDOFF seconds of partner IN_SYNC, a seat-1 ACTIVE module announces a revert. -/
  | revertHoldoff
  /-- SWAP_WITHDRAW (R429). At 400 ms before the boundary without the echo, the active withdraws its swap announcement. -/
  | swapWithdraw
  /-- SWAP_BOUNDARY (R429). At SWAP_AT each module that still announces or echoes it takes the other role. -/
  | swapBoundary
  /-- WAVE_DECISION_RX (R205). The standby applies a WAVE_DECISION in SEQ order, building the same frames and contexts as the active. -/
  | waveDecisionRx (f : RidgeFrame) (us : Nat)
  /-- DETECT_FWD_RX (R207). A DETECT_FWD message arrives, `us` µs into the present slot. -/
  | detectFwdRx (f : RidgeFrame) (us : Nat)
  /-- WAVE_HANDOFF_RX (R209). The active or unpaired module treats a hand-off's valid steps as one detection; a standby drops it. -/
  | waveHandoffRx (f : RidgeFrame) (us : Nat)
  /-- RIDGE_FRAME_RX (R401). A port receives an Ethernet frame and checks, forwards, turns or discards it, delivering those addressed to itself. -/
  | ridgeFrameRx (p : Fin 2) (e : EthFrame)
  /-- PORT_EGRESS (R405). A free port sends its next queued frame by class priority and deficit round robin. -/
  | portEgress (p : Fin 2)
  /-- PORT_LINK_CHANGE (R396). A port's link comes up or is lost; `fast` is the PHY's word of 1000 Mbit/s full duplex, `los` the level on LOS. -/
  | portLinkChange (p : Fin 2) (up : Bool) (fast : Bool) (los : Bool)
  /-- HELLO_TX (R395). A port sends HELLO every 1,000 ms when MATCHED and every 100 ms otherwise. -/
  | helloTx (p : Fin 2)
  /-- HELLO (R396). A received HELLO moves the port between TRAINING, MATCHED, MISMATCH and UNPLANNED. -/
  | hello (p : Fin 2) (f : RidgeFrame)
  /-- HELLO_TIMEOUT (R396). No valid HELLO for 3,500 ms or 350 ms returns the port to TRAINING. -/
  | helloTimeout (p : Fin 2)
  /-- TUNNEL (R409). A delivered TUNNEL message is written as a tunnel record to its channel's upload ring. -/
  | tunnel (f : RidgeFrame)
  /-- LIGGER (R536). A LIGGER message from the active module. -/
  | ligger (f : RidgeFrame)
  /-- LIGGER_BOUNDARY (R536). At the named course boundary both modules start, stop or resume a ligger chain. -/
  | liggerBoundary
  /-- LIGGER_RESUME (R535). A chain whose first unconfirmed lantern stays unconfirmed too long is resumed with a new map. -/
  | liggerResume (c : Fin 1024)
  /-- RESET (R559). A verified RESET message for this module schedules an FBR two course boundaries later. -/
  | reset (f : RidgeFrame)
  /-- FBR (R558). The FBR that a RESET message scheduled; `sub` is the sub-second count that the calendar holds. -/
  | fbr (sub : Nat)
  /-- IMG_CALL (R525). A module accepts or refuses an image chain call and begins fetching chunks. -/
  | imgCall (p : Fin 2) (f : RidgeFrame)
  /-- IMG_FETCH (R526). A module serves the requested pieces of a chunk it holds. -/
  | imgFetch (p : Fin 2) (f : RidgeFrame)
  /-- IMG_PIECE (R525). A received piece is stored; a complete chunk is checked and written. -/
  | imgPiece (p : Fin 2) (f : RidgeFrame) (readOk : Bool)
  /-- IMG_DONE (R527). The caller records the outcome reported by the module it called. -/
  | imgDone (p : Fin 2) (f : RidgeFrame)
  /-- IMG_FETCH_RETRY (R525). After 50 ms the fetching module asks again for missing pieces. -/
  | imgFetchRetry (p : Fin 2)
  /-- IMG_CHAIN_TIMEOUT (R517). An image chain with no new piece for 20 s fails with TIMEOUT. -/
  | imgChainTimeout (p : Fin 2)
  /-- IMAGE_CHUNK_WRITTEN (R521). The chunk in progress has been written and read back; `x` is what a start that follows finds. -/
  | imageChunkWritten (x : StartIn)
  /-- IMAGE_ACTIVATION (R521). The activation set is made, at once or at its instant; `x` is what the start finds. -/
  | imageActivation (x : StartIn)
  /-- UART_FRAME (R529). In RECOVERY, ROM takes a service UART frame and answers stored, resend or refused. -/
  | uartFrame (octets : List Byte) (readOk : Bool)
  /-- RECOVERY_TIMEOUT (R529). A recovery download path with no chunk for 60 s loses ownership. -/
  | recoveryTimeout
  /-- PTP_MESSAGE_RX (R456). A PTP event or general message yields an offset from a qualified master for the servo. -/
  | ptpMessageRx (x : PtpMsg)
  /-- ANNOUNCE_TIMEOUT (R456). No qualified master for announceReceiptTimeout moves the servo to HOLDOVER. -/
  | announceTimeout
  /-- PTP_MESSAGE_TX (R452). The module sends a PTP message, queueing its egress stamp when TSQ_EN is set. -/
  | ptpMessageTx (p : Fin 2) (typ : Nat) (seq : Nat) (sec : Nat) (ns : Nat)
  /-- TTO_EDGE (R461). An armed time-triggered output makes its active edge at START or the next period. -/
  | ttoEdge (n : Fin 4)
  /-- TTO_WIDTH_END (R461). An output's pulse ends after WIDTH ns. -/
  | ttoWidthEnd (n : Fin 4)
  /-- CALENDAR_SECOND (R437). The calendar counts a UTC second. -/
  | calendarSecond
  /-- TRIM_WINDOW_END (R445). A comparison of the disciplined calendar with the local clock: the last window's rate error and the present phase error, in cycles. -/
  | trimWindowEnd (sub : Nat) (cyc : Nat)
  /-- SYNC_STEP (R445). The calendar is stepped from the local clock at a UTC second; `sub` is the sub-second count that it held. -/
  | syncStep (sub : Nat)
  /-- PERIODIC_WAKE (R450). Every PERIOD/256 s event 53 fires. -/
  | periodicWake
  /-- COUNTDOWN_TICK (R451). The countdown decreases at each UNIT tick and fires event 54 at zero. -/
  | countdownTick
  /-- AON_SUPPLY_LOSS (R441). With every AON supply lost the calendar restarts at 2000-01-01 and VALID clears. -/
  | aonSupplyLoss
  /-- DORMER_STEP_END (R261). A dormer step ends, its quantities and energies are registered, and its SNAPSHOT frame is sent. -/
  | dormerStepEnd (x : Meas)
  /-- PULSE_START (R305). A pulse starts on a feeder at sample `t` when one is pending and 2W has passed since the previous start. -/
  | pulseStart (f : Fin 4) (t : Nat)
  /-- PULSE_END (R305). A pulse output stops conducting after its width W. -/
  | pulseEnd (f : Fin 4)
  /-- SNAPSHOT_RX (R280). The main side verifies a SNAPSHOT frame and updates the mirror and LINK_UP. -/
  | snapshotRx (o : List Byte)
  /-- INFO_RX (R283). A verified INFO frame updates the identity and configuration mirror. -/
  | infoRx (o : List Byte)
  /-- INTERVAL_RX (R319). A verified INTERVAL frame is posted to the meter interval ring and fires event 19. -/
  | intervalRx (o : List Byte)
  /-- PROFILE_RX (R319). A verified PROFILE frame is posted to the meter interval ring. -/
  | profileRx (o : List Byte)
  /-- STATE_RX (R320). A verified STATE frame updates the seal mirror, fires events 7 and 41, and feeds the legal log mirror. -/
  | stateRx (o : List Byte)
  /-- DMR_LINK_TIMEOUT (R280). No verified SNAPSHOT for 30 ms clears LINK_UP. -/
  | dmrLinkTimeout
  /-- SEAL_SWITCH_PRESS (R309). Pressing the seal switch opens the command gate for 600 s and arms or extends the session. -/
  | sealSwitchPress
  /-- WITNESS_CONTACT_OPEN (R308). Opening the witness contact sets the seal BROKEN and writes SEAL_BREAK. -/
  | witnessContactOpen
  /-- GATE_TIMEOUT (R309). When the gate shuts an ARMED session returns to IDLE and an OPEN one ends with TIMEOUT. -/
  | gateTimeout
  /-- OPEN (R311). The dormer checks and opens a sealed session. -/
  | sealOpen
  /-- SET_MEAS (R312). The dormer stages a new measurement configuration block. -/
  | sealSetMeas
  /-- SET_PULSE (R312). The dormer stages a new pulse block. -/
  | sealSetPulse
  /-- CLOSE (R312). The dormer applies staged blocks at the next step and ends the session, resealing if asked. -/
  | sealClose
  /-- ABORT (R312). The dormer discards staged blocks and ends the session. -/
  | sealAbort
  /-- DORMER_SUPPLY_WARNING (R299). The dormer ends its step with what it has measured, registers it and writes its state copy, then halts. -/
  | dormerSupplyWarning (x : Meas)
  /-- DORMER_HALT_RECOVER (R300). With its supply above the threshold for 10 ms the dormer resumes registering. -/
  | dormerHaltRecover
  /-- DORMER_POWER_UP (R301). The dormer restores its valid state copy, resumes STEP_NO and starts settling; `xa` and `xb` are the bits of the copies' CRCs that storage has upset. -/
  | dormerPowerUp (xa : Nat) (xb : Nat)
  /-- DORMER_CLOCK_LOSS (R260). With the 4 MHz clock absent for 2 us the dormer runs on its own oscillator. -/
  | dormerClockLoss
  /-- DORMER_CLOCK_RETURN (R260). After 1 ms of the external clock the dormer resumes it at a sample boundary. -/
  | dormerClockReturn
  /-- DOORBELL (R360). A write of a ring's doorbell word; `reads` is what reading an upload ring's next descriptors returns. -/
  | doorbell (r : Fin 32) (value : Nat) (reads : List Desc)
  /-- DESCRIPTOR_RETRY (R361). A descriptor found with OWN clear is re-read at 1 us intervals and the ring waits after three. -/
  | descriptorRetry (r : Fin 32) (reads : List Desc)
  /-- UPL_FLUSH (R366). An upload buffer is written back FLUSH x 100 us after its first record. -/
  | uplFlush (u : Fin 24)
  /-- HOLDOFF_EXPIRY (R368). At the end of a ring's hold-off its held event fires once. -/
  | holdoffExpiry (r : Fin 32)
  /-- RING_ENABLE (R349). Writing ENABLE = 1 puts a disabled ring into RUNNING. -/
  | ringEnable (r : Fin 32) (reads : List Desc)
  /-- RING_DISABLE (R378). Writing ENABLE = 0 stops a ring after its descriptor in progress. -/
  | ringDisable (r : Fin 32)
  /-- RING_REARM (R378). Writing REARM returns a HALTED ring to RUNNING after the failed descriptor. -/
  | ringRearm (r : Fin 32) (reads : List Desc)
  /-- PAUSE (R377). Writing PAUSE = 1 drains a DMA channel and sets PAUSED. -/
  | pause (c : Fin 16)
  /-- DMA_RESUME (R377). PAUSE = 0 on a channel, or PAUSE_ALL = 0 (none); `reads` by ring. -/
  | dmaResume (c : Option (Fin 16)) (reads : List (Nat × List Desc))
  /-- PAUSE_ALL (R377). Writing PAUSE_ALL pauses every DMA channel. -/
  | pauseAll
  /-- COMPLETION_TIMEOUT (R373). A ring's read request has no completion after DMA_CTO; `rd` is the descriptor whose buffer or list was being read, none where it was a descriptor. -/
  | completionTimeout (r : Fin 32) (rd : Option Desc)
  /-- HOST_NORESP (R373). A UR or CA completion halts the channel and ring with HOST_NORESP. -/
  | hostNoresp (r : Fin 32) (ca : Bool) (rd : Option Desc)
  /-- POISON (R374). A poisoned read completion ends its descriptor with POISON and fires event 14. -/
  | poison (r : Fin 32) (rd : Option Desc)
  /-- MSIX_UNMASK (R369). Unmasking a vector with its pending bit set sends one message. -/
  | msixUnmask (vector : Fin 64)
  /-- FLR (R379). A function level reset ends host transfers, disables rings and resets host-side V fields. -/
  | flr
  /-- PFR (R379). PCIE_PERSTN low resets the host side as FLR and retrains the link. -/
  | pfr
  /-- D3HOT_ENTRY (R347). In D3hot the module issues no DMA and rings keep their state. -/
  | d3hotEntry
  /-- READY (R380). The ring engine becomes able to accept configuration, READY sets and event 1 fires. -/
  | ready (reads : List (Nat × List Desc))
  /-- NOP (R356). A NOP command is written back OK. -/
  | nop (r : Fin 8) (d : Desc)
  /-- BAD_OPCODE (R356). A command with an unassigned opcode is written back BAD_OPCODE. -/
  | badOpcode (r : Fin 8) (d : Desc)
  /-- PLAN_WRITE (R60). A chunk is appended to a plan bank; at the last one the bundle is checked. -/
  | planWrite (r : Fin 8) (d : Desc)
  /-- PLAN_WRITE_ABORT (R60). A PLAN_WRITE with ABORT returns a WRITING bank to EMPTY. -/
  | planWriteAbort (r : Fin 8) (d : Desc)
  /-- PLAN_ARM (R61). PLAN_ARM by the host, with the report that the standby has given of its own bank; by the pair, with the SHA-256 of the active module's bundle; or the standby's confirmation (R65). -/
  | planArm (arm : ArmBy)
  /-- PLAN_DISARM (R60). An ARMED bank returns to VERIFIED. -/
  | planDisarm (via : PlanVia)
  /-- PLAN_ACCEPT (R60). A bank in PROBATION becomes RUNNING. -/
  | planAccept (via : PlanVia)
  /-- PLAN_ROLLBACK (R72). A commanded rollback becomes pending and fires event 25. -/
  | planRollback (via : PlanVia)
  /-- OVERRIDE (R159). A host override is accepted with an input slot and written into the named contexts. -/
  | override (r : Fin 8) (d : Desc)
  /-- CTX_READ (R358). Contexts are copied to the host buffer. -/
  | ctxRead (r : Fin 8) (d : Desc)
  /-- PUR_SETPOINT (R231). A loop's host set-point is accepted with an input slot. -/
  | purSetpoint (r : Fin 8) (d : Desc)
  /-- DMR_SESSION (R310). A sealed-session command is passed unchanged to the dormer while the gate is open. -/
  | dmrSession (r : Fin 8) (d : Desc)
  /-- GBL_LEGEND (R334). A legend record is checked and stored. -/
  | gblLegend (r : Fin 8) (d : Desc)
  /-- FAB_SEND (R408). Host data is sent to another module as a TUNNEL message. -/
  | fabSend (r : Fin 8) (d : Desc)
  /-- KEY_OWNER_INSTALL (R474). The owner key and K_OWN are installed and the key store becomes READY. -/
  | keyOwnerInstall (r : Fin 8) (d : Desc)
  /-- KEY_LOAD (R471). A key blob is checked, unwrapped into its engine register and optionally stored. -/
  | keyLoad (r : Fin 8) (d : Desc)
  /-- KEY_ACK (R482). A signed acknowledgement returns a LOCKED key store to EMPTY. -/
  | keyAck (r : Fin 8) (d : Desc)
  /-- KEY_BUMP (R474). GEN_OWN is incremented, orphaning blobs of the old generation. -/
  | keyBump (r : Fin 8) (d : Desc)
  /-- KEY_BUMP_ROOT (R474). GEN_ROOT is incremented, K_OWN cleared and the store set EMPTY. -/
  | keyBumpRoot (r : Fin 8) (d : Desc)
  /-- KEY_ZEROISE (R474). Working keys and K_OWN are cleared, counters incremented and a ZRS taken. -/
  | keyZeroise (r : Fin 8) (d : Desc) (x : StartIn)
  /-- ATTEST (R484). A signed attestation statement and the device certificate are returned. -/
  | attest (r : Fin 8) (d : Desc)
  /-- KEY_OP_DONE (R475). A long key operation completes, is written back and fires event 8. -/
  | keyOpDone
  /-- IMAGE_WRITE (R519). A chunk of an image; `readOk` says whether it will read back equal. -/
  | imageWrite (r : Fin 8) (d : Desc) (readOk : Bool)
  /-- IMAGE_WRITE_ABORT (R519). An IMAGE_WRITE with ABORT sets the region FAILED. -/
  | imageWriteAbort (r : Fin 8) (d : Desc)
  /-- IMAGE_ACTIVATE (R522). A staged image is scheduled for activation. -/
  | imageActivate (r : Fin 8) (d : Desc)
  /-- IMAGE_CHAIN (R527). The module calls its neighbour to start an image chain. -/
  | imageChain (r : Fin 8) (d : Desc)
  /-- LIMG_WRITE (R530). A lantern image chunk is stored after the manifest is checked. -/
  | limgWrite (r : Fin 8) (d : Desc)
  /-- LIMG_START (R536). Ligger chains are scheduled to start at a boundary. -/
  | limgStart (r : Fin 8) (d : Desc)
  /-- LIMG_STOP (R536). Ligger chains are scheduled to stop at a boundary. -/
  | limgStop (r : Fin 8) (d : Desc)
  /-- RED_SWAP (R428). A commanded swap is announced for the second course boundary after acceptance. -/
  | redSwap (r : Fin 8) (d : Desc)
  /-- RED_RESYNC (R430). The standby is muted and a resync is started. -/
  | redResync (via : PlanVia)
  /-- COMMIT (R442). A write of COMMIT; `sub` is the sub-second count that the calendar holds. -/
  | commit (sub : Nat)
  /-- ALM_CFG_WRITE (R449). Writing ALM_CFG checks and enables an alarm and clears FIRED_DATE. -/
  | almCfgWrite (n : Fin 4) (value : Nat)
  /-- RTC_WAKE_WRITE (R450). Writing RTC_WAKE restarts the periodic wake count. -/
  | rtcWakeWrite (value : Nat)
  /-- COUNTDOWN_RUN (R451). Writing RUN = 1 loads COUNT from PRESET and starts the countdown. -/
  | countdownRun (value : Nat)
  /-- FORCE (R459). Writing FORCE makes the servo apply the next offset as a step. -/
  | force
  /-- PTP_TSQ_READ (R465). Reading PTP_TSQ latches and removes the head time-stamp entry. -/
  | ptpTsqRead
  /-- DMR_TOT_READ (R287). Reading 0x0600 latches all totals, legacy views and DMR_TOT_STEP from one frame. -/
  | dmrTotRead
  /-- RELEASE (R244). Writing RELEASE resumes a frozen loop and initialises it. -/
  | release (l : Fin 16)
  /-- REARM (R339). Writing REARM releases the integrity blank and clears the fault map. -/
  | rearm
  /-- GAMMA_DEFAULT (R328). Writing GAMMA_DEFAULT restores the default gamma table. -/
  | gammaDefault
  /-- GBL_GEOM_WRITE (R331). A GBL_GEOM write is accepted or refused with GEOM_REFUSED. -/
  | gblGeomWrite (value : Nat)
  /-- GBL_SHOW_WRITE (R335). Writing GBL_SHOW selects the legend shown from the next frame boundary. -/
  | gblShowWrite (value : Nat)
  /-- RUN (R77). Writing RUN = 0 in COMMISSION halts cell execution; RUN = 1 resumes it. -/
  | run (on : Bool)
  /-- LATENCY_CLEAR (R212). Writing CLEAR resets the maximum reaction time. -/
  | latencyClear
  /-- REPLAY_START (R503). Writing START begins a replay of log positions to UPL4. -/
  | replayStart (value : Nat)
  /-- REPLAY_RECORD (R503). A replay sends its next valid record, at most 1,000 per second. -/
  | replayRecord
  /-- SKY_CNT_CLEAR (R515). Writing bit 0 clears a skylight counter. -/
  | skyCntClear (n : Fin 256)
  /-- SKY_PACKET (R510). The skylight port emits its next queued packet, or a LOST packet after drops. -/
  | skyPacket
  /-- SHIP (R543). A write of PWR_REQ with SHIP set. -/
  | ship (value : Nat)
  /-- CMS_END (R543). A write of PWR_REQ with CMS_END set. -/
  | cmsEnd (value : Nat) (x : StartIn)
  /-- GO (R559). A write of PWR_FBR_TGT with GO set. -/
  | go (value : Nat)
  /-- REGISTER_WRITE (R7). `reads` is what each ring that may move data again reads; `x` is what a start finds, with the sub-second count of the calendar. -/
  | registerWrite (t : RegTarget) (reads : List (Nat × List Desc)) (x : StartIn)
  /-- PRIV_BUFFER_MOVE (R497). The log moves the oldest privileged-buffer record into its store. -/
  | privBufferMove
  /-- BUCKET_REFILL (R494). A rate-limit bucket gains a token when OP_SEC reaches a multiple of INTERVAL. -/
  | bucketRefill (code : Nat)
  /-- TAMPER_INPUT (R478). A debounced TAMP input raises class 1 or class 2. -/
  | tamperInput (k : Fin 4) (isOpen : Bool) (x : StartIn)
  /-- MESH_BREAK (R479). A lid mesh break is a class 2 tamper: keys are zeroised, the store LOCKED and a ZRS issued. -/
  | meshBreak (x : StartIn)
  /-- VIN_WARNING (R549). VIN below 8.5 V for 50 us fires event 2 and writes BROWNOUT. -/
  | vinWarning (vin : Nat)
  /-- HOLD_ENTRY (R550). The module enters HOLD, stops transmitting and starts the flush. -/
  | holdEntry (vin : Nat) (vhold : Nat)
  /-- FLUSH_DONE (R550). The HOLD flush completes and FLUSH_DONE sets. -/
  | flushDone
  /-- BOR (R551). A brown-out reset, with VIN there to start from or not; `lost` where a HOLD ran out of energy before its flush reached the class N items. -/
  | bor (x : StartIn) (vin : Bool) (lost : Bool)
  /-- POR (R557). A power-on reset; `x` is what the start finds at the lands. -/
  | por (x : StartIn)
  /-- WATCHDOG_EXPIRY (R557). A watchdog unserved for 2.0 s causes a WDR. -/
  | watchdogExpiry (x : StartIn)
  /-- PLL_UNLOCK (R556). A loss of PLL lock sets UNLOCKED and fires event 4. -/
  | pllUnlock
  /-- PLL_RELOCK (R556). The PLL regains lock and PLL_UNLOCK is recorded. -/
  | pllRelock (us : Nat)
  /-- PLL_UNLOCK_TIMEOUT (R556). Without relock within 1 ms the module takes a WDR with cause PLL. -/
  | pllUnlockTimeout (x : StartIn)
  /-- ISLAND_ENTRY (R541). Host and fabric have been lost for ISLAND_S seconds; `link` says whether the PCIe link is in L0 or L1. -/
  | islandEntry (link : Bool)
  /-- ISLAND_EXIT (R541). At the first slot boundary with host or a MATCHED port the module leaves ISLAND. -/
  | islandExit (link : Bool)
  /-- DAYLIGHT_ENTRY (R545). After 60 courses of every condition, the module stores state and enters DAYLIGHT. -/
  | daylightEntry
  /-- DAYLIGHT_WAKE (R546). A wake by a source, as PWR_WAKE.SRC codes it. -/
  | daylightWake (src : Fin 7) (x : StartIn)
  /-- HOLDUP_TIMEOUT (R571). HOLDUP_OK not set within 2 s of a POR or BOR sets HOLDUP_FAULT. -/
  | holdupTimeout
  /-- FIELD_OVERVOLTAGE (R577). A field land outside its range for 10 us sets its over-voltage report and protective state. -/
  | fieldOvervoltage (land : FieldLand)
  /-- OVERVOLTAGE_CLEAR (R577). A land back in range for 100 ms leaves over-voltage. -/
  | overvoltageClear (land : FieldLand)
  /-- LANE_THERMAL (R104). The temperature of a lane's amplifier or driver, in °C. -/
  | laneThermal (l : Fin 8) (t : Int)
  /-- WITNESS_CONTACT_CLOSE (R311). The witness contact closes when the dormer lid segment is refitted, clearing LID_OPEN so that a CLOSE with RESEAL can pass its LID_OPEN check. -/
  | witnessContactClose
  /-- TAMPER_SOURCE_CLEAR (R478). A TAMP input or the lid mesh stays clear for DEB ms (10 ms for the mesh), clearing its live bit and re-arming the source to raise its class again. -/
  | tamperSourceClear (src : Fin 5)
  /-- D3HOT_EXIT (R347). The host returns the function from D3hot to D0, and the rings resume DMA from the state they kept. -/
  | d3hotExit (reads : List (Nat × List Desc))
  /-- HOLDUP_OK (R571). VHOLD, in mV, crosses a threshold of R571. -/
  | holdupOk (vhold : Nat)
  /-- VBAT_LOW (R574). VBAT, in mV, crosses 2.2 V; 0 where the cell is absent. -/
  | vbatLow (vbat : Nat)
  /-- PULSE_INPUT_EDGE (R228). An edge on PLS`k`, at `us` µs of TAI by the local clock. -/
  | pulseInputEdge (k : Fin 2) (rise : Bool) (us : Nat)
  deriving DecidableEq, Repr

end Sys2Proof
end

