-- ==== Sys2Proof/Machine/SofRecord.lean ====
section
/-!
DEFINITION. The 32 bytes of a soffit record (R486–R489, R493).
-/
namespace Sys2Proof.Machine

/-- CFLAGS of a record (R487). -/
def recFlags (r : SofRec) (replay : Bool) : Nat := r.cls + 4 * natOf r.dormer + 8 * natOf r.priv + 16 * natOf replay + 32 * natOf r.lost

/-- The 32 bytes of a record (R486–R489); `replay` sets CFLAGS bit 4 in a ring copy. -/
def recBytes (r : SofRec) (replay : Bool) : List Byte :=
  let time := leBytes 4 r.t ++ leBytes 3 r.cyc ++ leBytes 1 r.sub
  let tail := leBytes 2 r.code ++ time ++ leBytes 4 r.p0 ++ leBytes 4 r.p1 ++ leBytes 4 r.p2 ++ leBytes 4 r.p3 ++ leBytes 2 r.count
  leBytes 1 0xA5 ++ leBytes 1 (recFlags r replay) ++ tail ++ leBytes 2 (crc16 (leBytes 1 (recFlags r false) ++ tail))

/-- A position's 32 bytes. One that holds no valid record reads as zeros (DESIGN CHOICE, log entry 69). -/
def posBytes : Option SofRec → List Byte
  | some r => recBytes r false
  | none => zeros 32

/-- The record in 32 bytes of a LEGAL store, where MARK, the CRC and CLASS make it valid (R493). -/
def legalRec (l : List Byte) : Option SofRec :=
  let fl := lle l 1 1
  let plain : Nat := if bitOf fl 4 then fl - 16 else fl
  if lle l 0 1 = 0xA5 ∧ fl % 4 = 0 ∧ lle l 30 2 = crc16 (leBytes 1 plain ++ slice l 2 28) then
    some ⟨0, bitOf fl 2, bitOf fl 3, bitOf fl 5, lle l 2 2, lle l 4 4, lle l 8 3, lle l 11 1, lle l 12 4, lle l 16 4, lle l 20 4, lle l 24 4,
      lle l 28 2⟩
  else none

end Sys2Proof.Machine
end

