-- ==== Sys2Proof/Config.lean ====
section
/-!
DEFINITION. What an implementation fixes, and the free values: every constant here is opaque, so nothing can be proved of
what it is. A free value is applied to a counter that the step reads and advances, or to what it depends on.
-/
namespace Sys2Proof.Config

/-- A value that the spec leaves open, as a natural number of the width the user takes (log entry 4). -/
opaque freeNat : Nat → Nat

/-- The same on the dormer, whose counter is its own. -/
opaque dormerFree : Nat → Nat

/-- The compensated group CCT of a sheaf, and CCT_VALID, of a bundle's SHEAF cell: no rule says where they come from, but members of
one pair build the same payload (R29), so that they follow from the bundle, the sheaf and the slot (log entry 30). -/
opaque groupCct : List (Nat × Byte) → Nat → Nat → Nat
opaque groupCctValid : List (Nat × Byte) → Nat → Nat → Bool

/-- The relay lead, in slots, of a hand-off whose first lantern lies in no zone, by that lantern: R209 names the zone record's, and there
is none (log entry 71). -/
opaque handoffLead : Nat → Nat

/-- ACK_REQ of an MGMT frame, by its subtype and its target, and of a DIRECT frame, with subtype 0 (R135, R137; log entry 60). -/
opaque ackReq : Nat → Nat → Bool

/-- The dormer's filters (R259, R263): a channel's values advanced by a phase correction in 0.001°, and a voltage delayed by 90°. The
first number is the counter of free values; the lists are of this step's values after those of the step before. -/
opaque phased : Nat → Int → List Int → List Int
opaque hilbert : Nat → List Int → List Int

/-- The temperature in 0.1 °C of an NTC input where the β equation has no result (R328), by R, B and R25 (log entry 28). -/
opaque ntcOpen : Nat → Nat → Nat → Int

/-- What a 48-bit accumulator holds after a sum that lies outside it (R215), by the exact sum: no rule says (log entry 66). -/
opaque accOverflow : Int → Nat

/-- The module image written at manufacture, its SHA-256, and the version of the resident loader (log entry 35). -/
opaque factoryImage : Nat → Byte
opaque factoryHash : Nat
opaque loaderVersion : Nat

/-- The octets of a random number of the key store (R471), and of the dormer (R309), by the counter of each. -/
opaque random : Nat → Nat
opaque dormerRandom : Nat → Nat

end Sys2Proof.Config
end

