-- ==== Sys2Proof/Machine/Regs.lean ====
section
/-!
DEFINITION. The register map of BAR0 (R589, R590): one row a register or a repeated register, with the write behaviour
of R7's access types and the retention classes of R8, and one named `Field` a field. The rows and fields are those of
the register tables of the chapters (R77, R108, R154, R185, R212, R253, R283, R321, R341, R342, R381, R411, R436,
R464, R465, R485, R514, R515, R539, R564, R588) and of the MSI-X structures of R591.
-/
namespace Sys2Proof.Machine

/-- One register, or one register repeated `count` times at `stride` (R590): its reset word, the bits that a host write
sets (RW), the bits that a written 1 clears (W1C), and the bits of the retention classes V, K, N and P of R8. -/
structure RegRow where
  base : Nat
  stride : Nat
  count : Nat
  reset : Nat
  rw : Nat
  w1c : Nat
  v : Nat
  k : Nat
  n : Nat
  p : Nat
  deriving DecidableEq, Repr

/-- One field of a register: the address of its register in instance 0, the step from one instance to the next, its
lowest bit and its width. -/
structure Field where
  base : Nat
  stride : Nat
  lo : Nat
  width : Nat
  deriving DecidableEq, Repr

/-- The address of a field's register in instance `i`. -/
def Field.addr (f : Field) (i : Nat) : Nat := f.base + f.stride * i

namespace F

-- GLB_ID, R381
def GLB_ID_DEVICE : Field := ⟨0x000000, 0, 16, 16⟩
def GLB_ID_SILICON : Field := ⟨0x000000, 0, 8, 4⟩
def GLB_ID_VARIANT : Field := ⟨0x000000, 0, 0, 4⟩
-- GLB_STATUS, R381
def GLB_STATUS_READY : Field := ⟨0x000004, 0, 31, 1⟩
def GLB_STATUS_MODE : Field := ⟨0x000004, 0, 0, 3⟩
-- GLB_EVT, R381
def GLB_EVT_PEND : Field := ⟨0x000010, 4, 0, 32⟩
-- PWR_CTRL, R564
def PWR_CTRL_FBR_EN : Field := ⟨0x010000, 0, 7, 1⟩
def PWR_CTRL_DAY_EN : Field := ⟨0x010000, 0, 6, 1⟩
def PWR_CTRL_EVT4_EN : Field := ⟨0x010000, 0, 3, 1⟩
def PWR_CTRL_EVT3_EN : Field := ⟨0x010000, 0, 2, 1⟩
def PWR_CTRL_EVT2_EN : Field := ⟨0x010000, 0, 1, 1⟩
def PWR_CTRL_EVT0_EN : Field := ⟨0x010000, 0, 0, 1⟩
-- PWR_MODE, R564
def PWR_MODE_CAUSE : Field := ⟨0x010004, 0, 20, 4⟩
def PWR_MODE_PREV : Field := ⟨0x010004, 0, 16, 3⟩
def PWR_MODE_DAY_BLOCK : Field := ⟨0x010004, 0, 8, 8⟩
def PWR_MODE_MODE : Field := ⟨0x010004, 0, 0, 3⟩
-- PWR_REQ, R564
def PWR_REQ_KEY : Field := ⟨0x010008, 0, 16, 16⟩
def PWR_REQ_SHIP : Field := ⟨0x010008, 0, 1, 1⟩
def PWR_REQ_CMS_END : Field := ⟨0x010008, 0, 0, 1⟩
-- PWR_RESET, R564
def PWR_RESET_CAUSE : Field := ⟨0x01000C, 0, 8, 8⟩
def PWR_RESET_KIND : Field := ⟨0x01000C, 0, 0, 3⟩
-- PWR_ISLAND, R564
def PWR_ISLAND_ISLAND_S : Field := ⟨0x010010, 0, 0, 8⟩
-- PWR_DAY, R564
def PWR_DAY_WAKE_LEAD : Field := ⟨0x010014, 0, 16, 12⟩
def PWR_DAY_MIN_SLEEP : Field := ⟨0x010014, 0, 0, 12⟩
-- PWR_WAKE, R564
def PWR_WAKE_SRC : Field := ⟨0x010018, 0, 0, 3⟩
-- PWR_SUPPLY, R564
def PWR_SUPPLY_VIN : Field := ⟨0x010020, 0, 16, 16⟩
def PWR_SUPPLY_VHOLD : Field := ⟨0x010020, 0, 0, 16⟩
-- PWR_SUPPLY_B, R564
def PWR_SUPPLY_B_FLUSH_DONE : Field := ⟨0x010024, 0, 16, 1⟩
def PWR_SUPPLY_B_VBAT : Field := ⟨0x010024, 0, 0, 16⟩
-- PWR_FBR_TGT, R564
def PWR_FBR_TGT_GO : Field := ⟨0x010030, 0, 31, 1⟩
def PWR_FBR_TGT_ADDR : Field := ⟨0x010030, 0, 0, 12⟩
-- PWR_FBR_EUI_LO, R564
def PWR_FBR_EUI_LO : Field := ⟨0x010034, 0, 0, 32⟩
-- PWR_FBR_EUI_HI, R564
def PWR_FBR_EUI_HI : Field := ⟨0x010038, 0, 0, 32⟩
-- HOLD_SKIPPED, R564
def HOLD_SKIPPED : Field := ⟨0x010040, 0, 0, 32⟩
-- FBR_REFUSED, R564
def FBR_REFUSED : Field := ⟨0x010044, 0, 0, 32⟩
-- PWR_HOLDUP, R588
def PWR_HOLDUP_HOLDUP_OK : Field := ⟨0x010800, 0, 31, 1⟩
def PWR_HOLDUP_HOLDUP_FAULT : Field := ⟨0x010800, 0, 30, 1⟩
def PWR_HOLDUP_VBAT_LOW : Field := ⟨0x010800, 0, 29, 1⟩
-- PWR_FIO, R588
def PWR_FIO_LATCH : Field := ⟨0x010804, 0, 8, 8⟩
def PWR_FIO_LIVE : Field := ⟨0x010804, 0, 0, 8⟩
-- CLK_STATUS, R564
def CLK_STATUS_LOCKED : Field := ⟨0x011000, 0, 31, 1⟩
def CLK_STATUS_UNLOCKED : Field := ⟨0x011000, 0, 30, 1⟩
def CLK_STATUS_LAST_LOSS : Field := ⟨0x011000, 0, 0, 16⟩
-- CLK_UNLOCKS, R564
def CLK_UNLOCKS : Field := ⟨0x011004, 0, 0, 32⟩
-- HST_CTRL, R381
def HST_CTRL_EVT11_EN : Field := ⟨0x020000, 0, 1, 1⟩
def HST_CTRL_EVT10_EN : Field := ⟨0x020000, 0, 0, 1⟩
-- HST_RING_BASE_LO, R381
def HST_RING_BASE_LO_BASE_LO : Field := ⟨0x020100, 32, 6, 26⟩
-- HST_RING_BASE_HI, R381
def HST_RING_BASE_HI_BASE_HI : Field := ⟨0x020104, 32, 0, 32⟩
-- HST_RING_CFG, R381
def HST_RING_CFG_CMPL_EVT : Field := ⟨0x020108, 32, 24, 8⟩
def HST_RING_CFG_HOLDOFF : Field := ⟨0x020108, 32, 16, 8⟩
def HST_RING_CFG_FLUSH : Field := ⟨0x020108, 32, 8, 8⟩
def HST_RING_CFG_SIZE_LOG2 : Field := ⟨0x020108, 32, 0, 5⟩
-- HST_RING_CTRL, R381
def HST_RING_CTRL_REARM : Field := ⟨0x02010C, 32, 1, 1⟩
def HST_RING_CTRL_ENABLE : Field := ⟨0x02010C, 32, 0, 1⟩
-- HST_RING_STATUS, R381
def HST_RING_STATUS_STATE : Field := ⟨0x020110, 32, 30, 2⟩
def HST_RING_STATUS_CAUSE : Field := ⟨0x020110, 32, 28, 2⟩
def HST_RING_STATUS_COAL : Field := ⟨0x020110, 32, 26, 2⟩
def HST_RING_STATUS_DB_LATCHED : Field := ⟨0x020110, 32, 16, 1⟩
def HST_RING_STATUS_NEXT : Field := ⟨0x020110, 32, 0, 16⟩
-- HST_RING_DB, R381
def HST_RING_DB_LIMIT : Field := ⟨0x020114, 32, 0, 17⟩
-- DOORBELL_EARLY, R381
def DOORBELL_EARLY : Field := ⟨0x020118, 32, 0, 32⟩
-- UPL_DROPPED, R381
def UPL_DROPPED : Field := ⟨0x02011C, 32, 0, 32⟩
-- DMA_CTRL, R381
def DMA_CTRL_PAUSE_ALL : Field := ⟨0x030000, 0, 31, 1⟩
def DMA_CTRL_EVT14_EN : Field := ⟨0x030000, 0, 2, 1⟩
def DMA_CTRL_EVT13_EN : Field := ⟨0x030000, 0, 1, 1⟩
def DMA_CTRL_EVT12_EN : Field := ⟨0x030000, 0, 0, 1⟩
-- DMA_CTO, R381
def DMA_CTO_CTO : Field := ⟨0x030004, 0, 0, 13⟩
-- DMA_CHAIN_MAX, R381
def DMA_CHAIN_MAX_MAX : Field := ⟨0x030008, 0, 0, 16⟩
-- DMA_CH_CTRL, R381
def DMA_CH_CTRL_PAUSE : Field := ⟨0x030100, 32, 31, 1⟩
def DMA_CH_CTRL_PRIO : Field := ⟨0x030100, 32, 0, 2⟩
-- DMA_CH_STATE, R381
def DMA_CH_STATE_PAUSED : Field := ⟨0x030104, 32, 31, 1⟩
def DMA_CH_STATE_HALTED : Field := ⟨0x030104, 32, 30, 1⟩
def DMA_CH_STATE_SEG : Field := ⟨0x030104, 32, 16, 6⟩
def DMA_CH_STATE_HOPS : Field := ⟨0x030104, 32, 0, 16⟩
-- DMA_CUR_ADDR_LO, R381
def DMA_CUR_ADDR_LO : Field := ⟨0x030108, 32, 0, 32⟩
-- DMA_CUR_ADDR_HI, R381
def DMA_CUR_ADDR_HI : Field := ⟨0x03010C, 32, 0, 32⟩
-- DMA_REMAIN, R381
def DMA_REMAIN : Field := ⟨0x030110, 32, 0, 32⟩
-- DMA_BYTES, R381
def DMA_BYTES : Field := ⟨0x030114, 32, 0, 32⟩
-- YLM_ID, R77
def YLM_ID_FORMAT_MAX : Field := ⟨0x040000, 0, 0, 16⟩
-- YLM_CTRL, R77
def YLM_CTRL_EVT26_EN : Field := ⟨0x040004, 0, 1, 1⟩
def YLM_CTRL_RUN : Field := ⟨0x040004, 0, 0, 1⟩
-- YLM_STATUS, R77
def YLM_STATUS_RUN_EPOCH : Field := ⟨0x040008, 0, 24, 8⟩
def YLM_STATUS_PREV_EPOCH : Field := ⟨0x040008, 0, 16, 8⟩
def YLM_STATUS_UTC_SRC : Field := ⟨0x040008, 0, 12, 2⟩
def YLM_STATUS_ALMANAC_END : Field := ⟨0x040008, 0, 11, 1⟩
def YLM_STATUS_ALMANAC_LOW : Field := ⟨0x040008, 0, 10, 1⟩
def YLM_STATUS_PROBATION : Field := ⟨0x040008, 0, 9, 1⟩
def YLM_STATUS_RUN_BANK : Field := ⟨0x040008, 0, 8, 1⟩
def YLM_STATUS_EXEC_STATE : Field := ⟨0x040008, 0, 0, 4⟩
-- YLM_BANK_STATE, R77
def YLM_BANK_STATE_EPOCH : Field := ⟨0x04000C, 4, 24, 8⟩
def YLM_BANK_STATE_REFUSE_CODE : Field := ⟨0x04000C, 4, 16, 8⟩
def YLM_BANK_STATE_STATE : Field := ⟨0x04000C, 4, 0, 4⟩
-- YLM_SWITCH_LO, R77
def YLM_SWITCH_LO_INSTANT : Field := ⟨0x040014, 0, 0, 32⟩
-- YLM_SWITCH_HI, R77
def YLM_SWITCH_HI_INSTANT : Field := ⟨0x040018, 0, 0, 16⟩
-- YLM_COURSE, R77
def YLM_COURSE_TEMPLATE : Field := ⟨0x04001C, 0, 20, 6⟩
def YLM_COURSE_SLOT : Field := ⟨0x04001C, 0, 12, 7⟩
def YLM_COURSE_POSITION : Field := ⟨0x04001C, 0, 0, 12⟩
-- YLM_PROFILE, R77
def YLM_PROFILE_PROFILE : Field := ⟨0x040020, 0, 16, 8⟩
def YLM_PROFILE_STEP : Field := ⟨0x040020, 0, 8, 4⟩
-- YLM_PROBATION, R77
def YLM_PROBATION_FAIL_VALID : Field := ⟨0x040024, 0, 24, 1⟩
def YLM_PROBATION_FAIL_CRIT : Field := ⟨0x040024, 0, 16, 4⟩
def YLM_PROBATION_REMAIN : Field := ⟨0x040024, 0, 0, 12⟩
-- YLM_ERR, R77
def YLM_ERR_ROLLBACK_NONE : Field := ⟨0x040028, 0, 8, 1⟩
def YLM_ERR_SWITCH_JUMPED : Field := ⟨0x040028, 0, 7, 1⟩
def YLM_ERR_UTC_FALLBACK : Field := ⟨0x040028, 0, 6, 1⟩
def YLM_ERR_ROLLBACK_CMD : Field := ⟨0x040028, 0, 5, 1⟩
def YLM_ERR_ROLLBACK_AUTO : Field := ⟨0x040028, 0, 4, 1⟩
def YLM_ERR_PAIR_MISMATCH : Field := ⟨0x040028, 0, 3, 1⟩
def YLM_ERR_ARM_LATE : Field := ⟨0x040028, 0, 2, 1⟩
def YLM_ERR_OVERLENGTH : Field := ⟨0x040028, 0, 1, 1⟩
def YLM_ERR_UNDERRUN : Field := ⟨0x040028, 0, 0, 1⟩
-- YLM_TX_CELLS, R77
def YLM_TX_CELLS : Field := ⟨0x040100, 32, 0, 32⟩
-- YLM_UNDERRUNS, R77
def YLM_UNDERRUNS : Field := ⟨0x040104, 32, 0, 32⟩
-- YLM_OVERLENGTH, R77
def YLM_OVERLENGTH : Field := ⟨0x040108, 32, 0, 32⟩
-- YLM_UNUSED, R77
def YLM_UNUSED : Field := ⟨0x04010C, 32, 0, 32⟩
-- YLM_SHADOW_HEARD, R77
def YLM_SHADOW_HEARD : Field := ⟨0x040110, 32, 0, 32⟩
-- YLM_SHADOW_MISSED, R77
def YLM_SHADOW_MISSED : Field := ⟨0x040114, 32, 0, 32⟩
-- YLM_RX_FRAMES, R77
def YLM_RX_FRAMES : Field := ⟨0x040118, 32, 0, 32⟩
-- TLR_CTRL, R108
def TLR_CTRL_EVT_EN : Field := ⟨0x050000, 0, 0, 1⟩
-- TLR_LANE_STATUS, R108
def TLR_LANE_STATUS_CHAN_NOW : Field := ⟨0x050100, 64, 16, 8⟩
def TLR_LANE_STATUS_FAULT_NOW : Field := ⟨0x050100, 64, 8, 7⟩
def TLR_LANE_STATUS_ANT_TX : Field := ⟨0x050100, 64, 6, 2⟩
def TLR_LANE_STATUS_DIV_RX : Field := ⟨0x050100, 64, 5, 1⟩
def TLR_LANE_STATUS_TX_REDUCED : Field := ⟨0x050100, 64, 4, 1⟩
def TLR_LANE_STATUS_STATE : Field := ⟨0x050100, 64, 0, 4⟩
-- TLR_FAULT, R108
def TLR_FAULT_FAULT_LATCH : Field := ⟨0x050104, 64, 0, 7⟩
-- TLR_RFMEAS, R108
def TLR_RFMEAS_FWD : Field := ⟨0x050108, 64, 24, 8⟩
def TLR_RFMEAS_RLOSS : Field := ⟨0x050108, 64, 8, 8⟩
def TLR_RFMEAS_CLASS : Field := ⟨0x050108, 64, 0, 2⟩
-- TLR_FAULT_SKIPPED, R108
def TLR_FAULT_SKIPPED : Field := ⟨0x050110, 64, 0, 32⟩
-- TLR_COLLISIONS, R108
def TLR_COLLISIONS : Field := ⟨0x050114, 64, 0, 32⟩
-- TLR_RX_TRUNCATED, R108
def TLR_RX_TRUNCATED : Field := ⟨0x050118, 64, 0, 32⟩
-- TLR_RX_FCS_FAIL, R108
def TLR_RX_FCS_FAIL : Field := ⟨0x05011C, 64, 0, 32⟩
-- TLR_AIRTIME_HOUR, R108
def TLR_AIRTIME_HOUR : Field := ⟨0x050120, 64, 0, 32⟩
-- TLP_LANE_CTRL, R108
def TLP_LANE_CTRL_EVT_EN : Field := ⟨0x060000, 0, 0, 1⟩
-- TLP_LANE_STATUS, R108
def TLP_LANE_STATUS_CHAN_NOW : Field := ⟨0x060100, 64, 16, 8⟩
def TLP_LANE_STATUS_FAULT_NOW : Field := ⟨0x060100, 64, 8, 4⟩
def TLP_LANE_STATUS_TX_REDUCED : Field := ⟨0x060100, 64, 4, 1⟩
def TLP_LANE_STATUS_STATE : Field := ⟨0x060100, 64, 0, 4⟩
-- TLP_FAULT, R108
def TLP_FAULT_FAULT_LATCH : Field := ⟨0x060104, 64, 0, 4⟩
-- TLP_DRVMEAS, R108
def TLP_DRVMEAS_PEAK_MA : Field := ⟨0x060108, 64, 16, 16⟩
def TLP_DRVMEAS_LIMIT_PCT : Field := ⟨0x060108, 64, 8, 8⟩
-- TLP_FAULT_SKIPPED, R108
def TLP_FAULT_SKIPPED : Field := ⟨0x060110, 64, 0, 32⟩
-- TLP_RX_TRUNCATED, R108
def TLP_RX_TRUNCATED : Field := ⟨0x060114, 64, 0, 32⟩
-- TLP_RX_RS_FAIL, R108
def TLP_RX_RS_FAIL : Field := ⟨0x060118, 64, 0, 32⟩
-- TLP_AIRTIME_HOUR, R108
def TLP_AIRTIME_HOUR : Field := ⟨0x06011C, 64, 0, 32⟩
-- TLP_PE_CTRL, R154
def TLP_PE_CTRL_PREV_WINDOW : Field := ⟨0x061000, 0, 16, 16⟩
def TLP_PE_CTRL_EVT28_EN : Field := ⟨0x061000, 0, 1, 1⟩
def TLP_PE_CTRL_EVT27_EN : Field := ⟨0x061000, 0, 0, 1⟩
-- TLP_PE_SILENT, R154
def TLP_PE_SILENT_SILENT_COURSES : Field := ⟨0x061004, 0, 0, 16⟩
-- TLP_PE_STATUS, R154
def TLP_PE_STATUS_QUIET_NOW : Field := ⟨0x061008, 0, 24, 8⟩
def TLP_PE_STATUS_REJOIN_NOW : Field := ⟨0x061008, 0, 16, 1⟩
def TLP_PE_STATUS_KEY_STATE : Field := ⟨0x061008, 0, 14, 2⟩
def TLP_PE_STATUS_JOIN_QUEUE : Field := ⟨0x061008, 0, 0, 9⟩
-- PE_CNT, R154
def PE_CNT : Field := ⟨0x061100, 4, 0, 32⟩
-- GUT_CTRL, R185
def GUT_CTRL_EVT15_EN : Field := ⟨0x070000, 0, 0, 1⟩
-- GUT_STATUS, R185
def GUT_STATUS_MARKED : Field := ⟨0x070100, 16, 16, 1⟩
def GUT_STATUS_PACKETS : Field := ⟨0x070100, 16, 8, 8⟩
def GUT_STATUS_FILL : Field := ⟨0x070100, 16, 0, 8⟩
-- GUT_PACKETS_IN, R185
def GUT_PACKETS_IN : Field := ⟨0x070104, 16, 0, 32⟩
-- GUT_OVERFLOW, R185
def GUT_OVERFLOW : Field := ⟨0x070108, 16, 0, 32⟩
-- GUT_POISON, R185
def GUT_POISON : Field := ⟨0x07010C, 16, 0, 32⟩
-- CTX_CTRL, R185
def CTX_CTRL_EVT23_EN : Field := ⟨0x071000, 0, 0, 1⟩
-- CTX_COAL, R185
def CTX_COAL_LOW_PCT : Field := ⟨0x071010, 4, 16, 8⟩
def CTX_COAL_HIGH_PCT : Field := ⟨0x071010, 4, 8, 8⟩
def CTX_COAL_STATE : Field := ⟨0x071010, 4, 0, 2⟩
-- CTX_PEND, R185
def CTX_PEND_PENDING : Field := ⟨0x071020, 4, 0, 14⟩
-- CTX_ELIDED, R185
def CTX_ELIDED : Field := ⟨0x071030, 4, 0, 32⟩
-- CTX_WIN_SEL, R185
def CTX_WIN_SEL_INDEX : Field := ⟨0x071040, 0, 0, 13⟩
-- CTX_ZONE_SEL, R185
def CTX_ZONE_SEL_ZONE : Field := ⟨0x071044, 0, 0, 9⟩
-- CTX_MODEL0, R185
def CTX_MODEL0_NOW_LO : Field := ⟨0x071100, 16, 0, 32⟩
-- CTX_MODEL1, R185
def CTX_MODEL1_LIT_COUNT : Field := ⟨0x071104, 16, 16, 14⟩
def CTX_MODEL1_NOW_HI : Field := ⟨0x071104, 16, 0, 16⟩
-- CTX_MODEL2, R185
def CTX_MODEL2_TGT_LO : Field := ⟨0x071108, 16, 0, 32⟩
-- CTX_MODEL3, R185
def CTX_MODEL3_TGT_HI : Field := ⟨0x07110C, 16, 0, 16⟩
-- CTX_WIN, R185
def CTX_WIN : Field := ⟨0x072000, 4, 0, 32⟩
-- ZONE_WIN, R185
def ZONE_WIN : Field := ⟨0x072100, 4, 0, 32⟩
-- WAV_CTRL, R212
def WAV_CTRL_MAX_AGE : Field := ⟨0x080000, 0, 24, 8⟩
def WAV_CTRL_CONF_MIN : Field := ⟨0x080000, 0, 16, 8⟩
def WAV_CTRL_EVT32_EN : Field := ⟨0x080000, 0, 2, 1⟩
def WAV_CTRL_EVT31_EN : Field := ⟨0x080000, 0, 1, 1⟩
def WAV_CTRL_ENABLE : Field := ⟨0x080000, 0, 0, 1⟩
-- WAV_PAIR, R212
def WAV_PAIR_PAIR_LEAD : Field := ⟨0x080004, 0, 0, 10⟩
-- WAV_STATUS, R212
def WAV_STATUS_HIGH_WATER : Field := ⟨0x080008, 0, 16, 9⟩
def WAV_STATUS_ACTIVE : Field := ⟨0x080008, 0, 0, 9⟩
-- WAV_LATENCY, R212
def WAV_LATENCY_CLEAR : Field := ⟨0x08000C, 0, 31, 1⟩
def WAV_LATENCY_MAX : Field := ⟨0x08000C, 0, 8, 8⟩
def WAV_LATENCY_LAST : Field := ⟨0x08000C, 0, 0, 8⟩
-- WAV_TABLE, R212
def WAV_TABLE_ENTRIES : Field := ⟨0x080010, 0, 0, 15⟩
-- WAV_STORE, R212
def WAV_STORE_PENDING : Field := ⟨0x080014, 0, 0, 15⟩
-- WAV_CTX_SEL, R212
def WAV_CTX_SEL_WAVE_ID : Field := ⟨0x080020, 0, 0, 8⟩
-- WAV_WIN, R212
def WAV_WIN : Field := ⟨0x080100, 4, 0, 32⟩
-- WAV_CNT, R212
def WAV_CNT : Field := ⟨0x080200, 4, 0, 32⟩
-- PUR_CTRL, R253
def PUR_CTRL_EVT36_EN : Field := ⟨0x090000, 0, 4, 1⟩
def PUR_CTRL_EVT35_EN : Field := ⟨0x090000, 0, 3, 1⟩
def PUR_CTRL_EVT34_EN : Field := ⟨0x090000, 0, 2, 1⟩
def PUR_CTRL_EVT33_EN : Field := ⟨0x090000, 0, 1, 1⟩
def PUR_CTRL_ENABLE : Field := ⟨0x090000, 0, 0, 1⟩
-- PUR_STATUS, R253
def PUR_STATUS_FROZEN : Field := ⟨0x090004, 0, 16, 16⟩
def PUR_STATUS_RUNNING : Field := ⟨0x090004, 0, 0, 16⟩
-- PUR_SRC, R253
def PUR_SRC_FAULT : Field := ⟨0x090010, 4, 31, 1⟩
def PUR_SRC_RAW : Field := ⟨0x090010, 4, 0, 16⟩
-- PUR_STG_SEL, R253
def PUR_STG_SEL_LOOP : Field := ⟨0x090020, 0, 3, 4⟩
def PUR_STG_SEL_STAGE : Field := ⟨0x090020, 0, 0, 3⟩
-- PUR_FEEDER0, R253
def PUR_FEEDER0_RESID : Field := ⟨0x090040, 16, 0, 32⟩
-- PUR_FEEDER1, R253
def PUR_FEEDER1_MEDIAN : Field := ⟨0x090044, 16, 16, 16⟩
def PUR_FEEDER1_LAMPS_OUT : Field := ⟨0x090044, 16, 0, 14⟩
-- PUR_STG_WIN, R253
def PUR_STG_WIN : Field := ⟨0x090080, 4, 0, 32⟩
-- PUR_LOOP_CTRL, R253
def PUR_LOOP_CTRL_RELEASE : Field := ⟨0x090100, 64, 0, 1⟩
-- PUR_LOOP_STATUS, R253
def PUR_LOOP_STATUS_SAT_NUM : Field := ⟨0x090104, 64, 12, 1⟩
def PUR_LOOP_STATUS_SRC_FAULT : Field := ⟨0x090104, 64, 11, 1⟩
def PUR_LOOP_STATUS_SP_FAST : Field := ⟨0x090104, 64, 10, 1⟩
def PUR_LOOP_STATUS_CAP_UNREACH : Field := ⟨0x090104, 64, 9, 1⟩
def PUR_LOOP_STATUS_FB_INVALID : Field := ⟨0x090104, 64, 8, 1⟩
def PUR_LOOP_STATUS_CAUSE : Field := ⟨0x090104, 64, 4, 4⟩
def PUR_LOOP_STATUS_STATE : Field := ⟨0x090104, 64, 0, 4⟩
-- PUR_OUT, R253
def PUR_OUT : Field := ⟨0x090108, 64, 0, 32⟩
-- PUR_SP, R253
def PUR_SP : Field := ⟨0x09010C, 64, 0, 32⟩
-- PUR_FB, R253
def PUR_FB : Field := ⟨0x090110, 64, 0, 32⟩
-- PUR_RESIDUAL, R253
def PUR_RESIDUAL : Field := ⟨0x090114, 64, 0, 32⟩
-- PUR_DEST_VAL, R253
def PUR_DEST_VAL : Field := ⟨0x090118, 64, 0, 16⟩
-- PUR_SAMPLES, R253
def PUR_SAMPLES : Field := ⟨0x09011C, 64, 0, 32⟩
-- PUR_HELD_SAMPLES, R253
def PUR_HELD_SAMPLES : Field := ⟨0x090120, 64, 0, 32⟩
-- PUR_SAT_COUNT, R253
def PUR_SAT_COUNT : Field := ⟨0x090124, 64, 0, 32⟩
-- PUR_HOST_SP, R253
def PUR_HOST_SP : Field := ⟨0x090128, 64, 0, 32⟩
-- PUR_GROUP, R253
def PUR_GROUP_LIT_G : Field := ⟨0x090600, 4, 16, 14⟩
def PUR_GROUP_FLOOR_HELD : Field := ⟨0x090600, 4, 0, 14⟩
-- PUR_SCALE, R253
def PUR_SCALE_SCALE : Field := ⟨0x090640, 4, 0, 13⟩
-- DMR_ID, R283
def DMR_ID_ROM_ID : Field := ⟨0x0A0000, 0, 16, 16⟩
def DMR_ID_INFO_VALID : Field := ⟨0x0A0000, 0, 8, 1⟩
def DMR_ID_APPROVED : Field := ⟨0x0A0000, 0, 0, 1⟩
-- DMR_EVT_EN, R283
def DMR_EVT_EN_EVT40_EN : Field := ⟨0x0A0004, 0, 3, 1⟩
def DMR_EVT_EN_EVT39_EN : Field := ⟨0x0A0004, 0, 2, 1⟩
def DMR_EVT_EN_EVT38_EN : Field := ⟨0x0A0004, 0, 1, 1⟩
def DMR_EVT_EN_EVT37_EN : Field := ⟨0x0A0004, 0, 0, 1⟩
-- DMR_LINK, R283
def DMR_LINK_LINK_UP : Field := ⟨0x0A0008, 0, 31, 1⟩
def DMR_LINK_TFLAGS : Field := ⟨0x0A0008, 0, 24, 3⟩
def DMR_LINK_SETTLING : Field := ⟨0x0A0008, 0, 16, 1⟩
def DMR_LINK_LAST_SEQ : Field := ⟨0x0A0008, 0, 0, 16⟩
-- DMR_ALARM, R283
def DMR_ALARM_OPEN_CT : Field := ⟨0x0A000C, 0, 16, 16⟩
def DMR_ALARM_AT_REST : Field := ⟨0x0A000C, 0, 12, 4⟩
def DMR_ALARM_MISSING_N : Field := ⟨0x0A000C, 0, 11, 1⟩
def DMR_ALARM_PSEQ_WRONG : Field := ⟨0x0A000C, 0, 10, 1⟩
def DMR_ALARM_PSEQ_UNDET : Field := ⟨0x0A000C, 0, 9, 1⟩
def DMR_ALARM_FREQ_INVALID : Field := ⟨0x0A000C, 0, 8, 1⟩
def DMR_ALARM_SWELL : Field := ⟨0x0A000C, 0, 4, 3⟩
def DMR_ALARM_SAG : Field := ⟨0x0A000C, 0, 0, 3⟩
-- DMR_PHASE, R283
def DMR_PHASE_NOLOAD : Field := ⟨0x0A0010, 0, 16, 16⟩
def DMR_PHASE_REVERSE : Field := ⟨0x0A0010, 0, 0, 16⟩
-- DMR_ALARM_LATCH, R283
def DMR_ALARM_LATCH_OPEN_CT : Field := ⟨0x0A0014, 0, 16, 16⟩
def DMR_ALARM_LATCH_MISSING_N : Field := ⟨0x0A0014, 0, 11, 1⟩
def DMR_ALARM_LATCH_PSEQ_WRONG : Field := ⟨0x0A0014, 0, 10, 1⟩
def DMR_ALARM_LATCH_SWELL : Field := ⟨0x0A0014, 0, 4, 3⟩
def DMR_ALARM_LATCH_SAG : Field := ⟨0x0A0014, 0, 0, 3⟩
-- DMR_CNT, R283
def DMR_CNT : Field := ⟨0x0A0020, 4, 0, 32⟩
-- DMR_SNAP_WIN, R283
def DMR_SNAP_WIN : Field := ⟨0x0A0100, 4, 0, 32⟩
-- DMR_INFO_WIN, R283
def DMR_INFO_WIN : Field := ⟨0x0A0400, 4, 0, 32⟩
-- DMR_TOT_WIN, R321
def DMR_TOT_WIN : Field := ⟨0x0A0600, 4, 0, 32⟩
-- DMR_LEGACY_WIN, R321
def DMR_LEGACY_WIN : Field := ⟨0x0A0700, 4, 0, 32⟩
-- DMR_TOT_STEP, R321
def DMR_TOT_STEP_STEP_LO : Field := ⟨0x0A0780, 0, 0, 32⟩
-- DMR_TOT_STEP_HI, R321
def DMR_TOT_STEP_HI_STEP_HI : Field := ⟨0x0A0784, 0, 0, 16⟩
-- DMR_IVL_WIN, R321
def DMR_IVL_WIN : Field := ⟨0x0A0800, 4, 0, 32⟩
-- DMR_RUN_WIN, R321
def DMR_RUN_WIN : Field := ⟨0x0A0880, 4, 0, 32⟩
-- DMR_SEAL, R321
def DMR_SEAL_NEXT_SEQ : Field := ⟨0x0A0900, 0, 16, 16⟩
def DMR_SEAL_RESULT : Field := ⟨0x0A0900, 0, 8, 8⟩
def DMR_SEAL_SESSION : Field := ⟨0x0A0900, 0, 6, 2⟩
def DMR_SEAL_SEAL_STATE : Field := ⟨0x0A0900, 0, 4, 2⟩
def DMR_SEAL_METER_FAULT : Field := ⟨0x0A0900, 0, 3, 1⟩
def DMR_SEAL_GATE_OPEN : Field := ⟨0x0A0900, 0, 2, 1⟩
def DMR_SEAL_SWITCH : Field := ⟨0x0A0900, 0, 1, 1⟩
def DMR_SEAL_LID_OPEN : Field := ⟨0x0A0900, 0, 0, 1⟩
-- DMR_SEAL_NONCE, R321
def DMR_SEAL_NONCE : Field := ⟨0x0A0908, 4, 0, 32⟩
-- DMR_SEAL_CNT, R321
def DMR_SEAL_CNT : Field := ⟨0x0A0910, 4, 0, 32⟩
-- DMR_SEAL_EVT, R321
def DMR_SEAL_EVT_EVT41_EN : Field := ⟨0x0A0918, 0, 1, 1⟩
def DMR_SEAL_EVT_EVT7_EN : Field := ⟨0x0A0918, 0, 0, 1⟩
-- DMR_PULSE, R321
def DMR_PULSE_OVF : Field := ⟨0x0A0920, 4, 19, 1⟩
def DMR_PULSE_SOURCE : Field := ⟨0x0A0920, 4, 16, 2⟩
def DMR_PULSE_PENDING : Field := ⟨0x0A0920, 4, 0, 16⟩
-- DMR_PULSE_CONST, R321
def DMR_PULSE_CONST_CONST : Field := ⟨0x0A0930, 4, 0, 17⟩
-- EAV_CTRL, R341
def EAV_CTRL_GAMMA_DEFAULT : Field := ⟨0x0B0000, 0, 3, 1⟩
def EAV_CTRL_SAFE_FORCE : Field := ⟨0x0B0000, 0, 2, 1⟩
def EAV_CTRL_EVT43_EN : Field := ⟨0x0B0000, 0, 1, 1⟩
def EAV_CTRL_EVT42_EN : Field := ⟨0x0B0000, 0, 0, 1⟩
-- EAV_STATUS, R341
def EAV_STATUS_MAP_BAD : Field := ⟨0x0B0004, 0, 16, 1⟩
def EAV_STATUS_SAFE : Field := ⟨0x0B0004, 0, 0, 16⟩
-- CH_CFG, R341
def CH_CFG_ENABLE : Field := ⟨0x0B0100, 32, 31, 1⟩
def CH_CFG_FLT_OFF : Field := ⟨0x0B0100, 32, 30, 1⟩
def CH_CFG_NTC : Field := ⟨0x0B0100, 32, 27, 3⟩
def CH_CFG_TC_EN : Field := ⟨0x0B0100, 32, 26, 1⟩
def CH_CFG_BITS : Field := ⟨0x0B0100, 32, 16, 5⟩
def CH_CFG_SAFE : Field := ⟨0x0B0100, 32, 0, 12⟩
-- CH_GOV, R341
def CH_GOV_RISE : Field := ⟨0x0B0104, 32, 16, 16⟩
def CH_GOV_FALL : Field := ⟨0x0B0104, 32, 0, 16⟩
-- CH_DWELL, R341
def CH_DWELL_DWELL : Field := ⟨0x0B0108, 32, 0, 16⟩
-- CH_TC, R341
def CH_TC_COEF : Field := ⟨0x0B010C, 32, 22, 10⟩
def CH_TC_T_REF : Field := ⟨0x0B010C, 32, 0, 8⟩
-- CH_TCLIM, R341
def CH_TCLIM_KMAX : Field := ⟨0x0B0110, 32, 16, 16⟩
def CH_TCLIM_KMIN : Field := ⟨0x0B0110, 32, 0, 16⟩
-- CH_STATUS, R341
def CH_STATUS_GOV_FAST : Field := ⟨0x0B0114, 32, 31, 1⟩
def CH_STATUS_OUT : Field := ⟨0x0B0114, 32, 16, 12⟩
def CH_STATUS_SRC : Field := ⟨0x0B0114, 32, 14, 2⟩
def CH_STATUS_TARGET : Field := ⟨0x0B0114, 32, 0, 12⟩
-- CH_DUTY, R341
def CH_DUTY_K : Field := ⟨0x0B0118, 32, 16, 16⟩
def CH_DUTY_DUTY : Field := ⟨0x0B0118, 32, 0, 16⟩
-- CH_FAULT, R341
def CH_FAULT_LIVE : Field := ⟨0x0B011C, 32, 8, 6⟩
def CH_FAULT_LATCH : Field := ⟨0x0B011C, 32, 0, 6⟩
-- LUM_CFG, R341
def LUM_CFG_MODE : Field := ⟨0x0B0400, 32, 30, 2⟩
def LUM_CFG_COUNT : Field := ⟨0x0B0400, 32, 28, 2⟩
def LUM_CFG_FIRST : Field := ⟨0x0B0400, 32, 24, 4⟩
def LUM_CFG_GROUP : Field := ⟨0x0B0400, 32, 16, 8⟩
def LUM_CFG_GAIN : Field := ⟨0x0B0400, 32, 0, 13⟩
-- LUM_LIM, R341
def LUM_LIM_LMAX : Field := ⟨0x0B0404, 32, 16, 12⟩
def LUM_LIM_LMIN : Field := ⟨0x0B0404, 32, 0, 12⟩
-- LUM_CCT, R341
def LUM_CCT_CCT : Field := ⟨0x0B0408, 32, 24, 8⟩
def LUM_CCT_WARM : Field := ⟨0x0B0408, 32, 16, 8⟩
def LUM_CCT_COOL : Field := ⟨0x0B0408, 32, 8, 8⟩
def LUM_CCT_CCT_OFFSET : Field := ⟨0x0B0408, 32, 0, 8⟩
-- LUM_RATIO_A, R341
def LUM_RATIO_A_RATIO1 : Field := ⟨0x0B040C, 32, 16, 13⟩
def LUM_RATIO_A_RATIO0 : Field := ⟨0x0B040C, 32, 0, 13⟩
-- LUM_RATIO_B, R341
def LUM_RATIO_B_RATIO3 : Field := ⟨0x0B0410, 32, 16, 13⟩
def LUM_RATIO_B_RATIO2 : Field := ⟨0x0B0410, 32, 0, 13⟩
-- LUM_OVR, R341
def LUM_OVR_OVR : Field := ⟨0x0B0414, 32, 0, 12⟩
-- LUM_STATUS, R341
def LUM_STATUS_C : Field := ⟨0x0B0418, 32, 16, 12⟩
def LUM_STATUS_P : Field := ⟨0x0B0418, 32, 0, 12⟩
-- NTC_CFG, R341
def NTC_CFG_B : Field := ⟨0x0B0600, 4, 16, 16⟩
def NTC_CFG_R25 : Field := ⟨0x0B0600, 4, 0, 16⟩
-- NTC_TEMP, R341
def NTC_TEMP_FAULT : Field := ⟨0x0B0640, 4, 31, 1⟩
def NTC_TEMP_T : Field := ⟨0x0B0640, 4, 0, 16⟩
-- GAMMA, R341
def GAMMA_D_ODD : Field := ⟨0x0B1000, 4, 16, 16⟩
def GAMMA_D_EVEN : Field := ⟨0x0B1000, 4, 0, 16⟩
-- GBL_CTRL, R342
def GBL_CTRL_ENABLE : Field := ⟨0x0C0000, 0, 31, 1⟩
def GBL_CTRL_EVT45_EN : Field := ⟨0x0C0000, 0, 2, 1⟩
def GBL_CTRL_EVT44_EN : Field := ⟨0x0C0000, 0, 1, 1⟩
def GBL_CTRL_REARM : Field := ⟨0x0C0000, 0, 0, 1⟩
-- GBL_GEOM, R342
def GBL_GEOM_RATE : Field := ⟨0x0C0004, 0, 16, 9⟩
def GBL_GEOM_LINES : Field := ⟨0x0C0004, 0, 8, 6⟩
def GBL_GEOM_DRIVERS_M1 : Field := ⟨0x0C0004, 0, 4, 4⟩
def GBL_GEOM_PRECHARGE : Field := ⟨0x0C0004, 0, 0, 4⟩
-- GBL_SHOW, R342
def GBL_SHOW_SHOW : Field := ⟨0x0C0008, 0, 31, 1⟩
def GBL_SHOW_LEGEND : Field := ⟨0x0C0008, 0, 0, 4⟩
-- GBL_POLICY, R342
def GBL_POLICY_REPORT_ONLY : Field := ⟨0x0C000C, 0, 0, 16⟩
-- GBL_LUM, R342
def GBL_LUM_GROUP : Field := ⟨0x0C0010, 0, 24, 8⟩
def GBL_LUM_SAFE : Field := ⟨0x0C0010, 0, 0, 12⟩
-- GBL_GOV, R342
def GBL_GOV_RISE : Field := ⟨0x0C0014, 0, 16, 16⟩
def GBL_GOV_FALL : Field := ⟨0x0C0014, 0, 0, 16⟩
-- GBL_STATUS, R342
def GBL_STATUS_INTEGRITY_BLANK : Field := ⟨0x0C0018, 0, 31, 1⟩
def GBL_STATUS_GEOM_REFUSED : Field := ⟨0x0C0018, 0, 30, 1⟩
def GBL_STATUS_SRC : Field := ⟨0x0C0018, 0, 28, 2⟩
def GBL_STATUS_LUM_NOW : Field := ⟨0x0C0018, 0, 16, 12⟩
def GBL_STATUS_LEGEND_VALID : Field := ⟨0x0C0018, 0, 0, 16⟩
-- GBL_FAULT, R342
def GBL_FAULT_LIVE : Field := ⟨0x0C001C, 0, 8, 6⟩
def GBL_FAULT_LATCH : Field := ⟨0x0C001C, 0, 0, 6⟩
-- GBL_FIRST, R342
def GBL_FIRST_VALID : Field := ⟨0x0C0020, 0, 31, 1⟩
def GBL_FIRST_LINE : Field := ⟨0x0C0020, 0, 16, 6⟩
def GBL_FIRST_COLUMN : Field := ⟨0x0C0020, 0, 8, 8⟩
def GBL_FIRST_KIND : Field := ⟨0x0C0020, 0, 0, 2⟩
-- GBL_LINEFLT_LO, R342
def GBL_LINEFLT_LO : Field := ⟨0x0C0024, 0, 0, 32⟩
-- GBL_LINEFLT_HI, R342
def GBL_LINEFLT_HI : Field := ⟨0x0C0028, 0, 0, 16⟩
-- GBL_FMAP_SEL, R342
def GBL_FMAP_SEL_LINE : Field := ⟨0x0C0030, 0, 0, 6⟩
-- GBL_FMAP_WIN, R342
def GBL_FMAP_WIN : Field := ⟨0x0C0100, 4, 0, 32⟩
-- RDG_CTRL, R411
def RDG_CTRL_EVT48_EN : Field := ⟨0x0D0000, 0, 2, 1⟩
def RDG_CTRL_EVT47_EN : Field := ⟨0x0D0000, 0, 1, 1⟩
def RDG_CTRL_EVT46_EN : Field := ⟨0x0D0000, 0, 0, 1⟩
-- RDG_ADDR, R411
def RDG_ADDR_PROVISIONAL : Field := ⟨0x0D0004, 0, 31, 1⟩
def RDG_ADDR_IN_USE : Field := ⟨0x0D0004, 0, 16, 12⟩
def RDG_ADDR_ADDR : Field := ⟨0x0D0004, 0, 0, 12⟩
-- RDG_BOOT, R411
def RDG_BOOT_BOOT : Field := ⟨0x0D0008, 0, 0, 16⟩
-- RDG_QCFG, R411
def RDG_QCFG_BULK_MAX : Field := ⟨0x0D000C, 0, 0, 8⟩
-- RDG_RT_SEL, R411
def RDG_RT_SEL_ADDR : Field := ⟨0x0D0010, 0, 0, 12⟩
-- RDG_RT, R411
def RDG_RT : Field := ⟨0x0D0014, 0, 0, 32⟩
-- RDG_PORT_CFG, R411
def RDG_PORT_CFG_LOS_EN : Field := ⟨0x0D0100, 64, 2, 1⟩
def RDG_PORT_CFG_MODE : Field := ⟨0x0D0100, 64, 0, 2⟩
-- RDG_PORT_STATUS, R411
def RDG_PORT_STATUS_LINK : Field := ⟨0x0D0104, 64, 31, 1⟩
def RDG_PORT_STATUS_STATE : Field := ⟨0x0D0104, 64, 28, 3⟩
def RDG_PORT_STATUS_SPEED_REFUSED : Field := ⟨0x0D0104, 64, 27, 1⟩
def RDG_PORT_STATUS_DROPPING : Field := ⟨0x0D0104, 64, 26, 1⟩
def RDG_PORT_STATUS_HEARD_PORT : Field := ⟨0x0D0104, 64, 24, 2⟩
def RDG_PORT_STATUS_PLANNED : Field := ⟨0x0D0104, 64, 12, 12⟩
def RDG_PORT_STATUS_HEARD : Field := ⟨0x0D0104, 64, 0, 12⟩
-- RDG_PORT_EUI_LO, R411
def RDG_PORT_EUI_LO : Field := ⟨0x0D0108, 64, 0, 32⟩
-- RDG_PORT_EUI_HI, R411
def RDG_PORT_EUI_HI : Field := ⟨0x0D010C, 64, 0, 32⟩
-- RDG_PORT_QUEUE, R411
def RDG_PORT_QUEUE_BULK : Field := ⟨0x0D0110, 64, 16, 9⟩
def RDG_PORT_QUEUE_FILL : Field := ⟨0x0D0110, 64, 0, 9⟩
-- RDG_TX_FRAMES, R411
def RDG_TX_FRAMES : Field := ⟨0x0D0114, 64, 0, 32⟩
-- RDG_RX_FRAMES, R411
def RDG_RX_FRAMES : Field := ⟨0x0D0118, 64, 0, 32⟩
-- RDG_RX_FCS_FAIL, R411
def RDG_RX_FCS_FAIL : Field := ⟨0x0D011C, 64, 0, 32⟩
-- RDG_DROP_REPORT, R411
def RDG_DROP_REPORT : Field := ⟨0x0D0120, 64, 0, 32⟩
-- RDG_DROP_BULK, R411
def RDG_DROP_BULK : Field := ⟨0x0D0124, 64, 0, 32⟩
-- RDG_RESERVED_FULL, R411
def RDG_RESERVED_FULL : Field := ⟨0x0D0128, 64, 0, 32⟩
-- RDG_HELLO_TX, R411
def RDG_HELLO_TX : Field := ⟨0x0D012C, 64, 0, 32⟩
-- RDG_HELLO_RX, R411
def RDG_HELLO_RX : Field := ⟨0x0D0130, 64, 0, 32⟩
-- RDG_CNT, R411
def RDG_CNT : Field := ⟨0x0D0200, 4, 0, 32⟩
-- RED_CTRL, R436
def RED_CTRL_REVERT_EN : Field := ⟨0x0E0000, 0, 4, 1⟩
def RED_CTRL_SWAP_EN : Field := ⟨0x0E0000, 0, 3, 1⟩
def RED_CTRL_EVT51_EN : Field := ⟨0x0E0000, 0, 2, 1⟩
def RED_CTRL_EVT50_EN : Field := ⟨0x0E0000, 0, 1, 1⟩
def RED_CTRL_EVT49_EN : Field := ⟨0x0E0000, 0, 0, 1⟩
-- RED_CFG, R436
def RED_CFG_SWAP_PERIOD : Field := ⟨0x0E0004, 0, 16, 10⟩
def RED_CFG_LOSS_MS : Field := ⟨0x0E0004, 0, 8, 8⟩
-- RED_HOLDOFF, R436
def RED_HOLDOFF_HOLDOFF : Field := ⟨0x0E0008, 0, 0, 12⟩
-- RED_STATUS, R436
def RED_STATUS_PAIRED : Field := ⟨0x0E000C, 0, 31, 1⟩
def RED_STATUS_SEAT : Field := ⟨0x0E000C, 0, 30, 1⟩
def RED_STATUS_ACTIVE : Field := ⟨0x0E000C, 0, 29, 1⟩
def RED_STATUS_MUTED : Field := ⟨0x0E000C, 0, 28, 1⟩
def RED_STATUS_IN_SYNC : Field := ⟨0x0E000C, 0, 27, 1⟩
def RED_STATUS_PARTNER_UP : Field := ⟨0x0E000C, 0, 26, 1⟩
def RED_STATUS_RESYNC_FAIL : Field := ⟨0x0E000C, 0, 25, 1⟩
def RED_STATUS_SPLIT : Field := ⟨0x0E000C, 0, 24, 1⟩
def RED_STATUS_CAUSE : Field := ⟨0x0E000C, 0, 20, 4⟩
def RED_STATUS_PARTNER : Field := ⟨0x0E000C, 0, 0, 12⟩
-- RED_DIFF, R436
def RED_DIFF_DIFF : Field := ⟨0x0E0010, 0, 0, 7⟩
-- RED_SWAP_AT_LO, R436
def RED_SWAP_AT_LO : Field := ⟨0x0E0014, 0, 0, 32⟩
-- RED_SWAP_AT_HI, R436
def RED_SWAP_AT_HI : Field := ⟨0x0E0018, 0, 0, 16⟩
-- RED_CNT, R436
def RED_CNT : Field := ⟨0x0E0100, 4, 0, 32⟩
-- RTC_CTRL, R464
def RTC_CTRL_COMMIT : Field := ⟨0x0F0000, 0, 7, 1⟩
def RTC_CTRL_SYNC_EN : Field := ⟨0x0F0000, 0, 6, 1⟩
def RTC_CTRL_EVT55_EN : Field := ⟨0x0F0000, 0, 3, 1⟩
def RTC_CTRL_EVT54_EN : Field := ⟨0x0F0000, 0, 2, 1⟩
def RTC_CTRL_EVT53_EN : Field := ⟨0x0F0000, 0, 1, 1⟩
def RTC_CTRL_EVT52_EN : Field := ⟨0x0F0000, 0, 0, 1⟩
-- RTC_TIME, R464
def RTC_TIME_HOUR : Field := ⟨0x0F0004, 0, 16, 6⟩
def RTC_TIME_MINUTE : Field := ⟨0x0F0004, 0, 8, 7⟩
def RTC_TIME_SECOND : Field := ⟨0x0F0004, 0, 0, 7⟩
-- RTC_DATE, R464
def RTC_DATE_YEAR : Field := ⟨0x0F0008, 0, 16, 16⟩
def RTC_DATE_WEEKDAY : Field := ⟨0x0F0008, 0, 13, 3⟩
def RTC_DATE_MONTH : Field := ⟨0x0F0008, 0, 8, 5⟩
def RTC_DATE_DAY : Field := ⟨0x0F0008, 0, 0, 6⟩
-- RTC_SUBSEC, R464
def RTC_SUBSEC_CYCLES : Field := ⟨0x0F000C, 0, 0, 15⟩
-- RTC_SET_TIME, R464
def RTC_SET_TIME_HOUR : Field := ⟨0x0F0010, 0, 16, 6⟩
def RTC_SET_TIME_MINUTE : Field := ⟨0x0F0010, 0, 8, 7⟩
def RTC_SET_TIME_SECOND : Field := ⟨0x0F0010, 0, 0, 7⟩
-- RTC_SET_DATE, R464
def RTC_SET_DATE_YEAR : Field := ⟨0x0F0014, 0, 16, 16⟩
def RTC_SET_DATE_MONTH : Field := ⟨0x0F0014, 0, 8, 5⟩
def RTC_SET_DATE_DAY : Field := ⟨0x0F0014, 0, 0, 6⟩
-- RTC_STATUS, R464
def RTC_STATUS_VALID : Field := ⟨0x0F0018, 0, 31, 1⟩
def RTC_STATUS_CENTURY_WRAP : Field := ⟨0x0F0018, 0, 30, 1⟩
def RTC_STATUS_DATE_REJECT : Field := ⟨0x0F0018, 0, 29, 1⟩
def RTC_STATUS_SYNC_STEP : Field := ⟨0x0F0018, 0, 28, 1⟩
def RTC_STATUS_REJECT_CAUSE : Field := ⟨0x0F0018, 0, 24, 4⟩
def RTC_STATUS_ALM_PEND : Field := ⟨0x0F0018, 0, 0, 4⟩
-- RTC_TRIM, R464
def RTC_TRIM_AUTO : Field := ⟨0x0F001C, 0, 31, 1⟩
def RTC_TRIM_TRIM : Field := ⟨0x0F001C, 0, 0, 14⟩
-- RTC_LOCAL, R464
def RTC_LOCAL_OFFSET : Field := ⟨0x0F0020, 0, 0, 8⟩
-- RTC_WAKE, R464
def RTC_WAKE_ENABLE : Field := ⟨0x0F0024, 0, 31, 1⟩
def RTC_WAKE_PERIOD : Field := ⟨0x0F0024, 0, 0, 25⟩
-- RTC_CNTDN, R464
def RTC_CNTDN_RUN : Field := ⟨0x0F0028, 0, 31, 1⟩
def RTC_CNTDN_RELOAD : Field := ⟨0x0F0028, 0, 30, 1⟩
def RTC_CNTDN_UNIT : Field := ⟨0x0F0028, 0, 28, 2⟩
def RTC_CNTDN_PRESET : Field := ⟨0x0F0028, 0, 0, 16⟩
-- RTC_CNTDN_NOW, R464
def RTC_CNTDN_NOW_COUNT : Field := ⟨0x0F002C, 0, 0, 16⟩
-- ALM_CFG, R464
def ALM_CFG_ENABLE : Field := ⟨0x0F0100, 32, 31, 1⟩
def ALM_CFG_DAILY : Field := ⟨0x0F0100, 32, 30, 1⟩
-- ALM_TIME, R464
def ALM_TIME_HOUR : Field := ⟨0x0F0104, 32, 16, 6⟩
def ALM_TIME_MINUTE : Field := ⟨0x0F0104, 32, 8, 7⟩
def ALM_TIME_SECOND : Field := ⟨0x0F0104, 32, 0, 7⟩
-- ALM_DATE, R464
def ALM_DATE_YEAR : Field := ⟨0x0F0108, 32, 16, 16⟩
def ALM_DATE_MONTH : Field := ⟨0x0F0108, 32, 8, 5⟩
def ALM_DATE_DAY : Field := ⟨0x0F0108, 32, 0, 6⟩
-- ALM_STATE, R464
def ALM_STATE_SKIPPED : Field := ⟨0x0F010C, 32, 31, 1⟩
def ALM_STATE_SKIPS : Field := ⟨0x0F010C, 32, 0, 16⟩
-- ALM_FIRED, R464
def ALM_FIRED_YEAR : Field := ⟨0x0F0110, 32, 16, 16⟩
def ALM_FIRED_MONTH : Field := ⟨0x0F0110, 32, 8, 5⟩
def ALM_FIRED_DAY : Field := ⟨0x0F0110, 32, 0, 6⟩
-- PTP_CTRL, R465
def PTP_CTRL_FORCE : Field := ⟨0x100000, 0, 31, 1⟩
def PTP_CTRL_ROLE : Field := ⟨0x100000, 0, 8, 2⟩
def PTP_CTRL_TWO_STEP : Field := ⟨0x100000, 0, 7, 1⟩
def PTP_CTRL_JUMP_FREE : Field := ⟨0x100000, 0, 6, 1⟩
def PTP_CTRL_TSQ_EN : Field := ⟨0x100000, 0, 5, 1⟩
def PTP_CTRL_EVT58_EN : Field := ⟨0x100000, 0, 3, 1⟩
def PTP_CTRL_EVT57_EN : Field := ⟨0x100000, 0, 2, 1⟩
def PTP_CTRL_EVT56_EN : Field := ⟨0x100000, 0, 1, 1⟩
def PTP_CTRL_EVT22_EN : Field := ⟨0x100000, 0, 0, 1⟩
-- PTP_CFG, R465
def PTP_CFG_LOG_SYNC : Field := ⟨0x100004, 0, 28, 4⟩
def PTP_CFG_LOG_ANNOUNCE : Field := ⟨0x100004, 0, 24, 4⟩
def PTP_CFG_PRIORITY2 : Field := ⟨0x100004, 0, 16, 8⟩
def PTP_CFG_PRIORITY1 : Field := ⟨0x100004, 0, 8, 8⟩
def PTP_CFG_DOMAIN : Field := ⟨0x100004, 0, 0, 7⟩
-- PTP_JUMP, R465
def PTP_JUMP_LIMIT : Field := ⟨0x100008, 0, 0, 20⟩
-- PTP_STATUS, R465
def PTP_STATUS_STATE : Field := ⟨0x10000C, 0, 29, 3⟩
def PTP_STATUS_GM_LOCAL : Field := ⟨0x10000C, 0, 28, 1⟩
def PTP_STATUS_REFUSING : Field := ⟨0x10000C, 0, 27, 1⟩
def PTP_STATUS_UTC_VALID : Field := ⟨0x10000C, 0, 26, 1⟩
def PTP_STATUS_LEAP61 : Field := ⟨0x10000C, 0, 25, 1⟩
def PTP_STATUS_LEAP59 : Field := ⟨0x10000C, 0, 24, 1⟩
def PTP_STATUS_UTC_OFFSET : Field := ⟨0x10000C, 0, 16, 8⟩
def PTP_STATUS_JUMP_REFUSED : Field := ⟨0x10000C, 0, 0, 1⟩
-- PTP_SEC_LO, R465
def PTP_SEC_LO : Field := ⟨0x100010, 0, 0, 32⟩
-- PTP_SEC_HI, R465
def PTP_SEC_HI : Field := ⟨0x100014, 0, 0, 16⟩
-- PTP_NS, R465
def PTP_NS : Field := ⟨0x100018, 0, 0, 30⟩
-- PTP_ADDEND, R465
def PTP_ADDEND_ADDEND : Field := ⟨0x10001C, 0, 0, 32⟩
-- PTP_OFFSET, R465
def PTP_OFFSET : Field := ⟨0x100020, 0, 0, 32⟩
-- PTP_GM_LO, R465
def PTP_GM_LO : Field := ⟨0x100024, 0, 0, 32⟩
-- PTP_GM_HI, R465
def PTP_GM_HI : Field := ⟨0x100028, 0, 0, 32⟩
-- PTP_ASYM, R465
def PTP_ASYM : Field := ⟨0x100030, 4, 0, 16⟩
-- PTP_TSQ, R465
def PTP_TSQ_VALID : Field := ⟨0x100040, 0, 31, 1⟩
def PTP_TSQ_PORT : Field := ⟨0x100040, 0, 24, 1⟩
def PTP_TSQ_MSGTYPE : Field := ⟨0x100040, 0, 16, 4⟩
def PTP_TSQ_SEQ_ID : Field := ⟨0x100040, 0, 0, 16⟩
-- PTP_TSQ_NS, R465
def PTP_TSQ_NS : Field := ⟨0x100044, 0, 0, 30⟩
-- PTP_TSQ_SEC, R465
def PTP_TSQ_SEC : Field := ⟨0x100048, 0, 0, 32⟩
-- PTP_TSQ_STAT, R465
def PTP_TSQ_STAT_FILL : Field := ⟨0x10004C, 0, 16, 5⟩
def PTP_TSQ_STAT_OVERFLOWS : Field := ⟨0x10004C, 0, 0, 16⟩
-- TTO_CFG, R465
def TTO_CFG_ARM : Field := ⟨0x100100, 32, 31, 1⟩
def TTO_CFG_PERIODIC : Field := ⟨0x100100, 32, 30, 1⟩
def TTO_CFG_POL : Field := ⟨0x100100, 32, 29, 1⟩
def TTO_CFG_LATE : Field := ⟨0x100100, 32, 28, 1⟩
def TTO_CFG_FIRED : Field := ⟨0x100100, 32, 27, 1⟩
-- TTO_START_LO, R465
def TTO_START_LO : Field := ⟨0x100104, 32, 0, 32⟩
-- TTO_START_HI, R465
def TTO_START_HI : Field := ⟨0x100108, 32, 0, 16⟩
-- TTO_START_NS, R465
def TTO_START_NS : Field := ⟨0x10010C, 32, 0, 30⟩
-- TTO_PERIOD, R465
def TTO_PERIOD : Field := ⟨0x100110, 32, 0, 32⟩
-- TTO_WIDTH, R465
def TTO_WIDTH : Field := ⟨0x100114, 32, 0, 32⟩
-- TTO_MISSED, R465
def TTO_MISSED : Field := ⟨0x100118, 32, 0, 32⟩
-- KEY_CTRL, R485
def KEY_CTRL_EVT9_EN : Field := ⟨0x110000, 0, 1, 1⟩
def KEY_CTRL_EVT8_EN : Field := ⟨0x110000, 0, 0, 1⟩
-- KEY_STATUS, R485
def KEY_STATUS_STATE : Field := ⟨0x110004, 0, 30, 2⟩
def KEY_STATUS_BUSY : Field := ⟨0x110004, 0, 29, 1⟩
def KEY_STATUS_LAST_RESULT : Field := ⟨0x110004, 0, 8, 8⟩
def KEY_STATUS_LOADED : Field := ⟨0x110004, 0, 0, 4⟩
-- KEY_NONCE, R485
def KEY_NONCE : Field := ⟨0x110008, 4, 0, 32⟩
-- KEY_GEN_ROOT, R485
def KEY_GEN_ROOT : Field := ⟨0x110010, 0, 0, 32⟩
-- KEY_GEN_OWN, R485
def KEY_GEN_OWN : Field := ⟨0x110014, 0, 0, 32⟩
-- KEY_CFG, R485
def KEY_CFG_MODE : Field := ⟨0x110018, 0, 0, 1⟩
-- KEY_ID, R485
def KEY_ID : Field := ⟨0x110020, 4, 0, 32⟩
-- KEY_SLOT, R485
def KEY_SLOT : Field := ⟨0x110030, 4, 0, 32⟩
-- TMP_CTRL, R485
def TMP_CTRL_EVT6_EN : Field := ⟨0x111000, 0, 1, 1⟩
def TMP_CTRL_EVT5_EN : Field := ⟨0x111000, 0, 0, 1⟩
-- TMP_IN_CFG, R485
def TMP_IN_CFG_ENABLE : Field := ⟨0x111010, 4, 31, 1⟩
def TMP_IN_CFG_CLASS : Field := ⟨0x111010, 4, 30, 1⟩
def TMP_IN_CFG_POL : Field := ⟨0x111010, 4, 29, 1⟩
def TMP_IN_CFG_DEB : Field := ⟨0x111010, 4, 0, 8⟩
-- TMP_STATUS, R485
def TMP_STATUS_SEAL_LATCH : Field := ⟨0x111020, 0, 13, 1⟩
def TMP_STATUS_MESH_LATCH : Field := ⟨0x111020, 0, 12, 1⟩
def TMP_STATUS_TAMP_LATCH : Field := ⟨0x111020, 0, 8, 4⟩
def TMP_STATUS_SEAL_LIVE : Field := ⟨0x111020, 0, 5, 1⟩
def TMP_STATUS_MESH_LIVE : Field := ⟨0x111020, 0, 4, 1⟩
def TMP_STATUS_TAMP_LIVE : Field := ⟨0x111020, 0, 0, 4⟩
-- CLASS1_COUNT, R485
def CLASS1_COUNT : Field := ⟨0x111030, 0, 0, 32⟩
-- CLASS2_COUNT, R485
def CLASS2_COUNT : Field := ⟨0x111034, 0, 0, 32⟩
-- ZEROISES, R485
def ZEROISES : Field := ⟨0x111038, 0, 0, 32⟩
-- SOF_CTRL, R514
def SOF_CTRL_EVT60_EN : Field := ⟨0x120000, 0, 5, 1⟩
def SOF_CTRL_EVT59_EN : Field := ⟨0x120000, 0, 4, 1⟩
def SOF_CTRL_LIVE : Field := ⟨0x120000, 0, 0, 4⟩
-- SOF_STATUS, R514
def SOF_STATUS_CLOSED : Field := ⟨0x120004, 0, 28, 4⟩
def SOF_STATUS_REPLAY_BUSY : Field := ⟨0x120004, 0, 27, 1⟩
def SOF_STATUS_PRIV_FILL : Field := ⟨0x120004, 0, 16, 9⟩
def SOF_STATUS_PRIV_LOST : Field := ⟨0x120004, 0, 0, 16⟩
-- SOF_RECNO_LO, R514
def SOF_RECNO_LO : Field := ⟨0x120010, 8, 0, 32⟩
-- SOF_RECNO_HI, R514
def SOF_RECNO_HI : Field := ⟨0x120014, 8, 0, 16⟩
-- SOF_REPLAY, R514
def SOF_REPLAY_START : Field := ⟨0x120040, 0, 31, 1⟩
def SOF_REPLAY_STORE : Field := ⟨0x120040, 0, 29, 2⟩
def SOF_REPLAY_AREA : Field := ⟨0x120040, 0, 28, 1⟩
def SOF_REPLAY_FROM : Field := ⟨0x120040, 0, 0, 13⟩
-- SOF_REPLAY_CNT, R514
def SOF_REPLAY_CNT_COUNT : Field := ⟨0x120044, 0, 0, 14⟩
-- SOF_WIN_SEL, R514
def SOF_WIN_SEL_STORE : Field := ⟨0x120050, 0, 14, 2⟩
def SOF_WIN_SEL_AREA : Field := ⟨0x120050, 0, 13, 1⟩
def SOF_WIN_SEL_POS : Field := ⟨0x120050, 0, 0, 13⟩
-- SOF_WIN, R514
def SOF_WIN : Field := ⟨0x120080, 4, 0, 32⟩
-- SOF_RL, R514
def SOF_RL_CODE : Field := ⟨0x120100, 4, 16, 16⟩
def SOF_RL_DEPTH : Field := ⟨0x120100, 4, 8, 8⟩
def SOF_RL_INTERVAL : Field := ⟨0x120100, 4, 0, 8⟩
-- SOF_WRITTEN, R514
def SOF_WRITTEN : Field := ⟨0x120200, 0, 0, 32⟩
-- SOF_SUPPRESSED, R514
def SOF_SUPPRESSED : Field := ⟨0x120204, 0, 0, 32⟩
-- SKY_CTRL, R515
def SKY_CTRL_TRACE_EN : Field := ⟨0x130000, 0, 31, 1⟩
def SKY_CTRL_EVT63_EN : Field := ⟨0x130000, 0, 0, 1⟩
-- SKY_SRC, R515
def SKY_SRC_SRC : Field := ⟨0x130004, 0, 1, 18⟩
-- SKY_LANE, R515
def SKY_LANE_MASK : Field := ⟨0x130008, 0, 0, 8⟩
-- SKY_LANTERN, R515
def SKY_LANTERN_HI : Field := ⟨0x13000C, 0, 16, 13⟩
def SKY_LANTERN_LO : Field := ⟨0x13000C, 0, 0, 13⟩
-- SKY_FILL, R515
def SKY_FILL_FILL : Field := ⟨0x130010, 0, 0, 8⟩
-- SKY_LOST, R515
def SKY_LOST : Field := ⟨0x130014, 0, 0, 32⟩
-- SKY_HIT, R515
def SKY_HIT : Field := ⟨0x130020, 4, 0, 32⟩
-- SKY_CNT_CFG, R515
def SKY_CNT_CFG_ENABLE : Field := ⟨0x131000, 16, 31, 1⟩
def SKY_CNT_CFG_THR_EN : Field := ⟨0x131000, 16, 30, 1⟩
def SKY_CNT_CFG_SOURCE : Field := ⟨0x131000, 16, 16, 8⟩
def SKY_CNT_CFG_QUAL_EN : Field := ⟨0x131000, 16, 15, 1⟩
def SKY_CNT_CFG_QUAL : Field := ⟨0x131000, 16, 0, 13⟩
-- SKY_CNT, R515
def SKY_CNT : Field := ⟨0x131004, 16, 0, 32⟩
-- SKY_CNT_THRESH, R515
def SKY_CNT_THRESH : Field := ⟨0x131008, 16, 0, 32⟩
-- SKY_CNT_CLEAR, R515
def SKY_CNT_CLEAR_CLEAR : Field := ⟨0x13100C, 16, 0, 1⟩
-- UPD_CTRL, R539
def UPD_CTRL_CHAIN_EN : Field := ⟨0x140000, 0, 2, 1⟩
def UPD_CTRL_EVT62_EN : Field := ⟨0x140000, 0, 1, 1⟩
def UPD_CTRL_EVT61_EN : Field := ⟨0x140000, 0, 0, 1⟩
-- UPD_STATUS, R539
def UPD_STATUS_LAST_CAUSE : Field := ⟨0x140004, 0, 24, 8⟩
def UPD_STATUS_CHUNKS_DONE : Field := ⟨0x140004, 0, 9, 9⟩
def UPD_STATUS_NOR_VALID : Field := ⟨0x140004, 0, 8, 1⟩
def UPD_STATUS_SOURCE : Field := ⟨0x140004, 0, 4, 2⟩
def UPD_STATUS_STATE : Field := ⟨0x140004, 0, 0, 4⟩
-- UPD_RUN_VER, R539
def UPD_RUN_VER : Field := ⟨0x140008, 0, 0, 32⟩
-- UPD_STAGED_VER, R539
def UPD_STAGED_VER : Field := ⟨0x14000C, 0, 0, 32⟩
-- UPD_SEC_MIN, R539
def UPD_SEC_MIN : Field := ⟨0x140010, 0, 0, 32⟩
-- UPD_LIMG, R539
def UPD_LIMG : Field := ⟨0x140020, 0, 0, 32⟩
-- UPD_LCOUNT, R539
def UPD_LCOUNT_CONFIRMED : Field := ⟨0x140024, 0, 16, 13⟩
def UPD_LCOUNT_PENDING : Field := ⟨0x140024, 0, 0, 13⟩
-- UPD_LSEL, R539
def UPD_LSEL_INDEX : Field := ⟨0x140028, 0, 0, 13⟩
-- UPD_LPROG, R539
def UPD_LPROG_VALUE : Field := ⟨0x14002C, 0, 0, 3⟩
-- MSIX_ADDR_LO, R591
def MSIX_ADDR_LO : Field := ⟨0x3F0000, 16, 0, 32⟩
-- MSIX_ADDR_HI, R591
def MSIX_ADDR_HI : Field := ⟨0x3F0004, 16, 0, 32⟩
-- MSIX_DATA, R591
def MSIX_DATA : Field := ⟨0x3F0008, 16, 0, 32⟩
-- MSIX_CTRL, R591
def MSIX_CTRL_MASK : Field := ⟨0x3F000C, 16, 0, 1⟩
-- MSIX_PBA, R591
def MSIX_PBA : Field := ⟨0x3F8000, 4, 0, 32⟩

end F

/-- The registers of the block at 0x00_0000. -/
def rows00 : List RegRow :=
  [⟨0x000000, 4, 1, 0x81920000, 0x0, 0x0, 0x0, 0x0, 0x0, 0xFFFF0F0F⟩,
   ⟨0x000004, 4, 1, 0x0, 0x0, 0x0, 0x80000007, 0x0, 0x0, 0x0⟩,
   ⟨0x000010, 4, 2, 0x0, 0x0, 0xFFFFFFFF, 0xFFFFFFFF, 0x0, 0x0, 0x0⟩]

/-- The registers of the block at 0x01_0000. -/
def rows01 : List RegRow :=
  [⟨0x010000, 4, 1, 0x8F, 0xCF, 0x0, 0x0, 0xF, 0xC0, 0x0⟩,
   ⟨0x010004, 4, 1, 0x0, 0x0, 0x0, 0xF7FF07, 0x0, 0x0, 0x0⟩,
   ⟨0x010008, 4, 1, 0x0, 0x0, 0x0, 0xFFFF0003, 0x0, 0x0, 0x0⟩,
   ⟨0x01000C, 4, 1, 0x0, 0x0, 0x0, 0x0, 0x0, 0xFF07, 0x0⟩,
   ⟨0x010010, 4, 1, 0xA, 0xFF, 0x0, 0x0, 0xFF, 0x0, 0x0⟩,
   ⟨0x010014, 4, 1, 0x3C0258, 0xFFF0FFF, 0x0, 0x0, 0x0, 0xFFF0FFF, 0x0⟩,
   ⟨0x010018, 4, 1, 0x0, 0x0, 0x0, 0x7, 0x0, 0x0, 0x0⟩,
   ⟨0x010020, 4, 1, 0x0, 0x0, 0x0, 0xFFFFFFFF, 0x0, 0x0, 0x0⟩,
   ⟨0x010024, 4, 1, 0x0, 0x0, 0x0, 0x1FFFF, 0x0, 0x0, 0x0⟩,
   ⟨0x010030, 4, 1, 0x0, 0xFFF, 0x0, 0x80000FFF, 0x0, 0x0, 0x0⟩,
   ⟨0x010034, 4, 1, 0x0, 0xFFFFFFFF, 0x0, 0xFFFFFFFF, 0x0, 0x0, 0x0⟩,
   ⟨0x010038, 4, 1, 0x0, 0xFFFFFFFF, 0x0, 0xFFFFFFFF, 0x0, 0x0, 0x0⟩,
   ⟨0x010040, 4, 1, 0x0, 0x0, 0x0, 0xFFFFFFFF, 0x0, 0x0, 0x0⟩,
   ⟨0x010044, 4, 1, 0x0, 0x0, 0x0, 0xFFFFFFFF, 0x0, 0x0, 0x0⟩,
   ⟨0x010800, 4, 1, 0x0, 0x0, 0x40000000, 0xE0000000, 0x0, 0x0, 0x0⟩,
   ⟨0x010804, 4, 1, 0x0, 0x0, 0xFF00, 0xFFFF, 0x0, 0x0, 0x0⟩,
   ⟨0x011000, 4, 1, 0x0, 0x0, 0x40000000, 0xC000FFFF, 0x0, 0x0, 0x0⟩,
   ⟨0x011004, 4, 1, 0x0, 0x0, 0x0, 0xFFFFFFFF, 0x0, 0x0, 0x0⟩]

/-- The registers of the block at 0x02_0000. -/
def rows02 : List RegRow :=
  [⟨0x020000, 4, 1, 0x3, 0x3, 0x0, 0x0, 0x3, 0x0, 0x0⟩,
   ⟨0x020100, 32, 32, 0x0, 0xFFFFFFC0, 0x0, 0xFFFFFFC0, 0x0, 0x0, 0x0⟩,
   ⟨0x020104, 32, 32, 0x0, 0xFFFFFFFF, 0x0, 0xFFFFFFFF, 0x0, 0x0, 0x0⟩,
   ⟨0x020108, 32, 32, 0xFF000A04, 0xFFFFFF1F, 0x0, 0xFFFFFF1F, 0x0, 0x0, 0x0⟩,
   ⟨0x02010C, 32, 32, 0x0, 0x1, 0x0, 0x3, 0x0, 0x0, 0x0⟩,
   ⟨0x020110, 32, 32, 0x0, 0x0, 0x0, 0xFC01FFFF, 0x0, 0x0, 0x0⟩,
   ⟨0x020114, 32, 32, 0x0, 0x0, 0x0, 0x1FFFF, 0x0, 0x0, 0x0⟩,
   ⟨0x020118, 32, 32, 0x0, 0x0, 0x0, 0xFFFFFFFF, 0x0, 0x0, 0x0⟩,
   ⟨0x02011C, 32, 32, 0x0, 0x0, 0x0, 0xFFFFFFFF, 0x0, 0x0, 0x0⟩]

/-- The registers of the block at 0x03_0000. -/
def rows03 : List RegRow :=
  [⟨0x030000, 4, 1, 0x7, 0x80000007, 0x0, 0x80000000, 0x7, 0x0, 0x0⟩,
   ⟨0x030004, 4, 1, 0x3E8, 0x1FFF, 0x0, 0x0, 0x1FFF, 0x0, 0x0⟩,
   ⟨0x030008, 4, 1, 0x100, 0xFFFF, 0x0, 0x0, 0xFFFF, 0x0, 0x0⟩,
   ⟨0x030100, 32, 16, 0x0, 0x80000003, 0x0, 0x80000000, 0x3, 0x0, 0x0⟩,
   ⟨0x030104, 32, 16, 0x0, 0x0, 0x0, 0xC03FFFFF, 0x0, 0x0, 0x0⟩,
   ⟨0x030108, 32, 16, 0x0, 0x0, 0x0, 0xFFFFFFFF, 0x0, 0x0, 0x0⟩,
   ⟨0x03010C, 32, 16, 0x0, 0x0, 0x0, 0xFFFFFFFF, 0x0, 0x0, 0x0⟩,
   ⟨0x030110, 32, 16, 0x0, 0x0, 0x0, 0xFFFFFFFF, 0x0, 0x0, 0x0⟩,
   ⟨0x030114, 32, 16, 0x0, 0x0, 0x0, 0xFFFFFFFF, 0x0, 0x0, 0x0⟩]

/-- The registers of the block at 0x04_0000. -/
def rows04 : List RegRow :=
  [⟨0x040000, 4, 1, 0x1, 0x0, 0x0, 0x0, 0x0, 0x0, 0xFFFF⟩,
   ⟨0x040004, 4, 1, 0x3, 0x3, 0x0, 0x0, 0x3, 0x0, 0x0⟩,
   ⟨0x040008, 4, 1, 0x0, 0x0, 0x0, 0xFFFF3F0F, 0x0, 0x0, 0x0⟩,
   ⟨0x04000C, 4, 2, 0x0, 0x0, 0x0, 0x0, 0x0, 0xFFFF000F, 0x0⟩,
   ⟨0x040014, 4, 1, 0x0, 0x0, 0x0, 0x0, 0xFFFFFFFF, 0x0, 0x0⟩,
   ⟨0x040018, 4, 1, 0x0, 0x0, 0x0, 0x0, 0xFFFF, 0x0, 0x0⟩,
   ⟨0x04001C, 4, 1, 0x0, 0x0, 0x0, 0x3F7FFFF, 0x0, 0x0, 0x0⟩,
   ⟨0x040020, 4, 1, 0x0, 0x0, 0x0, 0xFF0F00, 0x0, 0x0, 0x0⟩,
   ⟨0x040024, 4, 1, 0x0, 0x0, 0x0, 0x0, 0x10F0000, 0xFFF, 0x0⟩,
   ⟨0x040028, 4, 1, 0x0, 0x0, 0x1FF, 0x1FF, 0x0, 0x0, 0x0⟩,
   ⟨0x040100, 32, 8, 0x0, 0x0, 0x0, 0xFFFFFFFF, 0x0, 0x0, 0x0⟩,
   ⟨0x040104, 32, 8, 0x0, 0x0, 0x0, 0xFFFFFFFF, 0x0, 0x0, 0x0⟩,
   ⟨0x040108, 32, 8, 0x0, 0x0, 0x0, 0xFFFFFFFF, 0x0, 0x0, 0x0⟩,
   ⟨0x04010C, 32, 8, 0x0, 0x0, 0x0, 0xFFFFFFFF, 0x0, 0x0, 0x0⟩,
   ⟨0x040110, 32, 8, 0x0, 0x0, 0x0, 0xFFFFFFFF, 0x0, 0x0, 0x0⟩,
   ⟨0x040114, 32, 8, 0x0, 0x0, 0x0, 0xFFFFFFFF, 0x0, 0x0, 0x0⟩,
   ⟨0x040118, 32, 8, 0x0, 0x0, 0x0, 0xFFFFFFFF, 0x0, 0x0, 0x0⟩]

/-- The registers of the block at 0x05_0000. -/
def rows05 : List RegRow :=
  [⟨0x050000, 4, 1, 0x1, 0x1, 0x0, 0x0, 0x1, 0x0, 0x0⟩,
   ⟨0x050100, 64, 4, 0x0, 0x0, 0x0, 0xFF7FFF, 0x0, 0x0, 0x0⟩,
   ⟨0x050104, 64, 4, 0x0, 0x0, 0x7F, 0x7F, 0x0, 0x0, 0x0⟩,
   ⟨0x050108, 64, 4, 0x0, 0x0, 0x0, 0xFF00FF03, 0x0, 0x0, 0x0⟩,
   ⟨0x050110, 64, 4, 0x0, 0x0, 0x0, 0xFFFFFFFF, 0x0, 0x0, 0x0⟩,
   ⟨0x050114, 64, 4, 0x0, 0x0, 0x0, 0xFFFFFFFF, 0x0, 0x0, 0x0⟩,
   ⟨0x050118, 64, 4, 0x0, 0x0, 0x0, 0xFFFFFFFF, 0x0, 0x0, 0x0⟩,
   ⟨0x05011C, 64, 4, 0x0, 0x0, 0x0, 0xFFFFFFFF, 0x0, 0x0, 0x0⟩,
   ⟨0x050120, 64, 4, 0x0, 0x0, 0x0, 0xFFFFFFFF, 0x0, 0x0, 0x0⟩]

/-- The registers of the block at 0x06_0000. -/
def rows06 : List RegRow :=
  [⟨0x060000, 4, 1, 0x1, 0x1, 0x0, 0x0, 0x1, 0x0, 0x0⟩,
   ⟨0x060100, 64, 4, 0x0, 0x0, 0x0, 0xFF0F1F, 0x0, 0x0, 0x0⟩,
   ⟨0x060104, 64, 4, 0x0, 0x0, 0xF, 0xF, 0x0, 0x0, 0x0⟩,
   ⟨0x060108, 64, 4, 0x0, 0x0, 0x0, 0xFFFFFF00, 0x0, 0x0, 0x0⟩,
   ⟨0x060110, 64, 4, 0x0, 0x0, 0x0, 0xFFFFFFFF, 0x0, 0x0, 0x0⟩,
   ⟨0x060114, 64, 4, 0x0, 0x0, 0x0, 0xFFFFFFFF, 0x0, 0x0, 0x0⟩,
   ⟨0x060118, 64, 4, 0x0, 0x0, 0x0, 0xFFFFFFFF, 0x0, 0x0, 0x0⟩,
   ⟨0x06011C, 64, 4, 0x0, 0x0, 0x0, 0xFFFFFFFF, 0x0, 0x0, 0x0⟩,
   ⟨0x061000, 4, 1, 0x12C0002, 0xFFFF0003, 0x0, 0x0, 0xFFFF0003, 0x0, 0x0⟩,
   ⟨0x061004, 4, 1, 0x258, 0xFFFF, 0x0, 0x0, 0xFFFF, 0x0, 0x0⟩,
   ⟨0x061008, 4, 1, 0x0, 0x0, 0x0, 0xFF01C1FF, 0x0, 0x0, 0x0⟩,
   ⟨0x061100, 4, 16, 0x0, 0x0, 0x0, 0xFFFFFFFF, 0x0, 0x0, 0x0⟩]

/-- The registers of the block at 0x07_0000. -/
def rows07 : List RegRow :=
  [⟨0x070000, 4, 1, 0x1, 0x1, 0x0, 0x0, 0x1, 0x0, 0x0⟩,
   ⟨0x070100, 16, 8, 0x0, 0x0, 0x0, 0x1FFFF, 0x0, 0x0, 0x0⟩,
   ⟨0x070104, 16, 8, 0x0, 0x0, 0x0, 0xFFFFFFFF, 0x0, 0x0, 0x0⟩,
   ⟨0x070108, 16, 8, 0x0, 0x0, 0x0, 0xFFFFFFFF, 0x0, 0x0, 0x0⟩,
   ⟨0x07010C, 16, 8, 0x0, 0x0, 0x0, 0xFFFFFFFF, 0x0, 0x0, 0x0⟩,
   ⟨0x071000, 4, 1, 0x1, 0x1, 0x0, 0x0, 0x1, 0x0, 0x0⟩,
   ⟨0x071010, 4, 3, 0x325700, 0xFFFF00, 0x0, 0x3, 0xFFFF00, 0x0, 0x0⟩,
   ⟨0x071020, 4, 3, 0x0, 0x0, 0x0, 0x3FFF, 0x0, 0x0, 0x0⟩,
   ⟨0x071030, 4, 3, 0x0, 0x0, 0x0, 0xFFFFFFFF, 0x0, 0x0, 0x0⟩,
   ⟨0x071040, 4, 1, 0x0, 0x1FFF, 0x0, 0x1FFF, 0x0, 0x0, 0x0⟩,
   ⟨0x071044, 4, 1, 0x0, 0x1FF, 0x0, 0x1FF, 0x0, 0x0, 0x0⟩,
   ⟨0x071100, 16, 4, 0x0, 0x0, 0x0, 0xFFFFFFFF, 0x0, 0x0, 0x0⟩,
   ⟨0x071104, 16, 4, 0x0, 0x0, 0x0, 0x3FFFFFFF, 0x0, 0x0, 0x0⟩,
   ⟨0x071108, 16, 4, 0x0, 0x0, 0x0, 0xFFFFFFFF, 0x0, 0x0, 0x0⟩,
   ⟨0x07110C, 16, 4, 0x0, 0x0, 0x0, 0xFFFF, 0x0, 0x0, 0x0⟩,
   ⟨0x072000, 4, 24, 0x0, 0x0, 0x0, 0xFFFFFFFF, 0x0, 0x0, 0x0⟩,
   ⟨0x072100, 4, 12, 0x0, 0x0, 0x0, 0xFFFFFFFF, 0x0, 0x0, 0x0⟩]

/-- The registers of the block at 0x08_0000. -/
def rows08 : List RegRow :=
  [⟨0x080000, 4, 1, 0x64320007, 0xFFFF0007, 0x0, 0x0, 0xFFFF0007, 0x0, 0x0⟩,
   ⟨0x080004, 4, 1, 0xC8, 0x3FF, 0x0, 0x0, 0x3FF, 0x0, 0x0⟩,
   ⟨0x080008, 4, 1, 0x0, 0x0, 0x0, 0x1FF01FF, 0x0, 0x0, 0x0⟩,
   ⟨0x08000C, 4, 1, 0x0, 0x0, 0x0, 0x8000FFFF, 0x0, 0x0, 0x0⟩,
   ⟨0x080010, 4, 1, 0x0, 0x0, 0x0, 0x7FFF, 0x0, 0x0, 0x0⟩,
   ⟨0x080014, 4, 1, 0x0, 0x0, 0x0, 0x7FFF, 0x0, 0x0, 0x0⟩,
   ⟨0x080020, 4, 1, 0x0, 0xFF, 0x0, 0xFF, 0x0, 0x0, 0x0⟩,
   ⟨0x080100, 4, 8, 0x0, 0x0, 0x0, 0xFFFFFFFF, 0x0, 0x0, 0x0⟩,
   ⟨0x080200, 4, 20, 0x0, 0x0, 0x0, 0xFFFFFFFF, 0x0, 0x0, 0x0⟩]

/-- The registers of the block at 0x09_0000. -/
def rows09 : List RegRow :=
  [⟨0x090000, 4, 1, 0x1F, 0x1F, 0x0, 0x0, 0x1F, 0x0, 0x0⟩,
   ⟨0x090004, 4, 1, 0x0, 0x0, 0x0, 0xFFFFFFFF, 0x0, 0x0, 0x0⟩,
   ⟨0x090010, 4, 4, 0x0, 0x0, 0x0, 0x8000FFFF, 0x0, 0x0, 0x0⟩,
   ⟨0x090020, 4, 1, 0x0, 0x7F, 0x0, 0x7F, 0x0, 0x0, 0x0⟩,
   ⟨0x090040, 16, 4, 0x0, 0x0, 0x0, 0xFFFFFFFF, 0x0, 0x0, 0x0⟩,
   ⟨0x090044, 16, 4, 0x0, 0x0, 0x0, 0xFFFF3FFF, 0x0, 0x0, 0x0⟩,
   ⟨0x090080, 4, 6, 0x0, 0x0, 0x0, 0xFFFFFFFF, 0x0, 0x0, 0x0⟩,
   ⟨0x090100, 64, 16, 0x0, 0x0, 0x0, 0x1, 0x0, 0x0, 0x0⟩,
   ⟨0x090104, 64, 16, 0x0, 0x0, 0x1000, 0x1FFF, 0x0, 0x0, 0x0⟩,
   ⟨0x090108, 64, 16, 0x0, 0x0, 0x0, 0xFFFFFFFF, 0x0, 0x0, 0x0⟩,
   ⟨0x09010C, 64, 16, 0x0, 0x0, 0x0, 0xFFFFFFFF, 0x0, 0x0, 0x0⟩,
   ⟨0x090110, 64, 16, 0x0, 0x0, 0x0, 0xFFFFFFFF, 0x0, 0x0, 0x0⟩,
   ⟨0x090114, 64, 16, 0x0, 0x0, 0x0, 0xFFFFFFFF, 0x0, 0x0, 0x0⟩,
   ⟨0x090118, 64, 16, 0x0, 0x0, 0x0, 0xFFFF, 0x0, 0x0, 0x0⟩,
   ⟨0x09011C, 64, 16, 0x0, 0x0, 0x0, 0xFFFFFFFF, 0x0, 0x0, 0x0⟩,
   ⟨0x090120, 64, 16, 0x0, 0x0, 0x0, 0xFFFFFFFF, 0x0, 0x0, 0x0⟩,
   ⟨0x090124, 64, 16, 0x0, 0x0, 0x0, 0xFFFFFFFF, 0x0, 0x0, 0x0⟩,
   ⟨0x090128, 64, 16, 0x0, 0x0, 0x0, 0xFFFFFFFF, 0x0, 0x0, 0x0⟩,
   ⟨0x090600, 4, 16, 0x0, 0x0, 0x0, 0x3FFF3FFF, 0x0, 0x0, 0x0⟩,
   ⟨0x090640, 4, 16, 0x1000, 0x0, 0x0, 0x1FFF, 0x0, 0x0, 0x0⟩]

/-- The registers of the block at 0x0A_0000. -/
def rows0A : List RegRow :=
  [⟨0x0A0000, 4, 1, 0x0, 0x0, 0x0, 0xFFFF0101, 0x0, 0x0, 0x0⟩,
   ⟨0x0A0004, 4, 1, 0xF, 0xF, 0x0, 0x0, 0xF, 0x0, 0x0⟩,
   ⟨0x0A0008, 4, 1, 0x0, 0x0, 0x0, 0x8701FFFF, 0x0, 0x0, 0x0⟩,
   ⟨0x0A000C, 4, 1, 0x0, 0x0, 0x0, 0xFFFFFF77, 0x0, 0x0, 0x0⟩,
   ⟨0x0A0010, 4, 1, 0x0, 0x0, 0x0, 0xFFFFFFFF, 0x0, 0x0, 0x0⟩,
   ⟨0x0A0014, 4, 1, 0x0, 0x0, 0xFFFF0C77, 0xFFFF0C77, 0x0, 0x0, 0x0⟩,
   ⟨0x0A0020, 4, 6, 0x0, 0x0, 0x0, 0xFFFFFFFF, 0x0, 0x0, 0x0⟩,
   ⟨0x0A0100, 4, 142, 0x0, 0x0, 0x0, 0xFFFFFFFF, 0x0, 0x0, 0x0⟩,
   ⟨0x0A0400, 4, 92, 0x0, 0x0, 0x0, 0xFFFFFFFF, 0x0, 0x0, 0x0⟩,
   ⟨0x0A0600, 4, 64, 0x0, 0x0, 0x0, 0xFFFFFFFF, 0x0, 0x0, 0x0⟩,
   ⟨0x0A0700, 4, 32, 0x0, 0x0, 0x0, 0xFFFFFFFF, 0x0, 0x0, 0x0⟩,
   ⟨0x0A0780, 4, 1, 0x0, 0x0, 0x0, 0xFFFFFFFF, 0x0, 0x0, 0x0⟩,
   ⟨0x0A0784, 4, 1, 0x0, 0x0, 0x0, 0xFFFF, 0x0, 0x0, 0x0⟩,
   ⟨0x0A0800, 4, 17, 0x0, 0x0, 0x0, 0xFFFFFFFF, 0x0, 0x0, 0x0⟩,
   ⟨0x0A0880, 4, 17, 0x0, 0x0, 0x0, 0xFFFFFFFF, 0x0, 0x0, 0x0⟩,
   ⟨0x0A0900, 4, 1, 0x0, 0x0, 0x0, 0xFFFFFFFF, 0x0, 0x0, 0x0⟩,
   ⟨0x0A0908, 4, 2, 0x0, 0x0, 0x0, 0xFFFFFFFF, 0x0, 0x0, 0x0⟩,
   ⟨0x0A0910, 4, 2, 0x0, 0x0, 0x0, 0xFFFFFFFF, 0x0, 0x0, 0x0⟩,
   ⟨0x0A0918, 4, 1, 0x3, 0x3, 0x0, 0x0, 0x3, 0x0, 0x0⟩,
   ⟨0x0A0920, 4, 4, 0x0, 0x0, 0x80000, 0xBFFFF, 0x0, 0x0, 0x0⟩] ++
  [⟨0x0A0930, 4, 4, 0x0, 0x0, 0x0, 0x1FFFF, 0x0, 0x0, 0x0⟩]

/-- The registers of the block at 0x0B_0000. -/
def rows0B : List RegRow :=
  [⟨0x0B0000, 4, 1, 0x3, 0x7, 0x0, 0x8, 0x7, 0x0, 0x0⟩,
   ⟨0x0B0004, 4, 1, 0xFFFF, 0x0, 0x0, 0x1FFFF, 0x0, 0x0, 0x0⟩,
   ⟨0x0B0100, 32, 16, 0x100000, 0xFC1F0FFF, 0x0, 0x0, 0x0, 0xFC1F0FFF, 0x0⟩,
   ⟨0x0B0104, 32, 16, 0x1000100, 0xFFFFFFFF, 0x0, 0x0, 0x0, 0xFFFFFFFF, 0x0⟩,
   ⟨0x0B0108, 32, 16, 0x0, 0xFFFF, 0x0, 0x0, 0x0, 0xFFFF, 0x0⟩,
   ⟨0x0B010C, 32, 16, 0x19, 0xFFC000FF, 0x0, 0x0, 0x0, 0xFFC000FF, 0x0⟩,
   ⟨0x0B0110, 32, 16, 0x16660CCD, 0xFFFFFFFF, 0x0, 0x0, 0x0, 0xFFFFFFFF, 0x0⟩,
   ⟨0x0B0114, 32, 16, 0x0, 0x0, 0x0, 0x8FFFCFFF, 0x0, 0x0, 0x0⟩,
   ⟨0x0B0118, 32, 16, 0x10000000, 0x0, 0x0, 0xFFFFFFFF, 0x0, 0x0, 0x0⟩,
   ⟨0x0B011C, 32, 16, 0x0, 0x0, 0x3F, 0x3F3F, 0x0, 0x0, 0x0⟩,
   ⟨0x0B0400, 32, 8, 0x1000, 0xFFFF1FFF, 0x0, 0x0, 0x0, 0xFFFF1FFF, 0x0⟩,
   ⟨0x0B0404, 32, 8, 0xFFF0001, 0xFFF0FFF, 0x0, 0x0, 0x0, 0xFFF0FFF, 0x0⟩,
   ⟨0x0B0408, 32, 8, 0x3C2DA000, 0xFFFFFFFF, 0x0, 0x0, 0x0, 0xFFFFFFFF, 0x0⟩,
   ⟨0x0B040C, 32, 8, 0x10001000, 0x1FFF1FFF, 0x0, 0x0, 0x0, 0x1FFF1FFF, 0x0⟩,
   ⟨0x0B0410, 32, 8, 0x10001000, 0x1FFF1FFF, 0x0, 0x0, 0x0, 0x1FFF1FFF, 0x0⟩,
   ⟨0x0B0414, 32, 8, 0x0, 0xFFF, 0x0, 0xFFF, 0x0, 0x0, 0x0⟩,
   ⟨0x0B0418, 32, 8, 0x0, 0x0, 0x0, 0xFFF0FFF, 0x0, 0x0, 0x0⟩,
   ⟨0x0B0600, 4, 8, 0xF6E03E8, 0xFFFFFFFF, 0x0, 0x0, 0x0, 0xFFFFFFFF, 0x0⟩,
   ⟨0x0B0640, 4, 8, 0x0, 0x0, 0x0, 0x8000FFFF, 0x0, 0x0, 0x0⟩,
   ⟨0x0B1000, 4, 512, 0x0, 0xFFFFFFFF, 0x0, 0x0, 0x0, 0xFFFFFFFF, 0x0⟩]

/-- The registers of the block at 0x0C_0000. -/
def rows0C : List RegRow :=
  [⟨0x0C0000, 4, 1, 0x6, 0x80000006, 0x0, 0x1, 0x6, 0x80000000, 0x0⟩,
   ⟨0x0C0004, 4, 1, 0xC81034, 0x1FF3FFF, 0x0, 0x0, 0x0, 0x1FF3FFF, 0x0⟩,
   ⟨0x0C0008, 4, 1, 0x0, 0x8000000F, 0x0, 0x0, 0x0, 0x8000000F, 0x0⟩,
   ⟨0x0C000C, 4, 1, 0x0, 0xFFFF, 0x0, 0x0, 0x0, 0xFFFF, 0x0⟩,
   ⟨0x0C0010, 4, 1, 0x0, 0xFF000FFF, 0x0, 0x0, 0x0, 0xFF000FFF, 0x0⟩,
   ⟨0x0C0014, 4, 1, 0x1000100, 0xFFFFFFFF, 0x0, 0x0, 0x0, 0xFFFFFFFF, 0x0⟩,
   ⟨0x0C0018, 4, 1, 0x0, 0x0, 0x40000000, 0x7FFFFFFF, 0x0, 0x80000000, 0x0⟩,
   ⟨0x0C001C, 4, 1, 0x0, 0x0, 0x3F, 0x3F3F, 0x0, 0x0, 0x0⟩,
   ⟨0x0C0020, 4, 1, 0x0, 0x0, 0x0, 0x803FFF03, 0x0, 0x0, 0x0⟩,
   ⟨0x0C0024, 4, 1, 0x0, 0x0, 0x0, 0xFFFFFFFF, 0x0, 0x0, 0x0⟩,
   ⟨0x0C0028, 4, 1, 0x0, 0x0, 0x0, 0xFFFF, 0x0, 0x0, 0x0⟩,
   ⟨0x0C0030, 4, 1, 0x0, 0x3F, 0x0, 0x3F, 0x0, 0x0, 0x0⟩,
   ⟨0x0C0100, 4, 16, 0x0, 0x0, 0x0, 0xFFFFFFFF, 0x0, 0x0, 0x0⟩]

/-- The registers of the block at 0x0D_0000. -/
def rows0D : List RegRow :=
  [⟨0x0D0000, 4, 1, 0x7, 0x7, 0x0, 0x0, 0x7, 0x0, 0x0⟩,
   ⟨0x0D0004, 4, 1, 0xFFF0FFF, 0xFFF, 0x0, 0x8FFF0000, 0x0, 0xFFF, 0x0⟩,
   ⟨0x0D0008, 4, 1, 0x0, 0x0, 0x0, 0x0, 0x0, 0xFFFF, 0x0⟩,
   ⟨0x0D000C, 4, 1, 0x80, 0xFF, 0x0, 0x0, 0xFF, 0x0, 0x0⟩,
   ⟨0x0D0010, 4, 1, 0x0, 0xFFF, 0x0, 0xFFF, 0x0, 0x0, 0x0⟩,
   ⟨0x0D0014, 4, 1, 0x0, 0x0, 0x0, 0xFFFFFFFF, 0x0, 0x0, 0x0⟩,
   ⟨0x0D0100, 64, 2, 0x4, 0x7, 0x0, 0x0, 0x0, 0x7, 0x0⟩,
   ⟨0x0D0104, 64, 2, 0x3FFFFFF, 0x0, 0x0, 0xFFFFFFFF, 0x0, 0x0, 0x0⟩,
   ⟨0x0D0108, 64, 2, 0x0, 0x0, 0x0, 0xFFFFFFFF, 0x0, 0x0, 0x0⟩,
   ⟨0x0D010C, 64, 2, 0x0, 0x0, 0x0, 0xFFFFFFFF, 0x0, 0x0, 0x0⟩,
   ⟨0x0D0110, 64, 2, 0x0, 0x0, 0x0, 0x1FF01FF, 0x0, 0x0, 0x0⟩,
   ⟨0x0D0114, 64, 2, 0x0, 0x0, 0x0, 0xFFFFFFFF, 0x0, 0x0, 0x0⟩,
   ⟨0x0D0118, 64, 2, 0x0, 0x0, 0x0, 0xFFFFFFFF, 0x0, 0x0, 0x0⟩,
   ⟨0x0D011C, 64, 2, 0x0, 0x0, 0x0, 0xFFFFFFFF, 0x0, 0x0, 0x0⟩,
   ⟨0x0D0120, 64, 2, 0x0, 0x0, 0x0, 0xFFFFFFFF, 0x0, 0x0, 0x0⟩,
   ⟨0x0D0124, 64, 2, 0x0, 0x0, 0x0, 0xFFFFFFFF, 0x0, 0x0, 0x0⟩,
   ⟨0x0D0128, 64, 2, 0x0, 0x0, 0x0, 0xFFFFFFFF, 0x0, 0x0, 0x0⟩,
   ⟨0x0D012C, 64, 2, 0x0, 0x0, 0x0, 0xFFFFFFFF, 0x0, 0x0, 0x0⟩,
   ⟨0x0D0130, 64, 2, 0x0, 0x0, 0x0, 0xFFFFFFFF, 0x0, 0x0, 0x0⟩,
   ⟨0x0D0200, 4, 11, 0x0, 0x0, 0x0, 0xFFFFFFFF, 0x0, 0x0, 0x0⟩]

/-- The registers of the block at 0x0E_0000. -/
def rows0E : List RegRow :=
  [⟨0x0E0000, 4, 1, 0x1F, 0x1F, 0x0, 0x0, 0x1F, 0x0, 0x0⟩,
   ⟨0x0E0004, 4, 1, 0x180A00, 0x3FFFF00, 0x0, 0x0, 0x3FFFF00, 0x0, 0x0⟩,
   ⟨0x0E0008, 4, 1, 0x12C, 0xFFF, 0x0, 0x0, 0xFFF, 0x0, 0x0⟩,
   ⟨0x0E000C, 4, 1, 0xFFF, 0x0, 0x1000000, 0xFFF00FFF, 0x0, 0x0, 0x0⟩,
   ⟨0x0E0010, 4, 1, 0x0, 0x0, 0x0, 0x7F, 0x0, 0x0, 0x0⟩,
   ⟨0x0E0014, 4, 1, 0x0, 0x0, 0x0, 0xFFFFFFFF, 0x0, 0x0, 0x0⟩,
   ⟨0x0E0018, 4, 1, 0x0, 0x0, 0x0, 0xFFFF, 0x0, 0x0, 0x0⟩,
   ⟨0x0E0100, 4, 12, 0x0, 0x0, 0x0, 0xFFFFFFFF, 0x0, 0x0, 0x0⟩]

/-- The registers of the block at 0x0F_0000. -/
def rows0F : List RegRow :=
  [⟨0x0F0000, 4, 1, 0x4F, 0x4F, 0x0, 0x80, 0xF, 0x40, 0x0⟩,
   ⟨0x0F0004, 4, 1, 0x0, 0x0, 0x0, 0x0, 0x0, 0x3F7F7F, 0x0⟩,
   ⟨0x0F0008, 4, 1, 0x2000C101, 0x0, 0x0, 0x0, 0x0, 0xFFFFFF3F, 0x0⟩,
   ⟨0x0F000C, 4, 1, 0x0, 0x0, 0x0, 0x0, 0x0, 0x7FFF, 0x0⟩,
   ⟨0x0F0010, 4, 1, 0x0, 0x3F7F7F, 0x0, 0x3F7F7F, 0x0, 0x0, 0x0⟩,
   ⟨0x0F0014, 4, 1, 0x0, 0xFFFF1F3F, 0x0, 0xFFFF1F3F, 0x0, 0x0, 0x0⟩,
   ⟨0x0F0018, 4, 1, 0x0, 0x0, 0x7000000F, 0x3F00000F, 0x0, 0xC0000000, 0x0⟩,
   ⟨0x0F001C, 4, 1, 0x0, 0x3FFF, 0x0, 0x0, 0x0, 0x80003FFF, 0x0⟩,
   ⟨0x0F0020, 4, 1, 0x0, 0xFF, 0x0, 0x0, 0x0, 0xFF, 0x0⟩,
   ⟨0x0F0024, 4, 1, 0x100, 0x81FFFFFF, 0x0, 0x0, 0x81FFFFFF, 0x0, 0x0⟩,
   ⟨0x0F0028, 4, 1, 0x10000000, 0xF000FFFF, 0x0, 0x0, 0x80000000, 0x7000FFFF, 0x0⟩,
   ⟨0x0F002C, 4, 1, 0x0, 0x0, 0x0, 0x0, 0xFFFF, 0x0, 0x0⟩,
   ⟨0x0F0100, 32, 4, 0x0, 0xC0000000, 0x0, 0x0, 0x0, 0xC0000000, 0x0⟩,
   ⟨0x0F0104, 32, 4, 0x0, 0x3F7F7F, 0x0, 0x0, 0x0, 0x3F7F7F, 0x0⟩,
   ⟨0x0F0108, 32, 4, 0x0, 0xFFFF1F3F, 0x0, 0x0, 0x0, 0xFFFF1F3F, 0x0⟩,
   ⟨0x0F010C, 32, 4, 0x0, 0x0, 0x0, 0x0, 0x0, 0x8000FFFF, 0x0⟩,
   ⟨0x0F0110, 32, 4, 0x0, 0x0, 0x0, 0x0, 0x0, 0xFFFF1F3F, 0x0⟩]

/-- The registers of the block at 0x10_0000. -/
def rows10 : List RegRow :=
  [⟨0x100000, 4, 1, 0x1CF, 0x3EF, 0x0, 0x80000000, 0x6F, 0x380, 0x0⟩,
   ⟨0x100004, 4, 1, 0x180FA00, 0xFFFFFF7F, 0x0, 0x0, 0x0, 0xFFFFFF7F, 0x0⟩,
   ⟨0x100008, 4, 1, 0x3E8, 0xFFFFF, 0x0, 0x0, 0x0, 0xFFFFF, 0x0⟩,
   ⟨0x10000C, 4, 1, 0x0, 0x0, 0x1, 0xFFFF0001, 0x0, 0x0, 0x0⟩,
   ⟨0x100010, 4, 1, 0x0, 0x0, 0x0, 0xFFFFFFFF, 0x0, 0x0, 0x0⟩,
   ⟨0x100014, 4, 1, 0x0, 0x0, 0x0, 0xFFFF, 0x0, 0x0, 0x0⟩,
   ⟨0x100018, 4, 1, 0x0, 0x0, 0x0, 0x3FFFFFFF, 0x0, 0x0, 0x0⟩,
   ⟨0x10001C, 4, 1, 0x50000000, 0x0, 0x0, 0x0, 0x0, 0xFFFFFFFF, 0x0⟩,
   ⟨0x100020, 4, 1, 0x0, 0x0, 0x0, 0xFFFFFFFF, 0x0, 0x0, 0x0⟩,
   ⟨0x100024, 4, 1, 0x0, 0x0, 0x0, 0xFFFFFFFF, 0x0, 0x0, 0x0⟩,
   ⟨0x100028, 4, 1, 0x0, 0x0, 0x0, 0xFFFFFFFF, 0x0, 0x0, 0x0⟩,
   ⟨0x100030, 4, 2, 0x0, 0xFFFF, 0x0, 0x0, 0x0, 0xFFFF, 0x0⟩,
   ⟨0x100040, 4, 1, 0x0, 0x0, 0x0, 0x810FFFFF, 0x0, 0x0, 0x0⟩,
   ⟨0x100044, 4, 1, 0x0, 0x0, 0x0, 0x3FFFFFFF, 0x0, 0x0, 0x0⟩,
   ⟨0x100048, 4, 1, 0x0, 0x0, 0x0, 0xFFFFFFFF, 0x0, 0x0, 0x0⟩,
   ⟨0x10004C, 4, 1, 0x0, 0x0, 0x0, 0x1FFFFF, 0x0, 0x0, 0x0⟩,
   ⟨0x100100, 32, 4, 0x0, 0xE0000000, 0x10000000, 0xD8000000, 0x0, 0x20000000, 0x0⟩,
   ⟨0x100104, 32, 4, 0x0, 0xFFFFFFFF, 0x0, 0xFFFFFFFF, 0x0, 0x0, 0x0⟩,
   ⟨0x100108, 32, 4, 0x0, 0xFFFF, 0x0, 0xFFFF, 0x0, 0x0, 0x0⟩,
   ⟨0x10010C, 32, 4, 0x0, 0x3FFFFFFF, 0x0, 0x3FFFFFFF, 0x0, 0x0, 0x0⟩] ++
  [⟨0x100110, 32, 4, 0x0, 0xFFFFFFFF, 0x0, 0xFFFFFFFF, 0x0, 0x0, 0x0⟩,
   ⟨0x100114, 32, 4, 0x0, 0xFFFFFFFF, 0x0, 0xFFFFFFFF, 0x0, 0x0, 0x0⟩,
   ⟨0x100118, 32, 4, 0x0, 0x0, 0x0, 0xFFFFFFFF, 0x0, 0x0, 0x0⟩]

/-- The registers of the block at 0x11_0000. -/
def rows11 : List RegRow :=
  [⟨0x110000, 4, 1, 0x3, 0x3, 0x0, 0x0, 0x3, 0x0, 0x0⟩,
   ⟨0x110004, 4, 1, 0x0, 0x0, 0x0, 0x2000000F, 0xFF00, 0xC0000000, 0x0⟩,
   ⟨0x110008, 4, 2, 0x0, 0x0, 0x0, 0xFFFFFFFF, 0x0, 0x0, 0x0⟩,
   ⟨0x110010, 4, 1, 0x0, 0x0, 0x0, 0x0, 0x0, 0xFFFFFFFF, 0x0⟩,
   ⟨0x110014, 4, 1, 0x0, 0x0, 0x0, 0x0, 0x0, 0xFFFFFFFF, 0x0⟩,
   ⟨0x110018, 4, 1, 0x0, 0x1, 0x0, 0x0, 0x0, 0x1, 0x0⟩,
   ⟨0x110020, 4, 4, 0x0, 0x0, 0x0, 0xFFFFFFFF, 0x0, 0x0, 0x0⟩,
   ⟨0x110030, 4, 2, 0x0, 0x0, 0x0, 0x0, 0x0, 0xFFFFFFFF, 0x0⟩,
   ⟨0x111000, 4, 1, 0x3, 0x3, 0x0, 0x0, 0x3, 0x0, 0x0⟩,
   ⟨0x111010, 4, 4, 0x14, 0xE00000FF, 0x0, 0x0, 0x0, 0xE00000FF, 0x0⟩,
   ⟨0x111020, 4, 1, 0x0, 0x0, 0x3F00, 0x3F, 0x0, 0x3F00, 0x0⟩,
   ⟨0x111030, 4, 1, 0x0, 0x0, 0x0, 0x0, 0x0, 0x0, 0xFFFFFFFF⟩,
   ⟨0x111034, 4, 1, 0x0, 0x0, 0x0, 0x0, 0x0, 0x0, 0xFFFFFFFF⟩,
   ⟨0x111038, 4, 1, 0x0, 0x0, 0x0, 0x0, 0x0, 0x0, 0xFFFFFFFF⟩]

/-- The registers of the block at 0x12_0000. -/
def rows12 : List RegRow :=
  [⟨0x120000, 4, 1, 0x3F, 0x3F, 0x0, 0x0, 0x3F, 0x0, 0x0⟩,
   ⟨0x120004, 4, 1, 0x0, 0x0, 0x0, 0x9FF0000, 0x0, 0xF000FFFF, 0x0⟩,
   ⟨0x120010, 8, 4, 0x0, 0x0, 0x0, 0x0, 0x0, 0xFFFFFFFF, 0x0⟩,
   ⟨0x120014, 8, 4, 0x0, 0x0, 0x0, 0x0, 0x0, 0xFFFF, 0x0⟩,
   ⟨0x120040, 4, 1, 0x0, 0x70001FFF, 0x0, 0xF0001FFF, 0x0, 0x0, 0x0⟩,
   ⟨0x120044, 4, 1, 0x0, 0x3FFF, 0x0, 0x3FFF, 0x0, 0x0, 0x0⟩,
   ⟨0x120050, 4, 1, 0x0, 0xFFFF, 0x0, 0xFFFF, 0x0, 0x0, 0x0⟩,
   ⟨0x120080, 4, 8, 0x0, 0x0, 0x0, 0xFFFFFFFF, 0x0, 0x0, 0x0⟩,
   ⟨0x120100, 4, 32, 0x0, 0xFFFFFFFF, 0x0, 0x0, 0x0, 0xFFFFFFFF, 0x0⟩,
   ⟨0x120200, 4, 1, 0x0, 0x0, 0x0, 0xFFFFFFFF, 0x0, 0x0, 0x0⟩,
   ⟨0x120204, 4, 1, 0x0, 0x0, 0x0, 0xFFFFFFFF, 0x0, 0x0, 0x0⟩]

/-- The registers of the block at 0x13_0000. -/
def rows13 : List RegRow :=
  [⟨0x130000, 4, 1, 0x1, 0x80000001, 0x0, 0x0, 0x80000001, 0x0, 0x0⟩,
   ⟨0x130004, 4, 1, 0x0, 0x7FFFE, 0x0, 0x0, 0x7FFFE, 0x0, 0x0⟩,
   ⟨0x130008, 4, 1, 0xFF, 0xFF, 0x0, 0x0, 0xFF, 0x0, 0x0⟩,
   ⟨0x13000C, 4, 1, 0x1FFF0000, 0x1FFF1FFF, 0x0, 0x0, 0x1FFF1FFF, 0x0, 0x0⟩,
   ⟨0x130010, 4, 1, 0x0, 0x0, 0x0, 0xFF, 0x0, 0x0, 0x0⟩,
   ⟨0x130014, 4, 1, 0x0, 0x0, 0x0, 0xFFFFFFFF, 0x0, 0x0, 0x0⟩,
   ⟨0x130020, 4, 8, 0x0, 0x0, 0xFFFFFFFF, 0xFFFFFFFF, 0x0, 0x0, 0x0⟩,
   ⟨0x131000, 16, 256, 0x0, 0xC0FF9FFF, 0x0, 0x0, 0xC0FF9FFF, 0x0, 0x0⟩,
   ⟨0x131004, 16, 256, 0x0, 0x0, 0x0, 0xFFFFFFFF, 0x0, 0x0, 0x0⟩,
   ⟨0x131008, 16, 256, 0x0, 0xFFFFFFFF, 0x0, 0x0, 0xFFFFFFFF, 0x0, 0x0⟩,
   ⟨0x13100C, 16, 256, 0x0, 0x0, 0x0, 0x1, 0x0, 0x0, 0x0⟩]

/-- The registers of the block at 0x14_0000. -/
def rows14 : List RegRow :=
  [⟨0x140000, 4, 1, 0x7, 0x7, 0x0, 0x0, 0x3, 0x4, 0x0⟩,
   ⟨0x140004, 4, 1, 0x100, 0x0, 0x0, 0xFF03FF3F, 0x0, 0x0, 0x0⟩,
   ⟨0x140008, 4, 1, 0x0, 0x0, 0x0, 0xFFFFFFFF, 0x0, 0x0, 0x0⟩,
   ⟨0x14000C, 4, 1, 0x0, 0x0, 0x0, 0xFFFFFFFF, 0x0, 0x0, 0x0⟩,
   ⟨0x140010, 4, 1, 0x0, 0x0, 0x0, 0x0, 0x0, 0xFFFFFFFF, 0x0⟩,
   ⟨0x140020, 4, 1, 0x0, 0x0, 0x0, 0x0, 0x0, 0xFFFFFFFF, 0x0⟩,
   ⟨0x140024, 4, 1, 0x0, 0x0, 0x0, 0x1FFF1FFF, 0x0, 0x0, 0x0⟩,
   ⟨0x140028, 4, 1, 0x0, 0x1FFF, 0x0, 0x1FFF, 0x0, 0x0, 0x0⟩,
   ⟨0x14002C, 4, 1, 0x0, 0x0, 0x0, 0x7, 0x0, 0x0, 0x0⟩]

/-- The registers of the block at 0x3F_0000. -/
def rows3F : List RegRow :=
  [⟨0x3F0000, 16, 64, 0x0, 0xFFFFFFFF, 0x0, 0xFFFFFFFF, 0x0, 0x0, 0x0⟩,
   ⟨0x3F0004, 16, 64, 0x0, 0xFFFFFFFF, 0x0, 0xFFFFFFFF, 0x0, 0x0, 0x0⟩,
   ⟨0x3F0008, 16, 64, 0x0, 0xFFFFFFFF, 0x0, 0xFFFFFFFF, 0x0, 0x0, 0x0⟩,
   ⟨0x3F000C, 16, 64, 0x1, 0x1, 0x0, 0x1, 0x0, 0x0, 0x0⟩,
   ⟨0x3F8000, 4, 2, 0x0, 0x0, 0x0, 0xFFFFFFFF, 0x0, 0x0, 0x0⟩]

/-- The rows of the block that holds byte address `a` of BAR0. -/
def rowsOf (a : Nat) : List RegRow :=
  match a / 0x10000 with
  | 0x00 => rows00
  | 0x01 => rows01
  | 0x02 => rows02
  | 0x03 => rows03
  | 0x04 => rows04
  | 0x05 => rows05
  | 0x06 => rows06
  | 0x07 => rows07
  | 0x08 => rows08
  | 0x09 => rows09
  | 0x0A => rows0A
  | 0x0B => rows0B
  | 0x0C => rows0C
  | 0x0D => rows0D
  | 0x0E => rows0E
  | 0x0F => rows0F
  | 0x10 => rows10
  | 0x11 => rows11
  | 0x12 => rows12
  | 0x13 => rows13
  | 0x14 => rows14
  | 0x3F => rows3F
  | _ => []

/-- Whether address `a` is an instance of the row. -/
def RegRow.holds (r : RegRow) (a : Nat) : Bool :=
  r.base ≤ a && (a - r.base) % r.stride == 0 && (a - r.base) / r.stride < r.count

/-- The row of the register at BAR0 address `a`; none where BAR0 holds no register (R346, R589). -/
def rowAt (a : Nat) : Option RegRow := (rowsOf a).find? (·.holds a)

end Sys2Proof.Machine
end

