-- ==== Sys2Proof/Machine/Bundle.lean ====
section
/-!
DEFINITION. Reading a yelm bundle (R31–R59): the header, the directory, the tables of chapter 02, and the checks that
chapter 02 assigns to them. The tables of the other chapters are read in `BundleMore`.
-/
namespace Sys2Proof.Machine

/-- A bundle image: bytes by offset; an offset never written reads as 0 and is not part of the bundle. -/
abbrev Img := Sparse Byte

/-- The `n`-byte little-endian number at offset `o`. -/
def le (b : Img) (o : Nat) : Nat → Nat
  | 0 => 0
  | n + 1 => (sget (fun _ => 0) b o).toNat + 256 * le b (o + 1) n

/-- The `n`-byte big-endian number at offset `o`. -/
def be (b : Img) (o n : Nat) : Nat := (List.range n).foldl (fun acc i => 256 * acc + (sget (fun _ => 0) b (o + i)).toNat) 0

namespace Hdr
def magic (b : Img) : Nat := le b 0 4
def format (b : Img) : Nat := le b 4 2
def epoch (b : Img) : Nat := le b 6 1
def paired (b : Img) : Bool := bits (le b 7 1) 0 0 == 1
def band (b : Img) : Nat := le b 8 1
def templates (b : Img) : Nat := le b 9 1
def pairId (b : Img) : Nat := le b 10 2
def seat1 (b : Img) : Nat := le b 12 2
def lanterns (b : Img) : Nat := le b 14 2
def almanacStart (b : Img) : Nat := le b 16 2
/-- The probation length in courses; a stored 0 means 600. -/
def probation (b : Img) : Nat := if le b 18 2 = 0 then 600 else le b 18 2
def utcOffset (b : Img) : Nat := le b 20 1
def sections (b : Img) : Nat := le b 21 1
def validFrom (b : Img) : Nat := le b 24 6
def total (b : Img) : Nat := le b 40 4
end Hdr

/-- A directory entry (R32), less its hash. -/
structure Sect where
  typ : Nat
  sflags : Nat
  off : Nat
  len : Nat
  count : Nat
  deriving DecidableEq, Repr

def sectAt (b : Img) (i : Nat) : Sect :=
  ⟨le b (64 + 48 * i) 2, le b (66 + 48 * i) 2, le b (68 + 48 * i) 4, le b (72 + 48 * i) 4, le b (76 + 48 * i) 4⟩

def directory (b : Img) : List Sect := (List.range (Hdr.sections b)).map (sectAt b)

/-- The section of a type, if the bundle holds one. -/
def sect (b : Img) (t : Nat) : Option Sect := (directory b).find? (·.typ == t)

/-- The byte offset of a section; 0 where there is none. -/
def sectOff (b : Img) (t : Nat) : Nat := ((sect b t).map Sect.off).getD 0
def sectCount (b : Img) (t : Nat) : Nat := ((sect b t).map Sect.count).getD 0
def sectLen (b : Img) (t : Nat) : Nat := ((sect b t).map Sect.len).getD 0

/-- The cell word of template `t`, slot `s`, lane `l` (before R36). -/
def cellWord (b : Img) (t s l : Nat) : Nat := le b (sectOff b 1 + 3200 * t + 4 * (8 * s + l)) 4

namespace CellW
def action (w : Nat) : Nat := bits w 31 28
/-- Slots of the cell, 1–8. -/
def len (w : Nat) : Nat := bits w 27 25 + 1
def offset (w : Nat) : Nat := bits w 27 25
def seat (w : Nat) : Nat := bits w 24 24
def chan (w : Nat) : Nat := bits w 23 16
def pref (w : Nat) : Nat := bits w 15 0
end CellW

/-- The template executed at a course position (R49). -/
def templateAt (b : Img) (pos : Nat) : Nat := le b (sectOff b 2 + pos) 1

/-- The almanac's events of day `d` as (second, slot, profile, step), in order (R50). -/
def almanacDay (b : Img) (d : Nat) : List (Nat × Nat × Nat × Nat) :=
  let o := sectOff b 3
  let first := le b (o + 4 * d) 2
  (List.range (le b (o + 4 * d + 2) 1)).map fun i =>
    let e := o + 1600 + 8 * (first + i)
    (le b e 3, le b (e + 3) 1, le b (e + 4) 1, le b (e + 5) 1)

/-- The level word that a step of a profile gives to group `g`; 0xFFFF leaves the group unchanged (R52). -/
def profileStep (b : Img) (p st g : Nat) : Nat :=
  let o := sectOff b 4
  le b (o + 512 + 512 * (bits (le b (o + 2 * p) 2) 10 0 + st) + 2 * g) 2

/-- Group records (R53). -/
def groupFloor (b : Img) (g : Nat) : Nat := le b (sectOff b 5 + 8 * g) 2
def groupLoop (b : Img) (g : Nat) : Nat := le b (sectOff b 5 + 8 * g + 2) 1

/-- Entry `i` of sheaf `n` (R48); 0xFFFF is an empty position. -/
def sheafEntry (b : Img) (n i : Nat) : Nat := le b (sectOff b 6 + 128 * n + 2 * i) 2

/-- A health criterion (R67). -/
structure Crit where
  metric : Nat
  compare : Nat
  window : Nat
  threshold : Nat
  baseline : Nat
  lanes : Nat
  flags : Nat
  resv : Nat
  deriving DecidableEq, Repr

def critAt (b : Img) (i : Nat) : Crit :=
  let o := sectOff b 8 + 16 * i
  ⟨le b o 1, le b (o + 1) 1, le b (o + 2) 2, le b (o + 4) 4, le b (o + 8) 2, le b (o + 10) 1, le b (o + 11) 1, le b (o + 12) 4⟩

/-! ### The checks of R35 that need the header, the directory and the tables of chapter 02 -/

/-- HEADER_RANGE of R31. SEGMENT_NAME is not checked: "ASCII, NUL-padded" is taken as its encoding and not as a range (DESIGN CHOICE, log
entry 62). -/
def headerRange (b : Img) : Bool :=
  le b 7 1 < 2 && le b 8 1 < 2 && 1 ≤ Hdr.templates b && Hdr.templates b ≤ 64 && Hdr.pairId b < 4096 &&
  (if Hdr.paired b then Hdr.seat1 b < 4096 else Hdr.seat1 b == 0xFFFF) && 1 ≤ Hdr.lanterns b && Hdr.lanterns b ≤ 8192 &&
  (le b 18 2 == 0 || (60 ≤ le b 18 2 && le b 18 2 ≤ 3600)) && 1 ≤ Hdr.sections b && Hdr.sections b ≤ 32 &&
  le b 22 2 == 0 && le b 30 2 == 0 && le b 38 2 == 0

/-- Whether a section type must be present, and whether it is resident (R33). -/
def requiredType (t : Nat) : Bool := (1 ≤ t && t ≤ 7) || t == 9 || t == 10
def residentType (t : Nat) : Bool := (1 ≤ t && t ≤ 8) || (11 ≤ t && t ≤ 14)

/-- The LENGTH and COUNT rows of R592. -/
def sizeOk (b : Img) (s : Sect) : Bool :=
  match s.typ with
  | 1 => s.len == 3200 * Hdr.templates b && s.count == Hdr.templates b
  | 2 => s.len == 3600 && s.count == 3600
  | 3 => s.len == 1600 + 8 * s.count && s.count ≤ 25600
  | 4 => s.len == 512 + 512 * s.count && 1 ≤ s.count && s.count ≤ 1536
  | 5 => s.len == 2048 && s.count == 256
  | 6 => s.len == 128 * s.count && 1 ≤ s.count && s.count ≤ 128
  | 8 => s.len == 16 * s.count && s.count ≤ 16
  | _ => true

/-- Two extents do not overlap; an empty extent overlaps nothing. -/
def apart (o1 n1 o2 n2 : Nat) : Bool := n1 == 0 || n2 == 0 || o1 + n1 ≤ o2 || o2 + n2 ≤ o1

def pairwiseApart : List Sect → Bool
  | [] => true
  | s :: t => t.all (fun u => apart s.off s.len u.off u.len) && pairwiseApart t

/-- SECTION_LAYOUT: R32, R33, R34 and R592. A section of LENGTH 0 overlaps nothing, but its OFFSET is still held to the space between the
directory and the signature (DESIGN CHOICE, log entry 62). -/
def sectionLayout (b : Img) : Bool :=
  let d := directory b
  d.all (fun s => 1 ≤ s.typ && s.typ ≤ 15 && s.off % 64 == 0 && s.sflags == (if residentType s.typ then 1 else 0) &&
      64 + 48 * Hdr.sections b ≤ s.off && s.off + s.len ≤ Hdr.total b - 64 && sizeOk b s) &&
    (List.range 16).all (fun t => (d.filter (·.typ == t)).length ≤ 1 && (!requiredType t || d.any (·.typ == t))) &&
    pairwiseApart d

/-- RESIDENT_SIZE: the resident total is at most 2,621,440 bytes (R34). -/
def residentSize (b : Img) : Bool :=
  ((directory b).filter (fun s => residentType s.typ)).foldl (fun n s => n + s.len) 0 ≤ 2621440

/-- PREF and SEAT meet the action table of R37. -/
def prefOk (b : Img) (w : Nat) : Bool :=
  let p := CellW.pref w
  let seatOk := CellW.seat w == 0 || Hdr.paired b
  match CellW.action w with
  | 0 => p == 0 && CellW.seat w == 0 && CellW.chan w == 0
  | 1 => p ≤ 127 && seatOk
  | 2 => p == 0 && seatOk
  | 3 => p == 0 && seatOk
  | 4 => p == 0 && seatOk
  | 5 => p ≤ 1023 && seatOk
  | 6 => p ≤ 1023 && CellW.seat w == 0
  | 7 => (p ≤ 127 || p == 0xFFFF) && CellW.seat w == 0
  | 8 => p == 0 && seatOk
  | 10 => p == 0 && CellW.seat w == 0 && CellW.chan w == 0
  | _ => false

/-- One lane of one template, from slot `s` on with `n` slots left: every first word is followed by its CONT words, and no
cell runs past slot 99 (R38). `skip` counts the CONT words still owed, `off` the next CONT offset. -/
def laneShape (b : Img) (t l : Nat) : Nat → Nat → Nat → Nat → Bool
  | 0, _, skip, _ => skip == 0
  | n + 1, s, skip, off =>
    let w := cellWord b t s l
    if skip = 0 then
      CellW.action w != 10 && laneShape b t l n (s + 1) (CellW.len w - 1) 1
    else
      CellW.action w == 10 && CellW.offset w == off && laneShape b t l n (s + 1) (skip - 1) (off + 1)

/-- R40: the blocks of a lane's RX_JOIN cells that name one never fall. -/
def joinOrder (b : Img) (t l : Nat) : Bool :=
  let ps := ((List.range 100).map (fun s => cellWord b t s l)).filterMap fun w =>
    if CellW.action w = 7 ∧ CellW.pref w ≠ 0xFFFF then some (CellW.pref w) else none
  (ps.zip ps.tail).all fun (x, y) => x ≤ y

/-- SEQUENCE_RANGE. -/
def sequenceRange (b : Img) : Bool := (List.range 3600).all fun c => templateAt b c < Hdr.templates b

/-- Strictly ascending by (second, slot). -/
def eventsAscend : List (Nat × Nat × Nat × Nat) → Bool
  | [] => true
  | [_] => true
  | e :: f :: t => (e.1 * 100 + e.2.1 < f.1 * 100 + f.2.1) && eventsAscend (f :: t)

/-- ALMANAC_ORDER: R50 and R51. -/
def almanacOrder (b : Img) : Bool :=
  let o := sectOff b 3
  let cnt (d : Nat) := le b (o + 4 * d + 2) 1
  let first (d : Nat) := le b (o + 4 * d) 2
  first 0 == 0 && (List.range 399).all (fun d => first (d + 1) == first d + cnt d) &&
  (List.range 400).foldl (fun n d => n + cnt d) 0 == sectCount b 3 &&
  (List.range 400).all (fun d => cnt d ≤ 64 && le b (o + 4 * d + 3) 1 == 0 && eventsAscend (almanacDay b d)) &&
  (List.range (sectCount b 3)).all (fun i =>
    let e := o + 1600 + 8 * i
    le b e 3 ≤ 86399 && le b (e + 3) 1 ≤ 99 && le b (e + 5) 1 ≤ 15 && le b (e + 6) 2 == 0)

/-- PROFILE_RANGE: R52, and every profile and step named by the almanac. -/
def profileRange (b : Img) : Bool :=
  let o := sectOff b 4
  let ent (p : Nat) := le b (o + 2 * p) 2
  (List.range 256).all (fun p => if bits (ent p) 15 15 = 0 then ent p == 0
    else bits (ent p) 10 0 ≤ 1535 && bits (ent p) 10 0 + bits (ent p) 14 11 + 1 ≤ sectCount b 4) &&
  (List.range (sectCount b 3)).all (fun i =>
    let e := sectOff b 3 + 1600 + 8 * i
    bits (ent (le b (e + 4) 1)) 15 15 == 1 && le b (e + 5) 1 ≤ bits (ent (le b (e + 4) 1)) 14 11)

/-- CRITERIA_INVALID: R67–R69. -/
def criterionOk (b : Img) (c : Crit) : Bool :=
  1 ≤ c.metric && c.metric ≤ 6 && c.compare ≤ 2 && 10 ≤ c.window && c.window ≤ 600 &&
  (c.compare != 0 || (1 ≤ c.threshold && c.threshold ≤ 10000)) &&
  (if c.compare = 0 then 60 ≤ c.baseline && c.baseline ≤ 3600 else c.baseline == 0) && c.flags ≤ 1 && c.resv == 0 &&
  Hdr.probation b % c.window == 0

def criteriaValid (b : Img) : Bool := (List.range (sectCount b 8)).all fun i => criterionOk b (critAt b i)

/-- R53's and R48's part of SECTION_CONTENT. -/
def groupsValid (b : Img) : Bool :=
  (List.range 256).all fun g => groupFloor b g < 4096 && (groupLoop b g ≤ 15 || groupLoop b g == 0xFF) &&
    le b (sectOff b 5 + 8 * g + 4) 4 == 0

def sheafOk (b : Img) (n : Nat) : Bool :=
  let es := (List.range 64).map (sheafEntry b n)
  let used := es.takeWhile (· != 0xFFFF)
  used.all (fun e => e < 8192 && e < Hdr.lanterns b) && (es.drop used.length).all (· == 0xFFFF)

def sheavesValid (b : Img) : Bool := (List.range (sectCount b 6)).all (sheafOk b)

end Sys2Proof.Machine
end

