-- ==== Sys2Proof/Machine/TypesPur.lean ====
section
/-!
DEFINITION. State of the purlin engine (chapter 07) beside its registers.
-/
namespace Sys2Proof.Machine

/-- A value m × 2^x: a BF word (R213), or an accumulator value (R215). -/
structure Bf where
  m : Int
  x : Int
  deriving DecidableEq, Repr

def Bf.zero : Bf := ⟨0, 0⟩

/-- A stage of a loop (R214, R232): its vector, the slew governor's control fields, SP_FAST of the stage, and the bound at
which the last sample held the output because the target lay beyond it (R223): 0 none, 1 LO, 2 HI. -/
structure PStage where
  m0 : Int
  m1 : Int
  m2 : Int
  m3 : Int
  x : Int
  /-- 0 none, 1 up, 2 down -/
  dir : Nat
  rest : Nat
  atRest : Bool
  fast : Nat
  spFast : Bool
  bound : Nat
  deriving DecidableEq, Repr

/-- A stage that has never run: an empty vector with exponent 0 (log entry 20). -/
def PStage.reset : PStage := ⟨0, 0, 0, 0, 0, 0, 0, true, 0, false, 0⟩

/-- A loop (R230, R239–R244). -/
structure PLoop where
  stages : Vector PStage 8
  frozen : Bool
  /-- a sample has run since the loop was initialised (R236) -/
  sampled : Bool
  /-- output of the last sample that was not held, with r inside the band (R243) -/
  good : Bf
  /-- samples with r outside the band (R242), and samples in a row that count towards AUTO_RESUME (R244) -/
  outside : Nat
  okRun : Nat
  /-- held samples in a row (R230) -/
  heldRun : Nat
  /-- samples in a row with and without the cap condition (R239) -/
  capRun : Nat
  capOff : Nat
  /-- the course in which event 36 last fired for the loop (R240) -/
  evt36 : Option Nat
  deriving DecidableEq, Repr

def PLoop.reset : PLoop := ⟨Vector.replicate 8 PStage.reset, false, false, Bf.zero, 0, 0, 0, 0, 0, none⟩

/-- A pulse input (R228): the times of its rising edges, newest first, in µs; the start of a pulse in progress; the width
and the end of the last complete pulse. -/
structure Pls where
  edges : List Nat
  high : Option Nat
  width : Nat
  endAt : Option Nat
  deriving DecidableEq, Repr

/-- One slot's model sums (R171, R225): the slot, and MODEL_NOW, MODEL_TGT and LIT_COUNT by feeder. -/
structure ModelEntry where
  slot : Nat
  now : List Nat
  tgt : List Nat
  lit : List Nat
  deriving DecidableEq, Repr

structure Pur where
  loops : Vector PLoop 16
  /-- the filtered code of AIN0 and AIN1 (R227) -/
  ain : Vector Bf 2
  pls : Vector Pls 2
  /-- slot updates, newest first (R225) -/
  hist : List ModelEntry
  /-- the last value submitted for each loop group (R236) -/
  submitted : Vector Nat 16
  /-- per feeder, the course's sum of residuals and the number of valid snapshots (R245) -/
  residSum : Vector Int 4
  residN : Vector Nat 4
  deriving DecidableEq, Repr

def Pur.reset : Pur :=
  { loops := Vector.replicate 16 PLoop.reset, ain := Vector.replicate 2 Bf.zero,
    pls := Vector.replicate 2 ⟨[], none, 0, none⟩, hist := [], submitted := Vector.replicate 16 4096,
    residSum := Vector.replicate 4 0, residN := Vector.replicate 4 0 }

end Sys2Proof.Machine
end

