-- ==== Sys2Proof/Machine/BfArith.lean ====
section
/-!
DEFINITION. The purlin engine's block-floating arithmetic (R213, R215–R217), its stages (R222–R225, R232–R234), and
section 0x000D of a bundle with its checks (R218, R235, R241, R251, R252).
-/
namespace Sys2Proof.Machine

/-! ### Words and the accumulator -/

/-- The value of a BF word (R213). -/
def Bf.ofWord (w : Nat) : Bf := ⟨signed 24 (w / 256), signed 8 w⟩

/-- A right shift that adds half of the last retained place and shifts arithmetically (R215); none for `n = 0`. -/
def shiftRight (v : Int) (n : Nat) : Int := if n = 0 then v else (v + 2 ^ (n - 1)) / 2 ^ n

/-- A value's mantissa at exponent `x`. -/
def Bf.at' (b : Bf) (x : Int) : Int :=
  if x ≤ b.x then b.m * 2 ^ (b.x - x).toNat else shiftRight b.m (x - b.x).toNat

/-- The exponent of a sum: the lowest among the terms, raised as far as every term needs to fit in 47 bits (R215). -/
def sumExp (ts : List Bf) : Int :=
  let lo := ts.foldl (fun x t => min x t.x) ((ts.head?.map Bf.x).getD 0)
  let k := ((List.range 700).find? fun k => ts.all fun t => decide ((t.at' (lo + k)).natAbs < 2 ^ 47)).getD 700
  lo + k

/-- The 48-bit signed accumulator (R215). Terms of 47 bits can add up to more than it holds, which the rules leave open (log entry 66). -/
def acc48 (v : Int) : Int := if -2 ^ 47 ≤ v ∧ v < 2 ^ 47 then v else signed 48 (Config.accOverflow v)

/-- A sum of products or terms in the accumulator (R215). -/
def Bf.sum (ts : List Bf) : Bf := ⟨acc48 (ts.foldl (fun v t => v + t.at' (sumExp ts)) 0), sumExp ts⟩

def Bf.mul (a b : Bf) : Bf := ⟨a.m * b.m, a.x + b.x⟩
def Bf.neg (a : Bf) : Bf := ⟨-a.m, a.x⟩

/-- A mantissa fits in 24 bits. -/
def fits24 (v : Int) : Bool := decide (-8388608 ≤ v) && decide (v ≤ 8388607)

/-- The least right shift that brings a value to a 24-bit mantissa (R215). -/
def Bf.narrow (b : Bf) : Bf :=
  let n := ((List.range 64).find? fun n => fits24 (shiftRight b.m n)).getD 64
  ⟨shiftRight b.m n, b.x + n⟩

def Bf.ofInt (v : Int) : Bf := Bf.narrow ⟨v, 0⟩

/-- `a < b` as values. -/
def Bf.lt (a b : Bf) : Bool := decide (a.at' (min a.x b.x) < b.at' (min a.x b.x))
def Bf.le (a b : Bf) : Bool := !Bf.lt b a

/-- Rounded to an integer (R235). -/
def Bf.toInt (b : Bf) : Int := b.at' 0

/-- The value that a BF word holds of a value (R213, R215): a 24-bit mantissa and an 8-bit exponent; saturated where the exponent has no
room. -/
def Bf.stored (b : Bf) : Bf :=
  let n := b.narrow
  if n.x < -128 then ⟨n.at' (-128), -128⟩
  else if 127 < n.x then (if n.m = 0 then ⟨0, 127⟩ else ⟨if 0 < n.m then 8388607 else -8388608, 127⟩)
  else n

/-- The BF word of a value. -/
def Bf.toWord (b : Bf) : Nat := ((b.stored.m % 2 ^ 24) * 256 + b.stored.x % 256).toNat

/-! ### Write-back and renormalisation -/

/-- A state word written back at exponent `x`, and whether it saturated (R216). -/
def writeBack (b : Bf) (x : Int) : Int × Bool :=
  let v := b.at' x
  if fits24 v then (v, false) else (if 0 < v then 8388607 else -8388608, true)

def PStage.largest (s : PStage) : Nat := max (max s.m0.natAbs s.m1.natAbs) (max s.m2.natAbs s.m3.natAbs)

def PStage.mapWords (s : PStage) (f : Int → Int) : PStage := { s with m0 := f s.m0, m1 := f s.m1, m2 := f s.m2, m3 := f s.m3 }

/-- R217: the vector renormalised, and whether SAT_NUM is to be set. -/
def PStage.renorm (s : PStage) : PStage × Bool :=
  if s.largest = 0 then (s, false)
  else if s.largest < 2097152 then
    let n := ((List.range 24).find? fun n => decide (2097152 ≤ s.largest * 2 ^ n)).getD 0
    let n := min n (s.x + 128).toNat
    ({ s.mapWords (fun m => m * 2 ^ n) with x := s.x - n }, false)
  else
    let n := ((List.range 64).find? fun n => decide ((s.mapWords (fun m => shiftRight m n)).largest < 4194304)).getD 0
    if 127 < s.x + n then ({ s.mapWords (fun m => shiftRight m (127 - s.x).toNat) with x := 127 }, true)
    else ({ s.mapWords (fun m => shiftRight m n) with x := s.x + n }, false)

/-- The output of a stage, M0. -/
def PStage.out (s : PStage) : Bf := ⟨s.m0, s.x⟩

/-- A vector that holds `y` in one word, and zeros beside it, renormalised (R249). -/
def PStage.holding (s : PStage) (y : Bf) (f : Int → PStage → PStage) : PStage :=
  let n := y.narrow
  (f n.m { s with m0 := 0, m1 := 0, m2 := 0, m3 := 0, x := if n.m = 0 then s.x else n.x }).renorm.1

/-! ### Stages -/

/-- The loop record's stage `s` at offset `o`: its fields (R251). -/
structure StageCfg where
  kind : Nat
  antiwindup : Bool
  invert : Bool
  spWatch : Bool
  ins : List Nat
  param : Nat
  c : List Bf
  deriving DecidableEq, Repr

def stageCfg (b : Img) (o s : Nat) : StageCfg :=
  let q := o + 96 + 32 * s
  let f := le b (q + 1) 1
  ⟨le b q 1, bits f 0 0 == 1, bits f 1 1 == 1, bits f 2 2 == 1, (List.range 4).map (fun k => le b (q + 2 + k) 1), le b (q + 6) 2,
    (List.range 6).map (fun k => Bf.ofWord (le b (q + 8 + 4 * k) 4))⟩

def StageCfg.coef (g : StageCfg) (k : Nat) : Bf := g.c.getD k Bf.zero

/-- What a sample knows beside the stage: whether `i` is held low or high by the final LIMIT (R223), CAP_UNREACH, the
model sums and the history (R224, R225), the period in 100 µs, and the value that TRACK asks of a stage (R247). -/
structure StageEnv where
  bound : Nat
  cap : Bool
  model : Nat → Nat → Nat
  delayed : Nat → Nat → Nat
  period : Nat
  track : Option Bf

/-- R223: `i` is left unchanged. `INVERT` reverses the direction. -/
def holdsI (g : StageCfg) (e : StageEnv) (push : Int) : Bool :=
  let up := if g.invert then decide (push < 0) else decide (0 < push)
  let down := if g.invert then decide (0 < push) else decide (push < 0)
  g.antiwindup && ((e.bound == 1 && down) || (e.bound == 2 && up) || (e.cap && down))

/-- The sum over the masked feeders of one of the sums, as a BF factor. -/
def maskSum (q : Nat → Nat) (mask : Nat) : Bf :=
  (Bf.sum (((List.range 4).filter fun f => bits mask f f == 1).map fun f => Bf.ofInt (q f))).narrow

/-- PI and PID (R222): `y`, `i`, `d`, `e`. -/
def piSample (g : StageCfg) (e : StageEnv) (s : PStage) (u0 u1 : Bf) : PStage × Bool :=
  let er := (Bf.sum [u0, u1.neg]).narrow
  let inc := (g.coef 1).mul er
  let pid := g.kind == 3
  let d : Bf := if pid then
      Bf.sum [(g.coef 3).mul ⟨s.m2, s.x⟩, (g.coef 2).mul (Bf.sum [er, ⟨-s.m3, s.x⟩]).narrow]
    else Bf.zero
  let p := (g.coef 0).mul er
  let ds := if pid then [d] else []
  let i : Bf := match e.track with
    | some v => Bf.sum ([v, p.neg] ++ ds.map Bf.neg)
    | none => if holdsI g e inc.m then ⟨s.m1, s.x⟩ else Bf.sum [⟨s.m1, s.x⟩, inc]
  let y := match e.track with
    | some v => v
    | none => Bf.sum ([p, i] ++ ds)
  let wy := writeBack y s.x
  let wi := writeBack i s.x
  let wd := if pid then writeBack d s.x else (0, false)
  let we := if pid then writeBack er s.x else (0, false)
  ({ s with m0 := wy.1, m1 := wi.1, m2 := wd.1, m3 := we.1 }, wy.2 || wi.2 || wd.2 || we.2)

/-- The slew governor on integers (R233): the target `t`, the present output, the candidates one RISE above and one FALL
below it, and DWELL. The answer: the new output, DIR, REST, AT_REST, and whether the move was a full one. -/
def governor (t y rise fall : Int) (dwell dir rest : Nat) (atRest : Bool) : Int × Nat × Nat × Bool × Bool :=
  if y = t then (y, dir, min (rest + 1) 65535, true, false)
  else if atRest ∧ rest < dwell ∧ ((y < t ∧ dir = 2) ∨ (t < y ∧ dir = 1)) then (y, dir, rest + 1, true, false)
  else if y < t then
    let n := min rise t
    (n, 1, 0, n == t, decide (rise ≤ t))
  else
    let n := max fall t
    (n, 2, 0, n == t, decide (t ≤ fall))

/-- LIMIT (R232–R234). The target and the candidates are taken at the vector's exponent, unlimited; the output is stored there, and may
saturate short of its target. -/
def limitSample (g : StageCfg) (e : StageEnv) (s : PStage) (u0 : Bf) : PStage × Bool :=
  match e.track with
  | some v =>
    let w := writeBack v s.x
    ({ s with m0 := w.1, bound := 0, fast := 0, spFast := false }, w.2)
  | none =>
    let lo := g.coef 0
    let hi := g.coef 1
    let t := (if Bf.lt u0 lo then lo else if Bf.lt hi u0 then hi else u0).at' s.x
    let rise := (Bf.sum [s.out, g.coef 2]).at' s.x
    let fall := (Bf.sum [s.out, (g.coef 3).neg]).at' s.x
    let (n, dir, rest, atRest, full) := governor t s.m0 rise fall g.param s.dir s.rest s.atRest
    let w := writeBack ⟨n, s.x⟩ s.x
    let gap : Int := (t - w.1).natAbs
    let wg := writeBack ⟨gap, s.x⟩ s.x
    let fast := if g.spWatch && w.1 != s.m0 && full && !w.2 && decide (s.m1 < gap) then s.fast + 1 else 0
    let bound := if Bf.lt u0 lo && w.1 == lo.at' s.x then 1 else if Bf.lt hi u0 && w.1 == hi.at' s.x then 2 else 0
    ({ s with
       m0 := w.1, m1 := if g.spWatch then wg.1 else s.m1, dir := dir, rest := rest, atRest := atRest && !w.2, fast := fast,
       spFast := decide (0 < fast) && (s.spFast || decide (10000 < fast * e.period)), bound := bound },
      w.2 || (g.spWatch && wg.2))

/-- One sample of a stage (R222), and whether a word saturated. Its vector is renormalised after the sample (R217). -/
def stageSample (g : StageCfg) (e : StageEnv) (s : PStage) (u : Nat → Bf) : PStage × Bool :=
  let one (y : Bf) : PStage × Bool :=
    let w := writeBack y s.x
    ({ s with m0 := w.1 }, w.2)
  match g.kind with
  | 1 => one ((g.coef 0).mul (u 0))
  | 2 => piSample g e s (u 0) (u 1)
  | 3 => piSample g e s (u 0) (u 1)
  | 4 =>
    let w := writeBack (Bf.sum [(g.coef 0).mul (u 0), (g.coef 1).mul ⟨s.m1, s.x⟩, ((g.coef 2).mul s.out).neg]) s.x
    let v := writeBack (u 0) s.x
    ({ s with m0 := w.1, m1 := v.1 }, w.2 || v.2)
  | 5 =>
    let mask := bits g.param 3 0
    let tgt := maskSum (e.model 1) mask
    let del := maskSum (e.delayed (bits g.param 13 8)) mask
    one (Bf.sum [u 0, (g.coef 0).mul (Bf.sum [tgt, del.neg]).narrow])
  | 6 => one (Bf.sum ((List.range 4).map fun k => (g.coef k).mul (u k)))
  | 7 => one ((g.coef 0).mul (maskSum (e.model (bits g.param 5 4)) (bits g.param 3 0)))
  | _ => limitSample g e s (u 0)

/-! ### Section 0x000D -/

def purOff (b : Img) : Nat := sectOff b 13
/-- The bundle has a purlin section (it is not a required one, R33). -/
def purHas (b : Img) : Bool := (sect b 13).isSome
def loopCount (b : Img) : Nat := if purHas b then le b (purOff b) 1 else 0
def lampsMask (b : Img) : Nat := if purHas b then le b (purOff b + 1) 1 else 0
def lampsDelay (b : Img) : Nat := le b (purOff b + 2) 1
def feedOffset (b : Img) (f : Nat) : Nat := le b (purOff b + 4 + 4 * f) 4
def srcOff (b : Img) (n : Nat) : Nat := purOff b + 32 + 16 * n
def srcMode (b : Img) (n : Nat) : Nat := if purHas b then le b (srcOff b n) 1 else 0
def srcFilter (b : Img) (n : Nat) : Nat := le b (srcOff b n + 1) 1
/-- A pulse source's gate, in µs. -/
def srcGate (b : Img) (n : Nat) : Nat := 10000 * le b (srcOff b n + 2) 2
def srcGain (b : Img) (n : Nat) : Bf := Bf.ofWord (le b (srcOff b n + 4) 4)
def srcOffset (b : Img) (n : Nat) : Bf := Bf.ofWord (le b (srcOff b n + 8) 4)
def loopRec (b : Img) (k : Nat) : Nat := purOff b + 96 + 352 * k

/-- The record of loop `l`, if the bundle holds one. -/
def loopOff (b : Img) (l : Nat) : Option Nat :=
  ((List.range (loopCount b)).find? fun k => le b (loopRec b k) 1 == l).map (loopRec b)

namespace LoopC
def stages (b : Img) (o : Nat) : Nat := le b (o + 1) 1
def dest (b : Img) (o : Nat) : Nat := le b (o + 2) 1
def index (b : Img) (o : Nat) : Nat := le b (o + 3) 1
def period (b : Img) (o : Nat) : Nat := le b (o + 4) 4
def spSrc (b : Img) (o : Nat) : Nat := le b (o + 8) 1
def fbSrc (b : Img) (o : Nat) : Nat := le b (o + 9) 1
def measStage (b : Img) (o : Nat) : Nat := le b (o + 10) 1
def modelStage (b : Img) (o : Nat) : Nat := le b (o + 11) 1
def bandLo (b : Img) (o : Nat) : Bf := Bf.ofWord (le b (o + 12) 4)
def bandHi (b : Img) (o : Nat) : Bf := Bf.ofWord (le b (o + 16) 4)
def bandN (b : Img) (o : Nat) : Nat := le b (o + 20) 2
def flags (b : Img) (o : Nat) : Nat := le b (o + 22) 1
def enabled (b : Img) (o : Nat) : Bool := bits (flags b o) 0 0 == 1
def fallback (b : Img) (o : Nat) : Bool := bits (flags b o) 1 1 == 1
def autoResume (b : Img) (o : Nat) : Bool := bits (flags b o) 2 2 == 1
def ramp (b : Img) (o : Nat) : Nat := le b (o + 23) 1
def spFail (b : Img) (o : Nat) : Bf := Bf.ofWord (le b (o + 24) 4)
def profile (b : Img) (o : Nat) : Nat := le b (o + 28) 1
def luxGroup (b : Img) (o : Nat) : Nat := le b (o + 29) 1
def planSp (b : Img) (o k : Nat) : Bf := Bf.ofWord (le b (o + 32 + 4 * k) 4)
end LoopC

/-- Stage `s` feeds the final LIMIT directly. -/
def feedsFinal (b : Img) (o l s : Nat) : Bool :=
  let g := stageCfg b o (LoopC.stages b o - 1)
  g.kind == 8 && (g.ins.getD 0 0 == 0x10 + s || g.ins.getD 0 0 == 0x80 + 8 * l + s)

/-- R249 on a loop: the final LIMIT at the value in force at the destination, and the PI and PID stages that feed it. -/
def initLoop (b : Img) (o l : Nat) (y : Bf) (p : PLoop) : PLoop :=
  let last := LoopC.stages b o - 1
  let stages := Vector.ofFn fun (s : Fin 8) =>
    let st : PStage := { p.stages[s] with dir := 0, rest := 0, atRest := true, fast := 0, spFast := false, bound := 0 }
    let g := stageCfg b o s
    if s.val = last ∧ g.kind = 8 then st.holding y fun v z => { z with m0 := v }
    else if (g.kind = 2 ∨ g.kind = 3) ∧ s.val < last ∧ feedsFinal b o l s then st.holding y fun v z => { z with m1 := v }
    else { st with m0 := 0, m1 := 0, m2 := 0, m3 := 0 }
  { p with stages := stages, frozen := false, sampled := false, good := y, outside := 0, okRun := 0, heldRun := 0 }

def allZero (b : Img) (o n : Nat) : Bool := (List.range n).all fun i => le b (o + i) 1 == 0

/-- The source codes of R226. -/
def srcCodeOk (c : Nat) : Bool :=
  c ≤ 6 || (0x10 ≤ c && c ≤ 0x14) || (0x20 ≤ c && c ≤ 0x2E && c % 4 != 3) || c == 0x40

/-- R218. -/
def periodOk (p : Nat) : Bool :=
  1 ≤ p && p ≤ 100000 && (10000 % p == 0 || (p % 10000 == 0 && 3600 % (p / 10000) == 0))

def srcOk (b : Img) (n : Nat) : Bool :=
  let o := srcOff b n
  le b o 1 ≤ 2 && le b (o + 12) 4 == 0 &&
  (if n < 2 then le b (o + 1) 1 ≤ 16 && le b (o + 2) 2 == 0
   else le b (o + 1) 1 == 0 && 1 ≤ le b (o + 2) 2 && le b (o + 2) 2 ≤ 1000)

/-- An input names a stage that exists (R220, R252). -/
def inputOk (b : Img) (o c : Nat) : Bool :=
  if c ≤ 2 then true
  else if 0x10 ≤ c ∧ c ≤ 0x17 then c - 0x10 < LoopC.stages b o
  else if 0x80 ≤ c then
    match loopOff b ((c - 0x80) / 8) with
    | some q => (c - 0x80) % 8 < LoopC.stages b q
    | none => false
  else false

/-- How many coefficients and inputs a kind uses (R222). -/
def kindUses (k : Nat) : Nat × Nat :=
  match k with
  | 1 => (1, 1) | 2 => (2, 2) | 3 => (4, 2) | 4 => (3, 1) | 5 => (1, 1) | 6 => (4, 4) | 7 => (1, 0) | _ => (4, 1)

def stageOk (b : Img) (o s : Nat) : Bool :=
  let q := o + 96 + 32 * s
  let g := stageCfg b o s
  let mask : Bool :=
    if g.kind = 5 then bits g.param 7 4 == 0 && bits g.param 15 14 == 0
    else if g.kind = 7 then bits g.param 5 4 != 3 && bits g.param 15 6 == 0
    else g.kind == 8 || g.param == 0
  1 ≤ g.kind && g.kind ≤ 8 && le b (q + 1) 1 < 8 && g.ins.all (inputOk b o) && mask &&
  allZero b (q + 8 + 4 * (kindUses g.kind).1) (24 - 4 * (kindUses g.kind).1) &&
  (g.kind != 8 || (!(g.coef 1).lt (g.coef 0) && decide (0 < (g.coef 2).m) && decide (0 < (g.coef 3).m)))

/-- R241: both stages named or neither, each of a kind that the residual admits. -/
def residOk (b : Img) (o : Nat) : Bool :=
  let me := LoopC.measStage b o
  let mo := LoopC.modelStage b o
  let ok (s : Nat) := s < LoopC.stages b o && [1, 5, 6, 7].contains (stageCfg b o s).kind
  (me == 0xFF && mo == 0xFF) || (ok me && ok mo)

/-- R235. -/
def destOk (b : Img) (o : Nat) : Bool :=
  let d := LoopC.dest b o
  d ≤ 3 && (if d = 0 ∨ d = 3 then LoopC.index b o == 0 else LoopC.index b o ≤ 15) &&
  (d == 0 || (stageCfg b o (LoopC.stages b o - 1)).kind == 8)

def loopOk (b : Img) (k : Nat) : Bool :=
  let o := loopRec b k
  le b o 1 ≤ 15 && 1 ≤ LoopC.stages b o && LoopC.stages b o ≤ 8 && destOk b o && periodOk (LoopC.period b o) &&
  srcCodeOk (LoopC.spSrc b o) && srcCodeOk (LoopC.fbSrc b o) && (LoopC.bandLo b o).lt (LoopC.bandHi b o) &&
  1 ≤ LoopC.bandN b o && LoopC.flags b o < 8 && LoopC.ramp b o ≤ 15 && le b (o + 30) 2 == 0 && residOk b o &&
  (List.range (LoopC.stages b o)).all (stageOk b o) &&
  allZero b (o + 96 + 32 * LoopC.stages b o) (32 * (8 - LoopC.stages b o)) &&
  (List.range k).all fun j =>
    le b (loopRec b j) 1 != le b o 1 &&
    (LoopC.dest b o == 0 || LoopC.dest b (loopRec b j) != LoopC.dest b o || LoopC.index b (loopRec b j) != LoopC.index b o)

/-- R251 and R252; a bundle without the section holds no loop. -/
def purlinValid (b : Img) : Bool :=
  !purHas b ||
  (loopCount b ≤ 16 && lampsMask b < 16 && lampsDelay b ≤ 63 && le b (purOff b + 3) 1 == 0 && allZero b (purOff b + 20) 12 &&
   sectLen b 13 == 96 + 352 * loopCount b && (List.range 4).all (srcOk b) && (List.range (loopCount b)).all (loopOk b))

end Sys2Proof.Machine
end

