-- ==== Sys2Proof/Machine/Channel.lean ====
section
/-!
DEFINITION. Channel and hop tables, their checks, and airtime (R81, R84, R86, R91–R96, R594), with the state of a lane
beside its registers (R98–R106).
-/
namespace Sys2Proof.Machine

/-- A channel entry of a radio lane (R92) or of a power-line lane (R93); the fields that the lane's kind lacks are 0. -/
structure Chan where
  mode : Nat
  /-- POWER in 0.5 dB steps, or LEVEL in dB of attenuation -/
  power : Nat
  rxDiv : Bool
  txFallback : Bool
  preamble : Nat
  freq : Nat
  hopStart : Nat
  hopLen : Nat
  hopStep : Nat
  fec : Bool
  toneMap : Nat
  deriving DecidableEq, Repr

def chanOff (b : Img) (l c : Nat) : Nat := sectOff b 7 + 16 * (256 * l + c)

/-- The channel entry at a byte offset: R92 for a radio lane, R93 for a power line. -/
def chanFrom (b : Img) (o : Nat) (radio : Bool) : Chan :=
  if radio then
    ⟨le b o 1, le b (o + 1) 1, bits (le b (o + 2) 1) 0 0 == 1, bits (le b (o + 2) 1) 1 1 == 1, le b (o + 3) 1, le b (o + 4) 4,
      le b (o + 8) 2, le b (o + 10) 1, le b (o + 11) 1, bits (le b (o + 12) 1) 0 0 == 1, 0⟩
  else
    ⟨le b o 1, le b (o + 1) 1, false, false, 0, 0, 0, 0, 0, false, le b (o + 4) 4⟩

def chanAt (b : Img) (l c : Nat) : Chan := chanFrom b (chanOff b l c) (decide (l < 4))

def chanPresent (b : Img) (l c : Nat) : Bool := le b (chanOff b l c) 1 != 0

/-- Pool entry `i`, a centre frequency in kHz (R91). -/
def hopFreq (b : Img) (i : Nat) : Nat := le b (sectOff b 7 + 32768 + 4 * i) 4

/-- The frequency in kHz of a cell whose first slot is `s` at course position `c` (R94). -/
def cellFreq (b : Img) (e : Chan) (c s : Nat) : Nat :=
  if e.hopLen = 0 then e.freq else hopFreq b (e.hopStart + e.hopStep * (100 * c + s) % e.hopLen)

/-- Channel spacing in kHz by radio mode (R81). -/
def spacing (mode : Nat) : Nat :=
  if mode < 0x12 then 200 else if mode < 0x20 then 400 else if mode < 0x30 then 1200 else 800

/-- R81: the modes of a band. -/
def radioMode (band mode : Nat) : Bool :=
  mode == 0x10 || (mode == 0x11 && band == 0) || (mode == 0x12 && band == 1) || mode == 0x13 ||
  (0x20 ≤ mode && mode ≤ 0x26) || (0x30 ≤ mode && mode ≤ 0x36)

/-- R86: the power-line modes. -/
def plcMode (mode : Nat) : Bool := (0x40 ≤ mode && mode ≤ 0x47) || (0x50 ≤ mode && mode ≤ 0x57)

/-- R84's ranges in kHz with their caps in 0.5 dB steps. -/
def ranges (band : Nat) : List (Nat × Nat × Nat) :=
  if band = 0 then [(863000, 868600, 28), (868700, 869200, 28), (869400, 869650, 54), (869700, 870000, 28)]
  else [(902000, 928000, 54)]

def freqOk (band mode power freq : Nat) : Bool :=
  (ranges band).any fun (lo, hi, cap) => lo + spacing mode / 2 ≤ freq && freq + spacing mode / 2 ≤ hi && power ≤ cap

/-- A radio entry meets R81, R84 and R92. -/
def radioEntryOk (b : Img) (band l c : Nat) : Bool :=
  let e := chanAt b l c
  let o := chanOff b l c
  let fsk := e.mode < 0x20
  radioMode band e.mode && e.power ≤ 54 && le b (o + 2) 1 < 4 && (if fsk then 4 ≤ e.preamble && e.preamble ≤ 64 else e.preamble == 0) &&
  le b (o + 12) 1 < 4 && (!e.fec || fsk) && le b (o + 13) 3 == 0 &&
  (if e.hopLen = 0 then e.hopStep == 0 && freqOk band e.mode e.power e.freq
   else 2 ≤ e.hopLen && e.hopLen ≤ 64 && e.freq == 0 && 1 ≤ e.hopStep && e.hopStep < e.hopLen && Nat.gcd e.hopStep e.hopLen == 1 &&
     e.hopStart + e.hopLen ≤ sectCount b 7 &&
     (List.range e.hopLen).all fun i => freqOk band e.mode e.power (hopFreq b (e.hopStart + i)))

/-- A power-line entry meets R86 and R93. -/
def plcEntryOk (b : Img) (l c : Nat) : Bool :=
  let e := chanAt b l c
  let o := chanOff b l c
  plcMode e.mode && e.power ≤ 24 && le b (o + 2) 2 == 0 && le b (o + 8) 8 == 0 && e.toneMap != 0 &&
  e.toneMap < (if e.mode < 0x50 then 2 ^ 6 else 2 ^ 24)

/-- R91–R95 for section 0x0007. -/
def channelsValid (b : Img) (band : Nat) : Bool :=
  sectCount b 7 ≤ 4096 && sectLen b 7 == 32768 + 4 * sectCount b 7 &&
  (List.range 8).all fun l => (List.range 256).all fun c =>
    !chanPresent b l c || (if l < 4 then radioEntryOk b band l c else plcEntryOk b l c)

/-- R38 for one word: an assigned action, PREF and SEAT, a present channel entry, and HOP_LEN 0 for a beacon (R128). -/
def wordOk (b : Img) (l w : Nat) : Bool :=
  prefOk b w && (CellW.action w == 0 || CellW.action w == 10 || chanPresent b l (CellW.chan w)) &&
  (CellW.action w != 4 || (chanAt b l (CellW.chan w)).hopLen == 0)

/-- CELL_INVALID: R38 and R40 over every template. -/
def cellsValid (b : Img) : Bool :=
  (List.range (Hdr.templates b)).all fun t => (List.range 8).all fun l =>
    laneShape b t l 100 0 0 0 && joinOrder b t l && (List.range 100).all fun s => wordOk b l (cellWord b t s l)

/-- Ones in the low `n` bits of a mask. -/
def ones (v n : Nat) : Nat := ((List.range n).filter fun i => bits v i i == 1).length

/-- Airtime of a PSDU of `n` octets on a channel entry, in thirds of a microsecond: every duration of R96 is a whole
number of them, so the result is exact (R594). -/
def airtime (e : Chan) (n : Nat) : Nat :=
  let body := if e.fec then 16 * (2 + n) + 16 else 8 * (2 + n)
  let head := 8 * (e.preamble + 2)
  let rates1 : List Nat := [100, 200, 400, 800, 1200, 1600, 2400]
  let rates2 : List Nat := [50, 100, 200, 400, 600, 800, 1200]
  let ofdm (h rate : Nat) : Nat := (h + ((8 * n + 6) * 100 + (12 * rate - 1)) / (12 * rate)) * 360
  let m := e.mode % 16
  let q := if m = 0 then 8 else 16
  let payload := 2 * (8 * (n + q) + 6)
  let symbols (c : Nat) : Nat :=
    let b := match m with | 0 => 0 | 1 => 1 | 2 => 2 | 3 => 3 | 4 => 1 | 5 => 2 | 6 => 3 | _ => 4
    if m = 0 then (4 * payload + (c - 1)) / c else (payload + (c * b - 1)) / (c * b)
  match e.mode / 16 with
  | 1 =>
    if e.mode = 0x10 then (head + body) * 60 else if e.mode = 0x11 then (head + body) * 30
    else if e.mode = 0x12 then (head + body) * 20 else head * 30 + body * 15
  | 2 => ofdm 12 (rates1.getD m 100)
  | 3 => ofdm 18 (rates2.getD m 50)
  | 4 => 3 * 6080 + 3 * 9035 + symbols (6 * ones e.toneMap 6) * 3 * 695
  | _ => 6080 + 3 * 2780 + symbols (3 * ones e.toneMap 24) * 695

/-- The longest airtime that a cell of `n` slots takes (R45), in thirds of a microsecond. -/
def airLimit (n : Nat) : Nat := 30000 * n - 2250

/-- The PSDU of a TLP frame on a lane: the 4-octet FCS on radio (R82), none on power line (R88). -/
def psduLen (l frameLen : Nat) : Nat := if l < 4 then frameLen + 4 else frameLen

/-- Two frequencies' occupied bands share a range of non-zero width (R97). Frequencies and spacings in kHz. -/
def bandsOverlap (f1 s1 f2 s2 : Nat) : Bool := decide (2 * f1 < 2 * f2 + s1 + s2) && decide (2 * f2 < 2 * f1 + s1 + s2)

/-- A lane's state beside its registers. -/
structure Lane where
  /-- frames in a row that were not OK, and whether power is reduced for it, on the own antenna (0) and the partner's (1) (R102) -/
  notOk : Vector Nat 2
  reduced : Vector Bool 2
  /-- good antenna probes in a row (R103), or DRV_SHORT probes without current limit (R105) -/
  goodProbes : Nat
  /-- frames in a row with low forward power (TX_LOW) or low driver current (COUPLING_OPEN), and in current limit -/
  lowRun : Nat
  limitRun : Nat
  /-- the course's first transmit cell has begun (R103, R105), and the last frame sent was a probe -/
  txSeen : Bool
  wasProbe : Bool
  /-- 0 cool; 1 reduced; 2 stopped (R104) -/
  thermal : Nat
  /-- a receive cell was executed in this course; a frame was decoded -/
  rxSeen : Bool
  decoded : Bool
  /-- airtime in the run of course positions in progress, in thirds of a microsecond -/
  air : Nat
  /-- the set power of the frame last sent, in 0.5 dB steps -/
  setPower : Int
  /-- the slot in which the frame last sent began, and its airtime in thirds of a microsecond -/
  txSlot : Nat
  txAir : Nat
  /-- skip the cell that the lane could not tune for (R99) -/
  skip : Bool
  deriving DecidableEq, Repr

def Lane.reset : Lane :=
  ⟨Vector.replicate 2 0, Vector.replicate 2 false, 0, 0, 0, false, false, 0, false, false, 0, 0, 0, 0, false⟩

/-- The frame that the lane last sent was on air in slot `abs`: it begins 250 µs into its slot (R30). -/
def Lane.sentIn (g : Lane) (abs : Nat) : Bool :=
  g.txAir != 0 && decide (g.txSlot ≤ abs) && decide (30000 * (abs - g.txSlot) < 750 + g.txAir)

end Sys2Proof.Machine
end

