-- ==== Sys2Proof/Machine/Compose.lean ====
section
/-!
DEFINITION. Level composition, level encoding, ramps and the power model (R140, R141, R155–R165, R170, R595), and the
bundle sections of lanterns: the inventory and the slot schedules (R143–R145, R162, R169).
-/
namespace Sys2Proof.Machine

/-! ### Logarithmic steps -/

/-- The largest `n` in `lo … lo + 2^fuel − 1` with `p n`, for a `p` that falls once. -/
def bisect (p : Nat → Bool) : Nat → Nat → Nat
  | 0, lo => lo
  | k + 1, lo => if p (lo + 2 ^ k) then bisect p k (lo + 2 ^ k) else bisect p k lo

/-- round(4094/3 × log10(num / den)), halves away from zero, for num ≥ den > 0, exactly: with
`n = ⌊log10 ((num/den)^8188)⌋` it is `⌊(n + 3) / 6⌋`. -/
def logSteps (num den : Nat) : Nat :=
  (bisect (fun n => 10 ^ n * den ^ 8188 ≤ num ^ 8188) 15 0 + 3) / 6

/-- scale_offset of R155, for `s` in 1–4096; it is never positive. -/
def scaleOffset (s : Nat) : Int := -(logSteps 4096 s : Int)

/-- gain_offset of R161. -/
def gainOffset (g : Nat) : Int := if 4096 ≤ g then -(logSteps g 4096 : Int) else (logSteps 4096 g : Int)

/-! ### Composition -/

/-- The composed level of R155 from the plan level, the floor, the wave level, the override floor, the scale and the
lantern's limits. A scale above 4,096 is taken as 4,096 (R156). -/
def composeLevel (p f w h s lmin lmax : Nat) : Nat :=
  let l0 := max p (max w h)
  if l0 = 0 then 0 else
  let l1 : Int := if s = 0 then 0 else (l0 : Int) + scaleOffset (min s 4096)
  let l2 : Int := max l1 (min l0 f : Nat)
  if l2 ≤ 0 then 0 else min (max l2.toNat lmin) lmax

/-- The floor alone kept the level up (R238). -/
def floorHolds (p f w h s : Nat) : Bool :=
  let l0 := max p (max w h)
  let l1 : Int := if s = 0 then 0 else (l0 : Int) + scaleOffset (min s 4096)
  decide (l0 ≠ 0) && decide (l1 < (min l0 f : Nat))

/-- The term that supplied l0 (R158): 0 plan, 1 wave, 2 override; ties go to the earlier. -/
def termOf (p w h : Nat) : Nat := if w ≤ p && h ≤ p then 0 else if h ≤ w then 1 else 2

/-- The encoded code E(c) of R161 under FLUX_GAIN `g`. -/
def encodeLevel (c g : Nat) : Nat :=
  if c = 0 then 0 else (min (max ((c : Int) + gainOffset g) 1) 4095).toNat

/-! ### Ramps -/

/-- The increment of a ramp code, in 1/256 code (R141); code 0 jumps. -/
def rampInc (code : Nat) : Nat :=
  [0, 104832, 52416, 20966, 10483, 5242, 3494, 2097, 1048, 524, 349, 175, 87, 35, 17, 6].getD code 0

/-- One step of R141 from `now` towards `target × 256`. -/
def rampStep (now target code : Nat) : Nat :=
  let t := 256 * target
  if code = 0 then t
  else if now ≤ t then min t (now + rampInc code) else max t (now - rampInc code)

/-- Merge a wave entry that takes effect with the wave in force (R134). -/
def mergeWave (e : PendEntry) (back : Nat) (c : Ctx) : Ctx :=
  if c.waveOn then
    let c := if c.wave < e.level then { c with wave := e.level, waveRamp := e.ramp } else c
    if c.waveEnd < e.until' then { c with waveEnd := e.until', back := back } else c
  else { c with waveOn := true, wave := e.level, waveRamp := e.ramp, waveEnd := e.until', back := back }

/-- The contribution of R170 at encoded code `c`, in mW. -/
def contribution (curve : List Nat) (c : Nat) : Nat :=
  let j := min (c / 585) 6
  let p : Int := curve.getD j 0
  let q : Int := curve.getD (j + 1) 0
  ((100 * (p * 585 + (q - p) * ((c : Int) - 585 * j))).tdiv 585).toNat

/-- Of the base commands due at one boundary, the one in force: the latest instant, and of one instant the highest SPAR
(R164). -/
def lastCmd : List PendEntry → Option PendEntry
  | [] => none
  | e :: t =>
    match lastCmd t with
    | none => some e
    | some f => if f.at' < e.at' || (f.at' == e.at' && f.spar < e.spar) then some e else some f

/-- Steps 1–5 of R165 on one context at slot boundary `t`: `cmds` are the base commands due or late, `waves` the wave
entries due or late, each with its BACK code, in order. -/
def slotStep (t : Nat) (cmds : List PendEntry) (waves : List (PendEntry × Nat)) (c : Ctx) : Ctx :=
  let cmd := lastCmd cmds
  let c : Ctx := match cmd with
    | some e => { c with base := e.level, baseRamp := e.ramp }
    | none => c
  let ended := c.waveOn && decide (c.waveEnd ≤ t)
  let returned := ended && decide (c.base < c.wave)
  let back := c.back
  let c : Ctx := if ended then { c with waveOn := false, wave := 0, waveRamp := 0, waveEnd := 0 } else c
  let c : Ctx := waves.foldl (fun (c : Ctx) (p : PendEntry × Nat) => if t < p.1.until' then mergeWave p.1 p.2 c else c) c
  let onWave := c.waveOn && decide (c.base < c.wave)
  let ramp :=
    if onWave then c.waveRamp
    else match cmd with
      | some e => e.ramp
      | none => if returned then back else if c.target = c.base then c.targetRamp else c.baseRamp
  let target := if onWave then c.wave else c.base
  { c with target := target, targetRamp := ramp, now := rampStep c.now target ramp }

/-! ### The inventory and the schedules of a bundle -/

/-- The offset of lantern `i`'s inventory record (R169). -/
def invOff (b : Img) (i : Nat) : Nat := sectOff b 9 + 48 * i
def invEui (b : Img) (i : Nat) : Nat := le b (invOff b i) 8

/-- The lantern whose inventory record carries an EUI. -/
def lanternOf (b : Img) (eui : Nat) : Option Nat := (List.range (Hdr.lanterns b)).find? fun i => invEui b i == eui

/-- The offset of lantern `i`'s schedule record (R143). -/
def schedOff (b : Img) (i : Nat) : Nat := sectOff b 10 + le b (sectOff b 10 + 4 * i) 4

/-- The bytes of the channel blocks from offset `o` on, `n` of them: 16, and 4 for each hop frequency of a radio hop entry. -/
def chanBlocks (b : Img) : Nat → Nat → Nat
  | 0, o => o
  | n + 1, o => chanBlocks b n (o + 16 + (if le b o 1 < 0x40 then 4 * le b (o + 10) 1 else 0))

/-- Where the cell entries of lantern `i`'s record begin, and its length in bytes. -/
def schedCells (b : Img) (i : Nat) : Nat := chanBlocks b (le b (schedOff b i + 15) 1) (schedOff b i + 32)
def schedLen (b : Img) (i : Nat) : Nat := schedCells b i - schedOff b i + 8 * le b (schedOff b i + 16) 1

/-- The bytes of a region of the image. -/
def imgBytes (b : Img) (o n : Nat) : List Byte := (List.range n).map fun i => sget (fun _ => 0) b (o + i)

/-- The schedule record of lantern `i`. -/
def schedRecord (b : Img) (i : Nat) : List Byte := imgBytes b (schedOff b i) (schedLen b i)

/-- Schedule parts of at most 56 bytes (R137). -/
def schedParts (b : Img) (i : Nat) : Nat := (schedLen b i + 55) / 56

/-- LOOP_GROUP of R167: that of the first group that names one. -/
def loopGroupOf (b : Img) (gs : List Nat) : Nat := ((gs.map (groupLoop b)).find? (· != 0xFF)).getD 0xFF

/-- A context's management fields from the bundle (R24, R167, R169); the other fields stay. -/
def fillCtx (b : Img) (i : Nat) (c : Ctx) : Ctx :=
  let o := invOff b i
  let s := schedOff b i
  let gs := (List.range (le b (o + 11) 1)).map fun k => le b (o + 12 + k) 1
  { c with
    inPlan := true, excluded := false, euiRef := i, primary := le b (s + 12) 1, secondary := le b (s + 13) 1,
    relayParent := le b (s + 18) 2, feeder := le b (o + 10) 1, depth := le b (s + 14) 1, groups := gs,
    fluxGain := le b (o + 20) 2, cctOffset := signed 8 (le b (o + 22) 1), loopGroup := loopGroupOf b gs,
    levelMin := le b (o + 24) 2, levelMax := le b (o + 26) 2,
    curve := (List.range 8).map (fun k => le b (o + 28 + 2 * k) 2), zone := le b (o + 44) 2 }

def risingFrom (b : Img) (o : Nat) : Nat → Bool
  | 0 => true
  | n + 1 => le b o 2 ≤ le b (o + 2) 2 && risingFrom b (o + 2) n

/-- R169's ranges of one inventory record. -/
def invOk (b : Img) (i : Nat) : Bool :=
  let o := invOff b i
  le b (o + 8) 2 == i && le b (o + 10) 1 ≤ 3 && le b (o + 11) 1 ≤ 8 &&
  (List.range 8).all (fun k => k < le b (o + 11) 1 || le b (o + 12 + k) 1 == 0) &&
  2048 ≤ le b (o + 20) 2 && le b (o + 20) 2 ≤ 8191 && -64 ≤ signed 8 (le b (o + 22) 1) && signed 8 (le b (o + 22) 1) ≤ 63 &&
  le b (o + 23) 1 == 0 && 1 ≤ le b (o + 24) 2 && le b (o + 24) 2 ≤ le b (o + 26) 2 && le b (o + 26) 2 ≤ 4095 &&
  risingFrom b (o + 30) 6 && (le b (o + 44) 2 ≤ 511 || le b (o + 44) 2 == 0xFFFF)

def distinctEuis (b : Img) (n : Nat) : Bool :=
  (List.range n).all fun i => (List.range i).all fun j => invEui b i != invEui b j

def inventoryValid (b : Img) : Bool :=
  let n := Hdr.lanterns b
  sectCount b 9 == n && sectLen b 9 == 48 * n && (List.range n).all (invOk b) && distinctEuis b n

/-- R162: the members of a sheaf share one CCT_OFFSET. -/
def sheafCctOk (b : Img) : Bool :=
  (List.range (sectCount b 6)).all fun n =>
    let ls := ((List.range 64).map (sheafEntry b n)).filter (· != 0xFFFF)
    ls.all fun l => le b (invOff b l + 22) 1 == le b (invOff b (ls.headD 0) + 22) 1

/-- R144's ranges of one cell entry at offset `o`. -/
def schedCellOk (b : Img) (nchan o : Nat) : Bool :=
  let kind := le b o 1
  let wh := le b (o + 1) 1
  let per := le b (o + 2) 2
  1 ≤ kind && kind ≤ 8 && bits wh 3 3 == 0 && bits wh 7 6 == 0 && bits wh 5 4 < nchan && 1 ≤ per && per ≤ 3600 &&
  3600 % per == 0 && le b (o + 4) 2 < per && le b (o + 6) 1 ≤ 99

/-- The channel block that a cell entry names, as an entry (R143, R144); a mode below 0x40 is a radio lane's. -/
def schedChan (b : Img) (i k : Nat) : Chan :=
  let o := chanBlocks b k (schedOff b i + 32)
  chanFrom b o (decide (le b o 1 < 0x40))

/-- Octets of the longest frame that a lantern begins in its own transmit cells (R112, R138), and of the shortest that it relays: 16 and
the body (DESIGN CHOICE for UP_TX and RELAY_TX, whose frames a bundle does not name; log entry 65). -/
def cellFrame (kind : Nat) : Nat := if kind = 4 then 36 else if kind = 6 then 38 else 24

/-- R145 for a transmit cell: the frame that begins with its tile ends 250 µs before the next tile and 500 µs before the cell's end. A
JOIN begins with a slot of its cell and not with a tile (R147), so that only the cell's end bounds it. -/
def tileOk (b : Img) (i o : Nat) : Bool :=
  let kind := le b o 1
  let wh := le b (o + 1) 1
  let lt := le b (o + 7) 1
  let tileLen := le b (schedOff b i + 17) 1
  let air := airtime (schedChan b i (bits wh 5 4)) (psduLen (bits wh 2 0) (cellFrame kind))
  !(4 ≤ kind && kind ≤ 7) ||
    ((kind == 6 || air ≤ 750 * (tileLen - 1)) && 750 * (1 + bits lt 7 3 * tileLen) + air + 1500 ≤ 30000 * (bits lt 2 0 + 1))

/-- R143's ranges of a record's fixed part, whose INDEX is its place. -/
def schedFixedOk (b : Img) (i : Nat) : Bool :=
  let s := schedOff b i
  let parent := le b (s + 18) 2
  le b (s + 8) 2 == i && le b (s + 10) 1 ≤ 127 && le b (s + 11) 1 ≤ 63 && le b (s + 12) 1 ≤ 7 &&
  (le b (s + 13) 1 ≤ 7 || le b (s + 13) 1 == 0xFF) && le b (s + 14) 1 ≤ 4 && 1 ≤ le b (s + 15) 1 && le b (s + 15) 1 ≤ 4 &&
  1 ≤ le b (s + 16) 1 && le b (s + 16) 1 ≤ 16 && 4 ≤ le b (s + 17) 1 && (parent < Hdr.lanterns b || parent == 0xFFFF) &&
  (le b (s + 20) 2 ≤ 511 || le b (s + 20) 2 == 0xFFFF) && 60 ≤ le b (s + 22) 2 && le b (s + 22) 2 ≤ 900 && le b (s + 28) 4 == 0

def schedOk (b : Img) (i : Nat) : Bool :=
  let s := schedOff b i
  let ends := sectOff b 10 + sectLen b 10
  s + 32 ≤ ends && schedFixedOk b i && s + schedLen b i ≤ ends &&
  (List.range (le b (s + 16) 1)).all fun k =>
    let o := schedCells b i + 8 * k
    schedCellOk b (le b (s + 15) 1) o && tileOk b i o

/-- R143–R145. -/
def schedulesValid (b : Img) : Bool :=
  4 * Hdr.lanterns b ≤ sectLen b 10 && (List.range (Hdr.lanterns b)).all (schedOk b)

end Sys2Proof.Machine
end

