-- ==== Sys2Proof/Machine/TypesSign.lean ====
section
/-!
DEFINITION. State of the eave channels and the gable port (chapter 10) beside their registers.
-/
namespace Sys2Proof.Machine

/-- A slew governor (R233) and the watch of its slope (R327): the output in 1/16 code, DIR, REST, AT_REST, the gap after
the last tick and the ticks in a row in which it grew at full slew. -/
structure Gov where
  out : Nat
  dir : Nat
  rest : Nat
  atRest : Bool
  gap : Nat
  fast : Nat
  deriving DecidableEq, Repr

def Gov.at0 (out : Nat) : Gov := ⟨out, 0, 0, true, 0, 0⟩

/-- How a channel's output is driven (R328, R330): by its compare count, held low, or high-impedance. -/
inductive Drive where
  | pwm | low | highZ
  deriving DecidableEq, Repr

structure EavCh where
  gov : Gov
  /-- the last valid K (R328) -/
  k : Nat
  /-- the compare count loaded (R328); 0 while the output is held off -/
  count : Nat
  drive : Drive
  /-- the course in which event 43 last fired for the channel -/
  evt43 : Option Nat
  /-- good probes in a row while SHORT or STUCK holds the output (R330) -/
  good : Nat
  /-- ticks for which FLT_OFF still holds the output off -/
  fltLeft : Nat
  deriving DecidableEq, Repr

def EavCh.reset : EavCh := ⟨Gov.at0 0, 4096, 0, .low, none, 0, 0⟩

structure Eav where
  chans : Vector EavCh 16
  /-- the executor has reached LISTEN or RUNNING since LITE power-up (R329) -/
  started : Bool
  deriving DecidableEq, Repr

def Eav.reset : Eav := ⟨Vector.replicate 16 EavCh.reset, false⟩

/-- A stored legend (R334). -/
structure Legend where
  lines : Nat
  drivers : Nat
  crc : Nat
  data : List Byte
  deriving DecidableEq, Repr

structure Gbl where
  legends : Vector (Option Legend) 16
  /-- the line whose period runs -/
  line : Nat
  /-- the legend being shown as it stood at its frame boundary, with its number; none while the sign is dark by GBL_SHOW or
  LEGEND_BAD -/
  shown : Option (Nat × Legend)
  /-- the selection or the shown legend changed, to be taken at the next frame boundary -/
  change : Bool
  gov : Gov
  /-- the luminance target at the last tick -/
  target : Nat
  /-- GBL_OE, and the line whose switch is on (R332) -/
  oe : Bool
  lit : Option Nat
  /-- check words in a row that were missing or wrong (R333) -/
  badWords : Nat
  /-- faults of pixels: bit 0 open, bit 1 short, at 256 × line + column (R337) -/
  fmap : Sparse Nat
  /-- ON of the lines in units of 40 ns (R336) -/
  on : Nat
  deriving DecidableEq, Repr

def Gbl.reset : Gbl := ⟨Vector.replicate 16 none, 0, none, false, Gov.at0 0, 0, false, none, 0, [], 0⟩

end Sys2Proof.Machine
end

