-- ==== Sys2Proof/Machine/SignMap.lean ====
section
/-!
DEFINITION. The arithmetic of chapter 10: the level curve F (R140), the gamma table and the PWM (R328), luminaires (R323–
R325), the governors (R327), and the gable port's timing and legends (R331–R336).
-/
namespace Sys2Proof.Machine

/-- ⌊num / den × F(c)⌋ for a code `c` of 1–4,095, with F(c) = 10^(3 × (c − 4,095) / 4,094) (R140), exactly; at most 2^24 − 1. -/
def scaledF (num den c : Nat) : Nat :=
  if num = 0 ∨ c = 0 then 0
  else if num < 2 ^ 24 * den then bisect (fun n => (n * den) ^ 4094 * 10 ^ (3 * (4095 - c)) ≤ num ^ 4094) 24 0 else 0

/-- Entry `i` of the default gamma table: round(65,536 × F(4i)), and 0 for i = 0 (R328). -/
def gammaDefault (i : Nat) : Nat := if i = 0 then 0 else (scaledF 131072 1 (4 * i) + 1) / 2

/-- The duty of a code by a gamma table (R328). -/
def dutyOf (d : Nat → Nat) (t : Nat) : Nat :=
  if t = 0 then 0 else if 4095 ≤ t then 65536
  else
    let i := t / 4
    let hi := if i + 1 = 1024 then 65536 else d (i + 1)
    d i + (hi - d i) * (t % 4) / 4

/-- ln(num / den) in units of 2^−48: the power of two taken out, and the series of artanh. -/
def lnFix (num den : Nat) : Int :=
  let e := (num.log2 : Int) - den.log2
  let n := num * 2 ^ (-e).toNat
  let d := den * 2 ^ e.toNat
  let z := ((n : Int) - d) * 2 ^ 60 / (n + d : Nat)
  let s := (List.range 24).foldl (fun (x : Int × Int) j => (x.1 + x.2 / (2 * j + 1 : Nat), x.2 * z / 2 ^ 60 * z / 2 ^ 60)) (0, z)
  e * 195103586505167 + s.1 / 2 ^ 11

/-- The temperature in 0.1 °C of an NTC input of `r` Ω by the β equation, with R25 in units of 10 Ω (R328), rounded; a free value where
the equation has no result (log entry 28). -/
def ntcTemp (r b r25 : Nat) : Int :=
  let den : Int := 20 * 2 ^ 48 * b + 5963 * lnFix r (10 * r25)
  if r = 0 ∨ b = 0 ∨ r25 = 0 ∨ den ≤ 0 then Config.ntcOpen r b r25
  else roundAway (20 * 5963 * 2 ^ 48 * b - 5463 * den) (2 * den.toNat)

/-- The temperature factor (R328), from COEF, T in 0.1 °C, T_REF and the limits. -/
def tempFactor (coef : Int) (t tref : Int) (kmin kmax : Nat) : Nat :=
  (min (max (4096 + roundAway (4096 * coef * (t - 10 * tref)) 100000) kmin) kmax).toNat

/-- The compare count of a channel of `b` bits (R328). -/
def compareCount (d b : Nat) : Nat := if d = 0 then 0 else max 1 ((d * 2 ^ b + 32768) / 65536)

/-- A governor's tick (R327) towards code `t`; the rates are in 1/16 code, 0 acting as 1. -/
def Gov.tick (g : Gov) (t rise fall dwell : Nat) : Gov :=
  let target : Int := 16 * t
  let y : Int := g.out
  let (n, dir, rest, atRest, full) := governor target y (y + (max rise 1 : Nat)) (y - (max fall 1 : Nat)) dwell g.dir g.rest g.atRest
  let gap := (target - n).natAbs
  ⟨n.toNat, dir, rest, atRest, gap, if n ≠ y ∧ full ∧ g.gap < gap then g.fast + 1 else 0⟩

/-! ### Luminaires (R323–R325) -/

structure Lum where
  mode : Nat
  count : Nat
  first : Nat
  group : Nat
  gain : Nat
  lmax : Nat
  lmin : Nat
  cct : Nat
  warm : Nat
  cool : Nat
  cctOff : Int
  ratio : List Nat
  ovr : Nat
  deriving DecidableEq, Repr

/-- Channels that a luminaire's MODE takes (R324). -/
def Lum.width (l : Lum) : Nat := match l.mode with | 0 => 0 | 1 => 1 | 2 => 2 | _ => l.count + 1

/-- R325 on one luminaire among all: its channels exist, none is another's, and a TUNABLE one has COOL above WARM. -/
def lumBad (ls : List Lum) (i : Nat) : Bool :=
  match ls[i]? with
  | none => false
  | some l =>
    l.mode != 0 &&
    (decide (16 < l.first + l.width) || (l.mode == 2 && decide (l.cool ≤ l.warm)) ||
      (List.range ls.length).any fun j => j != i && match ls[j]? with
        | none => false
        | some k => k.mode != 0 && decide (k.first < l.first + l.width) && decide (l.first < k.first + k.width))

/-- The composed level of R323 from the plan level `p`. -/
def lumLevel (l : Lum) (p : Nat) : Nat :=
  let v := max p l.ovr
  if v = 0 then 0
  else (min (max ((min (max v l.lmin) l.lmax : Nat) + gainOffset l.gain) 1) 4095).toNat

/-- A code with a scale of 0–4,096 taken off; 0 takes the channel to 0 (R324). -/
def scaledCode (c s : Nat) : Nat := if c = 0 ∨ s = 0 then 0 else ((c : Int) + scaleOffset (min s 4096)).toNat

/-- s_1 of a TUNABLE luminaire (R324). -/
def coolShare (l : Lum) : Nat :=
  let n := min (max ((l.cct : Int) + l.cctOff) 0) 255
  let d := l.cool - l.warm
  let x := min (max (n - l.warm) 0) d
  if d = 0 then 0 else (roundAway (4096 * x) d).toNat

/-- The code of channel `k` of a luminaire at composed level `c` (R324). -/
def lumCode (l : Lum) (c k : Nat) : Nat :=
  match l.mode with
  | 0 => 0
  | 1 => c
  | 2 => scaledCode c (if k = 0 then 4096 - coolShare l else coolShare l)
  | _ => scaledCode c (l.ratio.getD k 0)

/-! ### The gable port -/

/-- R331: a geometry is refused. -/
def geomBad (rate lines drivers pre : Nat) : Bool :=
  rate < 100 || 400 < rate || decide (25000000 < (128 * drivers + 16 + 25 * (max pre 1 + 2)) * (rate * lines))

/-- ON in units of 40 ns (R336). -/
def gableOn (rate lines pre l : Nat) : Nat :=
  if l = 0 ∨ rate * lines = 0 then 0 else scaledF (25000000 - 25 * (max pre 1 + 2) * (rate * lines)) (rate * lines) l

/-- A legend record that GBL_LEGEND stores (R334), from the command's data. -/
def legendOf (d : List Byte) (lines drivers : Nat) : Option (Nat × Legend) :=
  let n := lines * 16 * drivers
  let g : Legend := ⟨lle d 1 1, lle d 2 1, lle d 4 4, slice d 16 n⟩
  if d.length = 16 + n ∧ lle d 0 1 ≤ 15 ∧ g.lines = lines ∧ g.drivers = drivers ∧ lle d 3 1 = 0 ∧ lle d 8 8 = 0 ∧ g.crc = crc32 g.data then
    some (lle d 0 1, g)
  else none

/-- A stored legend passes the check of R335. -/
def legendGood (g : Legend) (lines drivers : Nat) : Bool :=
  g.lines == lines && g.drivers == drivers && g.data.length == lines * 16 * drivers && g.crc == crc32 g.data

def pixelLit (g : Legend) (line col : Nat) : Bool := lle g.data (16 * g.drivers * line + col) 1 != 0 && col < 16 * g.drivers
def lineLit (g : Legend) (line : Nat) : Bool := (List.range (16 * g.drivers)).any (pixelLit g line)

end Sys2Proof.Machine
end

