-- ==== Sys2Proof/Machine/TypesMain.lean ====
section
/-!
DEFINITION. The main side as one record: the register file and what each block holds beside its registers.
-/
namespace Sys2Proof.Machine

/-- The main side of the module. `regs` is the register file: words by BAR0 address, an unlisted address reading as its
register's reset word. `out` is what the block has put on its buses and lands, newest first. -/
structure Main where
  regs : Sparse Word
  fuse : Fuse
  host : HostSt
  log : Log
  time : Time
  ylm : Ylm
  lanes : Vector Lane 8
  ctx : CtxSt
  wav : Wav
  pur : Pur
  mir : Mir
  eav : Eav
  gbl : Gbl
  rdg : Rdg
  red : Red
  key : KeySt
  upd : Upd
  pwr : Pwr
  out : List Output
  /-- the counter of free values -/
  free : Nat
  deriving DecidableEq, Repr

def Main.reset : Main :=
  { regs := [], fuse := Fuse.reset, host := HostSt.reset, log := Log.reset, time := Time.reset, ylm := Ylm.reset,
    lanes := Vector.replicate 8 Lane.reset, ctx := CtxSt.reset, wav := Wav.reset, pur := Pur.reset, mir := Mir.reset,
    eav := Eav.reset, gbl := Gbl.reset, rdg := Rdg.reset, red := Red.reset, key := KeySt.reset, upd := Upd.reset,
    pwr := Pwr.reset, out := [], free := 0 }

end Sys2Proof.Machine
end

