-- ==== Sys2Proof/Machine/Ops.lean ====
section
/-!
DEFINITION. The operations that every meaning shares: the register file (R6–R8), the free values, the lands, the skylight
port (R506–R512), and events (R369, R370).
-/
namespace Sys2Proof.Machine

/-! ### The register file -/

/-- PRIO of R371 as DMA_CH_CTRL resets, by channel. -/
def dmaPrio (c : Nat) : Nat := if c < 8 then 1 else if c = 8 then 2 else if c = 9 then 1 else if c = 11 then 3 else 0

/-- What the register at BAR0 address `a` reads after a reset of every class: its row's reset word, with the priorities of
R371, HST_RING_CFG as R381 gives it by kind of ring, and the default gamma table of R328; zero where BAR0 holds no register (R346). -/
def resetWord (a : Nat) : Word :=
  match rowAt a with
  | none => 0
  | some r =>
    if r.base = 0x030100 then BitVec.ofNat 32 (dmaPrio ((a - 0x030100) / 32))
    else if r.base = 0x020108 then (if (a - 0x020108) / 32 < 8 then 0xFF000004 else 0x00000A04)
    else if r.base = 0x0B1000 then
      let w := (a - 0x0B1000) / 4
      BitVec.ofNat 32 (gammaDefault (2 * w) + 65536 * gammaDefault (2 * w + 1))
    else BitVec.ofNat 32 r.reset

/-- Put `v` into the `w` bits at `lo` of a number. -/
def putBits (old lo w v : Nat) : Nat := old % 2 ^ lo + v % 2 ^ w * 2 ^ lo + old / 2 ^ (lo + w) * 2 ^ (lo + w)

/-- The word of the register at an address. -/
def Main.word (m : Main) (a : Nat) : Nat := (sget resetWord m.regs a).toNat

def Main.setWord (m : Main) (a v : Nat) : Main := { m with regs := sset resetWord m.regs a (BitVec.ofNat 32 v) }

/-- A register field, in instance `i`. -/
def Main.get (m : Main) (f : Field) (i : Nat := 0) : Nat := m.word (f.addr i) / 2 ^ f.lo % 2 ^ f.width

/-- Set a register field, leaving the register's other bits. -/
def Main.put (m : Main) (f : Field) (v : Nat) (i : Nat := 0) : Main :=
  m.setWord (f.addr i) (putBits (m.word (f.addr i)) f.lo f.width v)

/-- A one-bit field, or bit `j` of a wider one. -/
def Main.bit (m : Main) (f : Field) (i : Nat := 0) (j : Nat := 0) : Bool := bitOf (m.get f i) j

def Main.putBit (m : Main) (f : Field) (on : Bool) (i : Nat := 0) (j : Nat := 0) : Main :=
  m.put f (putBits (m.get f i) j 1 (natOf on)) i

/-- A counter that wraps modulo 2^32 takes `n` more. -/
def Main.count (m : Main) (f : Field) (i : Nat := 0) (n : Nat := 1) : Main := m.put f (m.get f i + n) i

/-- A field that saturates at its width takes one more. -/
def Main.countSat (m : Main) (f : Field) (i : Nat := 0) : Main := m.put f (min (m.get f i + 1) (2 ^ f.width - 1)) i

/-- A value across two word registers, low first. -/
def Main.get64 (m : Main) (lo hi : Field) (i : Nat := 0) : Nat := m.get lo i + 2 ^ 32 * m.get hi i
def Main.put64 (m : Main) (lo hi : Field) (v : Nat) (i : Nat := 0) : Main := (m.put lo (v % 2 ^ 32) i).put hi (v / 2 ^ 32) i

/-- Put words at consecutive word addresses. -/
def Main.putWords (m : Main) (a : Nat) : List Nat → Main
  | [] => m
  | w :: ws => (m.setWord a w).putWords (a + 4) ws

/-! ### Free values and lands -/

/-- A free value (log entry 4): the next value of `Config.freeNat`, and the counter advanced. -/
def Main.freeVal (m : Main) : Nat × Main := (Config.freeNat m.free, { m with free := m.free + 1 })

def Main.emit (m : Main) (o : Output) : Main := { m with out := o :: m.out }

/-! ### Time -/

/-- The course and slot last begun, as 100 × TAI seconds + slot. -/
def Main.slotNow (m : Main) : Nat := m.ylm.slot
def Main.course (m : Main) : Nat := m.ylm.slot / 100
def Main.mode (m : Main) : Nat := m.get F.PWR_MODE_MODE
def Main.exec (m : Main) : Nat := m.get F.YLM_STATUS_EXEC_STATE

/-- Vector access by number. -/
def vget {α : Type} {n : Nat} (v : Vector α n) (i : Nat) (d : α) : α := (v[i]?).getD d
def vmod {α : Type} {n : Nat} (v : Vector α n) (i : Nat) (f : α → α) : Vector α n :=
  if h : i < n then v.set i (f v[i]) else v

/-! ### Skylight (R506–R512) -/

/-- The counters whose configuration is listed; any other has ENABLE clear. -/
def cntList (m : Main) : List Nat :=
  m.regs.filterMap fun p => if 0x131000 ≤ p.1 ∧ p.1 < 0x132000 ∧ p.1 % 16 = 0 then some ((p.1 - 0x131000) / 16) else none

/-- A counter takes `k` occurrences; the answer says whether its threshold was reached on an increment (R512). -/
def bumpCounter (k : Nat) (n : Nat) (m : Main) : Main × Bool :=
  let old := m.get F.SKY_CNT n
  let thr := m.get F.SKY_CNT_THRESH n
  let hit := m.bit F.SKY_CNT_CFG_THR_EN n && decide (0 < (thr + 2 ^ 32 - old) % 2 ^ 32 ∧ (thr + 2 ^ 32 - old) % 2 ^ 32 ≤ k ∨
    (thr = old ∧ 2 ^ 32 ≤ k))
  let m := m.put F.SKY_CNT (old + k) n
  (if hit then m.putBit F.SKY_HIT true (n / 32) (n % 32) else m, hit)

/-- The enabled counters of a source take `k` occurrences with the given lane and lantern (R511). -/
def countSource (m : Main) (src k : Nat) (lane lantern : Option Nat) : Main × Bool :=
  (cntList m).foldl (fun (s : Main × Bool) n =>
    let q := s.1.get F.SKY_CNT_CFG_QUAL n
    if s.1.bit F.SKY_CNT_CFG_ENABLE n && s.1.get F.SKY_CNT_CFG_SOURCE n == src &&
        (!s.1.bit F.SKY_CNT_CFG_QUAL_EN n || lane == some (q % 8) || lantern == some q) then
      let r := bumpCounter k n s.1
      (r.1, s.2 || r.2)
    else s) (m, false)

/-- Queue a packet; the last place is kept for TIME and LOST packets (R510). TIME, the local clock within its second, is a free
value: no command carries it (log entry 5). -/
def skyQueue (m : Main) (src data : Nat) : Main :=
  if src ≠ 0xFF ∧ 127 ≤ m.log.sky.length then
    ({ m with log := { m.log with skyDrops := m.log.skyDrops + 1 } }).count F.SKY_LOST
  else
    let p : SkyPkt := ⟨src, Config.freeNat m.free % 2 ^ 20, data % 2 ^ 32⟩
    ({ m with free := m.free + 1, log := { m.log with sky := m.log.sky ++ [p] } }).put F.SKY_FILL_FILL (m.log.sky.length + 1)

/-- An occurrence of a source is traced where SKY_SRC and the filters pass it (R509). -/
def skyTrace (m : Main) (src data : Nat) (lane lantern : Option Nat) : Main :=
  let laneOk := match lane with
    | some l => bitOf (m.get F.SKY_LANE_MASK) l
    | none => true
  let lanternOk := match lantern with
    | some n => decide (m.get F.SKY_LANTERN_LO ≤ n ∧ n ≤ m.get F.SKY_LANTERN_HI)
    | none => true
  if m.bit F.SKY_CTRL_TRACE_EN && bitOf (m.get F.SKY_SRC_SRC) (src - 1) && laneOk && lanternOk then skyQueue m src data else m

/-! ### Events (R369, R370) -/

/-- The enable bit of an event, where one exists. -/
def eventEnable (n : Nat) : Option Field :=
  match n with
  | 0 => some F.PWR_CTRL_EVT0_EN | 2 => some F.PWR_CTRL_EVT2_EN | 3 => some F.PWR_CTRL_EVT3_EN | 4 => some F.PWR_CTRL_EVT4_EN
  | 5 => some F.TMP_CTRL_EVT5_EN | 6 => some F.TMP_CTRL_EVT6_EN | 7 => some F.DMR_SEAL_EVT_EVT7_EN
  | 8 => some F.KEY_CTRL_EVT8_EN | 9 => some F.KEY_CTRL_EVT9_EN | 10 => some F.HST_CTRL_EVT10_EN | 11 => some F.HST_CTRL_EVT11_EN
  | 12 => some F.DMA_CTRL_EVT12_EN | 13 => some F.DMA_CTRL_EVT13_EN | 14 => some F.DMA_CTRL_EVT14_EN
  | 15 => some F.GUT_CTRL_EVT15_EN | 22 => some F.PTP_CTRL_EVT22_EN | 23 => some F.CTX_CTRL_EVT23_EN
  | 26 => some F.YLM_CTRL_EVT26_EN | 27 => some F.TLP_PE_CTRL_EVT27_EN | 28 => some F.TLP_PE_CTRL_EVT28_EN
  | 29 => some F.TLR_CTRL_EVT_EN | 30 => some F.TLP_LANE_CTRL_EVT_EN | 31 => some F.WAV_CTRL_EVT31_EN
  | 32 => some F.WAV_CTRL_EVT32_EN | 33 => some F.PUR_CTRL_EVT33_EN | 34 => some F.PUR_CTRL_EVT34_EN
  | 35 => some F.PUR_CTRL_EVT35_EN | 36 => some F.PUR_CTRL_EVT36_EN | 37 => some F.DMR_EVT_EN_EVT37_EN
  | 38 => some F.DMR_EVT_EN_EVT38_EN | 39 => some F.DMR_EVT_EN_EVT39_EN | 40 => some F.DMR_EVT_EN_EVT40_EN
  | 41 => some F.DMR_SEAL_EVT_EVT41_EN | 42 => some F.EAV_CTRL_EVT42_EN | 43 => some F.EAV_CTRL_EVT43_EN
  | 44 => some F.GBL_CTRL_EVT44_EN | 45 => some F.GBL_CTRL_EVT45_EN | 46 => some F.RDG_CTRL_EVT46_EN
  | 47 => some F.RDG_CTRL_EVT47_EN | 48 => some F.RDG_CTRL_EVT48_EN | 49 => some F.RED_CTRL_EVT49_EN
  | 50 => some F.RED_CTRL_EVT50_EN | 51 => some F.RED_CTRL_EVT51_EN | 52 => some F.RTC_CTRL_EVT52_EN
  | 53 => some F.RTC_CTRL_EVT53_EN | 54 => some F.RTC_CTRL_EVT54_EN | 55 => some F.RTC_CTRL_EVT55_EN
  | 56 => some F.PTP_CTRL_EVT56_EN | 57 => some F.PTP_CTRL_EVT57_EN | 58 => some F.PTP_CTRL_EVT58_EN
  | 59 => some F.SOF_CTRL_EVT59_EN | 60 => some F.SOF_CTRL_EVT60_EN | 61 => some F.UPD_CTRL_EVT61_EN
  | 62 => some F.UPD_CTRL_EVT62_EN | 63 => some F.SKY_CTRL_EVT63_EN
  | _ => none

def eventEnabled (m : Main) (n : Nat) : Bool :=
  match eventEnable n with
  | some f => m.bit f
  | none => true

/-- Event `n` is pending in GLB_EVT (R369). -/
def pends (m : Main) (n : Nat) : Bool := m.bit F.GLB_EVT_PEND (n / 32) (n % 32)

/-- A vector is unmasked, by its own mask bit and the function's. -/
def vectorOpen (m : Main) (n : Nat) : Bool := !m.host.funcMask && !m.bit F.MSIX_CTRL_MASK n

/-- The interrupt side of a firing (R369): GLB_EVT, and the message or the pending bit. -/
def raise (m : Main) (n : Nat) : Main :=
  let m := m.putBit F.GLB_EVT_PEND true (n / 32) (n % 32)
  if !vectorOpen m n then m.putBit F.MSIX_PBA true (n / 32) (n % 32)
  else if m.host.msixEnable then m.emit (.msix n)
  else m

/-- An occurrence of a trace source: counted by the counters, traced, and event 63 at a threshold reached (R511, R512). Event
63 is itself an occurrence of source 0x10, which reaches no further threshold in the same instant. -/
def sky (m : Main) (src data : Nat) (lane lantern : Option Nat := none) : Main :=
  let r := countSource (skyTrace m src data lane lantern) src 1 lane lantern
  if r.2 && eventEnabled r.1 63 then
    let m := raise r.1 63
    (countSource (skyTrace m 0x10 63 none none) 0x10 1 none none).1
  else r.1

/-- Event `n` fires, subject to its enable bit. -/
def fire (n : Nat) (m : Main) : Main := if eventEnabled m n then sky (raise m n) 0x10 n else m

/-- Fire where a condition holds. -/
def fireIf (c : Bool) (n : Nat) (m : Main) : Main := if c then fire n m else m

/-! ### Register writes of the host -/

/-- A host access of a register of a block reaches it: outside the GLB and PWR blocks, writes are ignored and reads answer zero in
DAYLIGHT (R548), and nothing is powered in SHIP (R543). -/
def blockOpen (block : Nat) (m : Main) : Bool := m.mode != 0 && (m.mode != 6 || decide (block ≤ 1))

/-- A host access of a register of the block at `block` × 0x1_0000. In D3hot a memory access completes with Unsupported Request
(PRESUMED, log entry 36). -/
def hostAccess (block : Nat) (f : Main → Main) (m : Main) : Main :=
  if m.host.d3hot then { m with host := { m.host with unsupported := true } }
  else
    let m : Main := { m with host := { m.host with unsupported := false } }
    if blockOpen block m then f m else m

/-- A host read of the BAR0 word at `a`, which `f` gives; a block that does not answer reads as zero (R548), and a module in SHIP does not
answer at all. -/
def hostRead (a : Nat) (f : Main → Main × Nat) (m : Main) : Main :=
  if m.host.d3hot then { m with host := { m.host with unsupported := true } }
  else if m.mode = 0 then m
  else
    let m : Main := { m with host := { m.host with unsupported := false } }
    let r := if blockOpen (a / 0x10000) m then f m else (m, 0)
    r.1.emit (.readData a r.2)

end Sys2Proof.Machine
end

