-- ==== Sys2Proof/Machine/Upload.lean ====
section
/-!
DEFINITION. Ring states, write-backs and ring events (R349, R365, R368), and the posting of records to upload rings (R366,
R367). Ring r is CMD r for r below 8, and UPL(r − 8) from 8 on.
-/
namespace Sys2Proof.Machine

/-! STATUS codes of R354. -/
namespace St
def ok : Nat := 0
def badOpcode : Nat := 1
def badFormat : Nat := 2
def badLength : Nat := 3
def badParam : Nat := 4
def refused : Nat := 5
def bankBusy : Nat := 6
def notActive : Nat := 7
def keyLocked : Nat := 8
def legendRefused : Nat := 9
def gateShut : Nat := 10
def chainLoop : Nat := 11
def hostNoresp : Nat := 12
def poison : Nat := 13
def aborted : Nat := 14
end St

/-! Ring states as HST_RING_STATUS shows them (R349, R381). -/
namespace Rs
def disabled : Nat := 0
def running : Nat := 1
def halted : Nat := 2
def stopping : Nat := 3
end Rs

def ringState (m : Main) (r : Nat) : Nat := m.get F.HST_RING_STATUS_STATE r
def ringSize (m : Main) (r : Nat) : Nat :=
  let k := m.get F.HST_RING_CFG_SIZE_LOG2 r
  2 ^ (if 4 ≤ k ∧ k ≤ 16 then k else 4)

def ringOf (m : Main) (r : Nat) : Ring := vget m.host.rings r Ring.reset
def withRing (m : Main) (r : Nat) (f : Ring → Ring) : Main := { m with host := { m.host with rings := vmod m.host.rings r f } }

/-- The ring event fires, or is held within HOLDOFF (R368). -/
def ringEvent (m : Main) (r n : Nat) : Main :=
  if m.get F.HST_RING_CFG_HOLDOFF r = 0 then fire n m
  else if (ringOf m r).holding then withRing m r fun g => { g with held := some n }
  else fire n (withRing m r fun g => { g with holding := true })

/-- The event that an upload ring fires on write-back (R348, R370). -/
def uplEvent (u : Nat) : Option Nat :=
  match u with
  | 0 => some 16 | 1 => some 17 | 2 => some 18 | 3 => none | 4 => some 20 | 6 => none | _ => some 21

/-- The least buffer LENGTH of an upload ring (R348). -/
def leastLength (u : Nat) : Nat := match u with | 0 => 32 | 1 => 32 | 2 => 32 | 3 => 432 | 4 => 32 | 6 => 32 | _ => 1536

/-- SWAP on buffer data, in each 32-bit word (R353). -/
def swapData (s : Nat) : List Byte → List Byte
  | a :: b :: c :: d :: t =>
    (match s with
      | 0 => [a, b, c, d]
      | 1 => [b, a, d, c]
      | 2 => [c, d, a, b]
      | _ => [d, c, b, a]) ++ swapData s t
  | t => t

/-- The ring position of descriptor number `n`. -/
def ringPos (m : Main) (r n : Nat) : Nat := n % ringSize m r

/-- The descriptors that the limit in force makes available (R360). -/
def ringAvail (m : Main) (r : Nat) : Nat := (m.get F.HST_RING_DB_LIMIT r + 131072 - (ringOf m r).taken % 131072) % 131072

/-- A channel issues requests: it is not paused (R377). -/
def channelOpen (m : Main) (c : Nat) : Bool := !m.bit F.DMA_CH_CTRL_PAUSE c && !m.bit F.DMA_CTRL_PAUSE_ALL

/-- The channel that serves a ring's buffers and lists (R371). -/
def channelOf (r : Nat) : Nat :=
  if r < 8 then r else if r < 11 then 8 else if r = 11 ∨ r = 12 ∨ r = 14 then 9 else 10

/-- A ring that may move data: RUNNING, its channels not paused, and the function not in D3hot (R347, R377). -/
def ringMoves (m : Main) (r : Nat) : Bool :=
  ringState m r == Rs.running && !m.host.d3hot && channelOpen m (channelOf r) && channelOpen m 11

/-! ### The DMA engine (R371) -/

/-- The priority level of a channel. -/
def channelPrio (m : Main) (c : Nat) : Nat := m.get F.DMA_CH_CTRL_PRIO c

/-- The channel granted the next burst among those ready: of the highest level that has one, the first after the last granted. -/
def grant (m : Main) (ready : List Nat) : Option Nat :=
  [3, 2, 1, 0].findSome? fun p =>
    ((List.range 16).map fun k => (vget m.host.granted p 15 + 1 + k) % 16).find? fun c => ready.contains c && channelPrio m c == p

/-- A channel is granted a burst. -/
def granted (c : Nat) (m : Main) : Main :=
  { m with host := { m.host with granted := vmod m.host.granted (channelPrio m c) fun _ => c } }

/-- The bursts of a transfer of `n` bytes at `a`: at most `most` bytes each, and none across a 4 KiB boundary. The first number
bounds their count. -/
def bursts (most : Nat) : Nat → Nat → Nat → List (Nat × Nat)
  | 0, _, _ => []
  | k + 1, a, n =>
    if n = 0 then []
    else
      let b := min n (min most (4096 - a % 4096))
      (a, b) :: bursts most k (a + b) (n - b)

/-- Read requests for the segments of a buffer, or for a descriptor or a list entry (R344, R371). -/
def hostReads (c : Nat) (segs : List (Nat × Nat)) (attr : Attr) (m : Main) : Main :=
  segs.foldl (fun m s =>
    (bursts (max 1 (min 256 m.host.maxRead)) s.2 s.1 s.2).foldl (fun m b => granted c (m.emit (.hostRead c b.1 b.2 attr))) m) m

/-- The bursts that carry bytes over segments, in order. -/
def segBursts (most : Nat) : List (Nat × Nat) → List Byte → List (Nat × List Byte)
  | [], _ => []
  | s :: t, data =>
    let n := min s.2 data.length
    (bursts most n s.1 n).map (fun b => (b.1, slice data (b.1 - s.1) b.2)) ++ segBursts most t (data.drop n)

/-- The longest burst of a posted write. -/
def payloadMost (m : Main) : Nat := max 1 (min 256 m.host.maxPayload)

/-- Posted writes of bytes over segments, in order. -/
def hostWrites (c : Nat) (segs : List (Nat × Nat)) (data : List Byte) (m : Main) : Main :=
  (segBursts (payloadMost m) segs data).foldl (fun m b => granted c (m.emit (.hostWrite c b.1 b.2 Attr.plain))) m

/-- The host address of the descriptor at a ring position (R348). -/
def descAddr (m : Main) (r pos : Nat) : Nat :=
  64 * m.get F.HST_RING_BASE_LO_BASE_LO r + 2 ^ 32 * m.get F.HST_RING_BASE_HI_BASE_HI r + 32 * pos

/-- The data segments of a buffer: its one, or those of its list in order (R352). -/
def segments (d : Desc) : List (Nat × Nat) :=
  if d.sg then ((d.list.filter fun e => !e.link).take d.sgCount).map fun e => (e.addr, e.length) else [(d.addr, d.length)]

/-- Channel 11 reads the descriptor at a ring position. -/
def readDesc (r pos : Nat) (m : Main) : Main := hostReads 11 [(descAddr m r pos, 32)] Attr.plain m

/-- The addresses of a list's entries as they are read: one after another, or where a link leads. -/
def entryAddrs (a : Nat) : List SgEntry → List (Nat × Nat)
  | [] => []
  | e :: es => (a, 16) :: entryAddrs (if e.link then e.addr else a + 16) es

/-- The data of a write-back, with the channel's completion pulse. -/
def backData (r : Nat) (d : Desc) (data : List Byte) (m : Main) : Main :=
  if data.isEmpty then m else (hostWrites (channelOf r) (segments d) data m).emit (.dmaDone (channelOf r))

/-- Bytes 24–31 of the descriptor at `a`, then its bytes 0–3 with OWN clear. -/
def backTail (a : Nat) (raw : List Byte) (rep : Reply) (records : Nat) (m : Main) : Main :=
  let m := hostWrites 11 [(a + 24, 8)] (leBytes 4 rep.doneLen ++ leBytes 2 rep.status ++ leBytes 1 rep.detail ++ leBytes 1 records) m
  (hostWrites 11 [(a, 4)] (leBytes 1 (lle raw 0 1 - lle raw 0 1 % 2) ++ slice raw 1 3) m).emit (.dmaDone 11)

/-- The write-back of a descriptor (R365): the data, then bytes 24–31, then the 4 bytes at offset 0 with OWN clear, each as posted
writes; with its trace (R508). Bytes 0–3 of a descriptor that could not be read are free (log entry 11). -/
def putBack (m : Main) (r pos : Nat) (d : Option Desc) (rep : Reply) (records : Nat) : Main :=
  let p : List Byte × Main := match d with
    | some d => (d.raw, backData r d rep.data m)
    | none => (leBytes 4 m.freeVal.1, m.freeVal.2)
  sky (backTail (descAddr m r pos) p.1 rep records p.2) 0x0A (r * 2 ^ 27 + rep.status % 256 * 65536 + pos % 65536)

/-- The trace of a channel's halt, poison or pause (R508). -/
def dmaTrace (c what : Nat) (m : Main) : Main := sky m 0x0B (c * 2 ^ 28 + what * 2 ^ 24)

/-- Channel `c` halts with a cause, and the ring with it (R349, R372, R373): 1 CHAIN_LOOP, 2 HOST_NORESP. A pause of the channel is
overtaken (R378). -/
def haltRing (r c cause : Nat) (m : Main) : Main :=
  dmaTrace c cause
    (((m.put F.HST_RING_STATUS_STATE Rs.halted r).put F.HST_RING_STATUS_CAUSE cause r).putBit F.DMA_CH_STATE_PAUSED false c)

/-! ### Scatter-gather lists (R352, R372) -/

/-- What reading a list finds: entries read, data entries and their bytes, whether the limit of DMA_CHAIN_MAX stopped it, and
whether every data entry was read, with a reserved or misaligned field or a length outside its range. -/
structure SgWalk where
  hops : Nat
  segs : Nat
  bytes : Nat
  next : Nat
  looped : Bool
  whole : Bool
  badForm : Bool
  badLen : Bool
  deriving DecidableEq, Repr

def SgWalk.start : SgWalk := ⟨0, 0, 0, 0, false, false, false, false⟩

def sgWalk (max : Nat) : Nat → List SgEntry → SgWalk → SgWalk
  | 0, _, w => { w with whole := true }
  | _, [], w => w
  | k + 1, e :: es, w =>
    if max ≤ w.hops then { w with looped := true }
    else
      let w := { w with hops := w.hops + 1, badForm := w.badForm || e.reserved || (if e.link then e.addr % 16 != 0 else e.addr % 4 != 0) }
      if e.link then sgWalk max (k + 1) es { w with badLen := w.badLen || e.length != 0 }
      else sgWalk max k es { w with
        segs := w.segs + 1, bytes := w.bytes + e.length, next := e.addr + e.length,
        badLen := w.badLen || e.length == 0 || e.length % 4 != 0 || decide (16777216 < e.length) }

/-- The walk of a descriptor's list, or of its one buffer. -/
def descWalk (m : Main) (d : Desc) : SgWalk :=
  if d.sg then sgWalk (max 1 (m.get F.DMA_CHAIN_MAX_MAX)) d.sgCount d.list SgWalk.start
  else { SgWalk.start with bytes := d.length, next := d.addr + d.length, whole := true, segs := 1 }

/-- R350–R352: a descriptor's own fields are well formed. -/
def descForm (d : Desc) (imm : Bool) : Bool :=
  !d.reserved && d.tailZero && (if d.sg then 1 ≤ d.sgCount && d.sgCount ≤ 64 else d.sgCount == 0) &&
  (imm || (if d.sg then d.addr % 16 == 0 else d.addr % 4 == 0))

/-- The list of a descriptor is read, as far as its walk goes. -/
def readList (c : Nat) (d : Desc) (w : SgWalk) (m : Main) : Main :=
  if d.sg then hostReads c ((entryAddrs d.addr d.list).take w.hops) Attr.plain m else m

/-- The channel's progress words after a transfer (R377, R381). -/
def dmaMoved (r moved : Nat) (w : SgWalk) (m : Main) : Main :=
  let c := channelOf r
  let m := ((m.put F.DMA_CH_STATE_SEG (w.segs - 1) c).put F.DMA_CH_STATE_HOPS w.hops c).put F.DMA_REMAIN (w.bytes - moved) c
  (m.put64 F.DMA_CUR_ADDR_LO F.DMA_CUR_ADDR_HI w.next c).count F.DMA_BYTES c moved

/-- Records packed into a buffer: each begins at an offset that is a multiple of 8 (R366). -/
def packRecs : List (List Byte) → List Byte
  | [] => []
  | [x] => x
  | x :: t => x ++ zeros ((8 - x.length % 8) % 8) ++ packRecs t

/-- The buffer in fill ends with a status (R365, R366): its descriptor is written back with the whole records in it. -/
def uplEnd (u status detail : Nat) (done : Option Nat) (m : Main) : Main :=
  let r := 8 + u
  let g := ringOf m r
  match g.free with
  | [] => m
  | (n, d) :: rest =>
    let data := packRecs g.fill
    let m := withRing m r fun g => { g with free := rest, fill := [], wb := g.wb + 1 }
    let m := dmaMoved r data.length (descWalk m d) m
    let m := putBack m r (ringPos m r n) (some d) ⟨status, detail, done.getD data.length, swapData d.swap data⟩ g.fill.length
    match uplEvent u with
    | some e => ringEvent m r e
    | none => m

def uplWriteBack (u : Nat) (m : Main) : Main := uplEnd u St.ok 0 none m

/-- Put one record into the buffer in fill, or end that buffer; the answer says whether the record is done with: placed, or
cut short by a list that passes DMA_CHAIN_MAX (R372). -/
def uplPlaceIn (u : Nat) (rec : List Byte) (m : Main) : Main × Bool :=
  let r := 8 + u
  match (ringOf m r).free with
  | [] => (m, false)
  | (_, d) :: _ =>
    let used := (packRecs (ringOf m r).fill).length
    let ends := (used + 7) / 8 * 8 + rec.length
    let w := descWalk m d
    if d.length < ends then (m, false)
    else if w.looped && decide (w.bytes < ends) then
      (fire 12 (haltRing r (channelOf r) 1 ((uplEnd u St.chainLoop 0 (some w.bytes) m).count F.UPL_DROPPED r)), true)
    else
      let m := withRing m r fun g => { g with fill := g.fill ++ [rec] }
      (if m.get F.HST_RING_CFG_FLUSH r = 0 then uplWriteBack u m else m, true)

/-- Put one record into a free buffer, the next one where it does not fit the buffer in fill (R366). -/
def uplPlace (u : Nat) (rec : List Byte) (m : Main) : Main × Bool :=
  let p := uplPlaceIn u rec m
  if p.2 || (ringOf m (8 + u)).fill.isEmpty then p else uplPlaceIn u rec (uplWriteBack u m)

/-- Waiting records go to buffers, oldest first. -/
def uplDrain (u : Nat) : Nat → Main → Main
  | 0, m => m
  | k + 1, m =>
    match (ringOf m (8 + u)).waiting with
    | [] => m
    | w :: ws =>
      if ringMoves m (8 + u) then
        let p := uplPlace u w m
        if p.2 then uplDrain u k (withRing p.1 (8 + u) fun g => { g with waiting := ws }) else p.1
      else m

/-- Post a record to an upload ring other than UPL0–UPL2: into a buffer, or held by its source, at most 64 (R367). -/
def uplPost (u : Nat) (rec : List Byte) (m : Main) : Main :=
  let r := 8 + u
  let g := ringOf m r
  let hold (m : Main) : Main :=
    if 64 ≤ g.waiting.length then m.count F.UPL_DROPPED r
    else withRing m r fun g => { g with waiting := g.waiting ++ [rec] }
  if g.waiting.isEmpty && ringMoves m r then
    let p := uplPlace u rec m
    if p.2 then p.1 else hold p.1
  else hold m

end Sys2Proof.Machine
end

