-- ==== Sys2Proof/Machine/Soffit.lean ====
section
/-!
DEFINITION. The soffit log (R486–R505): records, stores and areas, rate limits, the privileged buffer, live delivery and the
dormer mirror.
-/
namespace Sys2Proof.Machine

/-- The key of a position: store, area (0 FIRST, 1 LAST), position. -/
def sofKey (store area pos : Nat) : Nat := 16384 * store + 8192 * area + pos

def recAt (m : Main) (store area pos : Nat) : Option SofRec := sget (fun _ => none) m.log.recs (sofKey store area pos)

def putRec (m : Main) (store area pos : Nat) (r : Option SofRec) : Main :=
  { m with log := { m.log with recs := sset (fun _ => none) m.log.recs (sofKey store area pos) r } }

def areaSize (area : Nat) : Nat := if area = 0 then 1024 else 8192

/-- RECNO of a store (R491). -/
def recNo (m : Main) (s : Nat) : Nat := m.get F.SOF_RECNO_LO s + 2 ^ 32 * m.get F.SOF_RECNO_HI s
def setRecNo (m : Main) (s n : Nat) : Main := (m.put F.SOF_RECNO_LO (n % 2 ^ 32) s).put F.SOF_RECNO_HI (n / 2 ^ 32) s

/-- The store of a code (R505): 1 M, 2 S, 3 N. -/
def storeOf (code : Nat) : Nat := if code / 256 = 2 then 1 else if code / 256 = 4 then 3 else 2
def classOf (store : Nat) : Nat := if store < 2 then 0 else store - 1

/-- Depth and interval of a code's bucket by R505; none for an exempt code. -/
def codeLimit (code : Nat) : Option (Nat × Nat) :=
  match code with
  | 0x0305 => some (8, 60) | 0x0320 => some (8, 60) | 0x0321 => some (8, 60) | 0x0330 => some (16, 60)
  | 0x0331 => some (16, 60) | 0x0332 => some (8, 60) | 0x0351 => some (4, 60) | 0x0401 => some (32, 10)
  | 0x0402 => some (8, 60) | 0x0403 => some (4, 60) | 0x0404 => some (4, 60) | 0x0405 => some (16, 60)
  | _ => none

/-- The limit in force: the lowest SOF_RL entry for the code, else the default (R494, R514). -/
def limitOf (m : Main) (code : Nat) : Option (Nat × Nat) :=
  (codeLimit code).map fun d =>
    match (List.range 32).find? fun n => m.get F.SOF_RL_CODE n == code && m.get F.SOF_RL_DEPTH n != 0 with
    | some n => (m.get F.SOF_RL_DEPTH n, max 1 (m.get F.SOF_RL_INTERVAL n))
    | none => d

/-- Deliver a written record to UPL4 where its store is live (R502). -/
def deliverLive (m : Main) (store : Nat) (r : SofRec) (replay : Bool) : Main :=
  if replay || bitOf (m.get F.SOF_CTRL_LIVE) store then uplPost 4 (recBytes r replay) m else m

/-- A store's FIRST area closes (R501): CLOSED and event 60. The FIRST_CLOSED record is `writeStore`'s. -/
def setClosed (m : Main) (store : Nat) : Main := fire 60 (m.putBit F.SOF_STATUS_CLOSED true 0 store)

/-- A record of a code as captured now (R486–R488). SUB, the 1/256 s within OP_SEC, is a free value: no command carries the
phase of the AON second (log entry 5). -/
def newRec (m : Main) (code p0 p1 p2 p3 : Nat) : SofRec :=
  ⟨classOf (storeOf code), false, false, false, code, m.log.opSec % 2 ^ 32, m.log.cycles % 2 ^ 24, Config.freeNat m.free % 256, p0 % 2 ^ 32,
    p1 % 2 ^ 32, p2 % 2 ^ 32, p3 % 2 ^ 32, 0⟩

/-- The free value last used is spent. -/
def nextFree (m : Main) : Main := { m with free := m.free + 1 }

/-- Write a record to a main-side store (R491, R492): RECNO, both areas, SOF_WRITTEN, the trace, live delivery, and what a
closing FIRST area brings. The fuel bounds the FIRST_CLOSED records that one record can bring on. -/
def writeStore : Nat → Nat → SofRec → Main → Main
  | 0, _, _, m => m
  | fuel + 1, store, r, m =>
    let n := recNo m store
    let r : SofRec := if store = 3 then { r with t := n % 2 ^ 32, cyc := n / 2 ^ 32, sub := 0 } else r
    let m := setRecNo m store (n + 1)
    let m := if n < 1024 then putRec m store 0 n (some r) else m
    let m := putRec m store 1 (n % 8192) (some r)
    let m := sky (m.count F.SOF_WRITTEN) 0x11 (store * 2 ^ 30 + r.code)
    let m := deliverLive m store r false
    if n = 1023 then
      writeStore fuel 2 (newRec (setClosed m store) 0x03E1 store 0 0 0) (nextFree (setClosed m store))
    else m

/-- Put a record into the privileged buffer (R496, R498). -/
def privPut (store : Nat) (r : SofRec) (m : Main) : Main :=
  let r := { r with priv := true }
  let add (b : List (Nat × SofRec)) (m : Main) : Main :=
    ({ m with log := { m.log with priv := b ++ [(store, r)] } }).put F.SOF_STATUS_PRIV_FILL (b.length + 1)
  let lost (m : Main) : Main := { m.countSat F.SOF_STATUS_PRIV_LOST with log := { m.log with lostSince := m.log.lostSince + 1 } }
  if m.log.priv.length < 256 then add m.log.priv m
  else if m.log.priv.any (fun p => p.1 == 2) then add (m.log.priv.eraseP fun p => p.1 == 2) (lost m)
  else lost m

/-- A record of the tamper monitor, the key store or the supply supervisor (R496). -/
def recordPriv (code p0 p1 p2 p3 : Nat) (m : Main) : Main := privPut (storeOf code) (newRec m code p0 p1 p2 p3) (nextFree m)

/-- A record of any other main-side writer: through the privileged buffer from HOLD entry (R496), else into its store under
its code's limit (R494, R495). -/
def record (code p0 p1 p2 p3 : Nat) (m : Main) : Main :=
  let store := storeOf code
  let r := newRec m code p0 p1 p2 p3
  let m := nextFree m
  if m.mode = 7 then privPut store r m
  else
    match limitOf m code with
    | none => writeStore 3 store r m
    | some (depth, _) =>
      let spent := sget (fun _ => 0) m.log.spent code
      let supp := sget (fun _ => 0) m.log.supp code
      if spent < depth then
        writeStore 3 store { r with count := supp } { m with log := { m.log with
          spent := sset (fun _ => 0) m.log.spent code (spent + 1), supp := sset (fun _ => 0) m.log.supp code 0 } }
      else
        let first := !m.log.evt59
        let m : Main := { m with log := { m.log with
          supp := sset (fun _ => 0) m.log.supp code (min (supp + 1) 65535), evt59 := true } }
        fireIf first 59 (sky (m.count F.SOF_SUPPRESSED) 0x11 (store * 2 ^ 30 + code))

end Sys2Proof.Machine
end

