-- ==== Sys2Proof/Machine/Calendar.lean ====
section
/-!
DEFINITION. The calendar, its alarms and timers (R437–R451, R504). An instant of the calendar is a number of UTC seconds since
1970-01-01, a date a number of days since then; neither counts leap seconds.
-/
namespace Sys2Proof.Machine

/-! ### Dates (R437, R438) -/

def leapYear (y : Nat) : Bool := y % 4 == 0 && (y % 100 != 0 || y % 400 == 0)
def monthLen (y mo : Nat) : Nat := if mo = 2 then (if leapYear y then 29 else 28) else [31, 28, 31, 30, 31, 30, 31, 31, 30, 31, 30, 31].getD (mo - 1) 31

/-- Days from 1970-01-01 to the first of January of year `y`. -/
def yearStart (y : Nat) : Int := 365 * ((y : Int) - 1970) + (((y - 1) / 4 : Nat) - ((y - 1) / 100 : Nat) + ((y - 1) / 400 : Nat) : Int) - 477

def daysOf (y mo d : Nat) : Int :=
  yearStart y + ((List.range (mo - 1)).foldl (fun n i => n + monthLen y (i + 1)) 0 : Nat) + (d : Int) - 1

def findYear : Nat → Nat → Int → Nat
  | 0, y, _ => y
  | k + 1, y, n => if n < yearStart (y + 1) then y else findYear k (y + 1) n

def findMonth (y : Nat) : Nat → Nat → Nat → Nat × Nat
  | 0, mo, d => (mo, d)
  | k + 1, mo, d => if d < monthLen y mo then (mo, d) else findMonth y k (mo + 1) (d - monthLen y mo)

/-- Year, month and day of a date from 1970 on. -/
def dateOf (n : Int) : Nat × Nat × Nat :=
  let y := findYear 300 1970 n
  let p := findMonth y 11 1 (n - yearStart y).toNat
  (y, p.1, p.2 + 1)

/-- 1 Monday to 7 Sunday; 1970-01-01 was a Thursday. -/
def weekday (n : Int) : Nat := ((n + 3) % 7).toNat + 1

def bcd (v : Nat) : Nat := v % 10 + 16 * (v / 10 % 10) + 256 * (v / 100 % 10) + 4096 * (v / 1000 % 10)
def unbcd (v : Nat) : Nat := v % 16 + 10 * (v / 16 % 16) + 100 * (v / 256 % 16) + 1000 * (v / 4096 % 16)
def isBcd (v : Nat) : Bool := v % 16 < 10 && v / 16 % 16 < 10 && v / 256 % 16 < 10 && v / 4096 % 16 < 10

/-! ### The registers -/

/-- The calendar's date and second of the day. 23:59:60 is second 86,400. -/
def calDate (m : Main) : Int := daysOf (unbcd (m.get F.RTC_DATE_YEAR)) (unbcd (m.get F.RTC_DATE_MONTH)) (unbcd (m.get F.RTC_DATE_DAY))
def calSecond (m : Main) : Nat :=
  3600 * unbcd (m.get F.RTC_TIME_HOUR) + 60 * unbcd (m.get F.RTC_TIME_MINUTE) + unbcd (m.get F.RTC_TIME_SECOND)
/-- The calendar's present value. -/
def calNow (m : Main) : Int := 86400 * calDate m + calSecond m

def putDate (m : Main) (n : Int) : Main :=
  let (y, mo, d) := dateOf n
  (((m.put F.RTC_DATE_YEAR (bcd y)).put F.RTC_DATE_MONTH (bcd mo)).put F.RTC_DATE_DAY (bcd d)).put F.RTC_DATE_WEEKDAY (weekday n)

def putTime (m : Main) (s : Nat) : Main :=
  let h := if s = 86400 then 23 else s / 3600
  let mi := if s = 86400 then 59 else s / 60 % 60
  let se := if s = 86400 then 60 else s % 60
  ((m.put F.RTC_TIME_HOUR (bcd h)).put F.RTC_TIME_MINUTE (bcd mi)).put F.RTC_TIME_SECOND (bcd se)

/-- Set the calendar, at the start of a second. -/
def putCal (m : Main) (t : Int) : Main := (putTime (putDate m (t / 86400)) (t % 86400).toNat).put F.RTC_SUBSEC_CYCLES 0

/-! ### Alarms (R446–R449) -/

def almSecond (m : Main) (n : Nat) : Nat :=
  3600 * unbcd (m.get F.ALM_TIME_HOUR n) + 60 * unbcd (m.get F.ALM_TIME_MINUTE n) + unbcd (m.get F.ALM_TIME_SECOND n)
def almDate (m : Main) (n : Nat) : Int :=
  daysOf (unbcd (m.get F.ALM_DATE_YEAR n)) (unbcd (m.get F.ALM_DATE_MONTH n)) (unbcd (m.get F.ALM_DATE_DAY n))

/-- FIRED_DATE; none while the alarm has never fired. -/
def almFired (m : Main) (n : Nat) : Option Int :=
  if m.word (F.ALM_FIRED_YEAR.addr n) = 0 then none
  else some (daysOf (unbcd (m.get F.ALM_FIRED_YEAR n)) (unbcd (m.get F.ALM_FIRED_MONTH n)) (unbcd (m.get F.ALM_FIRED_DAY n)))

/-- An alarm fires for its occurrence on date `day`, with `skips` occurrences skipped (R446, R447). -/
def almFire (n : Nat) (day : Int) (skips : Nat) (m : Main) : Main :=
  let (y, mo, d) := dateOf day
  let m := ((m.put F.ALM_FIRED_YEAR (bcd y) n).put F.ALM_FIRED_MONTH (bcd mo) n).put F.ALM_FIRED_DAY (bcd d) n
  let m := (m.putBit F.ALM_STATE_SKIPPED (skips != 0) n).put F.ALM_STATE_SKIPS (min skips 65535) n
  let m := m.putBit F.RTC_STATUS_ALM_PEND true 0 n
  if m.bit F.ALM_CFG_DAILY n then m else m.putBit F.ALM_CFG_ENABLE false n

/-- The calendar has reached a new second by counting (R446). -/
def almCount (m : Main) : Main :=
  let day := calDate m
  let due (n : Nat) : Bool :=
    m.bit F.ALM_CFG_ENABLE n && almSecond m n == calSecond m && (m.bit F.ALM_CFG_DAILY n || almDate m n == day) &&
    (match almFired m n with | none => true | some f => decide (f < day))
  let hit := (List.range 4).filter due
  if hit.isEmpty then m else fire 52 (hit.foldl (fun m n => almFire n day 0 m) m)

/-- The dates after `lo` on which a daily alarm at second `t` occurs after `a` and at or before `b`: how many, and the last. -/
def dailyBetween (a b : Int) (t : Nat) (fired : Option Int) : Nat × Int :=
  let hi := (b - t) / 86400
  let lo := (a - t) / 86400
  let lo := match fired with | some f => max lo f | none => lo
  ((hi - lo).toNat, hi)

/-- What an adjustment from `a` to `b` does to the alarms (R447, R448). -/
def almAdjust (a b : Int) (m : Main) : Main :=
  let skipped (n : Nat) : Nat × Int :=
    if !m.bit F.ALM_CFG_ENABLE n then (0, 0)
    else if m.bit F.ALM_CFG_DAILY n then dailyBetween a b (almSecond m n) (almFired m n)
    else
      let at' := 86400 * almDate m n + almSecond m n
      let fresh : Bool := match almFired m n with | none => true | some f => decide (f < almDate m n)
      (if a < at' ∧ at' ≤ b ∧ fresh then 1 else 0, almDate m n)
  let hit := (List.range 4).filter fun n => (skipped n).1 != 0
  if b ≤ a ∨ hit.isEmpty then m else fire 52 (hit.foldl (fun m n => almFire n (skipped n).2 (skipped n).1 m) m)

/-! ### Anchors and adjustments -/

/-- The TIME_ANCHOR record (R504). -/
def timeAnchor (m : Main) : Main :=
  record 0x0306 (m.time.sec % 2 ^ 32)
    (m.time.sec / 2 ^ 32 % 65536 + 65536 * m.get F.PTP_STATUS_STATE + 2 ^ 19 * natOf (m.bit F.RTC_STATUS_VALID))
    (recNo m 3 % 2 ^ 32) (recNo m 3 / 2 ^ 32) m

/-- The CLOCK_ADJUST record of a step of `ns` nanoseconds, and its anchor (R504, R505). -/
def clockAdjust (clock : Nat) (ns : Int) (forced : Bool) (m : Main) : Main :=
  timeAnchor (record 0x0307 clock (twos 32 (ns.tdiv 1000000000)) (twos 32 (ns.tmod 1000000000)) (natOf forced) m)

/-- The calendar is adjusted to `t`; `sub` is the sub-second count that it held (R443, R445). -/
def adjustCal (t : Int) (sub : Nat) (m : Main) : Main :=
  let a := calNow m
  let step : Int := (t - a) * 1000000000 - (sub * 1000000000 / 32768 : Nat)
  let m := (putCal m t).putBit F.RTC_STATUS_VALID true
  clockAdjust 0 step false (almAdjust a t m)

/-! ### Counting -/

/-- The calendar counts a UTC second, with the leap second of R440; and the AON domain counts an operating second (R488). -/
def calTick (m : Main) : Main :=
  let m : Main := { m with log := { m.log with opSec := m.log.opSec + 1 } }
  let day := calDate m
  let s := calSecond m
  let auto := m.bit F.RTC_TRIM_AUTO
  let ends := s = 86400 ∨ (s = 86399 ∧ !(auto && m.bit F.PTP_STATUS_LEAP61)) ∨ (s = 86398 ∧ auto ∧ m.bit F.PTP_STATUS_LEAP59)
  let m := m.put F.RTC_SUBSEC_CYCLES 0
  let m :=
    if ends then
      if day = daysOf 2199 12 31 then putTime (putDate (m.putBit F.RTC_STATUS_CENTURY_WRAP true) (daysOf 2000 1 1)) 0
      else putTime (putDate m (day + 1)) 0
    else putTime m (s + 1)
  almCount m

/-! ### Setting (R442, R443, R449) -/

/-- The first failing check of R442's causes 1–7 on date and time fields, with the checks on the date left out for a daily alarm. -/
def dateCheck (y mo d h mi s : Nat) (dated : Bool) : Nat :=
  if !(isBcd h && isBcd mi && isBcd s && (!dated || (isBcd y && isBcd mo && isBcd d))) then 1
  else if dated ∧ ¬(2000 ≤ unbcd y ∧ unbcd y ≤ 2199) then 2
  else if dated ∧ ¬(1 ≤ unbcd mo ∧ unbcd mo ≤ 12) then 3
  else if dated ∧ ¬(1 ≤ unbcd d ∧ unbcd d ≤ monthLen (unbcd y) (unbcd mo)) then 4
  else if 23 < unbcd h then 5
  else if 59 < unbcd mi then 6
  else if 59 < unbcd s then 7
  else 0

def rejectDate (cause : Nat) (m : Main) : Main := fire 55 ((m.putBit F.RTC_STATUS_DATE_REJECT true).put F.RTC_STATUS_REJECT_CAUSE cause)

/-- The instant in the shadows. -/
def shadowTime (m : Main) : Int :=
  86400 * daysOf (unbcd (m.get F.RTC_SET_DATE_YEAR)) (unbcd (m.get F.RTC_SET_DATE_MONTH)) (unbcd (m.get F.RTC_SET_DATE_DAY)) +
    (3600 * unbcd (m.get F.RTC_SET_TIME_HOUR) + 60 * unbcd (m.get F.RTC_SET_TIME_MINUTE) + unbcd (m.get F.RTC_SET_TIME_SECOND) : Nat)

/-- The cause for which a commit is rejected; 0 for none (R442). -/
def commitCause (m : Main) : Nat :=
  let c := dateCheck (m.get F.RTC_SET_DATE_YEAR) (m.get F.RTC_SET_DATE_MONTH) (m.get F.RTC_SET_DATE_DAY) (m.get F.RTC_SET_TIME_HOUR)
    (m.get F.RTC_SET_TIME_MINUTE) (m.get F.RTC_SET_TIME_SECOND) true
  if c ≠ 0 then c else if m.bit F.RTC_CTRL_SYNC_EN && m.get F.PTP_STATUS_STATE == 2 then 8 else 0

/-- A write of ALM_CFG (R448, R449). -/
def almCfgWrite (n v : Nat) (m : Main) : Main :=
  let m := (m.setWord (F.ALM_FIRED_YEAR.addr n) 0).setWord (F.ALM_STATE_SKIPS.addr n) 0
  let daily := bitOf v 30
  let m := (m.putBit F.ALM_CFG_DAILY daily n).putBit F.ALM_CFG_ENABLE false n
  if bitOf v 31 then
    let c := dateCheck (m.get F.ALM_DATE_YEAR n) (m.get F.ALM_DATE_MONTH n) (m.get F.ALM_DATE_DAY n) (m.get F.ALM_TIME_HOUR n)
      (m.get F.ALM_TIME_MINUTE n) (m.get F.ALM_TIME_SECOND n) (!daily)
    let c := if c = 0 ∧ !daily ∧ 86400 * almDate m n + almSecond m n ≤ calNow m then 9 else c
    if c = 0 then m.putBit F.ALM_CFG_ENABLE true n else rejectDate c m
  else m

/-! ### Wake timers (R450, R451) -/

def periodicWake (m : Main) : Main := fireIf (m.bit F.RTC_WAKE_ENABLE) 53 m

/-- A write of RTC_WAKE restarts the count; the count itself runs outside the model. -/
def wakeWrite (v : Nat) (m : Main) : Main := (m.putBit F.RTC_WAKE_ENABLE (bitOf v 31)).put F.RTC_WAKE_PERIOD v

/-- A write of RTC_CNTDN with RUN set. -/
def countdownRun (v : Nat) (m : Main) : Main :=
  let m := ((m.putBit F.RTC_CNTDN_RELOAD (bitOf v 30)).put F.RTC_CNTDN_UNIT (bits v 29 28)).put F.RTC_CNTDN_PRESET v
  (m.putBit F.RTC_CNTDN_RUN true).put F.RTC_CNTDN_NOW_COUNT v

def countdownTick (m : Main) : Main :=
  if !m.bit F.RTC_CNTDN_RUN then m
  else
    let c := m.get F.RTC_CNTDN_NOW_COUNT
    if 1 < c then m.put F.RTC_CNTDN_NOW_COUNT (c - 1)
    else
      let m := fire 54 m
      if m.bit F.RTC_CNTDN_RELOAD then m.put F.RTC_CNTDN_NOW_COUNT (m.get F.RTC_CNTDN_PRESET)
      else (m.put F.RTC_CNTDN_NOW_COUNT 0).putBit F.RTC_CNTDN_RUN false

end Sys2Proof.Machine
end

