-- ==== Sys2Proof/Machine/Sign.lean ====
section
/-!
DEFINITION. The eave channels and the gable port (chapter 10): the 1 ms tick, channel faults, the scan of the sign, and the
integrity blank.
-/
namespace Sys2Proof.Machine

/-! Executor states (R77). -/
namespace Ex
def noPlan : Nat := 0
def loading : Nat := 1
def listen : Nat := 2
def running : Nat := 3
def halted : Nat := 4
end Ex

/-- The plan level of a group under R55. -/
def planGroup (m : Main) (g : Nat) : GroupPlan := sget (fun _ => ⟨0, 0, 0⟩) m.ylm.groups g

/-- The image whose resident sections the running working area holds, while a plan runs. -/
def runImg (m : Main) : Option Img := m.ylm.run.map fun b => m.ylm.banks[b].img

/-- The safe condition of R329; `force` is left out for the gable port (R336). -/
def safeCond (m : Main) (force : Bool) : Bool :=
  !m.eav.started || m.exec == Ex.noPlan || m.mode == 1 || (force && m.bit F.EAV_CTRL_SAFE_FORCE)

/-- The output of the loop that drives a destination, while it is in RUN, FROZEN or FALLBACK (R326, R336). -/
def loopTarget (m : Main) (dest index : Nat) : Option Nat :=
  match runImg m with
  | none => none
  | some b =>
    ((List.range 16).find? fun l =>
      let st := m.get F.PUR_LOOP_STATUS_STATE l
      (st == 1 || st == 3 || st == 4) &&
      (match loopOff b l with
        | some o => LoopC.dest b o == dest && (dest == 3 || LoopC.index b o == index)
        | none => false)).map fun l => m.get F.PUR_DEST_VAL l

/-! ### Eave channels (R323–R328) -/

def lumOf (m : Main) (i : Nat) : Lum :=
  { mode := m.get F.LUM_CFG_MODE i, count := m.get F.LUM_CFG_COUNT i, first := m.get F.LUM_CFG_FIRST i, group := m.get F.LUM_CFG_GROUP i,
    gain := m.get F.LUM_CFG_GAIN i, lmax := m.get F.LUM_LIM_LMAX i, lmin := m.get F.LUM_LIM_LMIN i, cct := m.get F.LUM_CCT_CCT i,
    warm := m.get F.LUM_CCT_WARM i, cool := m.get F.LUM_CCT_COOL i, cctOff := signed 8 (m.get F.LUM_CCT_CCT_OFFSET i),
    ratio := [m.get F.LUM_RATIO_A_RATIO0 i, m.get F.LUM_RATIO_A_RATIO1 i, m.get F.LUM_RATIO_B_RATIO2 i, m.get F.LUM_RATIO_B_RATIO3 i],
    ovr := m.get F.LUM_OVR_OVR i }

def lums (m : Main) : List Lum := (List.range 8).map (lumOf m)

/-- The luminaire group map (R323–R325): per luminaire the plan level and the composed level, and the code of each channel that
an enabled luminaire owns. -/
def lumMap (m : Main) : List (Nat × Nat) × (Nat → Option Nat) × Bool :=
  let ls := lums m
  let on (i : Nat) (l : Lum) : Bool := l.mode != 0 && !lumBad ls i
  let lv := (List.range 8).map fun i =>
    let l := ls.getD i (lumOf m i)
    let p := (planGroup m l.group).level
    if on i l then (p, lumLevel l p) else (0, 0)
  let code (n : Nat) : Option Nat :=
    (List.range 8).findSome? fun i =>
      match ls[i]? with
      | some l => if on i l && decide (l.first ≤ n) && decide (n < l.first + l.width) then some (lumCode l (lv.getD i (0, 0)).2 (n - l.first)) else none
      | none => none
  (lv, code, (List.range 8).any (lumBad ls))

/-- The gamma table (R328). -/
def gammaEntry (m : Main) (i : Nat) : Nat := m.get (if i % 2 = 0 then F.GAMMA_D_EVEN else F.GAMMA_D_ODD) (i / 2)

def pwmBits (m : Main) (n : Nat) : Nat :=
  let b := m.get F.CH_CFG_BITS n
  if 8 ≤ b ∧ b ≤ 16 then b else 16

/-- Live fault bits of a channel (R330): 0 OPEN, 1 SHORT, 2 STUCK, 3 FLT, 4 TC_LIMIT, 5 OVERVOLT. -/
def chLive (m : Main) (n bit : Nat) : Bool := m.bit F.CH_FAULT_LIVE n bit

/-- A live bit of a channel is set or cleared; event 42 fires where the latched bit rises, except for TC_LIMIT. -/
def setChFault (n bit : Nat) (on : Bool) (m : Main) : Main :=
  let m := m.putBit F.CH_FAULT_LIVE on n bit
  if on && !m.bit F.CH_FAULT_LATCH n bit then fireIf (bit != 4) 42 (m.putBit F.CH_FAULT_LATCH true n bit) else m

def eavCh (m : Main) (n : Nat) : EavCh := vget m.eav.chans n EavCh.reset
def withCh (m : Main) (n : Nat) (f : EavCh → EavCh) : Main := { m with eav := { m.eav with chans := vmod m.eav.chans n f } }

/-- A fault holds the channel's output off or high-impedance (R330). -/
def chHeld (m : Main) (n : Nat) : Bool :=
  chLive m n 1 || chLive m n 2 || chLive m n 5 || (m.bit F.CH_CFG_FLT_OFF n && (chLive m n 3 || (eavCh m n).fltLeft != 0))

/-- How channel `n` is driven (R330, R341): high-impedance for STUCK and OVERVOLT, low for SHORT, FLT and a clear ENABLE. -/
def chDrive (m : Main) (n : Nat) : Drive :=
  if chLive m n 2 || chLive m n 5 then .highZ else if !m.bit F.CH_CFG_ENABLE n || chHeld m n then .low else .pwm

/-- The output follows at once what holds it off; a count is loaded again at the next tick. -/
def chSync (n : Nat) (m : Main) : Main :=
  withCh m n fun c => { c with drive := chDrive m n, count := if chDrive m n = .pwm then c.count else 0 }

/-- The source and the target of channel `n` (R326): 0 SAFE, 1 loop, 2 map, 3 off. -/
def chTarget (m : Main) (map : Nat → Option Nat) (n : Nat) : Nat × Nat :=
  if safeCond m true then (0, m.get F.CH_CFG_SAFE n)
  else
    match loopTarget m 2 n with
    | some v => (1, v)
    | none => match map n with
      | some v => (2, v)
      | none => (3, 0)

/-- The temperature factor of channel `n` (R328). -/
def chK (m : Main) (n : Nat) : Nat :=
  if !m.bit F.CH_CFG_TC_EN n then 4096
  else
    let k := m.get F.CH_CFG_NTC n
    if m.bit F.NTC_TEMP_FAULT k then (eavCh m n).k
    else tempFactor (signed 10 (m.get F.CH_TC_COEF n)) (signed 16 (m.get F.NTC_TEMP_T k)) (signed 8 (m.get F.CH_TC_T_REF n))
      (m.get F.CH_TCLIM_KMIN n) (m.get F.CH_TCLIM_KMAX n)

/-- One channel at a tick. -/
def chTick (map : Nat → Option Nat) (n : Nat) (m : Main) : Main :=
  let tgt := chTarget m map n
  let ch := eavCh m n
  let gov := ch.gov.tick tgt.2 (m.get F.CH_GOV_RISE n) (m.get F.CH_GOV_FALL n) (m.get F.CH_DWELL_DWELL n)
  let t := gov.out / 16
  let k := chK m n
  let d := dutyOf (gammaEntry m) t
  let raw := d * k / 4096
  let duty := min raw 65536
  let limit := (m.bit F.CH_CFG_TC_EN n && (k == m.get F.CH_TCLIM_KMIN n || k == m.get F.CH_TCLIM_KMAX n)) || decide (65536 < raw)
  let rises := limit && !chLive m n 4
  let due := ch.evt43 != some m.course
  let m := withCh m n fun c => { c with
    gov := gov, k := k, drive := chDrive m n, count := if chDrive m n = .pwm then compareCount duty (pwmBits m n) else 0,
    fltLeft := if chLive m n 3 then c.fltLeft else c.fltLeft - 1 }
  let m := ((m.put F.CH_STATUS_OUT t n).put F.CH_STATUS_SRC tgt.1 n).put F.CH_STATUS_TARGET tgt.2 n
  let m := (m.putBit F.CH_STATUS_GOV_FAST (decide (1000 < gov.fast)) n).putBit F.EAV_STATUS_SAFE (tgt.1 == 0) 0 n
  let m := (m.put F.CH_DUTY_K k n).put F.CH_DUTY_DUTY (min duty 65535) n
  let m := setChFault n 4 limit m
  if rises && due then fire 43 (withCh m n fun c => { c with evt43 := some m.course }) else m

/-- The NTC inputs (R328): each one's resistance in Ω, from input 0 on. -/
def ntcRead (ntc : List Nat) (m : Main) : Main :=
  (List.range 8).foldl (fun m k =>
    match ntc[k]? with
    | none => m
    | some r =>
      let bad := decide (2000000 < r) || decide (r < 50) || m.pwr.overV.any fun x => match x with | .ntc j => j.val == k | _ => false
      let was := m.bit F.NTC_TEMP_FAULT k
      let m := m.putBit F.NTC_TEMP_FAULT bad k
      let m := if bad then m else m.put F.NTC_TEMP_T (twos 16 (ntcTemp r (m.get F.NTC_CFG_B k) (m.get F.NTC_CFG_R25 k))) k
      fireIf (bad && !was) 42 m) m

/-! ### The gable port -/

def gblGeom (m : Main) : Nat × Nat × Nat × Nat :=
  (m.get F.GBL_GEOM_RATE, m.get F.GBL_GEOM_LINES, m.get F.GBL_GEOM_DRIVERS_M1 + 1, m.get F.GBL_GEOM_PRECHARGE)

/-- The luminance target and its source (R336). -/
def gblTarget (m : Main) : Nat × Nat :=
  if safeCond m false then (0, m.get F.GBL_LUM_SAFE)
  else match loopTarget m 3 0 with
    | some v => (1, v)
    | none => (2, (planGroup m (m.get F.GBL_LUM_GROUP)).level)

/-- The port's governor at a tick (R336); the port has no DWELL register, and none is applied (log entry 29). -/
def gblTick (m : Main) : Main :=
  let t := gblTarget m
  let m : Main := { m with gbl := { m.gbl with target := t.2, gov := m.gbl.gov.tick t.2 (m.get F.GBL_GOV_RISE) (m.get F.GBL_GOV_FALL) 0 } }
  m.put F.GBL_STATUS_SRC t.1

/-- EAV_TICK: the inputs, the map, the channels and the port's governor, at one tick of 1 ms. LITE is off in SHIP, and its outputs are
held in DAYLIGHT (R553). -/
def eavTick (ntc : List Nat) (m : Main) : Main :=
  if m.mode = 0 ∨ m.mode = 6 then m else
  let m := ntcRead ntc m
  let map := lumMap m
  let m := m.putBit F.EAV_STATUS_MAP_BAD map.2.2
  let m := (List.range 8).foldl (fun m i =>
    (m.put F.LUM_STATUS_C (map.1.getD i (0, 0)).2 i).put F.LUM_STATUS_P (map.1.getD i (0, 0)).1 i) m
  gblTick ((List.range 16).foldl (fun m n => chTick map.2.1 n m) m)

/-- EAV_FAULT (R330): OPEN and FLT come and go; SHORT and STUCK are cleared by probes only. OPEN is found only while d′ is at least 655. -/
def eavFault (n kind : Nat) (on : Bool) (m : Main) : Main :=
  chSync n (match kind with
    | 0 => if on && decide (m.get F.CH_DUTY_DUTY n < 655) then m else setChFault n 0 on m
    | 1 => if on then setChFault n 1 true (withCh m n fun c => { c with good := 0 }) else m
    | 2 => if on then setChFault n 2 true (withCh m n fun c => { c with good := 0 }) else m
    | _ => setChFault n 3 on (if on then m else withCh m n fun c => { c with fltLeft := if chLive m n 3 then 1000 else c.fltLeft }))

/-- A one-period probe of a channel off for SHORT or STUCK (R330). -/
def eavProbe (n : Nat) (good : Bool) (m : Main) : Main :=
  if !(chLive m n 1 || chLive m n 2) then m
  else
    let k := if good then (eavCh m n).good + 1 else 0
    if 3 ≤ k then chSync n (setChFault n 1 false (setChFault n 2 false (withCh m n fun c => { c with good := 0 })))
    else withCh m n fun c => { c with good := k }

/-- GAMMA_DEFAULT (R328). -/
def gammaRestore (m : Main) : Main := { m with regs := m.regs.filter fun p => !(0x0B1000 ≤ p.1 && p.1 < 0x0B1800) }

/-! ### Sign faults (R335–R340) -/

/-- Live bits of the port: 0 PIXEL_LIT, 1 PIXEL_UNLIT, 2 LINE_SHORT, 3 BUS, 4 LEGEND_BAD, 5 OVERVOLT. Event 45 fires when LINE_SHORT,
BUS or OVERVOLT sets and when each clears, and when LEGEND_BAD sets. -/
def setGblFault (bit : Nat) (on : Bool) (m : Main) : Main :=
  let was := m.bit F.GBL_FAULT_LIVE 0 bit
  let m := m.putBit F.GBL_FAULT_LIVE on 0 bit
  let m := if on then m.putBit F.GBL_FAULT_LATCH true 0 bit else m
  fireIf (was != on && (bit == 2 || bit == 3 || bit == 5 || (bit == 4 && on))) 45 m

def blanked (m : Main) : Bool := m.bit F.GBL_STATUS_INTEGRITY_BLANK

/-- GBL_OE as it is to be, where it is not so yet. -/
def gableOe (high : Bool) (m : Main) : Main :=
  if m.gbl.oe = high then m else { m with gbl := { m.gbl with oe := high } }.emit (.gable (.oe high))

/-- The line whose switch is to be on, all others off. -/
def gableLit (line : Option Nat) (m : Main) : Main :=
  let m := match m.gbl.lit with
    | some l => m.emit (.gable (.line l false))
    | none => m
  let m := match line with
    | some l => m.emit (.gable (.line l true))
    | none => m
  { m with gbl := { m.gbl with lit := line } }

/-- GBL_OE withdrawn and every line off. -/
def gableDark (m : Main) : Main := gableLit none (gableOe false m)

/-- A lit-pixel fault under the legend `leg` (R338): the blank, or under REPORT_ONLY its report. -/
def litFault (leg : Option (Nat × Legend)) (line col kind : Nat) (m : Main) : Main :=
  match leg with
  | none => m
  | some (i, _) =>
    let m := if m.bit F.GBL_FIRST_VALID then m
      else (((m.putBit F.GBL_FIRST_VALID true).put F.GBL_FIRST_LINE line).put F.GBL_FIRST_COLUMN col).put F.GBL_FIRST_KIND kind
    if m.bit F.GBL_POLICY_REPORT_ONLY 0 i then (m.putBit F.GBL_FAULT_LIVE true 0 0).putBit F.GBL_FAULT_LATCH true 0 0
    else if blanked m then m
    else record 0x0340 line col kind i (fire 44 ((gableDark m).putBit F.GBL_STATUS_INTEGRITY_BLANK true))

/-- A returned fault bit: into the fault map, and lit or unlit under the legend of its frame (R337). -/
def pixelFault (leg : Option (Nat × Legend)) (line : Nat) (kind : Nat) (col : Nat) (m : Main) : Main :=
  let key := 256 * line + col
  let old := sget (fun _ => 0) m.gbl.fmap key
  let m : Main := { m with gbl := { m.gbl with fmap := sset (fun _ => 0) m.gbl.fmap key (old ||| 2 ^ kind) } }
  if leg.any fun g => pixelLit g.2 line col then litFault leg line col kind m else setGblFault 1 true m

/-- The selection is taken, and the legend checked, at a frame boundary (R335). -/
def legendTake (m : Main) : Main :=
  if !m.gbl.change then m
  else
    let i := m.get F.GBL_SHOW_LEGEND
    let (_, lines, drivers, _) := gblGeom m
    let m : Main := { m with gbl := { m.gbl with change := false } }
    if !m.bit F.GBL_SHOW_SHOW then setGblFault 4 false { m with gbl := { m.gbl with shown := none } }
    else
      match vget m.gbl.legends i none with
      | some g =>
        if legendGood g lines drivers then setGblFault 4 false { m with gbl := { m.gbl with shown := some (i, g) } }
        else setGblFault 4 true { m with gbl := { m.gbl with shown := none } }
      | none => setGblFault 4 true { m with gbl := { m.gbl with shown := none } }

/-- LEGEND_VALID: the stored legends that pass the check of R335. -/
def showLegends (m : Main) : Main :=
  let (_, lines, drivers, _) := gblGeom m
  m.put F.GBL_STATUS_LEGEND_VALID (maskOf 16 fun i => match vget m.gbl.legends i none with | some g => legendGood g lines drivers | none => false)

/-- The frame boundary: luminance, legend, and the live pixel bits of the frame to come (R334–R336). -/
def frameBoundary (m : Main) : Main :=
  let l := m.gbl.gov.out / 16
  let (rate, lines, _, pre) := gblGeom m
  let m := (m.putBit F.GBL_FAULT_LIVE false 0 0).putBit F.GBL_FAULT_LIVE false 0 1
  let m : Main := { m.put F.GBL_STATUS_LUM_NOW l with gbl := { m.gbl with on := gableOn rate lines pre l } }
  legendTake m

def lineFault (m : Main) (line : Nat) : Bool :=
  if line < 32 then bitOf (m.get F.GBL_LINEFLT_LO) line else bitOf (m.get F.GBL_LINEFLT_HI) (line - 32)

def putLineFault (line : Nat) (on : Bool) (m : Main) : Main :=
  if line < 32 then m.put F.GBL_LINEFLT_LO (putBits (m.get F.GBL_LINEFLT_LO) line 1 (natOf on))
  else m.put F.GBL_LINEFLT_HI (putBits (m.get F.GBL_LINEFLT_HI) (line - 32) 1 (natOf on))

/-- The line that follows `k` in the scan. -/
def nextLine (m : Main) (k : Nat) : Nat := if k + 1 < m.get F.GBL_GEOM_LINES then k + 1 else 0

/-- The shift for line `n` (R333): the grey bytes, furthest driver and highest column first, and the check word. The shift for line 0 is
already of the frame to come. -/
def lineShift (n : Nat) (m : Main) : GablePin :=
  let cols := 16 * (m.get F.GBL_GEOM_DRIVERS_M1 + 1)
  let leg := if n = 0 then (legendTake m).gbl.shown else m.gbl.shown
  let grey (c : Nat) : Nat := match leg with
    | some (_, g) => if pixelLit g n c then lle g.data (16 * g.drivers * n + c) 1 else 0
    | none => 0
  .shift ((List.range cols).reverse.map grey) 0x5A3C

/-- The lands of the port are over-voltage, and every line is held off (R577). -/
def gableHeld (m : Main) : Bool := m.pwr.overV.any fun x => match x with
  | .gbl _ => true
  | _ => false

/-- What line `k` does from the start of its period (R332): the line before it goes dark, and unless the sign is blanked or the line is
held off, it pre-charges, latches and lights for ON; the shift for the next line starts. -/
def lineStart (k : Nat) (m : Main) : Main :=
  let m := gableDark m
  let m :=
    if blanked m || gableHeld m || lineFault m k then m
    else
      let m := (((m.emit (.gable (.pre true))).emit (.gable (.pre false))).emit (.gable .lat))
      gableOe (m.gbl.on != 0 && m.gbl.shown.isSome) (gableLit (some k) m)
  m.emit (.gable (lineShift (nextLine m k) m))

/-- Open and short columns of what GBL_SDI returns (R333): per driver, nearest first, 16 open and 16 short bits, highest column first. -/
def sdiColumns (sdi : List Byte) (drivers kind : Nat) : List Nat :=
  (List.range (16 * drivers)).filter fun c => bitOf (lbe sdi (4 * (c / 16) + 2 * kind) 2) (c % 16)

/-- The check word that follows them is there. -/
def sdiChecked (sdi : List Byte) (drivers : Nat) : Bool := sdi.length == 4 * drivers + 2 && lbe sdi (4 * drivers) 2 == 0x5A3C

/-- What the shift during a line period returns of line `prev`, which ran under the legend `leg` (R333, R337); a line that was dark has
no status (log entry 28). -/
def lineStatus (leg : Option (Nat × Legend)) (prev : Nat) (wasLit : Bool) (sdi : List Byte) (m : Main) : Main :=
  let drivers := m.get F.GBL_GEOM_DRIVERS_M1 + 1
  let bad := if sdiChecked sdi drivers then 0 else m.gbl.badWords + 1
  let m := setGblFault 3 (decide (2 ≤ bad)) { m with gbl := { m.gbl with badWords := bad } }
  let m :=
    if wasLit then
      (sdiColumns sdi drivers 1).foldl (fun m c => pixelFault leg prev 1 c m)
        ((sdiColumns sdi drivers 0).foldl (fun m c => pixelFault leg prev 0 c m) m)
    else m
  if 2 ≤ bad ∧ m.get F.GBL_STATUS_LUM_NOW ≠ 0 then litFault leg prev 0 3 m else m

/-- A line period begins (R332, R333, R337): line `k` lights, and what the shift returns of line `k − 1` is read. A short that holds `k`
off is found again (R339). -/
def gableLine (sdi : List Byte) (m : Main) : Main :=
  if !m.bit F.GBL_CTRL_ENABLE || m.mode == 0 || m.mode == 6 then m
  else
    let prev := m.gbl.line
    let k := nextLine m prev
    let leg := m.gbl.shown
    let wasLit := m.gbl.lit == some prev
    let m : Main := { m with gbl := { m.gbl with line := k } }
    let m := lineStart k (if k = 0 then frameBoundary m else m)
    let m := lineStatus leg prev wasLit sdi m
    if lineFault m k && m.gbl.shown.any fun g => lineLit g.2 k then litFault m.gbl.shown k 0 2 m else m

/-- A line output over its current limit (R340). -/
def lineShort (line : Nat) (m : Main) : Main :=
  let m := setGblFault 2 true (putLineFault line true m)
  let m := if m.gbl.lit = some line then gableDark m else m
  if m.gbl.shown.any fun g => lineLit g.2 line then litFault m.gbl.shown line 0 2 m else m

/-- The retries of lines held off, once a course (R340): a line whose bit is set in `good` was within limits. -/
def lineRetries (good : Nat) (m : Main) : Main :=
  let m := (List.range 48).foldl (fun m l => if lineFault m l && bitOf good l then putLineFault l false m else m) m
  if (List.range 48).any (lineFault m) then m else if m.bit F.GBL_FAULT_LIVE 0 2 then setGblFault 2 false m else m

/-- A course boundary (R335, R340): held lines are retried, and the shown legend is checked again at the next frame boundary. -/
def signCourse (good : Nat) (m : Main) : Main := lineRetries good { m with gbl := { m.gbl with change := true } }

/-- A write of GBL_CTRL.ENABLE: clear, it stops the scan with the outputs off (R342). -/
def gableEnable (m : Main) : Main := if m.bit F.GBL_CTRL_ENABLE then m else gableDark m

/-- The fault-map window's words for the selected line (R342). -/
def faultWords (m : Main) : List Nat :=
  let line := m.get F.GBL_FMAP_SEL_LINE
  (List.range 16).map fun w => ((List.range 16).map fun c => sget (fun _ => 0) m.gbl.fmap (256 * line + 16 * w + c) * 4 ^ c).sum

/-- REARM (R339). -/
def rearm (m : Main) : Main :=
  let m := m.putBit F.GBL_STATUS_INTEGRITY_BLANK false
  { m.setWord (F.GBL_FIRST_KIND.addr 0) 0 with gbl := { m.gbl with fmap := [] } }

/-- A write of GBL_GEOM (R331). -/
def geomWrite (v : Nat) (m : Main) : Main :=
  if geomBad (bits v 24 16) (bits v 13 8) (bits v 7 4 + 1) (bits v 3 0) then m.putBit F.GBL_STATUS_GEOM_REFUSED true
  else
    let m := (((m.put F.GBL_GEOM_RATE (bits v 24 16)).put F.GBL_GEOM_LINES (bits v 13 8)).put F.GBL_GEOM_DRIVERS_M1 (bits v 7 4)).put
      F.GBL_GEOM_PRECHARGE (bits v 3 0)
    showLegends { m with gbl := { m.gbl with change := true } }

/-- A write of GBL_SHOW (R335). -/
def showWrite (v : Nat) (m : Main) : Main :=
  let m := (m.putBit F.GBL_SHOW_SHOW (bitOf v 31)).put F.GBL_SHOW_LEGEND v
  { m with gbl := { m.gbl with change := true } }

/-- A legend is stored, or refused (R334). -/
def legendStore (data : List Byte) (m : Main) : Main × Bool :=
  let (_, lines, drivers, _) := gblGeom m
  match legendOf data lines drivers with
  | none => (m, false)
  | some (i, g) =>
    let m : Main := { m with gbl := { m.gbl with legends := vmod m.gbl.legends i fun _ => some g,
                                                 change := m.gbl.change || m.get F.GBL_SHOW_LEGEND == i } }
    (showLegends m, true)

/-- The start of the LITE domain (R329): governors at their SAFE levels with no ramp, faults gone. -/
def liteStart (m : Main) : Main :=
  let m := showLegends m
  { m with
    eav := { chans := Vector.ofFn fun (n : Fin 16) => { EavCh.reset with gov := Gov.at0 (16 * m.get F.CH_CFG_SAFE n) }, started := false },
    gbl := { Gbl.reset with legends := m.gbl.legends, change := true, gov := Gov.at0 (16 * m.get F.GBL_LUM_SAFE) } }

end Sys2Proof.Machine
end

