-- ==== Sys2Proof/Machine/Profile.lean ====
section
/-!
DEFINITION. Plan time against UTC (R58, R598) and the profile state (R54–R59).
-/
namespace Sys2Proof.Machine

/-! ### Servo states as PTP_STATUS shows them -/

namespace Sv
def unset : Nat := 0
def locking : Nat := 1
def locked : Nat := 2
def holdover : Nat := 3
def free : Nat := 4
end Sv

def servo (m : Main) : Nat := m.get F.PTP_STATUS_STATE

/-- Which offset of R58 is the first available: from PTP while it is locked and flags the value valid, the last such value, or the
running bundle's header. -/
def utcSource (m : Main) : Nat :=
  if servo m = Sv.locked ∧ m.bit F.PTP_STATUS_UTC_VALID then 1 else if m.time.utcKept.isSome then 2 else 3

/-- TAI − UTC by R58. The spec names no offset for a module that has retained none and runs no bundle: it is taken as 0
(DESIGN CHOICE, log entry 61). -/
def utcWanted (m : Main) : Int :=
  match utcSource m, m.time.utcKept, m.ylm.run with
  | 1, _, _ => m.get F.PTP_STATUS_UTC_OFFSET
  | 2, some k, _ => k
  | _, _, some b => Hdr.utcOffset m.ylm.banks[b].img
  | _, _, none => 0

/-! ### UTC (R58, R598) -/

/-- UTC seconds since 1970-01-01 at TAI second `tai`, under the offset in force. -/
def utcOf (m : Main) (tai : Nat) : Int := (tai : Int) - m.time.utcOff

/-- What the announced leap second makes of an offset at TAI second `tai` (R598): up to the end of the UTC day the one before it, from
there on the one after it, whichever of the two PTP or the retained value shows. -/
def leapAdjust (m : Main) (tai : Nat) (w : Int) : Int :=
  match m.time.leap with
  | none => w
  | some l => if l.at' ≤ tai then (if w = l.old then l.new else w) else if w = l.new then l.old else w

/-- The offset that holds for the calendar at the local clock's present second. -/
def utcShown (m : Main) : Int := leapAdjust m m.time.sec (utcWanted m)

/-- The course of TAI second `tai` is the one that UTC labels 23:59:60 (R598). -/
def leapCourse (m : Main) (tai : Nat) : Bool :=
  match m.time.leap with
  | some l => l.new == l.old + 1 && tai + 1 == l.at' && m.time.utcOff == l.old
  | none => false

/-- The leap second that an Announce with leap61 or leap59 tells of, from the end of the present UTC day (R598); `off` is the offset
that holds before it. -/
def leapAt (m : Main) (off : Int) (l61 : Bool) : Leap :=
  let new := off + (if l61 then 1 else -1)
  ⟨off, new, (86400 * (((m.course : Int) - off) / 86400 + 1) + new).toNat⟩

/-- R58 and R598 at the boundary that begins TAI second `tai`: the offset now in force. An announced leap second stays noted until an
Announce without leap flags, since PTP may still show the old value after it (log entry 61). -/
def utcOffset (tai : Nat) (m : Main) : Main :=
  let off := leapAdjust m tai (utcWanted m)
  let kept := m.time.utcKept.map (leapAdjust m tai)
  let src := utcSource m
  let m : Main := { m with time := { m.time with utcOff := off, utcKept := kept } }
  let m := m.put F.YLM_STATUS_UTC_SRC (src - 1)
  if src = 1 then m else m.putBit F.YLM_ERR_UTC_FALLBACK true

/-- The almanac day of a UTC second, day 0 being ALMANAC_START (R50). 2000-01-01 is day 10,957 of 1970. -/
def almDayOf (b : Img) (utc : Int) : Int := utc / 86400 - 10957 - Hdr.almanacStart b

/-! ### The profile state (R54–R57) -/

/-- One almanac event puts a profile step in force. -/
def applyStep (b : Img) (order : Nat) (p st : Nat) (g : Sparse GroupPlan) : Sparse GroupPlan :=
  (List.range 256).foldl (fun g i =>
    let v := profileStep b p st i
    if v = 0xFFFF then g else sset (fun _ => ⟨0, 0, 0⟩) g i ⟨bits v 11 0, bits v 15 12, order⟩) g

/-- The events at or before (`day`, `sec`, `slot`), in order; after the last day its events again. -/
def eventsBefore (b : Img) (day : Int) (sec slot : Nat) : List (Nat × Nat × Nat × Nat) :=
  if day < 0 then []
  else
    let upTo (d : Nat) := (almanacDay b d).filter fun e => decide (100 * e.1 + e.2.1 ≤ 100 * sec + slot)
    let n := day.toNat
    (List.range (min n 400)).flatMap (almanacDay b) ++ (if n < 400 then upTo n else upTo 399)

/-- An event takes effect: groups, order number and YLM_PROFILE. -/
def applyEvent (b : Img) (e : Nat × Nat × Nat × Nat) (m : Main) : Main :=
  let o := m.ylm.evOrder + 1
  let m : Main := { m with ylm := { m.ylm with groups := applyStep b o e.2.2.1 e.2.2.2 m.ylm.groups, evOrder := o } }
  (m.put F.YLM_PROFILE_PROFILE e.2.2.1).put F.YLM_PROFILE_STEP e.2.2.2

/-- The second of the UTC day at TAI second `tai`; in a 23:59:60 course the old day's last second. -/
def utcSecond (m : Main) (tai : Nat) : Nat := if leapCourse m tai then 86399 else ((utcOf m tai) % 86400).toNat
def utcDay (m : Main) (tai : Nat) : Int := (utcOf m tai - (if leapCourse m tai then 1 else 0)) / 86400

/-- R57: the profile state is computed anew for slot `abs`. -/
def recomputeProfile (abs : Nat) (m : Main) : Main :=
  match runImg m with
  | none => m
  | some b =>
    let tai := abs / 100
    let slot := if leapCourse m tai then 99 else abs % 100
    let m : Main := { m with ylm := { m.ylm with groups := [], evOrder := 0 } }
    let m := (m.put F.YLM_PROFILE_PROFILE 0).put F.YLM_PROFILE_STEP 0
    (eventsBefore b (almDayOf b (86400 * utcDay m tai)) (utcSecond m tai) slot).foldl (fun m e => applyEvent b e m) m

/-- The offset in force at the boundary that begins TAI second `tai`; where it changes, or the clock has jumped, the profile state is
that of the new instant (R54, R57). -/
def utcStep (tai : Nat) (jump : Bool) (m : Main) : Main :=
  let old := m.time.utcOff
  let m := utcOffset tai m
  if jump || m.time.utcOff != old then recomputeProfile (100 * tai) m else m

/-- R54: the event due in slot `abs`, if any, takes effect; a 23:59:60 course has none (R598). -/
def almanacDue (abs : Nat) (m : Main) : Main :=
  match runImg m with
  | none => m
  | some b =>
    let tai := abs / 100
    let day := almDayOf b (utcOf m tai)
    if leapCourse m tai || decide (day < 0) then m
    else
      match (almanacDay b (min day.toNat 399)).find? fun e => e.1 == utcSecond m tai && e.2.1 == abs % 100 with
      | some e => applyEvent b e m
      | none => m

/-- A lantern's plan level, plan ramp code and floor from its groups (R56). -/
def planTerm (m : Main) (gs : List Nat) : Nat × Nat × Nat :=
  let ps := gs.map (planGroup m)
  let level := ps.foldl (fun n g => max n g.level) 0
  let best := (ps.filter (·.level == level)).foldl (fun (a : Option GroupPlan) g =>
    match a with
    | none => some g
    | some x => if x.order < g.order then some g else some x) none
  let floor := match runImg m with
    | some b => gs.foldl (fun n g => max n (groupFloor b g)) 0
    | none => 0
  (level, match best with | some g => g.ramp | none => 0, floor)

/-- R59 at a course boundary. -/
def almanacLow (tai : Nat) (m : Main) : Main :=
  match runImg m with
  | none => m
  | some b =>
    let day := almDayOf b (86400 * utcDay m tai)
    let m := m.putBit F.YLM_STATUS_ALMANAC_END (decide (399 < day))
    let low := decide (369 < day)
    let m := m.putBit F.YLM_STATUS_ALMANAC_LOW low
    if low && m.ylm.lowDay != some (utcDay m tai) then
      record 0x0310 (399 - day).toNat 0 0 0 { m with ylm := { m.ylm with lowDay := some (utcDay m tai) } }
    else m

end Sys2Proof.Machine
end

