-- ==== Sys2Proof/Machine/CtxStore.lean ====
section
/-!
DEFINITION. The context store (R24, R166): access by lantern, and a context's bytes.
-/
namespace Sys2Proof.Machine

def ctxOf (m : Main) (i : Nat) : Ctx := sget (fun _ => Ctx.blank) m.ctx.ctx i
def withCtx (i : Nat) (f : Ctx → Ctx) (m : Main) : Main :=
  { m with ctx := { m.ctx with ctx := sset (fun _ => Ctx.blank) m.ctx.ctx i (f (ctxOf m i)) } }
def mapCtx (f : Nat → Ctx → Ctx) (m : Main) : Main := { m with ctx := { m.ctx with ctx := smap (fun _ => Ctx.blank) f m.ctx.ctx } }

/-- IN_PLAN is set: the context is filled, and not excluded for an ECC error. -/
def Ctx.live (c : Ctx) : Bool := c.inPlan && !c.excluded

def natSigned8 (v : Int) : Nat := twos 8 v

/-- The 96 bytes of a context (R166). IDENT is 0 where no bundle fills it, and after an uncorrectable ECC error. -/
def ctxBytes (i : Nat) (c : Ctx) : List Byte :=
  let ident := if c.excluded || !(c.inPlan || c.joined) then 0 else i + 8192 * natOf c.joined + 16384 * natOf c.inPlan
  let head := leBytes 2 ident ++ leBytes 2 c.euiRef ++ leBytes 1 c.primary ++ leBytes 1 c.secondary ++ leBytes 2 c.relayParent ++
    leBytes 1 (c.feeder + 4 * c.depth) ++ leBytes 1 c.groups.length ++ (List.range 8).flatMap (fun k => leBytes 1 (c.groups.getD k 0)) ++
    leBytes 2 c.fluxGain ++ leBytes 1 (natSigned8 c.cctOffset) ++ leBytes 1 c.loopGroup ++ leBytes 2 c.levelMin ++ leBytes 2 c.levelMax ++
    (List.range 8).flatMap (fun k => leBytes 2 (c.curve.getD k 0))
  let levels := leBytes 2 (c.base + 4096 * c.baseRamp) ++ leBytes 2 (c.wave + 4096 * c.waveRamp) ++ leBytes 3 c.waveEnd ++
    leBytes 1 (c.back + 16 * natOf c.waveOn) ++ leBytes 2 c.ovr ++ leBytes 4 c.ovrUntil ++
    leBytes 4 (c.now % 2 ^ 20 + 2 ^ 20 * natOf (c.now != 256 * c.target)) ++ leBytes 2 (c.target + 4096 * c.targetRamp)
  let heard := leBytes 2 c.status ++ leBytes 2 c.faults ++ leBytes 2 c.lastSpar ++ leBytes 4 c.lastHeard ++ leBytes 4 c.energy ++
    leBytes 2 c.lux ++ leBytes 1 c.temp ++ leBytes 1 c.link ++ leBytes 4 c.fw ++ leBytes 2 c.zone ++
    (List.range 4).flatMap (fun k => leBytes 2 (c.tally.getD k 0)) ++
    leBytes 1 (natOf c.reportPend + 2 * natOf c.tallyPend + 4 * natOf c.detectPend) ++ leBytes 1 c.elided
  head ++ levels ++ heard

end Sys2Proof.Machine
end

