-- ==== Sys2Proof/Machine/Coalesce.lean ====
section
/-!
DEFINITION. Coalescing on UPL0–UPL2 (R180–R183, R367): kind 0 REPORT, 1 TALLY, 2 DETECT, on ring 8 + kind.
-/
namespace Sys2Proof.Machine

/-- Descriptors written back whose position the host has not yet passed with a doorbell (R367). -/
def occupancy (m : Main) (k : Nat) : Nat :=
  let g := ringOf m (8 + k)
  g.wb - (g.taken + ringAvail m (8 + k) - ringSize m (8 + k))

/-- HIGH_PCT and LOW_PCT in force; a HIGH_PCT outside 2–100 is taken as the nearer limit. -/
def highPct (m : Main) (k : Nat) : Nat := max 2 (min 100 (m.get F.CTX_COAL_HIGH_PCT k))
def lowPct (m : Main) (k : Nat) : Nat := max 1 (min (m.get F.CTX_COAL_LOW_PCT k) (highPct m k - 1))
def atHigh (m : Main) (k : Nat) : Bool := decide (highPct m k * ringSize m (8 + k) ≤ 100 * occupancy m k)
def atLow (m : Main) (k : Nat) : Bool := decide (100 * occupancy m k ≤ lowPct m k * ringSize m (8 + k))

/-- The coalescing state: 0 NORMAL, 1 ACTIVE, 2 DRAINING, with event 23 where NORMAL is left or returned to (R182). -/
def coalState (m : Main) (k : Nat) : Nat := m.get F.CTX_COAL_STATE k
def setCoal (k st : Nat) (m : Main) : Main :=
  fireIf ((coalState m k == 0) != (st == 0)) 23 ((m.put F.CTX_COAL_STATE st k).put F.HST_RING_STATUS_COAL st (8 + k))

def pendOf (m : Main) (k : Nat) : List PendUp := vget m.ctx.pend k []
def withPend (k : Nat) (f : List PendUp → List PendUp) (m : Main) : Main :=
  let m : Main := { m with ctx := { m.ctx with pend := vmod m.ctx.pend k f } }
  m.put F.CTX_PEND_PENDING (pendOf m k).length k

/-- The pending bit of a kind in a context. -/
def setPendBit (k i : Nat) (on : Bool) (m : Main) : Main :=
  withCtx i (fun c => if k = 0 then { c with reportPend := on } else if k = 1 then { c with tallyPend := on } else { c with detectPend := on }) m

/-- An upload record (R183). -/
def upRecord (kind lane lantern rxTime rxSlot elided spar : Nat) (body : List Byte) : List Byte :=
  leBytes 1 kind ++ leBytes 1 lane ++ leBytes 2 lantern ++ leBytes 4 rxTime ++ leBytes 1 rxSlot ++ leBytes 1 elided ++ leBytes 2 spar ++
    (body ++ zeros 20).take 20

/-- The COALESCED record of a pending entry, from the context. The context holds no LEVEL_NOW of a REPORT: the estimate of the
present level stands for it (log entry 31). -/
def coalRecord (m : Main) (k : Nat) (e : PendUp) : List Byte :=
  let c := ctxOf m e.lantern
  let body :=
    if k = 0 then
      leBytes 2 c.status ++ leBytes 2 c.faults ++ leBytes 2 (c.now / 256 % 4096) ++ leBytes 4 c.energy ++ leBytes 2 c.lux ++
        leBytes 1 c.temp ++ leBytes 1 c.link ++ leBytes 4 c.fw
    else if k = 1 then leBytes 2 c.zone ++ leBytes 2 0 ++ (List.range 4).flatMap fun i => leBytes 2 (c.tally.getD i 0)
    else []
  upRecord (0x18 + k) 0xFF e.lantern e.rxTime e.rxSlot (if k = 0 then c.elided else 0) c.lastSpar body

/-- A lantern's entry has been written: its pending bit and what the record cleared. -/
def coalWritten (k i : Nat) (m : Main) : Main :=
  withCtx i (fun c => if k = 0 then { c with elided := 0 } else if k = 1 then { c with tally := [0, 0, 0, 0] } else c) (setPendBit k i false m)

/-- DRAINING: entries go out, oldest first, while occupancy is below HIGH_PCT and buffers are free. -/
def coalDrain (k : Nat) : Nat → Main → Main
  | 0, m => m
  | n + 1, m =>
    match pendOf m k with
    | [] => setCoal k 0 m
    | e :: es =>
      if atHigh m k then setCoal k 1 m
      else if !ringMoves m (8 + k) then m
      else
        let p := uplPlace k (coalRecord m k e) m
        if p.2 then coalDrain k n (coalWritten k e.lantern (withPend k (fun _ => es) p.1)) else p.1

/-- The state follows the ring's occupancy. -/
def coalStep (k : Nat) (m : Main) : Main :=
  let m := if coalState m k = 0 ∧ atHigh m k then setCoal k 1 m else m
  let m := if coalState m k = 1 ∧ atLow m k then setCoal k 2 m else m
  if coalState m k = 2 then coalDrain k 8193 m else m

/-- A frame joins or merges into its lantern's pending entry (R181). -/
def coalMerge (k i rxTime rxSlot : Nat) (m : Main) : Main :=
  if (pendOf m k).any fun e => e.lantern == i then
    let m := withPend k (fun l => l.map fun e => if e.lantern = i then ⟨i, rxTime, rxSlot⟩ else e) m
    let m := if k = 0 then withCtx i (fun c => { c with elided := min 255 (c.elided + 1) }) m else m
    m.count F.CTX_ELIDED k
  else setPendBit k i true (withPend k (fun l => l ++ [⟨i, rxTime, rxSlot⟩]) m)

/-- A new frame's record: written in NORMAL where a buffer is free, else coalesced. -/
def coalPost (k i rxTime rxSlot : Nat) (rec : List Byte) (m : Main) : Main :=
  let placed := if coalState m k = 0 ∧ ringMoves m (8 + k) then uplPlace k rec m else (m, false)
  if placed.2 then coalStep k (if k = 1 then withCtx i (fun c => { c with tally := [0, 0, 0, 0] }) placed.1 else placed.1)
  else coalStep k (coalMerge k i rxTime rxSlot (setCoal k (max 1 (coalState m k)) placed.1))

end Sys2Proof.Machine
end

