-- ==== Sys2Proof/Machine/Rings.lean ====
section
/-!
DEFINITION. What happens to rings: doorbells and descriptors found with OWN clear (R359–R362), the taking of upload buffers
(R366), enabling, stopping and re-arming (R349, R378), pauses (R377), failed reads (R373, R374), the timers of R366 and R368,
MSI-X masks (R369), and FLR, PFR and D3hot (R347, R379).
-/
namespace Sys2Proof.Machine

def ready (m : Main) : Bool := m.bit F.GLB_STATUS_READY

/-- Latch a doorbell, or clear the latch (R362). -/
def setLatch (r : Nat) (v : Option Nat) (m : Main) : Main :=
  (withRing m r fun g => { g with latched := v }).putBit F.HST_RING_STATUS_DB_LATCHED v.isSome r

/-- The descriptor at the ring's position is taken (R360). -/
def takeOne (r : Nat) (m : Main) : Main :=
  let m := withRing m r fun g => { g with taken := g.taken + 1, early := 0, stalled := false }
  m.put F.HST_RING_STATUS_NEXT (ringPos m r (ringOf m r).taken) r

/-- The upload ring's waiting records go to its buffers; those of UPL0–UPL2 wait in their pending lists. -/
def drain (r : Nat) (m : Main) : Main := if 11 ≤ r then uplDrain (r - 8) 64 m else if 8 ≤ r then coalStep (r - 8) m else m

/-- A descriptor of an upload ring is written back without records; an occupancy that rises shows in coalescing. -/
def uplReturn (r n : Nat) (d : Option Desc) (status detail : Nat) (m : Main) : Main :=
  let m := putBack (withRing m r fun g => { g with wb := g.wb + 1 }) r (ringPos m r n) d ⟨status, detail, 0, []⟩ 0
  let m := match uplEvent (r - 8) with
    | some e => ringEvent m r e
    | none => m
  if r < 11 then coalStep (r - 8) m else m

/-- An upload descriptor with OWN set is taken as an empty buffer, or written back where it cannot serve as one. -/
def takeBuffer (r : Nat) (d : Desc) (m : Main) : Main :=
  let n := (ringOf m r).taken
  let m := takeOne r (readDesc r (ringPos m r n) m)
  let w := descWalk m d
  let m := readList (channelOf r) d w m
  if !descForm d false || w.badForm || d.opcode != 0 then uplReturn r n (some d) St.badFormat 0 m
  else if d.length < leastLength (r - 8) || d.length % 4 != 0 || decide (16777216 < d.length) || w.badLen || (!w.looped && (!w.whole || w.bytes != d.length)) then
    uplReturn r n (some d) St.badLength 0 m
  else if d.param ≠ 0 then uplReturn r n (some d) St.badParam ((List.range 32).find? (bitOf d.param) |>.getD 0) m
  else drain r (withRing m r fun g => { g with free := g.free ++ [(n, d)] })

/-- OWN was read clear at the ring's position (R361): the first time the reads begin to repeat, and after the third repeat
the ring waits for its next doorbell. -/
def foundClear (r : Nat) (m : Main) : Main :=
  if (ringOf m r).early < 3 then withRing m r fun g => { g with early := g.early + 1 }
  else fire 10 ((withRing m r fun g => { g with early := 0, stalled := true }).count F.DOORBELL_EARLY r)

/-- The engine reads descriptors of an upload ring, in order, as far as its limit allows and it may move data. -/
def readBuffers (r : Nat) : List Desc → Main → Main
  | [], m => m
  | d :: ds, m =>
    if ringMoves m r && !(ringOf m r).stalled && ringAvail m r != 0 then
      if d.own then readBuffers r ds (takeBuffer r d m) else foundClear r (readDesc r (ringPos m r (ringOf m r).taken) m)
    else m

/-- Act on a doorbell value (R360): the limit, and on an upload ring the buffers that the reads return. -/
def actDoorbell (r idx : Nat) (reads : List Desc) (m : Main) : Main :=
  let m := (withRing m r fun g => { g with stalled := false, early := 0 }).put F.HST_RING_DB_LIMIT (idx % 131072) r
  if r < 8 then m else drain r (readBuffers r reads m)

/-- Act on the latched doorbell, where the ring can (R362, R378). -/
def actLatched (r : Nat) (reads : List Desc) (m : Main) : Main :=
  match (ringOf m r).latched with
  | some v => if ready m && ringMoves m r then actDoorbell r v reads (setLatch r none m) else m
  | none => if 8 ≤ r then readBuffers r reads m else m

/-- A doorbell write (R359, R362). In D3hot it completes with Unsupported Request. -/
def doorbell (r v : Nat) (reads : List Desc) (m : Main) : Main :=
  if m.host.d3hot then { m with host := { m.host with unsupported := true } }
  else
    let m : Main := { m with host := { m.host with unsupported := false } }
    if m.mode = 0 then m
    else
      let m := withRing m r fun g => { g with lastDb := v % 2 ^ 32 }
      if ready m && ringMoves m r then actDoorbell r v reads m else setLatch r (some v) m

/-- The next reads of a ring's descriptors, whether or not they repeat one found with OWN clear (R361). -/
def descriptorRetry (r : Nat) (reads : List Desc) (m : Main) : Main :=
  if 8 ≤ r then readBuffers r reads m
  else if (ringOf m r).early ≠ 0 ∧ ringMoves m r then
    match reads with
    | d :: _ => if d.own then m else foundClear r (readDesc r (ringPos m r (ringOf m r).taken) m)
    | [] => m
  else m

/-- FLUSH × 100 µs have passed since the first record of the buffer in fill (R366). -/
def uplFlush (u : Nat) (m : Main) : Main :=
  let g := ringOf m (8 + u)
  if g.fill.isEmpty || !ringMoves m (8 + u) then m
  else if u < 3 then coalStep u (uplWriteBack u m)
  else uplWriteBack u m

/-- HOLDOFF × 10 µs have passed since the last firing of the ring's event (R368). A held event fires, which starts the time
anew. -/
def holdoffExpiry (r : Nat) (m : Main) : Main :=
  match (ringOf m r).held with
  | some n => fireIf (decide (n < 64)) n (withRing m r fun g => { g with held := none })
  | none => withRing m r fun g => { g with holding := false }

/-- ENABLE = 1 (R349): a DISABLED ring begins anew. -/
def ringEnable (r : Nat) (reads : List Desc) (m : Main) : Main :=
  if ringState m r = Rs.disabled then
    let m := withRing m r fun g => { g with
      taken := 0, early := 0, stalled := false, cur := none, free := [], fill := [], wb := 0, parked := false, late := none }
    let m := ((((m.putBit F.HST_RING_CTRL_ENABLE true r).put F.HST_RING_STATUS_STATE Rs.running r).put F.HST_RING_STATUS_CAUSE 0 r).put
      F.HST_RING_STATUS_NEXT 0 r).put F.HST_RING_DB_LIMIT 0 r
    actLatched r reads m
  else m

/-- The ring becomes DISABLED: its buffers are the host's again. An event held under R368 still fires at its time. -/
def ringDown (r : Nat) (m : Main) : Main :=
  (withRing m r fun g => { g with early := 0, stalled := false, cur := none, free := [], fill := [], parked := false, late := none }).put
    F.HST_RING_STATUS_STATE Rs.disabled r

/-- ENABLE = 0 (R378): a command accepted and not yet written back keeps the ring STOPPING; a buffer in fill ends with ABORTED. -/
def ringDisable (r : Nat) (m : Main) : Main :=
  let m := m.putBit F.HST_RING_CTRL_ENABLE false r
  if ringState m r = Rs.disabled then m
  else if r < 8 then
    if (ringOf m r).cur.isSome then m.put F.HST_RING_STATUS_STATE Rs.stopping r else ringDown r m
  else ringDown r (if (ringOf m r).fill.isEmpty then m else uplEnd (r - 8) St.aborted 0 none m)

/-- REARM (R381). -/
def ringRearm (r : Nat) (reads : List Desc) (m : Main) : Main :=
  if ringState m r = Rs.halted then drain r (actLatched r reads (m.put F.HST_RING_STATUS_STATE Rs.running r)) else m

/-- PAUSE = 1 (R377): the drain is complete when the command is done. -/
def setPaused (c : Nat) (m : Main) : Main :=
  if m.bit F.DMA_CH_STATE_PAUSED c then m else dmaTrace c 4 (m.putBit F.DMA_CH_STATE_PAUSED true c)

def pauseChannel (c : Nat) (m : Main) : Main := setPaused c (m.putBit F.DMA_CH_CTRL_PAUSE true c)

def pauseAll (m : Main) : Main := (List.range 16).foldl (fun m c => setPaused c m) (m.putBit F.DMA_CTRL_PAUSE_ALL true)

/-- The descriptor reads that a command brings for a ring. -/
def readsFor (reads : List (Nat × List Desc)) (r : Nat) : List Desc := (reads.filterMap fun p => if p.1 = r then some p.2 else none).flatten

/-- The command descriptor's own event (R365, R381): CMPL_EVT, for NOTIFY. -/
def notifyCmd (r : Nat) (notify : Bool) (m : Main) : Main :=
  let n := m.get F.HST_RING_CFG_CMPL_EVT r
  if notify && decide (n < 64) then ringEvent m r n else m

/-- A command's late answer that waited for the exit from D3hot is written back (R347). -/
def lateAnswer (r : Nat) (m : Main) : Main :=
  match (ringOf m r).late, (ringOf m r).cur with
  | some rep, some (pos, d) =>
    let m := notifyCmd r d.notify (putBack (withRing m r fun g => { g with cur := none, late := none }) r pos (some d)
      { rep with data := swapData d.swap rep.data } 0)
    if ringState m r = Rs.stopping then ringDown r m else m
  | _, _ => m

/-- A ring that may move data again: a late answer goes out, and it acts on its latched doorbell and its waiting records. -/
def resumeRing (reads : List (Nat × List Desc)) (m : Main) (r : Nat) : Main :=
  let m := if m.host.d3hot then m else lateAnswer r m
  if ringMoves m r then drain r (actLatched r (readsFor reads r) m) else m

/-- Every ring goes on, those of the channel granted first being first (R371). -/
def resumeRings (reads : List (Nat × List Desc)) (m : Main) : Main :=
  let rec go : Nat → List Nat → Main → Main
    | 0, _, m => m
    | k + 1, ready, m =>
      match grant m ready with
      | none => m
      | some c => go k (ready.filter (· != c)) (((List.range 32).filter (channelOf · == c)).foldl (resumeRing reads) (granted c m))
  go 16 (List.range 11) m

/-- PAUSE = 0 on a channel, or PAUSE_ALL = 0 (none) (R377). -/
def dmaResume (c : Option (Fin 16)) (reads : List (Nat × List Desc)) (m : Main) : Main :=
  let m := match c with
    | some c => m.putBit F.DMA_CH_CTRL_PAUSE false c
    | none => m.putBit F.DMA_CTRL_PAUSE_ALL false
  let m := (List.range 16).foldl (fun m c => if channelOpen m c then m.putBit F.DMA_CH_STATE_PAUSED false c else m) m
  resumeRings reads m

/-- A read for the ring fails: of the descriptor at its position (`rd` none), of the list or the buffer of the command `d`, or of the
list of the upload buffer in fill. The descriptor is written back with a status and a detail. -/
def readFails (r status detail : Nat) (rd : Option Desc) (m : Main) : Main :=
  if 8 ≤ r ∧ rd.isSome then
    let m := uplEnd (r - 8) status detail none m
    if r < 11 then coalStep (r - 8) m else m
  else
    let n := (ringOf m r).taken
    let m := takeOne r (readDesc r (ringPos m r n) m)
    if 8 ≤ r then uplReturn r n none status detail m
    else
      let m := putBack m r (ringPos m r n) rd ⟨status, detail, 0, []⟩ 0
      notifyCmd r (rd.any (·.notify)) { m with host := { m.host with served := r } }

/-- The read that fails is one in progress: of a descriptor that is available, of a command's buffer or list, or of the list of the
upload buffer in fill. -/
def readUnder (r : Nat) (rd : Option Desc) (m : Main) : Bool :=
  ringState m r == Rs.running && !m.host.d3hot &&
  (match rd with
    | none => ringAvail m r != 0 && (ringOf m r).cur.isNone
    | some d =>
      if 8 ≤ r then (match (ringOf m r).free with
        | p :: _ => p.2.sg
        | [] => false)
      else ringAvail m r != 0 && (ringOf m r).cur.isNone && d.own)

/-- The channel whose read it is (R371). -/
def readChannel (r : Nat) (rd : Option Desc) : Nat := if rd.isSome then channelOf r else 11

/-- HOST_NORESP (R373) with the DETAIL of R354. -/
def hostNoresp (r detail : Nat) (rd : Option Desc) (m : Main) : Main :=
  if readUnder r rd m then fire 13 (haltRing r (readChannel r rd) 2 (readFails r St.hostNoresp detail rd m)) else m

/-- POISON (R374). -/
def poisonRead (r : Nat) (rd : Option Desc) (m : Main) : Main :=
  if readUnder r rd m then fire 14 (dmaTrace (readChannel r rd) 3 (readFails r St.poison 0 rd m)) else m

/-- A vector's or the function's mask opens (R369): each pending bit that is now open sends one message. -/
def sendPending (m : Main) : Main :=
  (List.range 64).foldl (fun m n =>
    if vectorOpen m n && m.host.msixEnable && m.bit F.MSIX_PBA (n / 32) (n % 32) then
      (m.putBit F.MSIX_PBA false (n / 32) (n % 32)).emit (.msix n)
    else m) m

def msixUnmask (n : Nat) (m : Main) : Main := sendPending (m.putBit F.MSIX_CTRL_MASK false n)

/-- MODE of GLB_STATUS shows the mode (R381). -/
def showMode (m : Main) : Main := m.put F.GLB_STATUS_MODE (m.get F.PWR_MODE_MODE)

/-- Reset the register bits of some retention classes at the addresses of a reset's scope (R8, R557): `keep` gives a row's bits that
stay. -/
def resetRegs (scope : Nat → Bool) (keep : RegRow → Nat) (m : Main) : Main :=
  { m with regs := m.regs.foldl (fun l p =>
      match rowAt p.1 with
      | none => l
      | some r =>
        if scope p.1 then
          let w := (resetWord p.1).toNat ^^^ (((resetWord p.1).toNat ^^^ m.word p.1) &&& keep r)
          sset resetWord l p.1 (BitVec.ofNat 32 w)
        else l) m.regs }

/-- A plan bank in WRITING becomes EMPTY at any reset (R60). -/
def dropWriting (m : Main) : Main :=
  (List.range 2).foldl (fun m b =>
    if m.get F.YLM_BANK_STATE_STATE b = 1 then
      let m : Main := { m with ylm := { m.ylm with banks := vmod m.ylm.banks b fun _ => Bank.empty } }
      m.setWord (F.YLM_BANK_STATE_STATE.addr b) 0
    else m) m

/-- FLR and PFR (R379): transfers end, rings are DISABLED, latches drop, the V fields of GLB, HST and DMA reset, and a plan
bank in WRITING becomes EMPTY (R60); a key operation or a chunk under way goes on, and is not written back. The function's own
capabilities return to their reset state (PRESUMED, as PCI Express has it), and the MSI-X table, its masks and the PBA stay, since they
lie in none of the three blocks (DESIGN CHOICE; log entry 16). -/
def hostReset (m : Main) : Main :=
  let m := resetRegs (fun a => a / 65536 == 0 || a / 65536 == 2 || a / 65536 == 3) (fun r => r.k ||| r.n ||| r.p) m
  let m : Main := { m with host := { m.host with
    rings := m.host.rings.map (fun g => { Ring.reset with waiting := g.waiting }),
    msixEnable := false, funcMask := false, busMaster := false, maxPayload := 128, maxRead := 512, d3hot := false, served := 7,
    granted := Vector.replicate 4 15,
    latch := m.host.latch.filter fun p => !(p.1 / 65536 == 3) } }
  let m : Main := { m with
    key := { m.key with op := m.key.op.map fun o => { o with ring := none } }
    upd := { m.upd with writing := m.upd.writing.map fun c => { c with ring := none } } }
  showMode (dropWriting m)

/-- READY (R380). -/
def setReady (reads : List (Nat × List Desc)) (m : Main) : Main :=
  if ready m then m else resumeRings reads (fire 1 (m.putBit F.GLB_STATUS_READY true))

def d3hotEntry (m : Main) : Main := { m with host := { m.host with d3hot := true } }
def d3hotExit (reads : List (Nat × List Desc)) (m : Main) : Main :=
  if m.host.d3hot then resumeRings reads { m with host := { m.host with d3hot := false } } else m

end Sys2Proof.Machine
end

