-- ==== Sys2Proof/Machine/RidgeOps.lean ====
section
/-!
DEFINITION. The ridge fabric (chapter 12): the route section, queues, the originating, routing and forwarding of frames,
replay windows, port states and HELLO.
-/
namespace Sys2Proof.Machine

/-! ### The route section (R399, R400) -/

def routeEntry (b : Img) (a : Nat) : Nat := le b (sectOff b 14 + 16 + 4 * a) 4

namespace Rt
def valid (e : Nat) : Bool := bitOf e 7
def alternate (e : Nat) : Nat := bits e 3 2
def primary (e : Nat) : Nat := bits e 1 0
def hops (e : Nat) : Nat := bits e 15 8
end Rt

/-- The planned neighbour of a port: address and port; none with 0xFFFF. -/
def neighOf (b : Img) (p : Nat) : Option (Nat × Nat) :=
  let o := sectOff b 14 + 4 * p
  if (sect b 14).isNone || le b o 2 == 0xFFFF then none else some (le b o 2, le b (o + 2) 1)

def neighFieldOk (b : Img) (p : Nat) : Bool :=
  let o := sectOff b 14 + 4 * p
  if le b o 2 = 0xFFFF then le b (o + 2) 1 == 0xFF else le b o 2 < 4096 && le b (o + 2) 1 ≤ 1

/-- R400 for a module with ridge address `own`. -/
def routesValid (b : Img) (own : Nat) : Bool :=
  (sect b 14).isNone ||
  (sectLen b 14 == 16400 && sectCount b 14 == 4096 && neighFieldOk b 0 && neighFieldOk b 1 && le b (sectOff b 14 + 3) 1 == 0 &&
   le b (sectOff b 14 + 7) 8 == 0 && le b (sectOff b 14 + 15) 1 == 0 &&
   (List.range 4096).all fun a =>
     let e := routeEntry b a
     bits e 6 4 == 0 && bits e 31 16 == 0 &&
     (!Rt.valid e ||
       (a != own && a < 0xF00 && a != Hdr.pairId b && a != Hdr.seat1 b && Rt.primary e < 2 && Rt.alternate e != Rt.primary e &&
        (Rt.alternate e < 2 || Rt.alternate e == 3) && 1 ≤ Rt.hops e && Rt.hops e ≤ 32)))

/-! ### Ports and queues -/

namespace Ps
def down : Nat := 0
def training : Nat := 1
def mismatch : Nat := 2
def matched : Nat := 3
def unplanned : Nat := 4
end Ps

def portState (m : Main) (p : Nat) : Nat := m.get F.RDG_PORT_STATUS_STATE p
def ownAddr (m : Main) : Nat := m.get F.RDG_ADDR_IN_USE
def fabReady (m : Main) : Bool := m.key.work[1].isSome
def portOf (m : Main) (p : Nat) : RPort := vget m.rdg.ports p RPort.reset
def withPort (m : Main) (p : Nat) (f : RPort → RPort) : Main := { m with rdg := { m.rdg with ports := vmod m.rdg.ports p f } }

/-- A counter of the module (R411): 0 DELIVERED, 1 FORWARDED, 2 MIC_FAIL, 3 REPLAY, 4 TTL_EXPIRED, 5 NO_ROUTE, 6 BAD_FRAME,
7 OTHER_ETYPE, 8 DETOUR, 9 TURNED, 10 NO_KEY. -/
def rdgCount (n : Nat) (m : Main) : Main := m.count F.RDG_CNT n

def rdgDrop (port reason : Nat) (f : RidgeFrame) (m : Main) : Main :=
  sky m 0x0D (natOf (port == 1) * 2 ^ 31 + f.cls * 2 ^ 29 + reason * 2 ^ 24 + f.src % 4096)

def classOfFrame (k : Nat) (f : RidgeFrame) : Bool := f.cls.toNat == k
def countClass (k : Nat) (q : List RidgeFrame) : Nat := (q.filter (classOfFrame k)).length

/-- The queue without its most recently queued frame of a class. -/
def dropLast (k : Nat) (q : List RidgeFrame) : List RidgeFrame := (q.reverse.eraseP (classOfFrame k)).reverse

/-- A REPORT or BULK frame is dropped at a port (R404, R406). -/
def dropAt (p : Nat) (f : RidgeFrame) (m : Main) : Main :=
  let m := rdgDrop p 1 f (m.count (if f.cls.toNat = 3 then F.RDG_DROP_BULK else F.RDG_DROP_REPORT) p)
  if m.bit F.RDG_PORT_STATUS_DROPPING p then m
  else
    let due := (portOf m p).evt48 != some m.course
    let m := m.putBit F.RDG_PORT_STATUS_DROPPING true p
    if due && m.bit F.RDG_CTRL_EVT48_EN then fire 48 (withPort m p fun g => { g with evt48 := some m.course }) else m

/-- The queue's registers. -/
def showQueue (p : Nat) (m : Main) : Main :=
  let q := (portOf m p).queue
  (m.put F.RDG_PORT_QUEUE_FILL q.length p).put F.RDG_PORT_QUEUE_BULK (countClass 3 q) p

def bulkMax (m : Main) : Nat := max 1 (min 192 (m.get F.RDG_QCFG_BULK_MAX))

/-- R404: a frame comes to a port's queue; false where it is discarded. -/
def enqueue (p : Nat) (f : RidgeFrame) (m : Main) : Main × Bool :=
  let q := (portOf m p).queue
  let put (q : List RidgeFrame) (m : Main) : Main := showQueue p (withPort m p fun g => { g with queue := q ++ [f] })
  let displace (k : Nat) : Main :=
    match q.reverse.find? (classOfFrame k) with
    | some v => dropAt p v (put (dropLast k q) m)
    | none => m
  if f.cls.toNat = 3 then
    if q.length < 256 ∧ countClass 3 q < bulkMax m then (put q m, true) else (dropAt p f m, false)
  else if q.length < 256 then (put q m, true)
  else if countClass 3 q ≠ 0 then (displace 3, true)
  else if f.cls.toNat = 2 then (dropAt p f m, false)
  else if countClass 2 q ≠ 0 then (displace 2, true)
  else (rdgDrop p 1 f (m.count F.RDG_RESERVED_FULL p), false)

/-- Where a frame goes (R401), for a frame that is not this module's own: a port with TURNED as it then stands and whether
the module turned it, or no route. -/
def route (m : Main) (arrival : Option Nat) (f : RidgeFrame) : Option (Nat × Bool × Bool) :=
  let near (p : Nat) : Bool :=
    decide (arrival ≠ some p) && m.get F.RDG_PORT_STATUS_HEARD p == f.dst && f.dst != 0xFFF &&
    (portState m p == Ps.matched || portState m p == Ps.mismatch || portState m p == Ps.unplanned)
  if near 0 then some (0, f.turned, false)
  else if near 1 then some (1, f.turned, false)
  else if 0xF00 ≤ f.dst then none
  else if f.turned then
    let p := if arrival = some 0 then 1 else 0
    if portState m p = Ps.matched then some (p, true, false) else none
  else
    match runImg m with
    | none => none
    | some b =>
      let e := routeEntry b f.dst
      if (sect b 14).isNone || !Rt.valid e then none
      else
        let ok (p : Nat) : Bool := p < 2 && portState m p == Ps.matched
        let pick := if ok (Rt.primary e) then some (Rt.primary e) else if ok (Rt.alternate e) then some (Rt.alternate e) else none
        pick.map fun p => if arrival = some p then (p, true, true) else (p, false, false)

/-- Send or forward a frame by R401, steps 2–7; the answer is 0 queued, 1 no route, 2 discarded by the queue. -/
def sendOn (arrival : Option Nat) (f : RidgeFrame) (m : Main) : Main × Nat :=
  match route m arrival f with
  | none => (rdgDrop (arrival.getD 0) 3 f (rdgCount 5 m), 1)
  | some (p, turned, turns) =>
    let m := if turns then rdgCount 9 m else m
    let r := enqueue p { f with turned := turned } m
    (r.1, if r.2 then 0 else 2)

/-- The module's next BOOT and SEQ (R388). -/
def nextSeq (m : Main) : (Nat × Nat) × Main :=
  let boot := m.get F.RDG_BOOT_BOOT
  let seq := m.rdg.seq
  let m : Main :=
    if seq + 1 = 2 ^ 32 then { m.put F.RDG_BOOT_BOOT (boot + 1) with rdg := { m.rdg with seq := 0 } }
    else { m with rdg := { m.rdg with seq := seq + 1 } }
  ((boot, seq), m)

/-- The frame that the module originates, in clear (R388, R402). -/
def newFrame (cls : Fin 4) (dst : Nat) (payload : List Byte) (isOpen : Bool) (m : Main) : RidgeFrame × Main :=
  let s := nextSeq m
  (⟨cls, 32, dst, ownAddr m, isOpen, false, s.1.1, s.1.2, payload⟩, s.2)

/-- A frame as it goes out: sealed under K_FAB unless OPEN is set (R387). -/
def onWire (m : Main) (f : RidgeFrame) : RidgeFrame :=
  if f.isOpen then f
  else match m.key.work[1] with
    | some k => f.seal k.key
    | none => f

/-- Originate a sealed frame; 3 where K_FAB is not ready (R407), 2 in HOLD, which originates nothing (R550), and otherwise as
`sendOn`. A frame to the module's own address, or the broadcast address, is delivered to itself. -/
def originate (cls : Fin 4) (dst : Nat) (payload : List Byte) (m : Main) : Main × Nat :=
  if m.mode = 7 then (m, 2)
  else if !fabReady m then (m, 3)
  else
    let n := newFrame cls dst payload false m
    if dst = ownAddr m ∨ dst = 0xFFF then (rdgCount 0 (n.2.emit (.deliver 2 n.1)), 0) else sendOn none (onWire m n.1) n.2

/-- Originate a frame that may go with OPEN set while K_FAB is not ready (R407). -/
def originateOpen (cls : Fin 4) (dst : Nat) (payload : List Byte) (m : Main) : Main × Nat :=
  if m.mode = 7 then (m, 2)
  else
    let n := newFrame cls dst payload (!fabReady m) m
    sendOn none (onWire m n.1) n.2

/-! ### Egress (R405) -/

/-- Bytes of a frame on the wire without preamble and gap. -/
def frameSize (f : RidgeFrame) : Nat := max 64 (34 + f.payload.length)

/-- The MAC address of port `p` of the module with a ridge address, and the broadcast address (R385). -/
def macOf (a p : Nat) : List Byte := [0x02, 0x5D, 0xF0] ++ beBytes 2 (a % 4096) ++ beBytes 1 p
def broadcastMac : List Byte := List.replicate 6 0xFF

/-- The octets of a frame sent on a port, without the FCS (R384–R386): to the neighbour heard there, or to all; padded to the shortest
Ethernet frame. -/
def ethOctets (m : Main) (p : Nat) (f : RidgeFrame) : List Byte :=
  let heard := m.get F.RDG_PORT_STATUS_HEARD p
  let dst := if f.dst = 0xFFF ∨ heard = 0xFFF then broadcastMac else macOf heard (m.get F.RDG_PORT_STATUS_HEARD_PORT p)
  let o := dst ++ macOf (ownAddr m) p ++ [0x88, 0xB5] ++ f.octets
  o ++ zeros (60 - o.length)

/-- One turn of the deficit round robin after another, until a frame is chosen: its class and the deficits after it. -/
def drr (q : List RidgeFrame) : Nat → Nat → Nat → Nat → Option (Nat × Nat × Nat)
  | 0, _, _, _ => none
  | k + 1, turn, dr, db =>
    let def' := if turn = 2 then dr else db
    match q.find? (classOfFrame turn) with
    | some f =>
      if frameSize f ≤ def' then
        some (turn, if turn = 2 then dr - frameSize f else dr, if turn = 2 then db else db - frameSize f)
      else if turn = 2 then drr q k 3 dr (db + 1536) else drr q k 2 (dr + 4608) db
    | none => if turn = 2 then drr q k 3 0 (db + 1536) else drr q k 2 (dr + 4608) 0

/-- A free port sends its next frame (R405, R406). -/
def portEgress (p : Nat) (m : Main) : Main :=
  let g := portOf m p
  let sendFirst (k turn dr db : Nat) : Main :=
    match g.queue.find? (classOfFrame k) with
    | none => m
    | some f =>
      let m := showQueue p (withPort m p fun g =>
        { g with queue := g.queue.eraseP (classOfFrame k), turn := turn, defReport := dr, defBulk := db })
      let m := (m.emit (.ridgeTx p (ethOctets m p f))).count F.RDG_TX_FRAMES p
      if (portOf m p).queue.length ≤ 64 then m.putBit F.RDG_PORT_STATUS_DROPPING false p else m
  if portState m p = Ps.down then m
  else if countClass 0 g.queue ≠ 0 then sendFirst 0 g.turn g.defReport g.defBulk
  else if countClass 1 g.queue ≠ 0 then sendFirst 1 g.turn g.defReport g.defBulk
  else
    match drr g.queue 6 g.turn g.defReport g.defBulk with
    | some (k, dr, db) => sendFirst k k dr db
    | none => m

/-! ### Reception (R389–R391, R401, R402) -/

def seenOf (m : Main) (src : Nat) : Option Seen := sget (fun _ => none) m.rdg.seen src

/-- R389: a frame of this BOOT and SEQ is a replay. -/
def isReplay (k : Option Seen) (boot seq : Nat) : Bool :=
  match k with
  | none => false
  | some e =>
    let behind := (e.boot + 65536 - boot) % 65536
    (1 ≤ behind && behind ≤ 32767) || (behind == 0 && (e.window.contains seq || seq == e.high || seq + 64 < e.high))

/-- R389: what is kept after a delivery. -/
def seenAfter (k : Option Seen) (boot seq : Nat) : Seen :=
  match k with
  | none => ⟨boot, seq, []⟩
  | some e =>
    if e.boot ≠ boot then ⟨boot, seq, []⟩
    else
      let high := max e.high seq
      ⟨boot, high, ((e.high :: seq :: e.window).filter fun x => decide (x < high ∧ high ≤ x + 64)).dedup⟩

/-- The class of each message kind, and whether it may be sent with OPEN set (R390). -/
def kindAllows (kind : Nat) (cls : Nat) : Bool :=
  (cls == 1 && (kind == 1 || kind == 2 || kind == 3 || kind == 0x10 || kind / 16 == 2)) || (kind == 0x30 && (cls == 2 || cls == 3)) ||
  (kind / 16 == 4 && cls == 3)
def kindOpen (kind : Nat) : Bool := kind == 0x10 || kind / 16 == 4

def rxTrace (p : Nat) (f : RidgeFrame) (m : Main) : Main :=
  sky m 0x0C (natOf (p == 1) * 2 ^ 31 + f.cls * 2 ^ 29 + f.kind * 2 ^ 20 + f.src % 4096)

/-- A frame addressed to this module, or broadcast (R389, R390, R407). It is handed over in clear by `Output.deliver`, and what its
message does is a command of its own. -/
def deliver (p : Nat) (f : RidgeFrame) (m : Main) : Main :=
  let give (f : RidgeFrame) (m : Main) : Main :=
    let m := (rdgCount 0 (rxTrace p f m)).emit (.deliver p f)
    match runImg m with
    | some b => if (sect b 14).isSome && decide (Rt.hops (routeEntry b f.src) < 32 - f.ttl) && Rt.valid (routeEntry b f.src) then rdgCount 8 m else m
    | none => m
  if f.isOpen then
    if !kindAllows f.kind f.cls then rdgCount 6 m
    else if kindOpen f.kind then give f m else rdgDrop p 4 f (rdgCount 2 m)
  else
    match m.key.work[1] with
    | none => rdgCount 10 m
    | some k =>
      match f.unseal k.key with
      | none => rdgDrop p 4 f (rdgCount 2 m)
      | some f =>
        if isReplay (seenOf m f.src) f.boot f.seq then rdgDrop p 5 f (rdgCount 3 m)
        else
          let m : Main := { m with rdg := { m.rdg with
            seen := sset (fun _ => none) m.rdg.seen f.src (some (seenAfter (seenOf m f.src) f.boot f.seq)) } }
          if kindAllows f.kind f.cls then give f m else rdgCount 6 m

/-- A ridge frame whose destination MAC is the port's own or the broadcast address (R386, R391, R401, R402). -/
def ridgeIn (p : Nat) (f : RidgeFrame) (m : Main) : Main :=
  let own := f.dst == ownAddr m || f.dst == 0xFFF
  let f := { f with ttl := f.ttl - 1 }
  if own then deliver p f m
  else if f.ttl = 0 then rdgDrop p 2 f (rdgCount 4 m)
  else
    let r := sendOn (some p) f m
    if r.2 = 0 then rdgCount 1 r.1 else r.1

/-- What a port receives (R383–R386). A frame outside 64 to 1,518 bytes is not accepted and counts nowhere (DEDUCED, log entry 27); what
a PTP frame does is PTP_RX. -/
def ridgeRx (p : Nat) (e : EthFrame) (m : Main) : Main :=
  if portState m p = Ps.down then m
  else
    match e with
    | .badFcs => m.count F.RDG_RX_FCS_FAIL p
    | .good o =>
      if o.length < 60 ∨ 1514 < o.length then m
      else
        let m := m.count F.RDG_RX_FRAMES p
        if lbe o 12 2 = 0x88F7 then m
        else if lbe o 12 2 ≠ 0x88B5 then rdgCount 7 m
        else if o.take 6 ≠ broadcastMac ∧ o.take 6 ≠ macOf (ownAddr m) p then rdgCount 6 m
        else
          match ridgeParse (o.drop 14) with
          | some f => if f.src = 0xFFF then rdgCount 6 m else ridgeIn p f m
          | none => rdgCount 6 m

/-! ### Port states and HELLO (R392–R398) -/

/-- A port's state changes: events 46 and 47, and the NETWORK record on entry to MISMATCH (R398). -/
def setPort (p st : Nat) (m : Main) : Main :=
  let old := portState m p
  if old = st then m
  else
    let m := withPort (m.put F.RDG_PORT_STATUS_STATE st p) p fun g => { g with wrong := 0 }
    let m := fireIf (old == Ps.down || st == Ps.down || old == Ps.matched || st == Ps.matched) 46 m
    if st = Ps.mismatch then
      record 0x0404 p (m.get F.RDG_PORT_STATUS_HEARD p) (m.get F.RDG_PORT_STATUS_HEARD_PORT p) 0 (fire 47 m)
    else m

/-- The planned neighbour as RDG_PORT_STATUS shows it, and the route window, for the running route section (R411). -/
def showRoutes (m : Main) : Main :=
  let pl (p : Nat) : Nat := match (runImg m).bind (fun b => neighOf b p) with
    | some n => n.1
    | none => 0xFFF
  let rt := match runImg m with
    | some b => if (sect b 14).isSome then routeEntry b (m.get F.RDG_RT_SEL_ADDR) else 0
    | none => 0
  ((m.put F.RDG_PORT_STATUS_PLANNED (pl 0) 0).put F.RDG_PORT_STATUS_PLANNED (pl 1) 1).put F.RDG_RT rt

/-- The address in use (R392, R393). -/
def takeAddr (m : Main) : Main :=
  let a := m.get F.RDG_ADDR_ADDR
  if a < 0xF00 then (m.put F.RDG_ADDR_IN_USE a).putBit F.RDG_ADDR_PROVISIONAL false
  else (m.put F.RDG_ADDR_IN_USE (0xF00 + m.fuse.eui % 256 % 255)).putBit F.RDG_ADDR_PROVISIONAL true

/-- A write of RDG_ADDR in COMMISSION (R392): the address in use follows the configured one; a provisional one stays while none is
configured. -/
def addrWritten (m : Main) : Main :=
  if m.bit F.RDG_ADDR_PROVISIONAL && decide (0xF00 ≤ m.get F.RDG_ADDR_ADDR) then m else takeAddr m

/-- The state of a port by its link, its PHY's word, LOS and its configuration (R383, R396). -/
def portRefresh (p : Nat) (m : Main) : Main :=
  let g := portOf m p
  let mode := m.get F.RDG_PORT_CFG_MODE p
  let refused := g.up && mode == 1 && !g.fast
  let on := g.up && (mode == 1 || mode == 2) && !refused && !(g.los && m.bit F.RDG_PORT_CFG_LOS_EN p)
  let m := (m.putBit F.RDG_PORT_STATUS_LINK g.up p).putBit F.RDG_PORT_STATUS_SPEED_REFUSED refused p
  if on then (if portState m p = Ps.down then setPort p Ps.training m else m)
  else
    let m := ((m.put F.RDG_PORT_STATUS_HEARD 0xFFF p).put F.RDG_PORT_STATUS_HEARD_PORT 3 p)
    setPort p Ps.down m

/-- A port's link comes up or is lost, with the PHY's word as SGMII reports it and the level on LOS (R383, R396). -/
def linkChange (p : Nat) (up fast los : Bool) (m : Main) : Main :=
  portRefresh p (withPort m p fun g => { g with up := up, fast := fast, los := los })

/-- The HELLO payload (R394). -/
def helloBytes (m : Main) (p : Nat) : List Byte :=
  let heard := m.get F.RDG_PORT_STATUS_HEARD p
  let hp := m.get F.RDG_PORT_STATUS_HEARD_PORT p
  let planned := match runImg m with | some b => (sect b 14).isSome | none => false
  beBytes 1 0x10 ++ beBytes 1 p ++ beBytes 1 (portState m p) ++
  beBytes 1 (natOf (m.bit F.RDG_ADDR_PROVISIONAL) + 2 * natOf planned + 4 * natOf (fabReady m)) ++ beBytes 8 m.fuse.eui ++
  beBytes 2 (ownAddr m) ++ beBytes 2 (if heard = 0xFFF then 0xFFFF else heard) ++ beBytes 1 (if hp = 3 then 0xFF else hp) ++
  beBytes 1 (if (runImg m).isSome then m.get F.YLM_STATUS_RUN_EPOCH else 0) ++ beBytes 2 (if portState m p = Ps.matched then 1000 else 100)

/-- A port that is not MATCHED has sent 10 HELLO frames within the last second (R395). -/
def helloSpent (m : Main) (p : Nat) : Bool :=
  portState m p != Ps.matched && decide (10 ≤ ((portOf m p).hellos.filter fun s => decide (m.slotNow < s + 100)).length)

/-- HELLO goes out on a port (R394, R395, R407). -/
def helloTx (p : Nat) (m : Main) : Main :=
  if portState m p = Ps.down ∨ m.mode = 7 ∨ helloSpent m p then m
  else
    let m := withPort m p fun g => { g with hellos := (m.slotNow :: g.hellos).take 10 }
    let n := newFrame 1 0xFFF (helloBytes m p) (!fabReady m) m
    (enqueue p (onWire m n.1) (n.2.count F.RDG_HELLO_TX p)).1

/-- A HELLO payload (R394) with OPEN as its frame had it; none where a field breaks the layout. -/
def helloOf (f : RidgeFrame) : Option HelloMsg :=
  let o := f.payload
  let heard := lbe o 14 2
  if o.length = 20 ∧ f.kind = 0x10 ∧ lbe o 1 1 ≤ 1 ∧ lbe o 2 1 ≤ 4 ∧ lbe o 3 1 < 8 ∧ lbe o 12 2 < 0xFFF ∧ (heard < 0xFFF ∨ heard = 0xFFFF) ∧
      (lbe o 16 1 ≤ 1 ∨ lbe o 16 1 = 0xFF) then
    some ⟨lbe o 1 1, lbe o 2 1, bitOf (lbe o 3 1) 0, bitOf (lbe o 3 1) 1, bitOf (lbe o 3 1) 2, lbe o 4 8, lbe o 12 2, heard, lbe o 16 1,
      lbe o 17 1, lbe o 18 2, f.isOpen⟩
  else none

/-- R397. -/
def helloMatches (m : Main) (p : Nat) (h : HelloMsg) : Bool :=
  !h.isOpen &&
  match (runImg m).bind (fun b => neighOf b p) with
  | some (a, q) => h.addr == a && h.port == q && h.heardAddr == ownAddr m && h.heardPort == p
  | none => false

def plansNeighbour (m : Main) (p : Nat) : Bool := ((runImg m).bind (fun b => neighOf b p)).isSome

/-- A received HELLO, of a port that is not DOWN (R393, R396). -/
def helloTaken (p : Nat) (h : HelloMsg) (m : Main) : Main :=
  let m := m.count F.RDG_HELLO_RX p
  let m := (((m.put F.RDG_PORT_STATUS_HEARD h.addr p).put F.RDG_PORT_STATUS_HEARD_PORT h.port p).put F.RDG_PORT_EUI_LO (h.eui % 2 ^ 32) p).put
    F.RDG_PORT_EUI_HI (h.eui / 2 ^ 32) p
  let m :=
    if m.bit F.RDG_ADDR_PROVISIONAL && h.addr == ownAddr m && decide (h.eui < m.fuse.eui) then
      fire 47 (m.put F.RDG_ADDR_IN_USE (if ownAddr m = 0xFFE then 0xF00 else ownAddr m + 1))
    else m
  let st := portState m p
  let names := h.heardAddr == ownAddr m && h.heardPort == p
  if helloMatches m p h then setPort p Ps.matched m
  else if st = Ps.matched then setPort p Ps.mismatch m
  else if st = Ps.training then
    if !plansNeighbour m p || h.isOpen then setPort p Ps.unplanned m
    else if names then
      if 1 ≤ (portOf m p).wrong then setPort p Ps.mismatch m else withPort m p fun g => { g with wrong := g.wrong + 1 }
    else withPort m p fun g => { g with wrong := 0 }
  else m

/-- A delivered frame that carries HELLO (R396). -/
def helloRx (p : Nat) (f : RidgeFrame) (m : Main) : Main :=
  match helloOf f with
  | some h => if portState m p = Ps.down then m else helloTaken p h m
  | none => m

/-- No valid HELLO for 3,500 ms in MATCHED, or 350 ms in MISMATCH or UNPLANNED (R396). -/
def helloTimeout (p : Nat) (m : Main) : Main :=
  let st := portState m p
  if st = Ps.matched ∨ st = Ps.mismatch ∨ st = Ps.unplanned then setPort p Ps.training m else m

/-- After an epoch switch or a rollback, a heard neighbour that the running plan no longer names is a mismatch (R396). -/
def recheckPorts (m : Main) : Main :=
  (List.range 2).foldl (fun m p =>
    if portState m p = Ps.matched &&
        (match (runImg m).bind (fun b => neighOf b p) with
          | some (a, q) => !(m.get F.RDG_PORT_STATUS_HEARD p == a && m.get F.RDG_PORT_STATUS_HEARD_PORT p == q)
          | none => true) then setPort p Ps.mismatch m
    else m) (showRoutes m)

/-! ### Tunnelling (R408, R409) -/

/-- The tunnel record of a delivered TUNNEL message, to the ring of its channel (R409). -/
def tunnelRx (f : RidgeFrame) (m : Main) : Main :=
  let ch := (f.payload.getD 1 0).toNat
  let data := f.payload.drop 4
  let links := 32 - f.ttl
  let detour := match runImg m with
    | some b => (sect b 14).isSome && Rt.valid (routeEntry b f.src) && decide (Rt.hops (routeEntry b f.src) < links)
    | none => false
  let rec' := leBytes 2 (16 + data.length) ++ leBytes 1 ch ++ leBytes 1 (natOf (f.cls.toNat == 3) + 2 * natOf detour + 4 * natOf f.turned) ++
    leBytes 2 f.src ++ leBytes 1 links ++ [0] ++ leBytes 4 (m.slotNow / 100 % 2 ^ 32) ++ leBytes 1 (m.slotNow % 100) ++ zeros 3 ++ data
  if f.kind ≠ 0x30 ∨ 17 < ch then m
  else uplPost (if ch = 0 ∨ ringState m (14 + ch) ≠ Rs.running then 5 else 6 + ch) rec' m

end Sys2Proof.Machine
end

