-- ==== Sys2Proof/Machine/Clock.lean ====
section
/-!
DEFINITION. The local clock, its servo, time stamps and time-triggered outputs (R452–R463), and the discipline of the
calendar (R445).
-/
namespace Sys2Proof.Machine

/-- A state of the servo is entered: its runs begin anew, and FREE and HOLDOVER take the retained ADDEND (R456). -/
def setServo (st : Nat) (m : Main) : Main :=
  let m : Main := { m.put F.PTP_STATUS_STATE st with time := { m.time with inRun := 0, outRun := 0 } }
  if st = Sv.free ∨ st = Sv.holdover then m.put F.PTP_ADDEND_ADDEND m.time.addendKept else m

/-- The local clock reads `sec` seconds and `ns` nanoseconds. -/
def setClock (sec ns : Nat) (m : Main) : Main :=
  let m : Main := { m with time := { m.time with sec := sec % 2 ^ 48, ns := ns, frac := 0 } }
  ((m.put F.PTP_SEC_LO sec).put F.PTP_SEC_HI (sec / 2 ^ 32)).put F.PTP_NS ns

/-- The local clock in nanoseconds. -/
def clockNs (m : Main) : Nat := m.time.sec * 1000000000 + m.time.ns

/-- `k` cycles of 200 MHz: each adds ADDEND, in 2^-28 ns, and a whole second carries (R454); the counters of SOURCE 0x00 count them
(R511). -/
def runClock (k : Nat) (m : Main) : Main :=
  let c := countSource m 0 k none none
  let m := fireIf c.2 63 c.1
  let t := clockNs m * 2 ^ 28 + m.time.frac + k * m.get F.PTP_ADDEND_ADDEND
  let n := t / 2 ^ 28
  let m := setClock (n / 1000000000) (n % 1000000000) m
  { m with time := { m.time with frac := t % 2 ^ 28 } }

/-- The cycles after which the clock first reads `ns` or more. -/
def cyclesTo (ns : Nat) (m : Main) : Nat :=
  let a := max 1 (m.get F.PTP_ADDEND_ADDEND)
  (ns * 2 ^ 28 - (clockNs m * 2 ^ 28 + m.time.frac) + (a - 1)) / a

/-- The local clock comes to the instant `ns`, which a boundary says that it has reached (R26, R454). A clock that this finds elsewhere than
the cycles lead it is set. -/
def reachClock (ns : Nat) (m : Main) : Main :=
  let r := runClock (cyclesTo ns m) m
  if ns ≤ clockNs r ∧ clockNs r < ns + 10 then r else setClock (ns / 1000000000) (ns % 1000000000) m

/-! ### When the calendar is disciplined (R445) -/

def disciplined (m : Main) : Bool := m.bit F.RTC_CTRL_SYNC_EN && servo m == Sv.locked && utcSource m == 1

/-- Discipline ends where one of its conditions fails. -/
def undiscipline (m : Main) : Main :=
  if m.bit F.RTC_TRIM_AUTO && !disciplined m then
    { m.putBit F.RTC_TRIM_AUTO false with time := { m.time with syncStep := false, trimPhase := none } }
  else m

/-- Evaluated at a course boundary: whether the calendar is disciplined from here. -/
def discipline (m : Main) : Main := if disciplined m then m.putBit F.RTC_TRIM_AUTO true else undiscipline m

/-! ### Time-triggered outputs (R461, R462) -/

def ttoOf (m : Main) (n : Nat) : Tto := vget m.time.tto n ⟨false, none, true⟩
def withTto (m : Main) (n : Nat) (f : Tto → Tto) : Main := { m with time := { m.time with tto := vmod m.time.tto n f } }

def ttoStart (m : Main) (n : Nat) : Nat := (m.get F.TTO_START_LO n + 2 ^ 32 * m.get F.TTO_START_HI n) * 1000000000 + m.get F.TTO_START_NS n

/-- A write that sets ARM. -/
def ttoArm (n : Nat) (m : Main) : Main := withTto m n fun t => { t with edge := some (ttoStart m n), first := true }

/-- The output makes its active edge. -/
def ttoFire (n : Nat) (m : Main) : Main :=
  let t := ttoOf m n
  let per := m.bit F.TTO_CFG_PERIODIC n
  let m := (withTto m n fun t => { t with active := true, first := false, edge := if per then t.edge.map (· + m.get F.TTO_PERIOD n) else none }).emit (.tto n true)
  if per then fireIf t.first 58 m
  else fire 58 ((m.putBit F.TTO_CFG_ARM false n).putBit F.TTO_CFG_FIRED true n)

def ttoEdge (n : Nat) (m : Main) : Main := if m.bit F.TTO_CFG_ARM n && (ttoOf m n).edge.isSome then ttoFire n m else m

def ttoWidthEnd (n : Nat) (m : Main) : Main :=
  if (ttoOf m n).active then (withTto m n fun t => { t with active := false }).emit (.tto n false) else m

/-- What a step of the local clock does to an output (R462). -/
def ttoStep (n : Nat) (m : Main) : Main :=
  let now := m.time.sec * 1000000000 + m.time.ns
  let start := ttoStart m n
  let p := m.get F.TTO_PERIOD n
  match (ttoOf m n).edge with
  | none => m
  | some e =>
    if !m.bit F.TTO_CFG_ARM n then m
    else if m.bit F.TTO_CFG_PERIODIC n then
      let k := if now < start ∨ p = 0 then 0 else (now - start) / p + 1
      let next := start + k * p
      let m := withTto m n fun t => { t with edge := some next }
      if e < next then (m.count F.TTO_MISSED n ((next - e) / max p 1)).putBit F.TTO_CFG_LATE true n else m
    else if e < now then ttoFire n (m.putBit F.TTO_CFG_LATE true n)
    else m

/-! ### Steps and loads -/

/-- The local clock is stepped by `ns` (R459): an adjustment, after which the profile state is that of the new instant (R57). -/
def stepClock (ns : Int) (forced : Bool) (m : Main) : Main :=
  let t : Int := (m.time.sec * 1000000000 + m.time.ns : Nat) + ns
  let t := t.toNat
  let m := setClock (t / 1000000000) (t % 1000000000) { m with time := { m.time with syncWait := none, syncDiff := none, delayReq := none } }
  let m := recomputeProfile (100 * m.time.sec + m.time.ns / 10000000) m
  clockAdjust 1 ns forced ((List.range 4).foldl (fun m n => ttoStep n m) m)

/-- The local clock is loaded from the calendar, with its sub-second count (R456). -/
def loadClock (sub : Nat) (m : Main) : Main :=
  setClock (calNow m + utcShown m).toNat (sub % 32768 * 1000000000 / 32768) m

/-- Power-up, or a wake from DAYLIGHT (R456). -/
def startClock (sub : Nat) (m : Main) : Main :=
  let m : Main := { m.put F.PTP_ADDEND_ADDEND m.time.addendKept with time := { m.time with
    master := none, force := false, syncWait := none, syncDiff := none, delayReq := none, pathDelay := none } }
  undiscipline (if m.bit F.RTC_STATUS_VALID then timeAnchor (setServo Sv.free (loadClock sub m)) else setServo Sv.unset m)

/-- The calendar has become VALID, or a commit was accepted (R456): from UNSET the clock is loaded and FREE entered; in FREE it
is reloaded, which steps it. -/
def reloadClock (sub : Nat) (m : Main) : Main :=
  if servo m = Sv.unset then timeAnchor (setServo Sv.free (loadClock sub m))
  else if servo m = Sv.free then
    stepClock (((calNow m + utcShown m).toNat * 1000000000 + sub * 1000000000 / 32768 : Nat) - (m.time.sec * 1000000000 + m.time.ns : Nat) : Int) false m
  else m

/-- COMMIT (R442, R443), with the sub-second count that the calendar holds. -/
def commit (sub : Nat) (m : Main) : Main :=
  let c := commitCause m
  if c ≠ 0 then rejectDate c m
  else reloadClock 0 (adjustCal (shadowTime m) sub (m.putBit F.RTC_STATUS_CENTURY_WRAP false))

/-- The step of the calendar from the local clock, at a UTC second boundary (R445). -/
def syncStep (sub : Nat) (m : Main) : Main :=
  if m.time.syncStep then
    let m : Main := { m with time := { m.time with syncStep := false, trimPhase := some 0 } }
    adjustCal ((m.time.sec : Int) + (if 500000000 ≤ m.time.ns then 1 else 0) - utcShown m) sub (m.putBit F.RTC_STATUS_SYNC_STEP true)
  else m

/-! ### Discipline of the calendar (R445) -/

def clampInt (lo hi v : Int) : Int := max lo (min hi v)

/-- TRIM as it acts: −8,192 acts as −8,191 (R464). -/
def trimNow (m : Main) : Int := max (-8191) (signed 14 (m.get F.RTC_TRIM_TRIM))

/-- The phase of the calendar, local clock less calendar, in crystal cycles, rounded down; `sub` is the sub-second count that the calendar
holds. -/
def calPhase (sub : Nat) (m : Main) : Int :=
  let ns : Int := (clockNs m : Int) - 1000000000 * (utcShown m + calNow m)
  (ns * 32768 - 1000000000 * (sub % 32768 : Nat)) / 1000000000

/-- A comparison of the calendar with the local clock (R445), `cyc` cycles of 200 MHz into a slot, when the calendar's sub-second count is
`sub`. The rate error of the window is the TRIM that acted in it with what the phase moved under it; at the first comparison, of which
no window is known, TRIM stands for it (DESIGN CHOICE, log entry 29). What a limited sum leaves over is still part of the next phase. -/
def trimWindowEnd (sub cyc : Nat) (m : Main) : Main :=
  if !m.bit F.RTC_TRIM_AUTO then m
  else
    let d := calPhase sub (runClock cyc m)
    let rate := trimNow m + (match m.time.trimPhase with | some p => d - p | none => 0)
    let m : Main := { m with time := { m.time with trimPhase := some d } }
    if 3277 < d.natAbs then
      { m.put F.RTC_TRIM_TRIM (twos 14 (clampInt (-8191) 8191 rate)) with time := { m.time with syncStep := true } }
    else m.put F.RTC_TRIM_TRIM (twos 14 (clampInt (-8191) 8191 (rate + d)))

/-! ### The servo (R453, R456–R459) -/

def ptpRole (m : Main) : Nat := if m.get F.PTP_CTRL_ROLE = 3 then 0 else m.get F.PTP_CTRL_ROLE

/-- The order of datasets: the lexicographic order of their fields. -/
def dsLess : List Nat → List Nat → Bool
  | x :: xs, y :: ys => x < y || (x == y && dsLess xs ys)
  | _, _ => false

def ownDataset (m : Main) : List Nat := [m.get F.PTP_CFG_PRIORITY1, 248, 0xFE, 0xFFFF, m.get F.PTP_CFG_PRIORITY2, m.fuse.eui]

/-- The offset that PTP shows is retained while the servo is LOCKED and PTP flags it valid (R58). -/
def keepUtc (m : Main) : Main :=
  if utcSource m = 1 then
    { m with time := { m.time with utcKept := some (leapAdjust m m.course (m.get F.PTP_STATUS_UTC_OFFSET)) } }
  else m

/-- An Announce (R452, R453). -/
def announceRx (domain : Nat) (timescale : Bool) (ds : List Nat) (off : Nat) (valid l61 l59 : Bool) (m : Main) : Main :=
  let better := match m.time.master with
    | none => true
    | some d => !dsLess d ds || d.getD 5 0 == ds.getD 5 0
  if ptpRole m = 0 ∨ domain ≠ m.get F.PTP_CFG_DOMAIN ∨ !timescale ∨ (ptpRole m = 1 ∧ !dsLess ds (ownDataset m)) ∨ !better then m
  else
    let m : Main := { m with time := { m.time with master := some ds } }
    let m := ((m.putBit F.PTP_STATUS_GM_LOCAL false).putBit F.PTP_STATUS_UTC_VALID valid).put F.PTP_STATUS_UTC_OFFSET off
    let m := (m.putBit F.PTP_STATUS_LEAP61 l61).putBit F.PTP_STATUS_LEAP59 l59
    let leap := if l61 || l59 then some (m.time.leap.getD (leapAt m (if valid then (off : Int) else m.time.utcOff) l61)) else none
    let m := keepUtc { m with time := { m.time with leap := leap } }
    (m.put F.PTP_GM_LO (ds.getD 5 0)).put F.PTP_GM_HI (ds.getD 5 0 / 2 ^ 32)

/-- The rate by which the servo removes an offset: a free value, within 100 ppm of the present rate and 200 ppm of the nominal
(R454, R457). -/
def slew (m : Main) : Main :=
  let now := m.get F.PTP_ADDEND_ADDEND
  let lo := max (now - now / 10000) (0x50000000 - 0x50000000 / 5000)
  let hi := min (now + now / 10000) (0x50000000 + 0x50000000 / 5000)
  let v := m.freeVal
  v.2.put F.PTP_ADDEND_ADDEND (max lo (min hi v.1))

def limitNs (m : Main) : Nat := 1000 * max 1 (min 1000000 (m.get F.PTP_JUMP_LIMIT))

/-- Saturated to 32 bits. -/
def saturate32 (v : Int) : Nat := twos 32 (clampInt (-2147483648) 2147483647 v)

/-- Within ±1 µs, or not: the runs of R456 and the states that they lead to. -/
def servoRun (o : Int) (m : Main) : Main :=
  let near := decide (o.natAbs ≤ 1000)
  let st := servo m
  if st = Sv.locking then
    let n := if near then m.time.inRun + 1 else 0
    if 16 ≤ n then setServo Sv.locked m else { m with time := { m.time with inRun := n } }
  else if st = Sv.locked then
    let n := if near then 0 else m.time.outRun + 1
    if 4 ≤ n then setServo Sv.locking m else { m with time := { m.time with outRun := n } }
  else setServo Sv.locking m

/-- The retained values of R456 and R58, while the servo is LOCKED. -/
def keepLocked (m : Main) : Main :=
  if servo m = Sv.locked then keepUtc { m with time := { m.time with addendKept := m.get F.PTP_ADDEND_ADDEND } } else m

/-- An offset, local clock less master, from the qualified master. -/
def offsetRx (o : Int) (m : Main) : Main :=
  if ptpRole m = 0 ∨ m.time.master.isNone then m
  else
    let st := servo m
    let m := m.put F.PTP_OFFSET (saturate32 o)
    if m.time.force || st == Sv.unset || (st == Sv.free && m.bit F.PTP_CTRL_JUMP_FREE) then
      let forced := m.time.force
      let m : Main := { m.putBit F.PTP_STATUS_REFUSING false with time := { m.time with force := false } }
      let m := stepClock (-o) forced m
      if st = Sv.locking ∨ st = Sv.locked then m else setServo Sv.locking m
    else if limitNs m < o.natAbs then
      let first := !m.bit F.PTP_STATUS_REFUSING
      let m := (m.putBit F.PTP_STATUS_REFUSING true).putBit F.PTP_STATUS_JUMP_REFUSED true
      let m := fireIf first 56 m
      if st = Sv.locking ∨ st = Sv.locked then setServo Sv.holdover m else m
    else keepLocked (servoRun o (slew (m.putBit F.PTP_STATUS_REFUSING false)))

/-! ### The delay request-response exchange (R452, R455)

The spec names the parts of IEEE 1588-2019 that are supported and leaves their arithmetic to it (PRESUMED, log entry 29). -/

/-- PTP_ASYM of a port, in ns. -/
def ptpAsym (m : Main) (p : Nat) : Int := signed 16 (m.get F.PTP_ASYM p)

/-- A message of the domain and of the qualified master. -/
def fromMaster (m : Main) (domain source : Nat) : Bool :=
  domain == m.get F.PTP_CFG_DOMAIN && m.time.master.any fun d => d.getD 5 0 == source

/-- A Sync's reception less its origin is known: with the path's delay it gives the offset. -/
def syncDone (diff : Int) (m : Main) : Main :=
  let m : Main := { m with time := { m.time with syncDiff := some diff } }
  match m.time.pathDelay with
  | some d => offsetRx (diff - d) m
  | none => m

def syncRx (p domain source seq : Nat) (twoStep : Bool) (origin : Nat) (corr : Int) (stamp : Nat) (m : Main) : Main :=
  if !fromMaster m domain source then m
  else
    let got : Int := (stamp : Int) - corr - ptpAsym m p
    if twoStep then { m with time := { m.time with syncWait := some (p, seq, got) } }
    else syncDone (got - origin) { m with time := { m.time with syncWait := none } }

def followUpRx (p domain source seq origin : Nat) (corr : Int) (m : Main) : Main :=
  match m.time.syncWait with
  | some (q, n, got) =>
    if fromMaster m domain source && q == p && n == seq then
      syncDone (got - corr - origin) { m with time := { m.time with syncWait := none } }
    else m
  | none => m

/-- A boundary clock answers a Delay_Req. -/
def delayReqRx (p domain seq : Nat) (m : Main) : Main :=
  if ptpRole m = 1 ∧ domain = m.get F.PTP_CFG_DOMAIN ∧ portState m p ≠ Ps.down then m.emit (.ptpTx p 9 seq) else m

/-- The answer to the module's own Delay_Req gives the mean path delay. -/
def delayRespRx (p domain source seq receive : Nat) (corr : Int) (requester : Nat) (m : Main) : Main :=
  match m.time.delayReq, m.time.syncDiff with
  | some (q, n, sent), some diff =>
    if fromMaster m domain source && q == p && n == seq && requester == m.fuse.eui then
      { m with time := { m.time with delayReq := none, pathDelay := some ((diff + ((receive : Int) - corr - sent + ptpAsym m p)) / 2) } }
    else m
  | _, _ => m

def ptpPort : PtpMsg → Fin 2
  | .announce p .. | .sync p .. | .followUp p .. | .delayReq p .. | .delayResp p .. => p

/-- messageType and sequenceId; an Announce carries no sequenceId here. -/
def ptpTypeSeq : PtpMsg → Nat × Nat
  | .announce .. => (11, 0)
  | .sync _ _ _ seq .. => (0, seq)
  | .followUp _ _ _ seq .. => (8, seq)
  | .delayReq _ _ _ seq _ => (1, seq)
  | .delayResp _ _ _ seq .. => (9, seq)

/-- A transparent clock passes every message on between its ports. -/
def ptpPass (x : PtpMsg) (m : Main) : Main :=
  let other := 1 - (ptpPort x).val
  if ptpRole m = 2 ∧ portState m other ≠ Ps.down then m.emit (.ptpTx other (ptpTypeSeq x).1 (ptpTypeSeq x).2) else m

/-- PTP_MESSAGE_RX. A port that is DOWN, and a module whose PTP is off, take none. -/
def ptpRx (x : PtpMsg) (m : Main) : Main :=
  if ptpRole m = 0 ∨ portState m (ptpPort x) = Ps.down then m
  else
    undiscipline (match x with
      | .announce _ d t ds o v a b => announceRx d t ds o v a b (ptpPass x m)
      | .sync p d s n two t1 c t2 => syncRx p d s n two t1 c t2 (ptpPass x m)
      | .followUp p d s n t1 c => followUpRx p d s n t1 c (ptpPass x m)
      | .delayReq p d _ n _ => delayReqRx p d n (ptpPass x m)
      | .delayResp p d s n t4 c r => delayRespRx p d s n t4 c r (ptpPass x m))

/-- No qualified master for announceReceiptTimeout (R456). A boundary clock then wins its own election and is grandmaster (R453). -/
def announceTimeout (m : Main) : Main :=
  let m : Main := { m with time := { m.time with master := none, syncWait := none, syncDiff := none, delayReq := none, pathDelay := none } }
  let m := m.putBit F.PTP_STATUS_GM_LOCAL (ptpRole m == 1)
  let m := ((m.putBit F.PTP_STATUS_UTC_VALID false).putBit F.PTP_STATUS_LEAP61 false).putBit F.PTP_STATUS_LEAP59 false
  undiscipline (if servo m = Sv.locking ∨ servo m = Sv.locked then setServo Sv.holdover m else m)

/-- FORCE (R459); it ends a refusal episode (R458). -/
def forceWrite (m : Main) : Main := { m.putBit F.PTP_STATUS_REFUSING false with time := { m.time with force := true } }

/-! ### Time stamps (R460) -/

/-- A PTP message goes out on a port in the TIME class, with its egress stamp; a two-step Sync is followed by its Follow_Up (R452). -/
def ptpTx (p typ seq sec ns : Nat) (m : Main) : Main :=
  if ptpRole m = 0 ∨ portState m p = Ps.down then m
  else
    let m := m.emit (.ptpTx p typ seq)
    let m := if typ = 0 ∧ m.bit F.PTP_CTRL_TWO_STEP then m.emit (.ptpTx p 8 seq) else m
    let m : Main := if typ = 1 then { m with time := { m.time with delayReq := some (p, seq, sec * 1000000000 + ns) } } else m
    let event := typ == 0 || typ == 1
    if !(event && m.bit F.PTP_CTRL_TSQ_EN) then m
    else if 16 ≤ m.time.tsq.length then fire 57 (m.put F.PTP_TSQ_STAT_OVERFLOWS (m.get F.PTP_TSQ_STAT_OVERFLOWS + 1))
    else
      let first := m.time.tsq.isEmpty
      let m : Main := { m with time := { m.time with tsq := m.time.tsq ++ [⟨p, typ, seq, sec, ns⟩] } }
      fireIf first 22 (m.put F.PTP_TSQ_STAT_FILL m.time.tsq.length)

/-- A read of PTP_TSQ (R465). -/
def tsqRead (m : Main) : Main :=
  match m.time.tsq with
  | [] => (m.setWord 0x100040 0).setWord 0x100044 0 |>.setWord 0x100048 0
  | e :: t =>
    let m : Main := { m with time := { m.time with tsq := t } }
    let m := (((m.putBit F.PTP_TSQ_VALID true).put F.PTP_TSQ_PORT e.port).put F.PTP_TSQ_MSGTYPE e.typ).put F.PTP_TSQ_SEQ_ID e.seq
    ((m.put F.PTP_TSQ_NS e.ns).put F.PTP_TSQ_SEC e.sec).put F.PTP_TSQ_STAT_FILL t.length

/-- Every AON supply is lost (R441): the calendar restarts, VALID clears, and of the rest of the RTC block class N is restored. -/
def aonLoss (m : Main) : Main :=
  let m := resetRegs (fun a => a / 65536 == 0x0F) (fun r => r.n ||| r.p) m
  (putCal m (86400 * daysOf 2000 1 1)).putBit F.RTC_STATUS_VALID false

end Sys2Proof.Machine
end

