-- ==== Sys2Proof/Machine/Cmd.lean ====
section
/-!
DEFINITION. The course of one command on a CMD ring (R350–R357, R365, R372): taken, checked, carried out, written back.
-/
namespace Sys2Proof.Machine

def Reply.done (n : Nat) : Reply := ⟨St.ok, 0, n, []⟩
def Reply.fail (status detail : Nat) : Reply := ⟨status, detail, 0, []⟩
/-- Refused after the buffer was read: DONE_LEN is the bytes moved. -/
def Reply.refused (d : Desc) (detail : Nat) : Reply := ⟨St.refused, detail, d.length, []⟩

/-- The opcodes that the spec assigns (R356, R408, R428, R430, R473, R522). -/
def assignedOps : List Nat :=
  [0x0000, 0x0101, 0x0102, 0x0103, 0x0104, 0x0105, 0x0201, 0x0202, 0x0301, 0x0401, 0x0501, 0x0601, 0x0701, 0x0702, 0x0703, 0x0704, 0x0705,
   0x0706, 0x0801, 0x0802, 0x0803, 0x0811, 0x0812, 0x0813, 0x0901, 0x0902]

def isOp (n : Nat) (d : Desc) : Bool := d.opcode == n

/-- What an opcode asks of its descriptor (R356). -/
structure CmdKind where
  /-- the descriptors of this row of the opcode table -/
  row : Desc → Bool
  /-- ADDR carries an immediate, or nothing -/
  imm : Bool
  lengthOk : Desc → Bool
  /-- bits of PARAM, and of the immediate, that may be set -/
  param : Nat
  immMask : Nat
  /-- refusals that need no buffer: NO_PLAN, the key store, the role -/
  gate : Main → Option Reply

/-- Standby: paired and not active (chapter 13). -/
def standby (m : Main) : Bool := m.bit F.RED_STATUS_PAIRED && !m.bit F.RED_STATUS_ACTIVE

def openGate (_ : Main) : Option Reply := none

/-- Active-only (R356): KEY_LOCKED while a paired module's network key or K_FAB is not ready (R414), NOT_ACTIVE in a standby. -/
def activeGate (m : Main) : Option Reply :=
  if m.bit F.RED_STATUS_PAIRED && (m.key.work[0].isNone || m.key.work[1].isNone) then some (.fail St.keyLocked 0)
  else if standby m then some (.fail St.notActive 0)
  else none

/-- Ending where an option answers. -/
def gates (gs : List (Main → Option Reply)) (m : Main) : Option Reply := gs.findSome? fun g => g m

/-- A command with no data. -/
def CmdKind.plain (opcode param : Nat) (gate : Main → Option Reply) : CmdKind :=
  ⟨isOp opcode, true, fun d => d.length == 0, param, 0, gate⟩

/-- The lowest set bit of a number. -/
def lowBit (v : Nat) : Nat := ((List.range 64).find? (bitOf v)).getD 64

/-- Bits of `v` outside a mask. -/
def outside (v mask : Nat) : Nat := v ^^^ (v &&& mask)

/-- The first check that a descriptor fails, in the order format, length, PARAM, immediate, gate. -/
def cmdCheck (k : CmdKind) (d : Desc) (w : SgWalk) (m : Main) : Option Reply :=
  if !descForm d k.imm || (k.imm && d.sg) || w.badForm then some (.fail St.badFormat 0)
  else if !k.lengthOk d || d.length % 4 != 0 || decide (16777216 < d.length) || w.badLen || (!w.looped && (!w.whole || w.bytes != d.length)) then some (.fail St.badLength 0)
  else if outside d.param k.param ≠ 0 then some (.fail St.badParam (lowBit (outside d.param k.param)))
  else if k.imm ∧ k.immMask ≠ 0 ∧ outside (d.addr % 2 ^ 64) k.immMask ≠ 0 then
    some (.fail St.badParam (lowBit (outside (d.addr % 2 ^ 64) k.immMask)))
  else k.gate m

/-- Write a command back at its ring position (R365). -/
def cmdEnd (r pos : Nat) (d : Desc) (rep : Reply) (m : Main) : Main :=
  notifyCmd r d.notify (putBack m r pos (some d) { rep with data := swapData d.swap rep.data } 0)

/-- A write-back that comes after its command was taken (R475, R522): a ring that is STOPPING then becomes DISABLED (R378). In D3hot
it waits for the exit (R347). -/
def cmdLate (r pos : Nat) (d : Desc) (rep : Reply) (m : Main) : Main :=
  if m.host.d3hot then withRing m r fun g => { g with late := some rep }
  else
    let m := cmdEnd r pos d rep (withRing m r fun g => { g with cur := none, late := none })
    if ringState m r = Rs.stopping then ringDown r m else m

/-- A CMD ring on which a command can be taken. -/
def cmdReady (m : Main) (r : Nat) : Bool :=
  ringMoves m r && (ringOf m r).cur.isNone && !(ringOf m r).stalled && !(ringOf m r).parked && ringAvail m r != 0

/-- It is the ring's turn (R355): no other ring that can take a command stands between it and the ring last served. A ring whose
descriptor is being read again under R361 lets its turn pass. -/
def cmdTurn (m : Main) (r : Nat) : Bool :=
  cmdReady m r &&
  (((List.range 8).map fun k => (m.host.served + 1 + k) % 8).takeWhile (· != r)).all fun q => !cmdReady m q || (ringOf m q).early != 0

/-- The engine reads the descriptor at the ring's position, where it can and it is the ring's turn (R355, R360, R361), and goes on
with `k`, given the descriptor's ring position. A descriptor that is not this row's is left to the row whose it is. -/
def cmdTake (r : Fin 8) (d : Desc) (row : Desc → Bool) (k : Nat → Main → Main) (m : Main) : Main :=
  let ri : Nat := r
  if !cmdTurn m ri then m
  else
    let pos := ringPos m ri (ringOf m ri).taken
    if !d.own then (if (ringOf m ri).early = 0 then foundClear ri (readDesc ri pos m) else m)
    else if !row d then m
    else
      let m := takeOne ri (readDesc ri pos m)
      k pos { m with host := { m.host with served := ri } }

/-- A command in any mode: `f` carries it out with its buffer's data, and answers none where it is written back later (R475). -/
def cmdRunAny (r : Fin 8) (d : Desc) (k : CmdKind) (f : List Byte → Main → Main × Option Reply) : Main → Main :=
  cmdTake r d k.row fun pos m =>
    let ri : Nat := r
    let w := if k.imm then { SgWalk.start with whole := true, bytes := d.length } else descWalk m d
    let m := if k.imm then m else readList ri d w m
    match cmdCheck k d w m with
    | some rep => cmdEnd ri pos d rep m
    | none =>
      if w.looped then fire 12 (haltRing ri ri 1 (cmdEnd ri pos d ⟨St.chainLoop, 0, w.bytes, []⟩ m))
      else
        let m := if k.imm then m else dmaMoved ri d.length w ((hostReads ri (segments d) ⟨false, false, d.nosnoop⟩ m).emit (.dmaDone ri))
        let res := f (swapData d.swap (d.data.take d.length)) m
        match res.2 with
        | some rep => cmdEnd ri pos d rep res.1
        | none => withRing res.1 ri fun g => { g with cur := some (pos, d) }

/-- A command; in RECOVERY it is refused with BAD_OPCODE (R529). -/
def cmdRun (r : Fin 8) (d : Desc) (k : CmdKind) (f : List Byte → Main → Main × Option Reply) (m : Main) : Main :=
  if m.mode = 1 then cmdTake r d k.row (fun n => cmdEnd r n d (.fail St.badOpcode 0)) m else cmdRunAny r d k f m

/-- A command whose write-back is always at once. -/
def cmdNow (r : Fin 8) (d : Desc) (k : CmdKind) (f : List Byte → Main → Main × Reply) : Main → Main :=
  cmdRun r d k fun data m => let p := f data m; (p.1, some p.2)

/-- A command that must wait on its ring (R417, R475): the ring lets its turn pass until it is let go on. -/
def park (r : Nat) (d : Desc) (row : Desc → Bool) (m : Main) : Main :=
  if cmdTurn m r && d.own && row d then withRing m r fun g => { g with parked := true } else m

/-- Rings whose next command waits may take it. -/
def unpark (m : Main) : Main :=
  { m with host := { m.host with rings := m.host.rings.map fun g => { g with parked := false } } }

end Sys2Proof.Machine
end

