-- ==== Sys2Proof/Machine/State.lean ====
section
/-!
DEFINITION. The state of the block: the main side, the dormer, and the queue of commands that wait.
-/
namespace Sys2Proof.Machine

/-- Everything the spec gives the module. The dormer is an island of its own (R254): no command of the main side reads or
writes it, and the two meet only through frames. `pending` is the queue of waiting commands, first in, first out. -/
structure State where
  main : Main
  dmr : Dormer
  pending : List Instr
  deriving DecidableEq, Repr

/-- No command of the block stops with a fault: the spec gives every row of its table an effect, and a command that the
block turns away is written back with its status, counted or ignored, as the spec says. -/
inductive Fault : Type
  deriving DecidableEq, Repr

/-- Why a command has no meaning. -/
inductive Refusal where
  /-- raised by `exec` for a row whose meaning is not written; safe, since it gives no next state -/
  | notModelled (mnemonic : String)
  deriving DecidableEq, Repr

/-- The module before its first power-on reset has run: every register at its reset value, memory with nothing listed, the
dormer as its first power-up finds it, and no command waiting. -/
def State.reset : State := { main := Main.reset, dmr := Dormer.reset, pending := [] }

/-- A command that acts on the main side alone. -/
def State.onMain (s : State) (f : Main → Main) : Host.Outcome State Fault Refusal := .next { s with main := f s.main }

/-- A command that acts on the dormer alone. -/
def State.onDormer (s : State) (f : Dormer → Dormer) : Host.Outcome State Fault Refusal := .next { s with dmr := f s.dmr }

end Sys2Proof.Machine
end

