-- ==== Sys2Proof/Machine/HostCmds.lean ====
section
/-!
DEFINITION. The commands of the host interface (chapter 11).
-/
namespace Sys2Proof.Machine

abbrev Result := Host.Outcome State Fault Refusal

def execDoorbell (r : Fin 32) (value : Nat) (reads : List Desc) (s : State) : Result := s.onMain (doorbell r value reads)
def execDescriptorRetry (r : Fin 32) (reads : List Desc) (s : State) : Result := s.onMain (descriptorRetry r reads)
def execUplFlush (u : Fin 24) (s : State) : Result := s.onMain (uplFlush u)
def execHoldoffExpiry (r : Fin 32) (s : State) : Result := s.onMain (holdoffExpiry r)
def execRingEnable (r : Fin 32) (reads : List Desc) (s : State) : Result := s.onMain (hostAccess 2 (ringEnable r reads))
def execRingDisable (r : Fin 32) (s : State) : Result := s.onMain (hostAccess 2 (ringDisable r))
def execRingRearm (r : Fin 32) (reads : List Desc) (s : State) : Result := s.onMain (hostAccess 2 (ringRearm r reads))
def execPause (c : Fin 16) (s : State) : Result := s.onMain (hostAccess 3 (pauseChannel c))
def execDmaResume (c : Option (Fin 16)) (reads : List (Nat × List Desc)) (s : State) : Result := s.onMain (hostAccess 3 (dmaResume c reads))
def execPauseAll (s : State) : Result := s.onMain (hostAccess 3 pauseAll)
def execCompletionTimeout (r : Fin 32) (rd : Option Desc) (s : State) : Result := s.onMain (hostNoresp r 1 rd)
def execHostNoresp (r : Fin 32) (ca : Bool) (rd : Option Desc) (s : State) : Result := s.onMain (hostNoresp r (if ca then 3 else 2) rd)
def execPoison (r : Fin 32) (rd : Option Desc) (s : State) : Result := s.onMain (poisonRead r rd)
def execMsixUnmask (vector : Fin 64) (s : State) : Result := s.onMain (hostAccess 0x3F (msixUnmask vector))
def execFlr (s : State) : Result := s.onMain hostReset
def execPfr (s : State) : Result := s.onMain hostReset
def execD3hotEntry (s : State) : Result := s.onMain d3hotEntry
def execD3hotExit (reads : List (Nat × List Desc)) (s : State) : Result := s.onMain (d3hotExit reads)
def execReady (reads : List (Nat × List Desc)) (s : State) : Result := s.onMain (setReady reads)

/-- NOP (R356). -/
def cmdNop (r : Fin 8) (d : Desc) : Main → Main := cmdNow r d (.plain 0x0000 0 openGate) fun _ m => (m, .done 0)
def execNop (r : Fin 8) (d : Desc) (s : State) : Result := s.onMain (cmdNop r d)

/-- An opcode that is not assigned is refused before anything else is looked at (R356). -/
def cmdBadOpcode (r : Fin 8) (d : Desc) : Main → Main :=
  cmdTake r d (fun d => !assignedOps.contains d.opcode) fun n => cmdEnd r n d (.fail St.badOpcode 0)
def execBadOpcode (r : Fin 8) (d : Desc) (s : State) : Result := s.onMain (cmdBadOpcode r d)

end Sys2Proof.Machine
end

