-- ==== Sys2Proof/Machine/LogCmds.lean ====
section
/-!
DEFINITION. The commands of the soffit log and the skylight port (chapter 16).
-/
namespace Sys2Proof.Machine

/-- A write of SOF_REPLAY with START set (R503); a COUNT above 8,192 acts as 8,192. -/
def replayStart (value : Nat) (m : Main) : Main :=
  let m := ((m.put F.SOF_REPLAY_STORE (bits value 30 29)).put F.SOF_REPLAY_AREA (bits value 28 28)).put F.SOF_REPLAY_FROM value
  let area := bits value 28 28
  let m := m.putBit F.SOF_STATUS_REPLAY_BUSY true
  { m with log := { m.log with replay := some ⟨bits value 30 29, area, bits value 12 0 % areaSize area, max 1 (min 8192 (m.get F.SOF_REPLAY_CNT_COUNT))⟩ } }

/-- The next valid record of a replay: it, and the replay after it. -/
def replayNext (m : Main) (p : Replay) : Nat → Nat → Option SofRec × Replay
  | 0, pos => (none, { p with pos := pos, left := 0 })
  | k + 1, pos =>
    let next := (pos + 1) % areaSize p.area
    match recAt m p.store p.area pos with
    | some r => (some r, { p with pos := next, left := k })
    | none => replayNext m p k next

/-- A replay sends its next valid record; live records come first (R503). -/
def replayRecord (m : Main) : Main :=
  match m.log.replay with
  | none => m
  | some p =>
    if !(ringOf m 12).waiting.isEmpty then m
    else
      let r := replayNext m p p.left p.pos
      let m : Main := { m with log := { m.log with replay := if r.2.left = 0 then none else some r.2 } }
      let m := if r.2.left = 0 then m.putBit F.SOF_STATUS_REPLAY_BUSY false else m
      match r.1 with
      | some rec' => deliverLive m p.store rec' true
      | none => m

/-- The log moves the oldest privileged record into its store (R497, R498). -/
def privTake (m : Main) : Main :=
  match m.log.priv with
  | [] => m
  | (store, r) :: t =>
    let lost := m.log.lostSince
    let r := if lost = 0 then r else { r with lost := true, count := min lost 65535 }
    let m : Main := { m with log := { m.log with priv := t, lostSince := 0 } }
    writeStore 3 store r (m.put F.SOF_STATUS_PRIV_FILL t.length)

/-- MEM is powered: in every mode but SHIP and DAYLIGHT (R497). -/
def privMove (m : Main) : Main := if m.mode = 0 ∨ m.mode = 6 then m else privTake m

/-- The whole privileged buffer, oldest first. -/
def privMoveAll (m : Main) : Main := (List.range m.log.priv.length).foldl (fun m _ => privTake m) m

/-- A bucket gains a token where OP_SEC has reached a multiple of its INTERVAL (R494, R495). -/
def bucketRefill (code : Nat) (m : Main) : Main :=
  match limitOf m code with
  | none => m
  | some (_, interval) =>
    let spent := sget (fun _ => 0) m.log.spent code
    let supp := sget (fun _ => 0) m.log.supp code
    if m.log.opSec % interval ≠ 0 ∨ spent = 0 then m
    else
      let m : Main := { m with log := { m.log with spent := sset (fun _ => 0) m.log.spent code (spent - 1) } }
      if spent = 1 ∧ supp ≠ 0 then
        let m : Main := { m with log := { m.log with supp := sset (fun _ => 0) m.log.supp code 0 } }
        let r := { newRec m 0x03F0 code 0 0 0 with count := supp }
        if m.mode = 7 then privPut 2 r (nextFree m) else writeStore 3 2 r (nextFree m)
      else m

def skyCntClear (n : Nat) (m : Main) : Main := m.put F.SKY_CNT 0 n

/-- The `n` nibbles of a field, the most significant first. -/
def nibbles : Nat → Nat → List Nat
  | 0, _ => []
  | n + 1, v => v / 16 ^ n % 16 :: nibbles n v

/-- The 16 nibbles of a packet and the idle one (R507). -/
def skyNibbles (src time data : Nat) : List Nat := 0xA :: nibbles 2 src ++ nibbles 5 time ++ nibbles 8 data ++ [0]

/-- The port sends a packet (R507, R510): the LOST packet of earlier drops once space has returned, else the next queued one. -/
def skyPacket (m : Main) : Main :=
  if !m.bit F.SKY_CTRL_TRACE_EN then m
  else if m.log.skyDrops ≠ 0 ∧ m.log.sky.length < 127 then
    { m.emit (.sky (skyNibbles 0xFE (Config.freeNat m.free % 2 ^ 20) (min m.log.skyDrops (2 ^ 32 - 1)))) with
      log := { m.log with skyDrops := 0 }, free := m.free + 1 }
  else
    match m.log.sky with
    | [] => m
    | p :: t => ({ m with log := { m.log with sky := t } } : Main).emit (.sky (skyNibbles p.src p.time p.data)) |>.put F.SKY_FILL_FILL t.length

def execReplayStart (value : Nat) (s : State) : Result := s.onMain (hostAccess 0x12 (replayStart value))
def execReplayRecord (s : State) : Result := s.onMain replayRecord
def execSkyCntClear (n : Fin 256) (s : State) : Result := s.onMain (hostAccess 0x13 (skyCntClear n))
def execSkyPacket (s : State) : Result := s.onMain skyPacket
def execPrivBufferMove (s : State) : Result := s.onMain privMove
def execBucketRefill (code : Nat) (s : State) : Result := s.onMain (bucketRefill code)

end Sys2Proof.Machine
end

