-- ==== Sys2Proof/Machine/WaveTable.lean ====
section
/-!
DEFINITION. The wave tables of a bundle and their checks (R186–R190), the calendar of cells (R120, R194), and the entries
of a WAVE frame (R133, R195–R197).
-/
namespace Sys2Proof.Machine

def wavEntries (b : Img) : Nat := le b (sectOff b 11) 2
def wavPool (b : Img) : Nat := le b (sectOff b 11 + 4) 4
/-- Address `k` (0 seat 0, 1 seat 1) of neighbour entry `n`; 0xFFFF for none. -/
def neighAddr (b : Img) (n k : Nat) : Nat := le b (sectOff b 11 + 16 + 4 * n + 2 * k) 2
def wavDirBase (b : Img) (i : Nat) : Nat := le b (sectOff b 11 + 80 + 8 * i) 2
def wavDirMask (b : Img) (i : Nat) : Nat := le b (sectOff b 11 + 82 + 8 * i) 4
def wavEntryOff (b : Img) (e : Nat) : Nat := sectOff b 11 + 65616 + 8 * e
def poolOff (b : Img) (u : Nat) : Nat := sectOff b 11 + 65616 + 8 * wavEntries b + 8 * u

/-- The wave-table entry of R187 for lantern `i`, heading `h` and speed class `v`. -/
def wavLookup (b : Img) (i h v : Nat) : Option Nat :=
  let m := wavDirMask b i
  let k := 4 * h + v
  if bits m k k = 1 then some (wavDirBase b i + ones m k) else none

namespace WEnt
def list (b : Img) (e : Nat) : Nat := le b (wavEntryOff b e) 2
def steps (b : Img) (e : Nat) : Nat := le b (wavEntryOff b e + 2) 1
def lanes (b : Img) (e : Nat) : Nat := le b (wavEntryOff b e + 3) 1
def lead (b : Img) (e : Nat) : Nat := le b (wavEntryOff b e + 4) 1
def zone (b : Img) (e : Nat) : Nat := le b (wavEntryOff b e + 6) 2
end WEnt

namespace Zone
def list (b : Img) (z : Nat) : Nat := le b (sectOff b 12 + 8 * z) 2
def steps (b : Img) (z : Nat) : Nat := le b (sectOff b 12 + 8 * z + 2) 1
def lanes (b : Img) (z : Nat) : Nat := le b (sectOff b 12 + 8 * z + 3) 1
def lead (b : Img) (z : Nat) : Nat := le b (sectOff b 12 + 8 * z + 4) 1
end Zone

namespace PStep
def foreign (b : Img) (u : Nat) : Bool := bits (le b (poolOff b u) 2) 15 15 == 1
def target (b : Img) (u : Nat) : Nat := bits (le b (poolOff b u) 2) 12 0
def level (b : Img) (u : Nat) : Nat := bits (le b (poolOff b u + 2) 2) 11 0
def ramp (b : Img) (u : Nat) : Nat := bits (le b (poolOff b u + 2) 2) 15 12
def delay (b : Img) (u : Nat) : Nat := le b (poolOff b u + 4) 1
def hold (b : Img) (u : Nat) : Nat := le b (poolOff b u + 5) 2
def back (b : Img) (u : Nat) : Nat := bits (le b (poolOff b u + 7) 1) 3 0
def neigh (b : Img) (u : Nat) : Nat := bits (le b (poolOff b u + 7) 1) 7 4
end PStep

/-- The own steps, or the FOREIGN steps with their neighbour entries, of wave-table entry `e` for detection slot `d`. -/
def ownSteps (b : Img) (e d : Nat) : List WStep :=
  ((List.range (WEnt.steps b e)).map (WEnt.list b e + ·)).filterMap fun u =>
    if PStep.foreign b u then none
    else some ⟨PStep.target b u, PStep.level b u, PStep.ramp b u, d + PStep.delay b u, d + PStep.delay b u + PStep.hold b u,
      PStep.back b u, false⟩

def foreignSteps (b : Img) (e d : Nat) : List (Nat × WStep) :=
  ((List.range (WEnt.steps b e)).map (WEnt.list b e + ·)).filterMap fun u =>
    if PStep.foreign b u then
      some (PStep.neigh b u, ⟨PStep.target b u, PStep.level b u, PStep.ramp b u, d + PStep.delay b u,
        d + PStep.delay b u + PStep.hold b u, PStep.back b u, false⟩)
    else none

/-- The steps of a zone hold list (R200). -/
def holdSteps (b : Img) (z : Nat) : List WStep :=
  ((List.range (Zone.steps b z)).map (Zone.list b z + ·)).map fun u =>
    ⟨PStep.target b u, PStep.level b u, PStep.ramp b u, 0, PStep.hold b u, PStep.back b u, true⟩

/-! ### Cells of a template -/

/-- First slots of the cells of a lane with a given action, seat and PREF, in order. -/
def cellsOf (b : Img) (t l action seat pref : Nat) : List Nat :=
  (List.range 100).filter fun s =>
    let w := cellWord b t s l
    CellW.action w == action && CellW.seat w == seat && CellW.pref w == pref

/-- The seat-1 cell that carries the copy of the seat-0 cell at slot `s` (R120): the cell of the same number, unless it
begins before its partner. -/
def twinSlot (b : Img) (t l s : Nat) : Option Nat :=
  let w := cellWord b t s l
  let zero := cellsOf b t l (CellW.action w) 0 (CellW.pref w)
  let one := cellsOf b t l (CellW.action w) 1 (CellW.pref w)
  (one[zero.idxOf s]?).bind fun u => if s ≤ u then some u else none

/-- The seat-0 cell whose copy the seat-1 cell at slot `s` carries (R120). -/
def partnerSlot (b : Img) (t l s : Nat) : Option Nat :=
  let w := cellWord b t s l
  let zero := cellsOf b t l (CellW.action w) 0 (CellW.pref w)
  let one := cellsOf b t l (CellW.action w) 1 (CellW.pref w)
  (zero[one.idxOf s]?).bind fun u => if u ≤ s then some u else none

/-- Slots from the seat-0 cell's first slot to the boundary at which its last copy ends (R132, R195). -/
def copiesEnd (b : Img) (t l s : Nat) : Nat :=
  match (if Hdr.paired b then twinSlot b t l s else none) with
  | some u => u + CellW.len (cellWord b t u l) - s
  | none => CellW.len (cellWord b t s l)

/-- The most entries, at most 32, that a WAVE frame carries in a cell (R197); 0 where not even one fits. -/
def kMax (b : Img) (l w : Nat) : Nat :=
  let e := chanAt b l (CellW.chan w)
  ((List.range 32).map (· + 1)).foldl (fun best k =>
    if airtime e (psduLen l (24 + 8 * k)) ≤ airLimit (CellW.len w) then k else best) 0

/-! ### Checks of R190 -/

def poolStepOk (b : Img) (u : Nat) : Bool :=
  let o := poolOff b u
  bits (le b o 2) 14 13 == 0 && 1 ≤ PStep.level b u && 1 ≤ PStep.hold b u &&
  (if PStep.foreign b u then neighAddr b (PStep.neigh b u) 0 != 0xFFFF || neighAddr b (PStep.neigh b u) 1 != 0xFFFF
   else PStep.neigh b u == 0 && PStep.target b u < Hdr.lanterns b)

def delaysRise (b : Img) (u : Nat) : Nat → Bool
  | 0 => true
  | n + 1 => PStep.delay b u ≤ PStep.delay b (u + 1) && delaysRise b (u + 1) n

def hasReserve (b : Img) (lanes : Nat) : Bool :=
  (List.range 8).all fun l => bits lanes l l == 0 ||
    (List.range (Hdr.templates b)).any fun t => !(cellsOf b t l 8 0 0).isEmpty

def wavEntryOk (b : Img) (e : Nat) : Bool :=
  1 ≤ WEnt.steps b e && WEnt.steps b e ≤ 32 && WEnt.lanes b e != 0 && WEnt.lead b e ≤ 50 && le b (wavEntryOff b e + 5) 1 == 0 &&
  (WEnt.zone b e ≤ 511 || WEnt.zone b e == 0xFFFF) && 8 * (WEnt.list b e + WEnt.steps b e) ≤ wavPool b &&
  ((List.range (WEnt.steps b e)).all fun k => poolStepOk b (WEnt.list b e + k)) &&
  delaysRise b (WEnt.list b e) (WEnt.steps b e - 1) && hasReserve b (WEnt.lanes b e)

def zoneOk (b : Img) (z : Nat) : Bool :=
  Zone.steps b z ≤ 128 && Zone.lead b z ≤ 50 && le b (sectOff b 12 + 8 * z + 5) 3 == 0 &&
  (Zone.steps b z == 0 || (Zone.lanes b z != 0 && 8 * (Zone.list b z + Zone.steps b z) ≤ wavPool b && hasReserve b (Zone.lanes b z) &&
    (List.range (Zone.steps b z)).all fun k =>
      let u := Zone.list b z + k
      poolStepOk b u && !PStep.foreign b u && PStep.delay b u == 0))

/-- Every WAVE_RESERVE or TX_WAVE cell carries a WAVE frame with one entry (R190, every bundle). -/
def waveCellsOk (b : Img) : Bool :=
  (List.range (Hdr.templates b)).all fun t => (List.range 8).all fun l => (List.range 100).all fun s =>
    let w := cellWord b t s l
    !(CellW.action w == 8 || CellW.action w == 2) || 1 ≤ kMax b l w

def wavesValid (b : Img) : Bool :=
  waveCellsOk b && ((sect b 11).isSome == (sect b 12).isSome) &&
  ((sect b 11).isNone ||
    (1 ≤ wavEntries b && wavEntries b ≤ 16384 && wavPool b % 8 == 0 && wavPool b ≤ 524288 &&
     le b (sectOff b 11 + 2) 2 == 0 && le b (sectOff b 11 + 8) 8 == 0 &&
     sectLen b 11 == 65616 + 8 * wavEntries b + wavPool b && sectLen b 12 == 4096 && sectCount b 12 == 512 &&
     (List.range 8192).all (fun i => le b (sectOff b 11 + 86 + 8 * i) 2 == 0 &&
       (i < Hdr.lanterns b || wavDirMask b i == 0) && wavDirBase b i ≤ 16383 && wavDirBase b i + ones (wavDirMask b i) 32 ≤ wavEntries b) &&
     (List.range (wavEntries b)).all (wavEntryOk b) && (List.range 512).all (zoneOk b)))

/-! ### The entries of a frame -/

/-- Take up to `k` steps into a frame with execute-at `e` (R195, R197): the entries taken, the steps left, and how many
were dropped as expired. `enc` composes and encodes a step's level for its lantern. -/
def takeSteps (enc : WStep → Nat) (wave : Option Nat) (e : Nat) : Nat → List WStep → List (PendEntry × Nat) × List WStep × Nat
  | _, [] => ([], [], 0)
  | k, s :: ss =>
    let a := if s.rel then e else max s.start e
    let z := if s.rel then e + s.stop else s.stop
    if k = 0 then ([], s :: ss, 0)
    else if z ≤ a then
      let r := takeSteps enc wave e k ss
      (r.1, r.2.1, r.2.2 + 1)
    else
      let r := takeSteps enc wave e (k - 1) ss
      (({ lantern := s.lantern, level := enc s, ramp := s.ramp, at' := a, until' := z, wave := wave, spar := 0 }, s.back) :: r.1,
        r.2.1, r.2.2)

/-- The 8 bytes of one WAVE entry (R133). -/
def waveEntryBytes (e : Nat) (p : PendEntry × Nat) : List Byte :=
  leBytes 2 p.1.lantern ++ leBytes 2 (p.1.level + 4096 * p.1.ramp) ++ leBytes 1 (p.1.at' - e) ++ leBytes 2 (p.1.until' - p.1.at') ++
    leBytes 1 p.2

/-- The WAVE body of R133. -/
def waveBody (e waveId : Nat) (es : List (PendEntry × Nat)) : List Byte :=
  leBytes 4 (e / 100) ++ leBytes 1 (e % 100) ++ leBytes 1 es.length ++ leBytes 1 waveId ++ leBytes 1 0 ++
    es.flatMap (waveEntryBytes e)

end Sys2Proof.Machine
end

