-- ==== Sys2Proof/Machine/Modes.lean ====
section
/-!
DEFINITION. The modes of the module (R540–R543), and reading two banks' bundles.
-/
namespace Sys2Proof.Machine

/-! Modes (R540). -/
namespace Md
def ship : Nat := 0
def recovery : Nat := 1
def commission : Nat := 2
def active : Nat := 3
def standby : Nat := 4
def island : Nat := 5
def daylight : Nat := 6
def hold : Nat := 7
end Md

/-- A mode is entered with a cause (R543): the registers, the MODE record, its trace and event 0. -/
def setMode (new cause : Nat) (m : Main) : Main :=
  let old := m.mode
  if old = new then m
  else
    let m := ((m.put F.PWR_MODE_CAUSE cause).put F.PWR_MODE_PREV old).put F.PWR_MODE_MODE new
    fire 0 (sky (record 0x0302 old new cause 0 (showMode m)) 0x12 (16 * old + new))

/-- A running mode (R540). -/
def runningMode (m : Main) : Bool := m.mode == Md.active || m.mode == Md.standby || m.mode == Md.island

/-- The running mode that the role gives outside ISLAND (R541). -/
def roleMode (m : Main) : Nat := if m.red.role = 1 then Md.standby else Md.active

/-- A change of role in a running mode selects another running mode (R543). -/
def followRole (m : Main) : Main :=
  if m.mode = Md.active ∨ m.mode = Md.standby then setMode (roleMode m) 2 m else m

/-- In every mode but these the main side works (R540, R544, R547). -/
def awake (m : Main) : Bool := m.mode != Md.ship && m.mode != Md.daylight

/-- The role that a paired module takes in a seat (R419, R431). -/
def setRole (role : Nat) (m : Main) : Main :=
  ({ m with red := { m.red with role := role } } : Main).putBit F.RED_STATUS_ACTIVE (role == 2)

end Sys2Proof.Machine
end

