-- ==== Sys2Proof/Machine/Plan.lean ====
section
/-!
DEFINITION. The plan banks and their checks (R35, R60), plan time against UTC and the profile state (R54–R58, R598), and the
health criteria (R67–R70).
-/
namespace Sys2Proof.Machine

/-! ### Banks (R60) -/

namespace Bk
def empty : Nat := 0
def writing : Nat := 1
def verified : Nat := 2
def armed : Nat := 3
def probation : Nat := 4
def running : Nat := 5
def previous : Nat := 6
def failed : Nat := 7
def refused : Nat := 8
end Bk

def bankState (m : Main) (b : Nat) : Nat := m.get F.YLM_BANK_STATE_STATE b
def bankOf (m : Main) (b : Nat) : Bank := vget m.ylm.banks b Bank.empty
def bankEpoch (m : Main) (b : Nat) : Nat := Hdr.epoch (bankOf m b).img
def withBank (b : Nat) (f : Bank → Bank) (m : Main) : Main := { m with ylm := { m.ylm with banks := vmod m.ylm.banks b f } }
def setBank (b st : Nat) (m : Main) : Main := m.put F.YLM_BANK_STATE_STATE st b

/-- A bank in a state, the first of the two. -/
def bankIn (m : Main) (st : Nat) : Option Nat := [0, 1].find? fun b => bankState m b == st

/-- The plan's own lines of YLM_STATUS. -/
def showPlan (m : Main) : Main :=
  let m := m.put F.YLM_STATUS_PREV_EPOCH (match bankIn m Bk.previous with | some b => bankEpoch m b | none => 0)
  match m.ylm.run with
  | some b =>
    ((m.put F.YLM_STATUS_RUN_EPOCH (bankEpoch m b)).put F.YLM_STATUS_RUN_BANK b).putBit F.YLM_STATUS_PROBATION (bankState m b == Bk.probation)
  | none => ((m.put F.YLM_STATUS_RUN_EPOCH 0).put F.YLM_STATUS_RUN_BANK 0).putBit F.YLM_STATUS_PROBATION false

/-- The executor's state (R77). -/
def setExec (st : Nat) (m : Main) : Main := m.put F.YLM_STATUS_EXEC_STATE st

/-- The bundle's SHA-256, as the members of a pair compare it (R65). -/
def bankSha (m : Main) (b : Nat) : Nat := Cipher.sha256 (imgBytes (bankOf m b).img 0 (bankOf m b).written)

/-! ### Verification (R35) -/

/-- R531's part of SECTION_CONTENT: chain records, and the TX_IMAGE cells that name them. -/
def chainsValid (b : Img) : Bool :=
  let n := sectCount b 15
  let o := sectOff b 15
  let lanterns := (List.range n).flatMap fun c => (List.range (le b (o + 128 * c) 1)).map fun k => le b (o + 128 * c + 2 + 2 * k) 2
  (sect b 15).isNone ||
  (1 ≤ n && n ≤ 1024 && sectLen b 15 == 128 * n &&
   ((List.range n).all fun c =>
      let r := o + 128 * c
      1 ≤ le b r 1 && le b r 1 ≤ 63 && le b (r + 1) 1 ≤ 7 &&
      (List.range 63).all fun k => if k < le b r 1 then le b (r + 2 + 2 * k) 2 < Hdr.lanterns b else le b (r + 2 + 2 * k) 2 == 0xFFFF) &&
   decide lanterns.Nodup &&
   (List.range (Hdr.templates b)).all fun t => (List.range 8).all fun l => (List.range 100).all fun s =>
     let w := cellWord b t s l
     CellW.action w != 5 || (CellW.pref w < n && le b (o + 128 * CellW.pref w + 1) 1 == l))

/-- SIGNATURE verifies against the owner's plan-signing key in the key store (R31, R35). -/
def planSigned (m : Main) (b : Img) : Bool :=
  match m.key.ownerPub with
  | some pub =>
    let n := Hdr.total b - 64
    Cipher.ecdsaOk (beBytes 64 pub.toNat) (Cipher.sha256 (imgBytes b 0 n)) (imgBytes b n 64)
  | none => false

/-- Every section's SHA-256 equals its HASH (R32, R35). -/
def hashesHold (b : Img) : Bool :=
  (List.range (Hdr.sections b)).all fun i =>
    let s := sectAt b i
    Cipher.sha256 (imgBytes b s.off s.len) == be b (80 + 48 * i) 32

/-- The refusal code of R35 for a bank's image; 0 where every check passes. The band is that of the variant (R2), and a provisional
module refuses every bundle with ADDR_MISMATCH (R392). -/
def refusalCode (m : Main) (k : Bank) : Nat :=
  let b := k.img
  let band := m.fuse.variant % 2
  if Hdr.magic b ≠ 0x4D4C4559 ∨ Hdr.format b ≠ 1 then 0x01
  else if Hdr.total b ≠ k.written ∨ Hdr.total b < 128 ∨ 16777216 < Hdr.total b then 0x02
  else if !planSigned m b then 0x03
  else if Hdr.band b ≠ band then 0x04
  else if m.bit F.RDG_ADDR_PROVISIONAL || !(Hdr.pairId b == ownAddr m || (Hdr.paired b && Hdr.seat1 b == ownAddr m)) then 0x05
  else if !headerRange b then 0x06
  else if !sectionLayout b then 0x07
  else if !hashesHold b then 0x08
  else if !residentSize b then 0x09
  else if !cellsValid b then 0x0A
  else if !sequenceRange b then 0x0B
  else if !almanacOrder b then 0x0C
  else if !profileRange b then 0x0D
  else if !criteriaValid b then 0x0E
  else if !(groupsValid b && sheavesValid b && sheafCctOk b && channelsValid b band && inventoryValid b && schedulesValid b &&
      wavesValid b && purlinValid b && routesValid b (ownAddr m) && chainsValid b) then 0x0F
  else 0

/-- A bank's bundle is refused with a code (R35, R60): the bank keeps neither its state nor what it held before, whatever R4 says of the
bundle's band (log entry 40). -/
def refuseBank (b code : Nat) (m : Main) : Main :=
  ((setBank b Bk.refused m).put F.YLM_BANK_STATE_REFUSE_CODE code b).put F.YLM_BANK_STATE_EPOCH (bankEpoch m b) b

/-! ### Health criteria (R67–R70) -/

/-- The sum of a count by lane over a mask of lanes and a list of courses. -/
def laneSum (f : Metrics → Vector Nat 8) (lanes : Nat) (cs : List Metrics) : Nat :=
  cs.foldl (fun n c => (List.range 8).foldl (fun n l => if bitOf lanes l then n + vget (f c) l 0 else n) n) 0

/-- Distinct lanterns heard on a mask of lanes. -/
def distinctHeard (lanes : Nat) (cs : List Metrics) : Nat :=
  ((cs.flatMap fun c => c.heard.filterMap fun p => if bitOf lanes p.1 then some p.2 else none).dedup).length

/-- A metric over a list of courses (R68). -/
def metricOver (metric lanes : Nat) (cs : List Metrics) : Nat :=
  match metric with
  | 1 => laneSum (·.reports) lanes cs
  | 2 => distinctHeard lanes cs
  | 3 => laneSum (·.underruns) lanes cs
  | 4 =>
    let n := laneSum (·.frames) lanes cs
    if n = 0 then 0 else laneSum (·.micFail) lanes cs * 1000 / n
  | 5 => cs.foldl (fun n c => n + c.fallbacks) 0
  | _ => cs.foldl (fun n c => n + c.mismatches) 0

/-- The baseline of R70 as a fraction, from the courses of the old epoch, newest first. -/
def baseline (c : Crit) (old : List Metrics) : Nat × Nat :=
  let cs := old.take c.baseline
  match c.metric with
  | 2 =>
    let k := c.baseline / c.window
    ((List.range k).foldl (fun n i => n + metricOver 2 c.lanes ((old.drop (i * c.window)).take c.window)) 0, k)
  | 4 => (metricOver 4 c.lanes cs, 1)
  | n => (metricOver n c.lanes cs * c.window, c.baseline)

/-- What a criterion finds at the end of its window: whether it fails, the window's count, and the threshold count. -/
def criterionResult (m : Main) (c : Crit) : Bool × Nat × Nat :=
  let y := m.ylm
  let n := metricOver c.metric c.lanes ((y.hist.take y.sinceSwitch).take c.window)
  match c.compare with
  | 0 =>
    if y.oldCourses < c.baseline ∨ (c.metric = 2 ∧ c.baseline < c.window) then (false, n, 0)
    else
      let p := baseline c (y.hist.drop y.sinceSwitch)
      let t := p.1 * (10000 - c.threshold)
      (decide (n * (10000 * p.2) < t), n, t / (10000 * p.2))
  | 1 => (decide (c.threshold < n), n, c.threshold)
  | _ => (decide (n < c.threshold), n, c.threshold)

end Sys2Proof.Machine
end

