-- ==== Sys2Proof/Machine/PlanCmds.lean ====
section
/-!
DEFINITION. The plan commands (R60–R66, R71–R73, R356, R593) and the end of probation windows.
-/
namespace Sys2Proof.Machine

/-- While a rollback is pending the plan commands are refused (R593). -/
def rollbackGate (m : Main) : Option Reply := if m.ylm.rollback.isSome then some (.fail St.bankBusy 0) else none

/-! ### PLAN_WRITE -/

/-- A PREVIOUS bank is outside probation (R593). -/
def outsideProbation (m : Main) (b : Nat) : Bool := bankState m (1 - b) == Bk.running && m.ylm.rollback.isNone

/-- Whether a bank may take the first chunk (R60). -/
def mayBegin (m : Main) (b : Nat) : Bool :=
  let st := bankState m b
  st == Bk.empty || st == Bk.verified || st == Bk.failed || st == Bk.refused || (st == Bk.previous && outsideProbation m b)

def planWriteGate (d : Desc) (m : Main) : Option Reply :=
  let b := d.param % 2
  let first := bitOf d.param 1 && !bitOf d.param 3
  if if first then mayBegin m b else bankState m b == Bk.writing then none else some (.fail St.bankBusy 0)

/-- Append bytes to an image. -/
def appendImg (img : Sparse Byte) (o : Nat) : List Byte → Sparse Byte
  | [] => img
  | x :: t => appendImg (sset (fun _ => 0) img o x) (o + 1) t

/-- A bank begins to be written: what it held is gone. -/
def beginBank (b : Nat) (m : Main) : Main :=
  let m := withBank b (fun _ => Bank.empty) m
  let m : Main := { m with ylm := { m.ylm with idle := if m.ylm.idle.any (fun p => p.1.val == b) then none else m.ylm.idle } }
  showPlan (m.setWord (F.YLM_BANK_STATE_STATE.addr b) Bk.writing)

/-- PLAN_WRITE's ABORT: the bank is EMPTY again (R60). -/
def abortBank (b : Nat) (m : Main) : Main :=
  showPlan ((withBank b (fun _ => Bank.empty) m).setWord (F.YLM_BANK_STATE_STATE.addr b) Bk.empty)

/-- The bank's bundle is complete: it is checked (R35, R60). -/
def verifyBank (b : Nat) (d : Desc) (m : Main) : Main × Reply :=
  let code := refusalCode m (bankOf m b)
  if code = 0 then ((setBank b Bk.verified m).put F.YLM_BANK_STATE_EPOCH (bankEpoch m b) b, .done d.length)
  else (refuseBank b code m, .refused d code)

/-- One chunk of a bundle (R60, R356). -/
def planWriteData (d : Desc) (data : List Byte) (m : Main) : Main × Reply :=
  let b := d.param % 2
  let m := if bitOf d.param 1 then beginBank b m else m
  let k := bankOf m b
  let written := k.written + data.length
  let img := appendImg k.img k.written data
  if 16777216 < written ∨ (44 ≤ written ∧ Hdr.total img < written) then (refuseBank b 2 m, .refused d 2)
  else
    let m := withBank b (fun _ => ⟨img, written⟩) m
    if bitOf d.param 2 then verifyBank b d m else (m, .done d.length)

/-- PLAN_WRITE and its ABORT are one opcode, told apart by bit 3 of PARAM (R356). -/
def planWriteRow (abort : Bool) (d : Desc) : Bool := isOp 0x0101 d && bitOf d.param 3 == abort

def planWrite (r : Fin 8) (d : Desc) : Main → Main :=
  cmdNow r d ⟨planWriteRow false, false, fun d => 4 ≤ d.length && d.length ≤ 1048576, 0xF, 0, gates [rollbackGate, planWriteGate d]⟩ (planWriteData d)

def planWriteAbort (r : Fin 8) (d : Desc) : Main → Main :=
  cmdNow r d ⟨planWriteRow true, d.length == 0, fun d => d.length == 0, 0xF, 0, gates [rollbackGate, planWriteGate d]⟩ fun _ m =>
    (abortBank (d.param % 2) m, .done 0)

/-! ### PLAN_ARM, PLAN_DISARM, PLAN_ACCEPT, PLAN_ROLLBACK -/

/-- An operation on the banks by either path. -/
def planBy (via : PlanVia) (k : CmdKind) (f : Nat → Nat → Main → Main × Reply) (m : Main) : Main :=
  match via with
  | .host r d => cmdNow r d k (fun _ m => f d.param (d.addr % 2 ^ 64) m) m
  | .pair param imm => if m.ylm.rollback.isSome then m else (f (param % 2) (imm % 2 ^ 48) m).1

/-- The gate of the active-only plan commands: in NO_PLAN the module has no role (R62). -/
def planGate (m : Main) : Option Reply := gates [activeGate, rollbackGate] m

/-- The armed switch instant. -/
def switchAt (m : Main) : Nat := m.get64 F.YLM_SWITCH_LO_INSTANT F.YLM_SWITCH_HI_INSTANT

/-- The DETAIL with which R61 refuses an arm; 0 where every condition holds. -/
def armDetail (m : Main) (b instant : Nat) : Nat :=
  if bankState m b ≠ Bk.verified then 1
  else if 100 * instant < m.slotNow + 1000 ∨ instant < Hdr.validFrom (bankOf m b).img then 2
  else if m.ylm.run.isSome ∧ bankEpoch m b = m.get F.YLM_STATUS_RUN_EPOCH then 3
  else if (bankIn m Bk.probation).isSome then 4
  else if bankState m (1 - b) = Bk.armed then 6
  else 0

/-- The bank number as an index. -/
def bankFin (b : Nat) : Fin 2 := if b % 2 = 1 then 1 else 0

/-- The arm is accepted: loading begins (R63), and the schedule push (R150). `conf` is set in a standby, which confirms what it arms
(R65). -/
def arm (b instant : Nat) (conf : Bool) (m : Main) : Main :=
  let m : Main := { m with
    ylm := { m.ylm with idle := some (bankFin b, false), pairConf := conf, armNoPlan := m.exec == Ex.noPlan },
    ctx := { m.ctx with push := some (0, 0) } }
  (setBank b Bk.armed m).put64 F.YLM_SWITCH_LO_INSTANT F.YLM_SWITCH_HI_INSTANT instant

/-- In a pair the active arms only after the standby has reported its bank VERIFIED with the SHA-256 of its own bundle (R65). -/
def reportHolds (m : Main) (b : Nat) (report : Option Nat) : Bool :=
  !m.bit F.RED_STATUS_PAIRED || m.exec == Ex.noPlan || report == some (bankSha m b)

/-- PLAN_ARM of the host (R61, R65). Without the standby's report the command is refused as for a bank that is not VERIFIED (DESIGN
CHOICE, log entry 63). -/
def planArmHost (d : Desc) (report : Option Nat) (m : Main) : Main × Reply :=
  let b := d.param % 2
  let instant := d.addr % 2 ^ 64
  let detail := armDetail m b instant
  if detail ≠ 0 then (m, .fail St.refused detail)
  else if !reportHolds m b report then (m, .fail St.refused 1)
  else (arm b instant false m, .done 0)

/-- A standby arms with the active, where its own bundle is the same (R65). -/
def planArmPair (b instant sha : Nat) (m : Main) : Main :=
  if armDetail m b instant = 0 ∧ sha = bankSha m b then arm b instant true m else m

/-- The standby's confirmation of an arm reaches the active (R65). -/
def planConfirm (sha : Nat) (m : Main) : Main :=
  match bankIn m Bk.armed with
  | some b => if sha = bankSha m b then { m with ylm := { m.ylm with pairConf := true } } else m
  | none => m

/-- PLAN_ARM, by each of its paths. -/
def planArm (by' : ArmBy) (m : Main) : Main :=
  match by' with
  | .host r d report => cmdNow r d ⟨isOp 0x0102, true, fun d => d.length == 0, 1, 2 ^ 48 - 1, planGate⟩ (fun _ => planArmHost d report) m
  | .pair param imm sha => if m.ylm.rollback.isSome then m else planArmPair (param % 2) (imm % 2 ^ 48) sha m
  | .confirm sha => planConfirm sha m

/-- An armed bank returns to VERIFIED; the schedule push of its epoch ends (R150). YLM_SWITCH goes on showing the instant of the last arm
(DESIGN CHOICE, log entry 62). -/
def unarm (b : Nat) (m : Main) : Main :=
  setBank b Bk.verified { m with
    ylm := { m.ylm with idle := none, pairConf := false, armNoPlan := false }
    ctx := { m.ctx with push := none } }

def planDisarm (via : PlanVia) : Main → Main :=
  planBy via (.plain 0x0103 1 planGate) fun param _ m =>
    let b := param % 2
    if bankState m b = Bk.armed then (unarm b m, .done 0) else (m, .fail St.bankBusy 0)

/-- Probation ends with the bank RUNNING (R60). -/
def endProbation (b : Nat) (m : Main) : Main := showPlan ((setBank b Bk.running m).put F.YLM_PROBATION_REMAIN 0)

def planAccept (via : PlanVia) : Main → Main :=
  planBy via (.plain 0x0104 0 planGate) fun _ _ m =>
    match bankIn m Bk.probation with
    | some b => (endProbation b m, .done 0)
    | none => (m, .fail St.bankBusy 0)

/-- The course boundaries from its acceptance to a commanded rollback, its own the last (R72): the second where the previous bundle is
loaded, else the first at least 5 s later, which is the sixth, since five boundaries take less. -/
def rollbackAfter (m : Main) (prev : Nat) : Nat := if m.ylm.idle.any (fun p => p.1.val == prev && p.2) then 2 else 6

def planRollback (via : PlanVia) : Main → Main :=
  planBy via (.plain 0x0105 0 planGate) fun _ _ m =>
    match m.ylm.run, bankIn m Bk.previous with
    | _, none => (m, .fail St.refused 5)
    | none, _ => (m, .fail St.bankBusy 0)
    | some _, some p =>
      (fire 25 { m with ylm := { m.ylm with rollback := some (rollbackAfter m p, true) } }, .done 0)

/-! ### Deadlines of an arm (R63, R65) -/

def armLoadComplete (m : Main) : Main :=
  match m.ylm.idle with
  | some (b, false) => if bankState m b = Bk.armed then { m with ylm := { m.ylm with idle := some (b, true) } } else m
  | _ => m

/-- The armed bank's resident sections are loaded. -/
def armLoaded (m : Main) (b : Nat) : Bool := m.ylm.idle.any fun p => p.1.val == b && p.2

/-- One second before the switch instant with loading incomplete (R63). -/
def armLate (m : Main) : Main :=
  match bankIn m Bk.armed with
  | some b =>
    if !armLoaded m b && decide (100 * switchAt m ≤ m.slotNow + 100) then unarm b (m.putBit F.YLM_ERR_ARM_LATE true) else m
  | none => m

/-- The confirmation of R65 is not needed: the module is unpaired, or armed in NO_PLAN (R62). -/
def confirmed (m : Main) : Bool := !m.bit F.RED_STATUS_PAIRED || m.ylm.armNoPlan || m.ylm.pairConf

/-- Two seconds before the switch instant without the standby's confirmation (R65). A standby hears of it from the active. -/
def pairMismatch (m : Main) : Main :=
  match bankIn m Bk.armed with
  | some b =>
    if m.bit F.RED_STATUS_PAIRED && !m.ylm.armNoPlan && decide (100 * switchAt m ≤ m.slotNow + 200) && (standby m || !m.ylm.pairConf) then
      unarm b (m.putBit F.YLM_ERR_PAIR_MISMATCH true)
    else m
  | none => m

/-! ### Probation (R69–R73) -/

/-- The record of a failing criterion, and event 25 (R71, R73). -/
def tellCriterion (i : Nat) (c : Crit) (n t : Nat) (m : Main) : Main := fire 25 (record 0x0311 i c.metric n t m)

/-- A criterion fails at its evaluation: with a bank PREVIOUS, R71, whose record and event are the active module's; else R73, whose are
the executor's in each module. -/
def criterionFails (i : Nat) (c : Crit) (n t : Nat) (m : Main) : Main :=
  let m := (m.putBit F.YLM_PROBATION_FAIL_VALID true).put F.YLM_PROBATION_FAIL_CRIT i
  match bankIn m Bk.previous, m.ylm.run with
  | some _, _ =>
    let m := if standby m then m else tellCriterion i c n t m
    { m with ylm := { m.ylm with rollback := some (2, false) } }
  | none, some b => tellCriterion i c n t ((endProbation b m).putBit F.YLM_ERR_ROLLBACK_NONE true)
  | none, none => m

/-- The first criterion whose window ends at this boundary and fails: of several the lowest-numbered is the one recorded (DESIGN CHOICE,
log entry 62). `told` is the criterion that the active module has found
failing, in a standby. -/
def firstFailing (m : Main) (b : Img) (told : Option Nat) : Option (Nat × Crit × Nat × Nat) :=
  let elapsed := Hdr.probation b - m.get F.YLM_PROBATION_REMAIN
  (List.range (sectCount b 8)).findSome? fun i =>
    let c := critAt b i
    let r := criterionResult m c
    if !bitOf c.flags 0 || elapsed == 0 || elapsed % c.window != 0 then none
    else if if standby m then told == some i else r.1 then some (i, c, r.2.1, r.2.2) else none

/-- The windows that end at the present course boundary are evaluated; at the end of probation with every criterion passed the
bank is RUNNING (R60). -/
def windowEnd (told : Option Nat) (m : Main) : Main :=
  match m.ylm.run with
  | none => m
  | some b =>
    if bankState m b ≠ Bk.probation ∨ m.ylm.rollback.isSome then m
    else
      match firstFailing m (bankOf m b).img told with
      | some (i, c, n, t) => criterionFails i c n t m
      | none => if m.get F.YLM_PROBATION_REMAIN = 0 then endProbation b m else m

def execPlanWrite (r : Fin 8) (d : Desc) (s : State) : Result := s.onMain (planWrite r d)
def execPlanWriteAbort (r : Fin 8) (d : Desc) (s : State) : Result := s.onMain (planWriteAbort r d)
def execPlanArm (by' : ArmBy) (s : State) : Result := s.onMain (planArm by')
def execPlanDisarm (via : PlanVia) (s : State) : Result := s.onMain (planDisarm via)
def execPlanAccept (via : PlanVia) (s : State) : Result := s.onMain (planAccept via)
def execPlanRollback (via : PlanVia) (s : State) : Result := s.onMain (planRollback via)
def execArmLoadComplete (s : State) : Result := s.onMain armLoadComplete
def execArmLate (s : State) : Result := s.onMain armLate
def execPairMismatch (s : State) : Result := s.onMain pairMismatch
def execProbationWindowEnd (told : Option Nat) (s : State) : Result := s.onMain (windowEnd told)

end Sys2Proof.Machine
end

