-- ==== Sys2Proof/Machine/Context.lean ====
section
/-!
DEFINITION. The context store and the composition unit (R20–R24, R155–R171): inputs, overrides, composed entries, slot
updates and the power model.
-/
namespace Sys2Proof.Machine

/-! ### Inputs (R20, R21, R416) -/

/-- The input slot of something accepted now (R20). -/
def inputSlot (m : Main) : Nat := m.slotNow + 2

/-- The heartbeat's record of an input (R416). -/
def inputRec (i : Input) : InRec :=
  match i.kind with
  | .override word scope target until' => ⟨1, scope, i.slot, beBytes 2 word ++ beBytes 2 target ++ beBytes 4 until'⟩
  | .scale g s ramp => ⟨2, g, i.slot, beBytes 2 s ++ beBytes 1 ramp ++ zeros 5⟩
  | .setpoint l bf => ⟨3, l, i.slot, beBytes 4 bf ++ zeros 4⟩
  | .join eui reason => ⟨4, reason + 1, i.slot, beBytes 8 eui⟩
  | .confirm block map => ⟨5, block, i.slot, beBytes 8 map⟩
  | .quiet q rejoin => ⟨6, 0, i.slot, beBytes 1 q ++ beBytes 1 (natOf rejoin) ++ zeros 6⟩

/-- The input that a record names; none for an unassigned IKIND. -/
def recInput (r : InRec) : Option Input :=
  let a := r.arg
  match r.kind with
  | 1 => some ⟨r.slot, .override (lbe a 0 2) r.sub (lbe a 2 2) (lbe a 4 4)⟩
  | 2 => some ⟨r.slot, .scale r.sub (lbe a 0 2) (lbe a 2 1)⟩
  | 3 => some ⟨r.slot, .setpoint r.sub (lbe a 0 4)⟩
  | 4 => if 1 ≤ r.sub ∧ r.sub ≤ 4 then some ⟨r.slot, .join (lbe a 0 8) (r.sub - 1)⟩ else none
  | 5 => some ⟨r.slot, .confirm r.sub (lbe a 0 8)⟩
  | 6 => some ⟨r.slot, .quiet (lbe a 0 1) (lbe a 1 1 != 0)⟩
  | _ => none

/-- Part of a lane's direct queue (R37). -/
def withDirect (l : Nat) (f : List Direct → List Direct) (m : Main) : Main :=
  { m with ctx := { m.ctx with direct := vmod m.ctx.direct l f } }

/-- An override of one lantern is also sent to it in a DIRECT frame: its composed level joins the direct queue of its PRIMARY lane, from
the input's slot on, unless a level of it waits there already. The rules name no occasion for a DIRECT frame (DESIGN CHOICE, log entry
60). -/
def directLevel (i : Input) (m : Main) : Main :=
  match i.kind with
  | .override _ 0 n _ =>
    let c := ctxOf m n
    let waits (x : Direct) : Bool := match x with
      | .level k _ => k == n
      | .part _ _ => false
    if c.live then withDirect c.primary (fun q => if q.any waits then q else q ++ [.level n i.slot]) m else m
  | _ => m

/-- An input is logged for its slot. In a pair the inputs of two courses are kept (R427). -/
def logInput (i : Input) (m : Main) : Main :=
  let m : Main := directLevel i { m with ctx := { m.ctx with inputs := m.ctx.inputs ++ [i] } }
  if m.bit F.RED_STATUS_PAIRED then
    { m with red := { m.red with inLog := (m.red.inLog.filter fun j => decide (m.slotNow ≤ j.slot + 200)) ++ [i] } }
  else m

/-- A heartbeat interval takes no more than 64 inputs (R417). -/
def inputRoom (m : Main) : Bool := !m.bit F.RED_STATUS_PAIRED || decide (m.red.toSend.length < 64)

/-- An input is accepted now (R20); the active module of a pair sends it in its next heartbeat (R21). -/
def acceptInput (k : InputKind) (m : Main) : Main :=
  let i : Input := ⟨inputSlot m, k⟩
  let m := logInput i m
  if m.bit F.RED_STATUS_PAIRED then { m with red := { m.red with toSend := m.red.toSend ++ [inputRec i] } } else m

/-- Contexts that an override names (R159). -/
def inScope (scope target i : Nat) (c : Ctx) : Bool :=
  c.live && (match scope with
    | 0 => i == target
    | 1 => c.groups.contains target
    | _ => true)

/-- The scale of a loop group (R156, R236). -/
def scaleOf (m : Main) (g : Nat) : Nat := if g ≤ 15 then min (m.get F.PUR_SCALE_SCALE g) 4096 else 4096

/-- What an input does at its slot. Join answers act when their frame is built. -/
def applyInput (i : Input) (m : Main) : Main :=
  match i.kind with
  | .override word scope target until' =>
    let v := if word % 4096 = 0 then 0 else word % 65536
    mapCtx (fun j c => if inScope scope target j c then { c with ovr := v, ovrUntil := until' } else c) m
  | .scale g s ramp =>
    let m : Main := { m with ctx := { m.ctx with scaleRamp := vmod m.ctx.scaleRamp g fun _ => ramp % 16 } }
    if g ≤ 15 then m.put F.PUR_SCALE_SCALE (min s 4096) g else m
  | .setpoint l bf => if l ≤ 15 then m.put F.PUR_HOST_SP bf l else m
  | .quiet q r =>
    let c := m.ctx
    { m with ctx := { c with
      quiet := q, beaconed := c.beaconed && c.quiet == q, rejoin := if r then (if c.rejoin = 0 then 60 else c.rejoin) else 0 } }
  | .join _ _ => m
  | .confirm _ _ => m

/-- The inputs whose slot is `abs` or earlier are applied, in acceptance order (R20, R23); one that is applied later than its slot
counts under INPUT_LATE (R418). -/
def applyInputs (abs : Nat) (m : Main) : Main :=
  let due := m.ctx.inputs.filter fun i => decide (i.slot ≤ abs)
  let m : Main := { m with ctx := { m.ctx with inputs := m.ctx.inputs.filter fun i => decide (abs < i.slot) } }
  due.foldl (fun m i =>
    let m := applyInput i m
    let m : Main := { m with red := { m.red with inCount := m.red.inCount + 1 } }
    if i.slot < abs then m.count F.RED_CNT 7 else m) m

/-- The scales of the slot that ends are kept (R196). -/
def keepScales (m : Main) : Main := { m with ctx := { m.ctx with prevScale := Vector.ofFn fun (g : Fin 16) => m.get F.PUR_SCALE_SCALE g } }

/-- R160 at the boundary of TAI second `tai`. -/
def expireOverrides (tai : Nat) (m : Main) : Main :=
  mapCtx (fun _ c =>
    if c.ovr ≠ 0 ∧ c.ovrUntil ≠ 0xFFFFFFFF ∧ (tai + 2 ^ 32 - c.ovrUntil % 2 ^ 32) % 2 ^ 32 < 2 ^ 31 then { c with ovr := 0, ovrUntil := 0 } else c) m

/-- The beacon's QUIET and REJOIN in the next course (R129). -/
def quietStep (m : Main) : Main :=
  { m with ctx := { m.ctx with
    quiet := if m.ctx.beaconed then m.ctx.quiet - 1 else m.ctx.quiet, rejoin := m.ctx.rejoin - 1 } }

/-- What the fill of slot `abs` sees, built one slot ahead (R20, R29): the inputs, the profile state, the offset and the beacon's
values as they stand in that slot. -/
def preview (abs : Nat) (m : Main) : Main :=
  let m := if abs % 100 = 0 then quietStep (expireOverrides (abs / 100) (utcStep (abs / 100) false m)) else m
  applyInputs abs (almanacDue abs m)

/-! ### Composed entries (R155–R158, R161, R238) -/

/-- The ramp code of a loop group's descriptor (R158, R236). -/
def loopRamp (m : Main) (g : Nat) : Nat :=
  match runImg m with
  | some b =>
    match (List.range 16).findSome? fun l => (loopOff b l).bind fun o =>
        if LoopC.enabled b o && LoopC.dest b o == 1 && LoopC.index b o == g then some (LoopC.ramp b o) else none with
    | some r => r
    | none => vget m.ctx.scaleRamp g 0
  | none => vget m.ctx.scaleRamp g 0

/-- A SHEAF or DIRECT entry as composed: the encoded level and its ramp code, and the context's memory of it. -/
structure Entry where
  level : Nat
  ramp : Nat
  term : Nat
  l0 : Nat
  composed : Nat
  floor : Nat
  floorHeld : Bool
  deriving DecidableEq, Repr

/-- The entry of a lantern under what `p` shows of the plan, the overrides and the scales, with W = 0 (R157). It takes the loop group's ramp
where l0 and its term are as they were and the level is not, and the floor has no part in that (R158). -/
def baseEntry (p : Main) (c : Ctx) : Entry :=
  let t := planTerm p c.groups
  let h := c.ovr % 4096
  let s := scaleOf p c.loopGroup
  let level := composeLevel t.1 t.2.2 0 h s c.levelMin c.levelMax
  let term := termOf t.1 0 h
  let l0 := max t.1 h
  let moved := l0 == c.lastL0 && term == c.lastTerm && level != c.lastLevel && decide (c.loopGroup ≤ 15) &&
    level == composeLevel t.1 c.lastFloor 0 h s c.levelMin c.levelMax
  let ramp := if moved then loopRamp p c.loopGroup else if term = 2 then c.ovr / 4096 else t.2.1
  ⟨encodeLevel level c.fluxGain, ramp, term, l0, level, t.2.2, floorHolds t.1 t.2.2 0 h s⟩

/-- The level of a wave entry with cascade level `w`, encoded (R157). -/
def waveLevel (p : Main) (c : Ctx) (w : Nat) : Nat :=
  let t := planTerm p c.groups
  encodeLevel (composeLevel 0 t.2.2 w 0 (scaleOf p c.loopGroup) c.levelMin c.levelMax) c.fluxGain

/-- LIT_G and FLOOR_HELD of every loop group (R238). -/
def showGroups (m : Main) : Main :=
  (List.range 16).foldl (fun m g =>
    let cs := m.ctx.ctx.filter fun p => p.2.live && p.2.loopGroup == g
    (m.put F.PUR_GROUP_LIT_G (cs.filter fun p => p.2.lastLevel != 0).length g).put F.PUR_GROUP_FLOOR_HELD
      (cs.filter fun p => p.2.floorHeld).length g) m

/-- The memory of composed entries is written into the contexts, with its trace (R508). -/
def rememberEntries (es : List (Nat × Entry)) (m : Main) : Main :=
  let m := es.foldl (fun m e =>
    sky (withCtx e.1 (fun c => { c with
      lastTerm := e.2.term, lastL0 := e.2.l0, lastLevel := e.2.composed, lastFloor := e.2.floor, floorHeld := e.2.floorHeld }) m)
      0x07 (e.2.term * 2 ^ 30 + e.2.composed * 2 ^ 16 + e.1) none (some e.1)) m
  if es.isEmpty then m else showGroups m

/-! ### The power model (R170, R171) -/

def feederSum (m : Main) (f : Nat) (g : Ctx → Nat) : Nat :=
  m.ctx.ctx.foldl (fun n p => if p.2.live && p.2.feeder == f then n + g p.2 else n) 0

def modelNow (m : Main) (f : Nat) : Nat := feederSum m f fun c => contribution c.curve (c.now / 256)
def modelTgt (m : Main) (f : Nat) : Nat := feederSum m f fun c => contribution c.curve c.target
def litCount (m : Main) (f : Nat) : Nat := feederSum m f fun c => if c.target = 0 then 0 else 1

/-- The sums after a slot's update: CTX_MODEL, and the history that the purlin engine sees, one entry for each slot (R225). -/
def updateModel (abs : Nat) (m : Main) : Main :=
  let e : ModelEntry := ⟨abs, (List.range 4).map (modelNow m), (List.range 4).map (modelTgt m), (List.range 4).map (litCount m)⟩
  let m := (List.range 4).foldl (fun m f =>
    let n := e.now.getD f 0
    let t := e.tgt.getD f 0
    ((((m.put F.CTX_MODEL0_NOW_LO n f).put F.CTX_MODEL1_NOW_HI (n / 2 ^ 32) f).put F.CTX_MODEL1_LIT_COUNT (e.lit.getD f 0) f).put
      F.CTX_MODEL2_TGT_LO t f).put F.CTX_MODEL3_TGT_HI (t / 2 ^ 32) f) m
  let old := match m.pur.hist with
    | x :: t => if x.slot = abs then t else x :: t
    | [] => []
  { m with pur := { m.pur with hist := (e :: old).take 66 } }

/-! ### A slot's update (R165) -/

/-- Steps 1–6 of R165 at the boundary that begins slot `abs`. -/
def slotUpdate (abs : Nat) (m : Main) : Main :=
  let cmds := m.ctx.baseCmds.filter fun e => decide (e.at' ≤ abs)
  let waves := m.wav.store.filter fun e => decide (e.1.at' ≤ abs)
  let m : Main := { m with
    ctx := { m.ctx with baseCmds := m.ctx.baseCmds.filter fun e => decide (abs < e.at') }
    wav := { m.wav with store := m.wav.store.filter fun e => decide (abs < e.1.at') } }
  let m := mapCtx (fun i c =>
    if c.live then slotStep abs (cmds.filter fun e => e.lantern == i) (waves.filter fun e => e.1.lantern == i) c else c) m
  updateModel abs (m.put F.WAV_STORE_PENDING (m.wav.store.length + m.wav.reserved))

/-- Several inputs' scale submission (R236, R250). -/
def submitScale (g s ramp : Nat) (m : Main) : Main :=
  if vget m.pur.submitted g 4096 = s ∨ inputRoom m = false then m
  else acceptInput (.scale g s ramp) { m with pur := { m.pur with submitted := vmod m.pur.submitted g fun _ => s } }

/-- What an enabled DEST 1 loop submits: 4,096 while ENABLE is clear, and nothing before its first sample (R236, R250). -/
def loopScale (m : Main) (l : Nat) : Option Nat :=
  if !m.bit F.PUR_CTRL_ENABLE then some 4096
  else if (vget m.pur.loops l PLoop.reset).sampled then some (m.get F.PUR_DEST_VAL l) else none

/-- R236 and R250 at a slot boundary. A value that finds the heartbeat's inputs full is submitted at a later boundary (R417). -/
def submitScales (m : Main) : Main :=
  if standby m then m
  else
    match runImg m with
    | some b =>
      (List.range 16).foldl (fun m l =>
        match loopOff b l, loopScale m l with
        | some o, some s => if LoopC.enabled b o && LoopC.dest b o == 1 then submitScale (LoopC.index b o) s (LoopC.ramp b o) m else m
        | _, _ => m) m
    | none => (List.range 16).foldl (fun m g => submitScale g 4096 (vget m.ctx.scaleRamp g 0) m) m

/-- The scales in force stand as the last that this module submitted (R248). -/
def keepSubmitted (m : Main) : Main := { m with pur := { m.pur with submitted := Vector.ofFn fun (g : Fin 16) => m.get F.PUR_SCALE_SCALE g } }

/-! ### Windows and reads -/

/-- The context window's words as a read of its first word latches them (R185). -/
def ctxWords (m : Main) : List Nat :=
  let i := m.get F.CTX_WIN_SEL_INDEX
  wordsOf (ctxBytes i (ctxOf m i)) 24

/-- The zone window's words, completed counts of the selected zone (R185). -/
def zoneWords (m : Main) : List Nat :=
  let z := m.get F.CTX_ZONE_SEL_ZONE
  (List.range 12).map fun k => sget (fun _ => 0) m.ctx.done (12 * z + k)

end Sys2Proof.Machine
end

