-- ==== Sys2Proof/Machine/Gutter.lean ====
section
/-!
DEFINITION. The gutters (R117, R172–R178): stages, packets, and the protocol engine's operations on the head packet.
-/
namespace Sys2Proof.Machine

/-- The origin course of a low byte, at or before the course of reception (R117). -/
def originCourse (rx lo : Nat) : Nat := rx - (rx + 256 - lo % 256) % 256

/-! ### Stages (R172, R173) -/

/-- PARITY of a word: bit `k` gives data byte `k` and itself an even number of ones. -/
def parityOf (w : Nat) : Nat := maskOf 4 fun k => ((List.range 8).filter fun i => bitOf w (8 * k + i)).length % 2 == 1

/-- A stage that holds a word. -/
def stageOf (plc sop eop : Bool) (w : Nat) : Stage :=
  BitVec.ofNat 40 (w % 2 ^ 32 + parityOf w * 2 ^ 32 + natOf sop * 2 ^ 36 + natOf eop * 2 ^ 37 + natOf plc * 2 ^ 39)

namespace Stage
def data (s : Stage) : Nat := bits s.toNat 31 0
def sop (s : Stage) : Bool := bitOf s.toNat 36
def eop (s : Stage) : Bool := bitOf s.toNat 37
def poison (s : Stage) : Bool := bitOf s.toNat 38
def parityOk (s : Stage) : Bool := bits s.toNat 35 32 == parityOf s.data
/-- As the gutter delivers it: with POISON set where its parity fails (R175). -/
def checked (s : Stage) : Stage := if s.parityOk then s else s ||| BitVec.ofNat 40 (2 ^ 38)
end Stage

/-- The header word of a packet. -/
def packetHeader (len slot course link : Nat) : Nat := len % 512 * 2 ^ 23 + slot % 128 * 2 ^ 16 + course % 256 * 2 ^ 8 + link % 256

/-- Stages of a packet of `n` octets. -/
def packetWords (n : Nat) : Nat := 1 + max 1 ((n + 3) / 4)

/-- A received frame as its lane writes it: the header word with SOP, then the frame words, the last with EOP. -/
def packetStages (plc : Bool) (octets : List Byte) (slot course link : Nat) : List Stage :=
  let n := packetWords octets.length - 1
  stageOf plc true false (packetHeader octets.length slot course link) ::
    (List.range n).map fun k => stageOf plc false (k + 1 == n) (lle octets (4 * k) 4)

/-- The packet that words make up, as they are read, received at or before course `now`. -/
def packetOf (ws : List Stage) (now : Nat) : Packet :=
  let h := (ws.map Stage.data).headD 0
  ⟨((ws.drop 1).flatMap fun w => leBytes 4 w.data).take (bits h 31 23), bits h 22 16, originCourse now (bits h 15 8), bits h 7 0⟩

/-! ### Operations (R178) -/

namespace Gutter

/-- READ: the word at the read position, which advances. -/
def readWord (g : Gutter) : Option Stage × Gutter :=
  match g.stages[g.read]? with
  | some s => (some s.checked, { g with read := g.read + 1 })
  | none => (none, g)

/-- MARK: only at an SOP word, and one for the gutter. -/
def setMark (g : Gutter) : Gutter :=
  match g.mark, g.stages[g.read]? with
  | none, some s => if s.sop then { g with mark := some g.read } else g
  | _, _ => g

/-- REWIND: once for a marked packet. -/
def rewind (g : Gutter) : Gutter :=
  match g.mark, g.rewound with
  | some k, false => { g with read := k, rewound := true }
  | _, _ => g

/-- RELEASE: the stages up to the read position are freed, where it follows an EOP word. -/
def release (g : Gutter) : Gutter :=
  match g.stages[g.read - 1]? with
  | some s => if g.read ≠ 0 ∧ s.eop then ⟨g.stages.drop g.read, 0, none, false⟩ else g
  | none => g

/-- Words are read up to one with EOP, at most `n`. -/
def readPacket : Nat → Gutter → List Stage × Gutter
  | 0, g => ([], g)
  | n + 1, g =>
    match g.readWord with
    | (some s, g) => if s.eop then ([s], g) else (s :: (readPacket n g).1, (readPacket n g).2)
    | (none, g) => ([], g)

/-- Complete packets held. -/
def packets (g : Gutter) : Nat := (g.stages.filter Stage.eop).length

/-- TYPE of the head packet's frame, in word 1 bits 3:0 (R177); none where the gutter holds no packet. -/
def headType (g : Gutter) : Option Nat := if g.packets = 0 then none else (g.stages[1]?).map fun s => bits s.data 3 0

/-- A word of the head packet loses bits of its data or its parity while it stands there (R175). -/
def upset (k mask : Nat) (g : Gutter) : Gutter :=
  { g with stages := (g.stages.zipIdx).map fun p => if p.2 = k then p.1 ^^^ BitVec.ofNat 40 (mask % 2 ^ 36) else p.1 }

end Gutter

/-! ### In the module -/

def gutter (m : Main) (l : Nat) : Gutter := vget m.ctx.gutters l Gutter.empty

/-- GUT_STATUS. -/
def showGutter (l : Nat) (m : Main) : Main :=
  let g := gutter m l
  ((m.put F.GUT_STATUS_PACKETS g.packets l).put F.GUT_STATUS_FILL g.stages.length l).putBit F.GUT_STATUS_MARKED g.mark.isSome l

def withGutter (l : Nat) (f : Gutter → Gutter) (m : Main) : Main :=
  showGutter l { m with ctx := { m.ctx with gutters := vmod m.ctx.gutters l f } }

/-- A lane writes a whole packet, or discards it (R174). -/
def gutterPut (l : Nat) (octets : List Byte) (slot course link : Nat) (m : Main) : Main :=
  if 128 < (gutter m l).stages.length + packetWords octets.length then m.count F.GUT_OVERFLOW l
  else
    let m := withGutter l (fun g => { g with stages := g.stages ++ packetStages (decide (4 ≤ l)) octets slot course link }) m
    sky (m.count F.GUT_PACKETS_IN l) 0x03 (l * 2 ^ 29 + octets.length % 512 * 65536 + lle octets 0 1 % 16) (some l)

end Sys2Proof.Machine
end

