-- ==== Sys2Proof/Machine/Lanes.lean ====
section
/-!
DEFINITION. The lanes (chapter 03): cells of the running plan, lane faults, the frames that lanes send and receive, and the
gutters (R98–R106, R174).
-/
namespace Sys2Proof.Machine

/-! ### Cells of the running plan (R27, R36, R49) -/

/-- The template of the course of an absolute slot. -/
def templateOf (b : Img) (abs : Nat) : Nat := templateAt b (abs / 100 % 3600)

/-- The word of a lane in an absolute slot. -/
def wordAt (b : Img) (abs l : Nat) : Nat := cellWord b (templateOf b abs) (abs % 100) l

/-- The cell that owns a lane in an absolute slot: its first slot and its first word (R39). -/
def cellAt (b : Img) (abs l : Nat) : Nat × Nat :=
  let w := wordAt b abs l
  if CellW.action w = 10 then (abs - CellW.offset w, wordAt b (abs - CellW.offset w) l) else (abs, w)

/-- Seat 0 is at PAIR_ID and seat 1 at SEAT1_ADDR; an unpaired module takes seat 0 (R41). -/
def ownSeat (m : Main) : Nat := m.get F.RED_STATUS_SEAT

/-- A transmit or WAVE_RESERVE cell (R37). -/
def isTx (w : Nat) : Bool := (1 ≤ CellW.action w && CellW.action w ≤ 5) || CellW.action w == 8
def isRx (w : Nat) : Bool := CellW.action w == 6 || CellW.action w == 7

/-- The frequency of a cell in kHz; 0 on a power line (R94). -/
def freqOf (b : Img) (abs l w : Nat) : Nat :=
  let e := chanAt b l (CellW.chan w)
  if l < 4 then cellFreq b e (abs / 100 % 3600) (abs % 100) else 0

/-- Cells are executed in LISTEN and RUNNING (R562), while RUN is set (R77). -/
def cellsRun (m : Main) : Bool := (m.exec == Ex.listen || m.exec == Ex.running) && m.bit F.YLM_CTRL_RUN && awake m

/-- The lanes execute them while they are powered (R550). -/
def lanesOn (m : Main) : Bool := cellsRun m && m.mode != Md.hold

/-! ### Lane registers -/

def laneOf (m : Main) (l : Nat) : Lane := vget m.lanes l Lane.reset
def withLane (l : Nat) (f : Lane → Lane) (m : Main) : Main := { m with lanes := vmod m.lanes l f }

/-- STATE of a lane's status register: 0 OFF, 1 IDLE, 2 TUNING, 3 TX, 4 RX, 5 SHADOW. -/
def setLane (l st : Nat) (m : Main) : Main :=
  if l < 4 then m.put F.TLR_LANE_STATUS_STATE st l else m.put F.TLP_LANE_STATUS_STATE st (l - 4)
def laneState (m : Main) (l : Nat) : Nat := if l < 4 then m.get F.TLR_LANE_STATUS_STATE l else m.get F.TLP_LANE_STATUS_STATE (l - 4)
def setChan (l c : Nat) (m : Main) : Main :=
  if l < 4 then m.put F.TLR_LANE_STATUS_CHAN_NOW c l else m.put F.TLP_LANE_STATUS_CHAN_NOW c (l - 4)
def allLanes (st : Nat) (m : Main) : Main := (List.range 8).foldl (fun m l => setLane l st m) m

/-- A lane's live fault bits (R104). -/
def liveFaults (m : Main) (l : Nat) : Nat := if l < 4 then m.get F.TLR_LANE_STATUS_FAULT_NOW l else m.get F.TLP_LANE_STATUS_FAULT_NOW (l - 4)
def laneFault (m : Main) (l k : Nat) : Bool := bitOf (liveFaults m l) k

/-- TX_REDUCED as the status registers show it (R108). -/
def showReduced (l : Nat) (m : Main) : Main :=
  if l < 4 then m.putBit F.TLR_LANE_STATUS_TX_REDUCED ((laneOf m l).reduced.any id || laneFault m l 6) l
  else m.putBit F.TLP_LANE_STATUS_TX_REDUCED (laneFault m l 0 || laneFault m l 2) (l - 4)

/-- A live fault bit changes, with its latch and the events of R106. -/
def setLaneFault (l k : Nat) (on : Bool) (m : Main) : Main :=
  if laneFault m l k = on then m
  else
    let m :=
      if l < 4 then
        let m := m.putBit F.TLR_LANE_STATUS_FAULT_NOW on l k
        if on then m.putBit F.TLR_FAULT_FAULT_LATCH true l k else m
      else
        let m := m.putBit F.TLP_LANE_STATUS_FAULT_NOW on (l - 4) k
        if on then m.putBit F.TLP_FAULT_FAULT_LATCH true (l - 4) k else m
    fireIf (on || liveFaults m l == 0) (if l < 4 then 29 else 30) (showReduced l m)

/-- FAULT_SKIPPED of a lane. -/
def faultSkipped (l : Nat) (m : Main) : Main := if l < 4 then m.count F.TLR_FAULT_SKIPPED l else m.count F.TLP_FAULT_SKIPPED (l - 4)

/-- An antenna fault is set (R102). -/
def antFault (m : Main) (l : Nat) : Bool := l < 4 && (laneFault m l 1 || laneFault m l 2 || laneFault m l 3)

/-- The partner lane by antenna (R100). -/
def partnerLane (l : Nat) : Nat := if l % 2 = 0 then l + 1 else l - 1

/-! ### LANE_RETUNE (R99) -/

/-- A lane has retuned for its next cell; `locked` says whether its synthesiser was locked 50 µs before the cell's start. A
power-line lane has no synthesiser, and a lane that is not powered does not retune. The live SYNTH_UNLOCK bit clears at the next locked
retune, of which the rules say nothing (DESIGN CHOICE, log entry 64). -/
def laneRetune (l : Nat) (locked : Bool) (m : Main) : Main :=
  match vget m.ylm.next l none with
  | none => m
  | some _ =>
    if !lanesOn m then m else
    let m := setLane l 2 m
    if 4 ≤ l then m
    else if locked then setLaneFault l 0 false (withLane l (fun g => { g with skip := false }) m)
    else setLaneFault l 0 true (faultSkipped l (withLane l (fun g => { g with skip := true }) m))

/-! ### TX_FRAME_DONE (R101–R105) -/

/-- The class of a radio frame by its return loss (R101): 0 OK, 1 MISMATCH, 2 OPEN, 3 SHORT. -/
def classOfTx (rloss : Nat) (short : Bool) : Nat := if rloss < 4 then (if short then 3 else 2) else if rloss < 24 then 1 else 0

/-- The fault bit of a class. -/
def classBit (c : Nat) : Nat := match c with | 1 => 3 | 2 => 1 | _ => 2

/-- TX_LOW or COUPLING_OPEN after three frames in a row (R104). The live bit clears at the next frame without the cause, of which the rules
say nothing (DESIGN CHOICE, log entry 64). -/
def lowRun (l k : Nat) (low : Bool) (m : Main) : Main :=
  let m := withLane l (fun g => { g with lowRun := if low then g.lowRun + 1 else 0 }) m
  if !low then setLaneFault l k false m
  else if 3 ≤ (laneOf m l).lowRun then setLaneFault l k true m
  else m

/-- A probe on a faulty antenna (R103). -/
def probeDone (l rloss : Nat) (m : Main) : Main :=
  let n := if 40 ≤ rloss then (laneOf m l).goodProbes + 1 else 0
  let m := withLane l (fun g => { g with goodProbes := n }) m
  if n < 3 then m
  else
    let m := withLane l (fun g => { g with goodProbes := 0, notOk := Vector.replicate 2 0, reduced := Vector.replicate 2 false }) m
    showReduced l (setLaneFault l 3 false (setLaneFault l 2 false (setLaneFault l 1 false m)))

/-- A radio frame's class is counted for the antenna it went out on (R102). -/
def antennaClass (l ant c : Nat) (m : Main) : Main :=
  if c = 0 then withLane l (fun g => { g with notOk := vmod g.notOk ant fun _ => 0 }) m
  else
    let m := showReduced l (withLane l (fun g => { g with
      notOk := vmod g.notOk ant (· + 1), reduced := vmod g.reduced ant fun _ => true }) m)
    if 3 ≤ vget (laneOf m l).notOk ant 0 then setLaneFault l (classBit c) true m else m

/-- A radio frame has been measured: `fwd` in dBm in 0.5 dB units, of which TLR_RFMEAS shows no negative one (log entry 64). -/
def radioDone (l : Nat) (fwd : Int) (rloss : Nat) (short : Bool) (m : Main) : Main :=
  let c := classOfTx rloss short
  let g := laneOf m l
  let m := ((m.put F.TLR_RFMEAS_FWD (min fwd.toNat 255) l).put F.TLR_RFMEAS_RLOSS (min rloss 255) l).put F.TLR_RFMEAS_CLASS c l
  let m := antennaClass l (m.get F.TLR_LANE_STATUS_ANT_TX l) c m
  let m := if g.wasProbe then probeDone l rloss m else m
  if c ≠ 0 then withLane l (fun g => { g with lowRun := 0 }) m else lowRun l 4 (decide (fwd + 6 < g.setPower)) m

def lineDone (l peak pct : Nat) (anyLimit : Bool) (m : Main) : Main :=
  let g := laneOf m l
  let m := (m.put F.TLP_DRVMEAS_PEAK_MA (min peak 65535) (l - 4)).put F.TLP_DRVMEAS_LIMIT_PCT (min pct 255) (l - 4)
  let m :=
    if 20 < pct then
      let m := withLane l (fun g => { g with limitRun := g.limitRun + 1 }) m
      if 3 ≤ (laneOf m l).limitRun then setLaneFault l 0 true m else m
    else withLane l (fun g => { g with limitRun := 0 }) m
  let m :=
    if g.wasProbe then
      let n := if anyLimit then 0 else g.goodProbes + 1
      let m := withLane l (fun g => { g with goodProbes := if n < 3 then n else 0 }) m
      if 3 ≤ n then setLaneFault l 0 false m else m
    else m
  lowRun l 1 (decide (peak < 20)) m

/-- A frame has been sent and measured. -/
def txFrameDone (l : Nat) (x : TxMeas) (m : Main) : Main :=
  if laneState m l ≠ 3 then m
  else
    let m := setLane l 1 m
    match x with
    | .radio fwd rloss short => if l < 4 then radioDone l fwd rloss short m else m
    | .line peak pct anyLimit => if 4 ≤ l then lineDone l peak pct anyLimit m else m

/-! ### LANE_THERMAL (R104) -/

/-- The lane's amplifier or driver is at `t` °C. -/
def laneThermal (l : Nat) (t : Int) (m : Main) : Main :=
  let was := (laneOf m l).thermal
  let now := if l < 4 then (if 125 < t then 1 else if t < 115 then 0 else was)
    else if 140 < t then 2 else if t < 115 then 0 else if 125 < t then max was 1 else was
  let m := withLane l (fun g => { g with thermal := now }) m
  showReduced l (setLaneFault l (if l < 4 then 6 else 2) (now != 0) m)

/-! ### Reception (R98, R172–R176) -/

/-- A downlink frame of this pair: DIR is 0 and SENDER is the pair ID (R111). -/
def ownDownlink (b : Img) (f : TlpFrame) : Bool := f.sender % 65536 == Hdr.pairId b

/-- The frame of received octets by its header, its body still sealed. -/
def sealedFrame (o : List Byte) : TlpFrame := tlpParse o ⟨.epoch 0 0, 0⟩

/-- The cell after one is a receive cell on its frequency (R98). -/
def goesOn (b : Img) (l : Nat) (c : Nat × Nat) : Bool :=
  let next := cellAt b (c.1 + CellW.len c.2) l
  isRx next.2 && freqOf b next.1 l next.2 == freqOf b c.1 l c.2

/-- The frame came from the partner's antenna: the entry sets RX_DIV, that antenna received it better, and the partner lane was not
transmitting in its slot (R100). -/
def diverse (m : Main) (b : Img) (l w : Nat) (x : RxFrame) : Bool :=
  (chanAt b l (CellW.chan w)).rxDiv && x.div && !(laneOf m (partnerLane l)).sentIn x.slot

/-- RX_FRAME. A cell that the synthesiser has stopped is not executed, and receives nothing (R99). -/
def rxFrame (l : Nat) (x : RxFrame) (m : Main) : Main :=
  match runImg m with
  | none => m
  | some b =>
    let c := cellAt b x.slot l
    let shadow := isTx c.2 && CellW.seat c.2 != ownSeat m
    let skipped := (vget m.ylm.cells l none).any fun k => k.start == c.1 && k.idle
    if !lanesOn m || skipped || !(isRx c.2 || shadow) then m
    else if x.pastEnd && !goesOn b l c then if l < 4 then m.count F.TLR_RX_TRUNCATED l else m.count F.TLP_RX_TRUNCATED (l - 4)
    else if !x.good then if l < 4 then m.count F.TLR_RX_FCS_FAIL l else m.count F.TLP_RX_RS_FAIL (l - 4)
    else
      let m := withLane l (fun g => { g with decoded := true }) (m.count F.YLM_RX_FRAMES l)
      let m := if l < 4 then m.putBit F.TLR_LANE_STATUS_DIV_RX (diverse m b l c.2 x) l else m
      let m :=
        if shadow && ownDownlink b (sealedFrame x.octets) then
          let hear (o : Option Cell) : Option Cell := o.map fun k => if k.start = c.1 then { k with heard := true } else k
          ({ m with ylm := { m.ylm with cells := vmod m.ylm.cells l hear } } : Main).count F.YLM_SHADOW_HEARD l
        else m
      gutterPut l x.octets (x.slot % 100) (x.slot / 100) x.link m

def execLaneRetune (l : Fin 8) (locked : Bool) (s : State) : Result := s.onMain (laneRetune l locked)
def execTxFrameDone (l : Fin 8) (x : TxMeas) (s : State) : Result := s.onMain (txFrameDone l x)
def execLaneThermal (l : Fin 8) (t : Int) (s : State) : Result := s.onMain (laneThermal l t)
def execRxFrame (l : Fin 8) (x : RxFrame) (s : State) : Result := s.onMain (rxFrame l x)

end Sys2Proof.Machine
end

