-- ==== Sys2Proof/Machine/Waves.lean ====
section
/-!
DEFINITION. The wave engine (chapter 06): from a detection to a staged frame, continuation, placement, the pair's decisions and
the border's hand-offs.
-/
namespace Sys2Proof.Machine

/-! ### Frames sealed by the module (R110, R111, R114, R119) -/

/-- The downlink frame of the seat-0 cell that begins at slot `abs` on lane `l`, sealed under the running epoch's key; none
without a network key. -/
def sealFrame (m : Main) (b : Img) (typ : Nat) (body : List Byte) (abs l : Nat) : Option TlpFrame :=
  m.key.work[0].map fun k =>
    { typ := typ, hops := 0, copy := 0, epoch := Hdr.epoch b, spar := 8 * (abs % 100) + l, sender := Hdr.pairId b,
      courseLo := abs / 100 % 256, originSlot := abs % 100, body := body,
      mic := ⟨.epoch k.key (Hdr.epoch b), abs / 100⟩ }

/-! ### Registers -/

def waveOf (m : Main) (w : Nat) : WaveCtx := vget m.wav.ctxs w WaveCtx.free
def withWave (w : Nat) (f : WaveCtx → WaveCtx) (m : Main) : Main := { m with wav := { m.wav with ctxs := vmod m.wav.ctxs w f } }
def wavesBusy (m : Main) : Nat := (m.wav.ctxs.toList.filter fun c => c.state != 0).length
def wavCount (n : Nat) (m : Main) (k : Nat := 1) : Main := m.count F.WAV_CNT n k

/-- WAV_STATUS and WAV_STORE. -/
def showWaves (m : Main) : Main :=
  let n := wavesBusy m
  ((m.put F.WAV_STATUS_ACTIVE n).put F.WAV_STATUS_HIGH_WATER (max n (m.get F.WAV_STATUS_HIGH_WATER))).put F.WAV_STORE_PENDING
    (m.wav.store.length + m.wav.reserved)

/-- The 32 bytes of a wave context record. -/
def waveBytes (c : WaveCtx) : List Byte :=
  leBytes 1 c.state ++ leBytes 1 c.next ++ leBytes 2 c.entry ++ leBytes 2 c.zone ++ leBytes 1 c.merges ++ leBytes 1 c.source ++
    leBytes 6 c.dSlot ++ leBytes 6 c.exec ++ leBytes 6 c.endSlot ++ leBytes 2 c.lantern ++ zeros 4

/-- The wave context window's words as a read of its first word latches them (R212). -/
def waveCtxWords (m : Main) : List Nat := wordsOf (waveBytes (waveOf m (m.get F.WAV_CTX_SEL_WAVE_ID))) 8

/-! ### Binding (R194) -/

/-- Seat-0 WAVE_RESERVE cells of a course as (first slot, lane), in order of slot and then lane. -/
def reserveCells (b : Img) (course : Nat) : List (Nat × Nat) :=
  (List.range 100).flatMap fun s => (List.range 8).filterMap fun l =>
    let w := wordAt b (100 * course + s) l
    if CellW.action w = 8 ∧ CellW.seat w = 0 then some (100 * course + s, l) else none

/-- PAIR_LEAD in a paired bundle (R212), in µs. -/
def bindLead (m : Main) : Nat := if m.bit F.RED_STATUS_PAIRED then max 50 (min 1000 (m.get F.WAV_PAIR_PAIR_LEAD)) else 0

/-- The bound cell for a decision made `us` µs into the present slot. -/
def bindCell (m : Main) (b : Img) (lanes us : Nat) : Option (Nat × Nat) :=
  (reserveCells b m.course ++ reserveCells b (m.course + 1)).find? fun c =>
    bitOf lanes c.2 && !(m.wav.bound.any fun x => x.lane == c.2 && x.slot == c.1) &&
    decide (10000 * m.slotNow + us + bindLead m + 60 ≤ 10000 * c.1)

/-! ### Staging (R195–R200) -/

/-- Execute-at of a frame in the seat-0 cell that begins at `slot` on `lane` (R195). -/
def execAt (b : Img) (slot lane lead : Nat) : Nat := slot + copiesEnd b (templateOf b slot) lane (slot % 100) + lead

/-- A step's encoded level for its lantern (R196). -/
def stepLevel (p : Main) (s : WStep) : Nat := waveLevel p (ctxOf p s.lantern) s.level

/-- The latest end among entries. -/
def latestEnd (es : List (PendEntry × Nat)) : Nat := es.foldl (fun n e => max n e.1.until') 0

/-- What a frame takes from its wave's steps in a cell; levels under the terms that `p` shows. -/
def takeFrame (p : Main) (b : Img) (slot lane lead : Nat) (wave : Option Nat) (steps : List WStep) :
    List (PendEntry × Nat) × List WStep × Nat :=
  takeSteps (stepLevel p) wave (execAt b slot lane lead) (kMax b lane (wordAt b slot lane)) steps

/-- A WAVE frame is placed in a staging buffer for its seat-0 cell. -/
def stageFrame (b : Img) (slot lane lead waveId : Nat) (wave : Option Nat) (first noSend : Bool) (es : List (PendEntry × Nat)) (m : Main) : Main :=
  let frame := if es.isEmpty then none else sealFrame m b 2 (waveBody (execAt b slot lane lead) waveId es) slot lane
  let m : Main := { m with wav := { m.wav with bound := m.wav.bound ++ [⟨lane, slot, frame, es, waveId, wave, first, noSend, false⟩] } }
  if es.isEmpty then m else wavCount 12 m

/-- The first frame of a wave or zone hold is staged, its steps are reserved, and those left over join the lane's continuation
queue. `p` shows the terms of the decision slot (R196). The answer gives the entries taken and the steps left. -/
def stageWave (p : Main) (b : Img) (slot lane lead waveId : Nat) (wave : Option Nat) (noSend : Bool) (steps : List WStep) (m : Main) :
    Main × List (PendEntry × Nat) × List WStep :=
  let r := takeFrame p b slot lane lead wave steps
  let m : Main := { m with wav := { m.wav with
    reserved := m.wav.reserved + steps.length - r.2.2
    conts := if r.2.1.isEmpty then m.wav.conts else vmod m.wav.conts lane fun q => q ++ [⟨waveId, wave, lead, r.2.1⟩] } }
  (stageFrame b slot lane lead waveId wave true noSend r.1 (wavCount 11 m r.2.2), r.1, r.2.1)

/-- A wave context's own part of a NEW outcome or of a merge (R199, R202). -/
structure WaveRef where
  entry : Nat
  zone : Nat
  source : Nat
  dSlot : Nat
  lantern : Nat
  deriving DecidableEq, Repr

/-- NEW or MERGE on context `w`: it is MERGE where the context is RUNNING. -/
def stageCascade (p : Main) (b : Img) (w slot lane lead : Nat) (x : WaveRef) (noSend : Bool) (steps : List WStep) (m : Main) : Main :=
  let e := execAt b slot lane lead
  let r := stageWave p b slot lane lead w (some w) noSend steps m
  let next := steps.length - r.2.2.length
  let ends := max (latestEnd r.2.1) (r.2.2.foldl (fun n s => max n s.stop) 0)
  showWaves (withWave w (fun c =>
    if c.state = 3 then
      { c with state := if r.2.2.isEmpty then 3 else 2, next := next, entry := x.entry, merges := min 255 (c.merges + 1), source := x.source,
               dSlot := x.dSlot, exec := e, endSlot := max c.endSlot ends, lantern := x.lantern }
    else ⟨1, next, x.entry, x.zone, 0, x.source, x.dSlot, e, e, x.lantern⟩) r.1)

/-- A zone hold is staged (R200): the zone counts as held in the course. -/
def stageHold (p : Main) (b : Img) (z slot lane : Nat) (noSend : Bool) (m : Main) : Main :=
  let r := stageWave p b slot lane (Zone.lead b z) (z % 256) none noSend (holdSteps b z) m
  let m := r.1
  showWaves { m with
    wav := { m.wav with held := z :: m.wav.held }
    ylm := { m.ylm with cur := { m.ylm.cur with fallbacks := m.ylm.cur.fallbacks + 1 } } }

/-! ### Messages (R204, R207, R208) -/

def pairPartner (m : Main) : Nat := m.get F.RED_STATUS_PARTNER

/-- A frame delivered from the partner of a pair (R411). -/
def fromPartner (m : Main) (f : RidgeFrame) : Bool := m.bit F.RED_STATUS_PAIRED && f.src == pairPartner m

/-- A message in the CONTROL class to the partner. -/
def toPartner (payload : List Byte) (m : Main) : Main := if m.bit F.RED_STATUS_PAIRED then (originate 1 (pairPartner m) payload m).1 else m

/-- A step as R208 lays it out. -/
def handoffStep (s : WStep) : List Byte :=
  beBytes 2 s.lantern ++ beBytes 2 (s.level + 4096 * s.ramp) ++ beBytes 1 s.back ++ zeros 3 ++ beBytes 6 s.start ++ beBytes 6 s.stop

def decisionBytes (x : WaveDec) : List Byte :=
  beBytes 1 1 ++ beBytes 1 x.dkind ++ beBytes 2 x.seq ++ beBytes 1 x.waveId ++ beBytes 1 x.lane ++ beBytes 2 x.ref ++ beBytes 6 x.decSlot ++
    beBytes 6 x.dSlot ++ beBytes 6 x.bindSlot ++
    beBytes 2 ((if x.lantern = 0xFFFF then 0x8000 else x.lantern % 8192) + 8192 * x.source) ++ x.steps.flatMap handoffStep

/-- The active module tells its partner of a decision. -/
def sendDecision (x : WaveDec) (m : Main) : Main :=
  if !m.bit F.RED_STATUS_PAIRED then m
  else
    let seq := (m.wav.seq + 1) % 65536
    toPartner (decisionBytes { x with seq := seq }) { m with wav := { m.wav with seq := seq } }

/-- R208: FOREIGN steps to each neighbour entry that they name. -/
def sendHandoffs (b : Img) (waveId : Nat) (fs : List (Nat × WStep)) (m : Main) : Main :=
  (List.range 16).foldl (fun m n =>
    let ss := (fs.filter fun f => f.1 == n).map (·.2)
    if ss.isEmpty then m
    else
      let body := beBytes 1 3 ++ beBytes 1 ss.length ++ beBytes 2 (Hdr.pairId b) ++ beBytes 1 waveId ++ zeros 3 ++ ss.flatMap handoffStep
      [0, 1].foldl (fun m k =>
        let a := neighAddr b n k
        if a = 0xFFFF then m
        else
          let r := originate 1 (a % 4096) body m
          if r.2 = 0 then wavCount 13 r.1 else r.1) m) m

/-! ### Outcomes (R199, R203) -/

/-- The trace of an outcome (R508). -/
def waveTrace (waveId outcome cycles lantern : Nat) (m : Main) : Main :=
  sky m 0x06 (waveId % 256 * 2 ^ 24 + outcome * 2 ^ 21 + cycles * 2 ^ 13 + lantern % 8192) none (some lantern)

/-- The reaction time in cycles is a free value of at most 200 (R193); WAV_LATENCY shows it. -/
def reaction (m : Main) : Nat × Main :=
  let v := m.freeVal
  let n := v.1 % 201
  (n, (v.2.put F.WAV_LATENCY_LAST n).put F.WAV_LATENCY_MAX (max n (v.2.get F.WAV_LATENCY_MAX)))

/-- The RUNNING context of a zone that a detection merges into: the latest END_SLOT, then the lowest WAVE_ID. -/
def mergeTarget (m : Main) (zone : Nat) : Option Nat :=
  if zone = 0xFFFF then none
  else
    (List.range 256).foldl (fun (o : Option Nat) w =>
      let c := waveOf m w
      if c.state = 3 ∧ c.zone = zone then
        match o with
        | some v => if (waveOf m v).endSlot < c.endSlot then some w else some v
        | none => some w
      else o) none

/-- What a cascade asks for: its own steps, lanes, lead and references, its FOREIGN steps, and the steps that a decision of the
HANDOFF kind carries. -/
structure Cascade where
  steps : List WStep
  lanes : Nat
  lead : Nat
  ref : WaveRef
  foreign : List (Nat × WStep)
  handoff : Bool
  deriving DecidableEq, Repr

/-- The decision message of a cascade. -/
def cascadeDec (m : Main) (k : Cascade) (merge : Bool) (w : Nat) (cell : Nat × Nat) : WaveDec :=
  { dkind := if k.handoff then 3 else if merge then 1 else 0, seq := 0, waveId := w, lane := cell.2,
    ref := if k.handoff then k.steps.length else k.ref.entry, decSlot := m.slotNow, dSlot := k.ref.dSlot, bindSlot := cell.1,
    lantern := k.ref.lantern, source := k.ref.source, steps := if k.handoff then k.steps else [] }

def storeRoom (m : Main) (n : Nat) : Bool := decide (m.wav.store.length + m.wav.reserved + n ≤ 16384)

/-- NEW or MERGE on context `w`. -/
def outcomeWave (b : Img) (k : Cascade) (w : Nat) (us : Nat) (m : Main) : Main :=
  let merge := (waveOf m w).state == 3
  if !storeRoom m k.steps.length then waveTrace 0 5 0 k.ref.lantern (wavCount 9 m)
  else
    match bindCell m b k.lanes us with
    | none => wavCount 10 m
    | some cell =>
      let m := stageCascade m b w cell.1 cell.2 k.lead k.ref false k.steps m
      let r := reaction m
      let m := waveTrace w (if merge then 2 else 1) r.1 k.ref.lantern (wavCount (if merge then 6 else 1) r.2)
      let m := sendDecision (cascadeDec m k merge w cell) m
      sendHandoffs b w k.foreign m

/-- ZONE_HOLD of zone `z` for a cascade. -/
def outcomeHold (b : Img) (k : Cascade) (z us : Nat) (m : Main) : Main :=
  if !storeRoom m (Zone.steps b z) then waveTrace 0 5 0 k.ref.lantern (wavCount 9 m)
  else
    match bindCell m b (Zone.lanes b z) us with
    | none => wavCount 10 m
    | some cell =>
      let m := stageHold m b z cell.1 cell.2 false m
      let r := reaction m
      let m := waveTrace z 3 r.1 k.ref.lantern (wavCount 7 r.2)
      let first := !m.wav.evt32
      let m := fireIf first 32 { m with wav := { m.wav with evt32 := true } }
      let m := record 0x0403 z k.ref.lantern 0 0 m
      sendDecision ⟨2, 0, z % 256, cell.2, z, m.slotNow, 0, cell.1, 0xFFFF, k.ref.source, []⟩ m

/-- The outcome of a detection or an accepted hand-off (R199, R203). -/
def outcome (b : Img) (k : Cascade) (us : Nat) (m : Main) : Main :=
  match (List.range 256).find? fun w => (waveOf m w).state == 0 with
  | some w => outcomeWave b k w us m
  | none =>
    let first := !m.wav.evt31
    let m := fireIf first 31 { m with wav := { m.wav with evt31 := true } }
    let z := k.ref.zone
    match mergeTarget m z with
    | some w => outcomeWave b k w us m
    | none =>
      if z ≤ 511 ∧ Zone.steps b z ≠ 0 then
        if m.wav.held.contains z then waveTrace 0 4 0 k.ref.lantern (wavCount 8 m) else outcomeHold b k z us m
      else waveTrace 0 5 0 k.ref.lantern (wavCount 9 m)

/-! ### Detections (R191, R192, R596) -/

/-- The wave engine may start waves: R211, and test 1 of R192. -/
def wavesEnabled (m : Main) : Bool :=
  m.exec != Ex.noPlan && m.exec != Ex.listen && m.key.work[0].isSome && m.bit F.WAV_CTRL_ENABLE &&
  (match runImg m with | some b => (sect b 11).isSome | none => false)

/-- A detection that reaches the engine of an active or unpaired module, received in course `rx`, `us` µs into the present slot. -/
def detect (source lantern : Nat) (body : List Byte) (rx us : Nat) (m : Main) : Main :=
  let m := wavCount 0 m
  match runImg m with
  | none => wavCount 2 m
  | some b =>
    if !wavesEnabled m then wavCount 2 m
    else
      let motion := lle body 0 1
      let stamp := lle body 2 4
      let d := 100 * originCourse rx (bits stamp 31 24) + bits stamp 23 0 / 10000
      if lle body 1 1 < min 100 (m.get F.WAV_CTRL_CONF_MIN) then wavCount 3 m
      else if m.slotNow < d ∨ max 1 (m.get F.WAV_CTRL_MAX_AGE) < m.slotNow - d then wavCount 4 m
      else
        match wavLookup b lantern (bits motion 2 0) (bits motion 5 4) with
        | none => wavCount 5 m
        | some e =>
          let own := ownSteps b e d
          let foreign := foreignSteps b e d
          if own.isEmpty then waveTrace 0 0 0 lantern (sendHandoffs b 0 foreign (wavCount 1 m))
          else outcome b ⟨own, WEnt.lanes b e, WEnt.lead b e, ⟨e, WEnt.zone b e, source, d, lantern⟩, foreign, false⟩ us m

/-- R207: the standby passes a DETECT on. -/
def forwardDetect (x : DetectFwd) (m : Main) : Main :=
  toPartner (beBytes 1 2 ++ zeros 1 ++ beBytes 2 x.lantern ++ beBytes 2 x.spar ++ beBytes 4 x.rxCourse ++ beBytes 1 x.rxSlot ++
    beBytes 1 x.lane ++ x.body) (wavCount 18 (wavCount 0 m))

/-- A protocol-engine counter of R154. -/
def peCount (n : Nat) (m : Main) : Main := m.count F.PE_CNT n

/-- The spar test of R124: 0 new, 9 DUPLICATE, 8 STALE, as counters of R154. -/
def sparTest (last spar : Nat) : Nat :=
  let d := (spar + 65536 - last % 65536) % 65536
  if d = 0 then 9 else if d ≤ 32767 then 0 else 8

/-- A DETECT_FWD payload (R207); none where it does not have the message's length. -/
def detectFwdOf (o : List Byte) : Option DetectFwd :=
  if o.length = 20 then some ⟨lbe o 2 2 % 8192, lbe o 4 2, lbe o 6 4, lbe o 10 1, lbe o 11 1, o.drop 12⟩ else none

/-- A DETECT_FWD message (R207, R421), `us` µs into the present slot. A standby drops it. -/
def detectFwd (x : DetectFwd) (us : Nat) (m : Main) : Main :=
  if m.red.role = 1 then m.count F.RED_CNT 11
  else
    let t := sparTest (ctxOf m x.lantern).lastSpar x.spar
    if t ≠ 0 then peCount t m
    else
      let rx := m.course - (m.course + 2 ^ 32 - x.rxCourse % 2 ^ 32) % 2 ^ 32
      detect 1 x.lantern x.body rx us (withCtx x.lantern (fun c => { c with lastSpar := x.spar % 65536 }) m)

/-- DETECT_FWD_RX, of a delivered frame. -/
def detectFwdRx (f : RidgeFrame) (us : Nat) (m : Main) : Main :=
  match detectFwdOf f.payload with
  | some x => detectFwd x us m
  | none => m

/-! ### Hand-offs (R209) -/

/-- The lane mask of a lantern's PRIMARY and SECONDARY. -/
def mediaMask (c : Ctx) : Nat := maskOf 8 fun l => l == c.primary || l == c.secondary

/-- A step as R208 lays it out, at an offset. -/
def stepAt (o : List Byte) (k : Nat) : WStep :=
  let lv := lbe o (k + 2) 2
  ⟨lbe o k 2 % 8192, bits lv 11 0, bits lv 15 12, lbe o (k + 8) 6, lbe o (k + 14) 6, lbe o (k + 4) 1 % 16, false⟩

def stepsAt (o : List Byte) (start n : Nat) : List WStep := (List.range n).map fun k => stepAt o (start + 20 * k)

/-- The steps of a WAVE_HANDOFF payload (R208); none where COUNT or the length breaks the layout. -/
def handoffOf (o : List Byte) : Option (List WStep) :=
  let n := lbe o 1 1
  if 1 ≤ n ∧ n ≤ 32 ∧ o.length = 8 + 20 * n then some (stepsAt o 8 n) else none

/-- The relay lead of a hand-off for a lantern of `zone` (R209). -/
def handoffLead (b : Img) (zone lantern : Nat) : Nat := if zone ≤ 511 then Zone.lead b zone else Config.handoffLead lantern % 51

/-- A WAVE_HANDOFF's steps come to a module that is not a standby (R209). -/
def handoff (steps : List WStep) (us : Nat) (m : Main) : Main :=
  match runImg m with
  | none => wavCount 2 (wavCount 14 m)
  | some b =>
    let m := wavCount 14 m
    let ok (s : WStep) : Bool := decide (s.lantern < Hdr.lanterns b) && (ctxOf m s.lantern).live && decide (m.slotNow < s.stop)
    let good := steps.filter ok
    let m := wavCount 15 m (steps.length - good.length)
    match good with
    | [] => m
    | f :: _ =>
      if !wavesEnabled m then wavCount 2 m
      else
        let c := ctxOf m f.lantern
        outcome b ⟨good, mediaMask c, handoffLead b c.zone f.lantern, ⟨0xFFFF, c.zone, 2, 0, 0xFFFF⟩, [], true⟩ us m

/-- WAVE_HANDOFF_RX, of a delivered frame. -/
def handoffRx (f : RidgeFrame) (us : Nat) (m : Main) : Main :=
  match handoffOf f.payload with
  | some steps => if m.red.role = 1 then m else handoff steps us m
  | none => m

/-! ### Placement and the ends of waves (R198, R202) -/

/-- Own steps of a wave wait in a continuation queue. -/
def stepsLeft (m : Main) (w : Nat) : Bool := m.wav.conts.toList.any fun q => q.any fun k => k.wave == some w

/-- The seat-0 cell of a bound frame begins: its entries enter the pending-entry store, and a STAGED context goes on. -/
def placeBound (lane slot : Nat) (m : Main) : Main :=
  match m.wav.bound.find? fun x => x.lane == lane && x.slot == slot && !x.placed with
  | none => m
  | some x =>
    let m : Main := { m with wav := { m.wav with
      bound := m.wav.bound.map fun y => if y.lane = lane ∧ y.slot = slot then { y with placed := true } else y
      store := m.wav.store ++ x.entries, reserved := m.wav.reserved - x.entries.length } }
    match x.wave with
    | none => showWaves m
    | some w =>
      let left := stepsLeft m w
      showWaves (withWave w (fun c =>
        let c : WaveCtx := { c with endSlot := max c.endSlot (latestEnd x.entries) }
        if c.state = 1 ∧ x.first then { c with state := if left then 2 else 3 } else c) m)

/-- R197: the continuation frame of a seat-0 TX_WAVE cell at its fill; `p` shows the terms of its slot. -/
def fillContinuation (p : Main) (b : Img) (slot lane : Nat) : Nat → Main → Main
  | 0, m => m
  | k + 1, m =>
    match vget m.wav.conts lane [] with
    | [] => m
    | q :: qs =>
      let r := takeFrame p b slot lane q.lead q.wave q.steps
      let rest : List Cont := if r.2.1.isEmpty then qs else { q with steps := r.2.1 } :: qs
      let m : Main := { m with wav := { m.wav with
        conts := vmod m.wav.conts lane fun _ => rest, reserved := m.wav.reserved - r.2.2 } }
      let m := wavCount 11 m r.2.2
      let m := match q.wave with
        | some w =>
          withWave w (fun c =>
            let c : WaveCtx := { c with next := min 32 (c.next + (q.steps.length - r.2.1.length)) }
            if c.state = 2 ∧ r.2.1.isEmpty then { c with state := 3 } else c) m
        | none => m
      if r.1.isEmpty then fillContinuation p b slot lane k m
      else showWaves (stageFrame b slot lane q.lead q.waveId q.wave false false r.1 m)

/-- RUNNING contexts whose END_SLOT has been reached return to FREE (R202); past bindings are forgotten. -/
def freeWaves (abs : Nat) (m : Main) : Main :=
  showWaves { m with wav := { m.wav with
    ctxs := m.wav.ctxs.map fun c => if c.state = 3 ∧ c.endSlot ≤ abs then WaveCtx.free else c
    bound := m.wav.bound.filter fun x => decide (abs ≤ x.slot + 200) } }

/-- R210 at a switch or a rollback. A frame whose seat-0 cell has not begun has been handed to no modem: the cells of the slot that
begins here are fetched anew under the new plan. -/
def discardWaves (m : Main) : Main :=
  let gone := m.wav.bound.filter fun x => !x.placed
  let waves := (gone.map (fun x => (x.wave, x.waveId)) ++ m.wav.conts.toList.flatMap (fun q => q.map fun k => (k.wave, k.waveId))).dedup
  let m := wavCount 19 m waves.length
  showWaves { m with wav := { m.wav with
    bound := m.wav.bound.filter (·.placed), conts := Vector.replicate 8 [], reserved := 0
    ctxs := m.wav.ctxs.map fun c => if c.state = 1 ∨ c.state = 2 then { c with state := 3 } else c } }

/-! ### The standby (R205, R206) -/

/-- A WAVE_DECISION payload (R204); none where it breaks the layout. -/
def decisionOf (o : List Byte) : Option WaveDec :=
  let kind := lbe o 1 1
  let ref := lbe o 6 2
  let n := if kind = 3 then ref else 0
  let org := lbe o 26 2
  if kind ≤ 3 ∧ lbe o 5 1 ≤ 7 ∧ o.length = 28 + 20 * n then
    some ⟨kind, lbe o 2 2, lbe o 4 1, lbe o 5 1, ref, lbe o 8 6, lbe o 14 6, lbe o 20 6, if bitOf org 15 then 0xFFFF else org % 8192,
      bits org 14 13, stepsAt o 28 n⟩
  else none

/-- The terms of a slot: of the present one, or of the one before it, whose scales stand apart (R196). -/
def termsOf (m : Main) (slot : Nat) : Main :=
  if slot < m.slotNow then (List.range 16).foldl (fun p g => p.put F.PUR_SCALE_SCALE (vget m.ctx.prevScale g 4096) g) m else m

/-- A decision's waves are staged as the active module has staged them (R205). `late` keeps this module's copy back (R206). -/
def stageDecision (b : Img) (x : WaveDec) (late : Bool) (m : Main) : Main :=
  let p := termsOf m x.decSlot
  if x.dkind = 2 then stageHold p b x.ref x.bindSlot x.lane late m
  else if x.dkind = 3 then
    let i := (x.steps.map (·.lantern)).headD 0
    let z := (ctxOf m i).zone
    stageCascade p b x.waveId x.bindSlot x.lane (handoffLead b z i) ⟨0xFFFF, z, x.source, 0, x.lantern⟩ late x.steps m
  else
    stageCascade p b x.waveId x.bindSlot x.lane (WEnt.lead b x.ref) ⟨x.ref, WEnt.zone b x.ref, x.source, x.dSlot, x.lantern⟩ late
      (ownSteps b x.ref x.dSlot) m

/-- A WAVE_DECISION is applied, `us` µs into the present slot (R205, R206). -/
def applyDecision (x : WaveDec) (us : Nat) (m : Main) : Main :=
  match runImg m with
  | none => m
  | some b =>
    if x.decSlot + 1 < m.slotNow then wavCount 17 m
    else if sparTest m.wav.seq x.seq ≠ 0 then m
    else
      let late := decide (10000 * x.bindSlot < 10000 * m.slotNow + us + 60)
      let m : Main := { m with wav := { m.wav with seq := x.seq % 65536 } }
      let m := stageDecision b x late (if late then wavCount 16 m else m)
      if x.bindSlot ≤ m.slotNow then placeBound x.lane x.bindSlot m else m

/-- WAVE_DECISION_RX, of a delivered frame: the decision is applied, and logged for a replay (R427). -/
def waveDecisionRx (f : RidgeFrame) (us : Nat) (m : Main) : Main :=
  match decisionOf f.payload with
  | none => m
  | some x =>
    let log := (m.red.decLog.filter fun d => decide (m.slotNow ≤ d.1 + 200)) ++ [(m.slotNow, us, x)]
    applyDecision x us { m with red := { m.red with decLog := log } }

def latencyClear (m : Main) : Main := m.put F.WAV_LATENCY_MAX 0

def execDetectFwdRx (f : RidgeFrame) (us : Nat) (s : State) : Result := s.onMain (detectFwdRx f us)
def execWaveHandoffRx (f : RidgeFrame) (us : Nat) (s : State) : Result := s.onMain (handoffRx f us)
def execWaveDecisionRx (f : RidgeFrame) (us : Nat) (s : State) : Result := s.onMain (waveDecisionRx f us)
def execLatencyClear (s : State) : Result := s.onMain (hostAccess 0x08 latencyClear)

end Sys2Proof.Machine
end

