-- ==== Sys2Proof/Machine/Fill.lean ====
section
/-!
DEFINITION. The fetch of a slot's cells and the fill of their frames (R29, R41–R47, R120, R127–R137, R146–R150, R413, R532), and
the deadlines of the fill (R43–R45).
-/
namespace Sys2Proof.Machine

/-! ### Frames already built -/

/-- The frame of the seat-0 cell that begins at slot `abs` on lane `l`, as built or bound. -/
def frameOf (m : Main) (abs l : Nat) : Option TlpFrame :=
  match m.ylm.built.find? fun x => x.1 == abs && x.2.1 == l with
  | some x => x.2.2
  | none => (m.wav.bound.find? fun x => x.slot == abs && x.lane == l).bind (·.frame)

/-- A wave frame that this module does not send, since its decision came after the bind cutoff (R206). -/
def boundLate (m : Main) (abs l : Nat) : Bool := m.wav.bound.any fun x => x.slot == abs && x.lane == l && x.noSend

/-- The seat-0 cell whose frame the cell of word `w` carries: itself, or its partner under R120. -/
def sourceCell (b : Img) (abs l w : Nat) : Option Nat :=
  if CellW.seat w = 0 then some abs else (partnerSlot b (templateOf b abs) l (abs % 100)).map fun s => abs - abs % 100 + s

/-! ### SHEAF (R47, R131, R132) -/

/-- The 16-bit entry of a lantern as sent. -/
def entryWord (e : Entry) : Nat := e.level + 4096 * e.ramp

/-- What the composition unit makes of a lantern: under the terms that `p` shows of the frame's slot, and its own memory. -/
def entryOf (p m : Main) (i : Nat) : Entry :=
  let d := ctxOf m i
  baseEntry p { ctxOf p i with lastTerm := d.lastTerm, lastL0 := d.lastL0, lastLevel := d.lastLevel, lastFloor := d.lastFloor }

/-- The sheaf's members that its frame names, with their entries. A lantern that is excluded for an ECC error has no entry. -/
def sheafEntries (p m : Main) (b : Img) (n : Nat) : List (Option (Nat × Entry)) :=
  if sectCount b 6 ≤ n then []
  else (List.range 64).map fun i =>
    let k := sheafEntry b n i
    if k = 0xFFFF ∨ !(ctxOf p k).live then none else some (k, entryOf p m k)

/-- The CCT code that a frame carries, and CCT_VALID: the group's code of a sheaf in a slot, with a context's CCT_OFFSET added and the result
limited (R162). The rules give neither the group's code nor CCT_VALID a source (log entry 30). -/
def cctOf (b : Img) (sheaf slot : Nat) (off : Int) : Nat × Nat :=
  if Config.groupCctValid b sheaf slot then ((min 255 (max 0 ((Config.groupCct b sheaf slot % 256 : Nat) + off))).toNat, 1) else (0, 0)

/-- The base command that an entry sent in a cell gives a lantern (R132). -/
def baseCmd (abs l exec : Nat) (e : Nat × Entry) : PendEntry :=
  { lantern := e.1, level := e.2.level, ramp := e.2.ramp, at' := abs + exec, until' := 0, wave := none, spar := 8 * (abs % 100) + l }

/-- A frame with the base commands of its entries, which the contexts remember. -/
def entryFrame (f : Option TlpFrame) (abs l exec : Nat) (es : List (Nat × Entry)) (m : Main) : Option TlpFrame × List PendEntry × Main :=
  match f with
  | none => (none, [], m)
  | some f => (some f, es.map (baseCmd abs l exec), rememberEntries es m)

/-- A SHEAF frame (R131). -/
def fillSheaf (p : Main) (b : Img) (abs l w : Nat) (m : Main) : Option TlpFrame × List PendEntry × Main :=
  let n := CellW.pref w
  let es := sheafEntries p m b n
  let exec := copiesEnd b (templateOf b abs) l (abs % 100)
  let cct := cctOf b n abs ((ctxOf p (sheafEntry b n 0)).cctOffset)
  let words := (List.range 64).flatMap fun i => leBytes 2 (match es.getD i none with | some e => entryWord e.2 | none => 0)
  let body := leBytes 1 n ++ leBytes 1 cct.1 ++ leBytes 1 cct.2 ++ leBytes 1 exec ++ words
  entryFrame (sealFrame m b 1 body abs l) abs l exec (es.filterMap id) m

/-! ### DIRECT (R135) -/

/-- The sheaf of a lantern, by its schedule record (R143). -/
def sheafOfLantern (b : Img) (i : Nat) : Nat := le b (schedOff b i + 10) 1

/-- A DIRECT frame that gives a lantern its composed level (R135, R157). -/
def fillLevel (p : Main) (b : Img) (abs l i : Nat) (m : Main) : Option TlpFrame × List PendEntry × Main :=
  let e := entryOf p m i
  let exec := copiesEnd b (templateOf b abs) l (abs % 100)
  let cct := cctOf b (sheafOfLantern b i) abs (ctxOf p i).cctOffset
  let body := leBytes 2 i ++ leBytes 2 (entryWord e) ++ leBytes 1 cct.1 ++ leBytes 1 (cct.2 + 2 * natOf (Config.ackReq 0 i)) ++ leBytes 1 exec ++ [0]
  entryFrame (sealFrame m b 3 body abs l) abs l exec [(i, e)] m

/-! ### BEACON (R127–R129) -/

/-- The next RX_JOIN cell of a beacon: its slot, block and length. -/
def joinCell (b : Img) (abs l w : Nat) : Option (Nat × Nat × Nat) :=
  (List.range 100).findSome? fun s =>
    let x := cellWord b (templateOf b abs) s l
    if abs % 100 ≤ s ∧ CellW.action x = 7 ∧ CellW.chan x = CellW.chan w then
      some (s, if CellW.pref x = 0xFFFF then 0xFF else CellW.pref x, CellW.len x)
    else none

/-- The previous epoch is accepted in a course (R118). -/
def prevAccepted (m : Main) (course : Nat) : Bool :=
  m.ctx.prevEpoch.isSome && decide (course < m.ctx.epochAt + min 3600 (m.get F.TLP_PE_CTRL_PREV_WINDOW))

def fillBeacon (p : Main) (b : Img) (abs l w : Nat) (m : Main) : Option TlpFrame :=
  let j := joinCell b abs l w
  let flags := natOf (p.ctx.rejoin != 0) + 2 * natOf (Hdr.paired b) + 4 * natOf (prevAccepted m (abs / 100)) +
    8 * natOf (servo m == Sv.holdover) + 32 * ((match j with | some x => x.2.2 | none => 1) - 1)
  let seat1 := if Hdr.paired b then (twinSlot b (templateOf b abs) l (abs % 100)).getD 0xFF else 0xFF
  let body := leBytes 6 (abs / 100) ++ leBytes 1 p.ctx.quiet ++ leBytes 1 flags ++ leBytes 1 (twos 8 p.time.utcOff) ++ leBytes 1 seat1 ++
    leBytes 1 (match j with | some x => x.1 | none => 0xFF) ++ leBytes 1 (match j with | some x => x.2.1 | none => 0xFF)
  sealFrame m b 0 body abs l

/-! ### MGMT frames of a TX_DIRECT cell (R137, R146–R150) -/

/-- SCHED_HASH of a lantern's record, as a number in transmission order (R146). -/
def schedHash (b : Img) (i : Nat) : Nat := Cipher.sha256 (schedRecord b i) / 2 ^ 224

/-- What an MGMT frame says (R137). No rule has the module send the subtypes NIGHT_PROFILE, REPORT_NOW and LEAVE. -/
inductive Mgmt where
  | joinAccept (eui index hash : Nat) (keep : Bool) (parts : Nat) (knet : Key)
  | joinRefuse (eui reason : Nat)
  | schedule (hash epoch part parts : Nat) (data : List Byte)
  | nightProfile (steps : List (Nat × Nat))
  | reportNow
  | leave
  | blockConfirm (block map : Nat)
  deriving DecidableEq, Repr

/-- MSUB, and the data that follows TARGET. -/
def Mgmt.layout : Mgmt → Nat × List Byte
  | .joinAccept eui i hash keep parts k =>
    (1, leBytes 8 eui ++ leBytes 2 i ++ beBytes 4 hash ++ leBytes 1 (natOf keep) ++ leBytes 1 parts ++ k.bytes)
  | .joinRefuse eui reason => (2, leBytes 8 eui ++ leBytes 1 reason)
  | .schedule hash epoch part parts data => (3, beBytes 4 hash ++ leBytes 1 epoch ++ leBytes 1 part ++ leBytes 1 parts ++ [0] ++ data)
  | .nightProfile steps => (4, leBytes 1 steps.length ++ steps.flatMap fun s => leBytes 2 s.1 ++ leBytes 2 s.2)
  | .reportNow => (5, [])
  | .leave => (6, [])
  | .blockConfirm block map => (7, leBytes 1 block ++ [0] ++ leBytes 8 map)

/-- The body of an MGMT frame. When ACK_REQ is set is open (log entry 60). -/
def Mgmt.body (x : Mgmt) (target : Nat) : List Byte :=
  leBytes 1 x.layout.1 ++ leBytes 1 (natOf (Config.ackReq x.layout.1 target)) ++ leBytes 2 target ++ x.layout.2

/-- A frame sealed under the join key of an EUI: JK set, and a TARGET of 0xFFFF. -/
def sealJoin (m : Main) (b : Img) (eui : Nat) (x : Mgmt) (abs l : Nat) : Option TlpFrame :=
  match m.key.work[0], sealFrame m b 5 (x.body 0xFFFF) abs l with
  | some k, some f => some { f with sender := 0x4000, mic := ⟨.join k.key eui, abs / 100⟩ }
  | _, _ => none

/-- A SCHEDULE frame of lantern `i`'s record in bundle `s`, part `part`. -/
def sealSchedule (m : Main) (b s : Img) (i part abs l : Nat) : Option TlpFrame :=
  let x : Mgmt := .schedule (schedHash s i) (Hdr.epoch s) part (schedParts s i) (slice (schedRecord s i) (56 * part) 56)
  sealFrame m b 5 (x.body i) abs l

/-- A TX_DIRECT cell uses its lane's beacon entry. -/
def onBeaconEntry (b : Img) (l w : Nat) : Bool :=
  (List.range (Hdr.templates b)).any fun t => (List.range 100).any fun s =>
    let x := cellWord b t s l
    CellW.action x == 4 && CellW.chan x == CellW.chan w

def isPart : Direct → Bool
  | .part _ _ => true
  | .level _ _ => false

def showJoins (m : Main) : Main := m.put F.TLP_PE_STATUS_JOIN_QUEUE m.ctx.joinQ.length

/-- Lanterns answered in this course are joined from the next on. -/
def answered (ls : List Nat) (m : Main) : Main := { m with ctx := { m.ctx with joining := m.ctx.joining ++ ls } }

/-- Lane `l` has a TX_DIRECT cell in some template; with `beacon`, one on its beacon entry. -/
def hasDirect (b : Img) (beacon : Bool) (l : Nat) : Bool :=
  (List.range (Hdr.templates b)).any fun t => (List.range 100).any fun s =>
    let w := cellWord b t s l
    CellW.action w == 3 && (!beacon || onBeaconEntry b l w)

/-- A TX_DIRECT cell of lane `l` may carry what is meant for a lantern: on its PRIMARY lane, or on any where that one has no such cell (DESIGN
CHOICE, log entry 60). -/
def servesLantern (b : Img) (beacon : Bool) (l i : Nat) : Bool :=
  let primary := le b (schedOff b i + 12) 1
  l == primary || !hasDirect b beacon primary

/-- A lane serves a join answer. -/
def servesJoin (b : Img) (l : Nat) (q : JoinReq) : Bool :=
  match q.ans with
  | .accept i _ => servesLantern b true l i
  | .confirm i => servesLantern b true l i
  | .refuse _ => true

/-- The answer to a join (R148, R149). -/
def fillAnswer (b : Img) (abs l : Nat) (q : JoinReq) (m : Main) : Option TlpFrame × Main :=
  let drop (f : JoinReq → Bool) (m : Main) : Main := showJoins { m with ctx := { m.ctx with joinQ := m.ctx.joinQ.filter fun x => !f x } }
  match q.ans with
  | .accept i keep =>
    let parts := if keep then 0 else schedParts b i
    let key := match m.key.work[0] with | some k => k.key | none => 0
    match sealJoin m b q.eui (.joinAccept q.eui i (schedHash b i) keep parts key) abs l with
    | none => (none, m)
    | some f =>
      let m := answered [i] (drop (· == q) m)
      let m := withDirect l (fun ds => (ds.takeWhile isPart) ++ (List.range parts).map (Direct.part i) ++ ds.dropWhile isPart) m
      (some f, m.count F.PE_CNT 12)
  | .refuse reason =>
    match sealJoin m b q.eui (.joinRefuse q.eui reason) abs l with
    | none => (none, m)
    | some f => (some f, record 0x0405 q.eui (q.eui / 2 ^ 32) reason 0 ((drop (· == q) m).count F.PE_CNT 13))
  | .confirm i =>
    let inBlock (x : JoinReq) : Bool := match x.ans with
      | .confirm j => j / 64 == i / 64 && decide (x.slot ≤ abs)
      | _ => false
    let ls := (m.ctx.joinQ.filter inBlock).filterMap fun x => match x.ans with
      | .confirm j => some j
      | _ => none
    let map := maskOf 64 fun k => ls.contains (i / 64 * 64 + k)
    match sealFrame m b 5 ((Mgmt.blockConfirm (i / 64) map).body 0xFFFF) abs l with
    | none => (none, m)
    | some f => (some f, (answered ls (drop inBlock m)).count F.PE_CNT 12 ls.length)

/-- The next lantern at or after `i` whose schedule differs between the running and the armed bundle (R150). -/
def nextPush (b a : Img) (i : Nat) : Option Nat :=
  ((List.range (min (Hdr.lanterns b) (Hdr.lanterns a))).drop i).find? fun j => schedRecord b j != schedRecord a j

/-- A SCHEDULE frame of the armed epoch, where one is left to push. -/
def fillPush (b : Img) (abs l : Nat) (m : Main) : Option TlpFrame × Main :=
  match m.ctx.push, bankIn m Bk.armed with
  | some (i, part), some k =>
    let a := (bankOf m k).img
    match nextPush b a i with
    | none => (none, { m with ctx := { m.ctx with push := none } })
    | some j =>
      if !servesLantern b false l j then (none, { m with ctx := { m.ctx with push := some (j, if j = i then part else 0) } })
      else
      let part := if j = i then part else 0
      match sealSchedule m b a j part abs l with
      | none => (none, m)
      | some f =>
        let next := if part + 1 < schedParts a j then (j, part + 1) else (j + 1, 0)
        (some f, ({ m with ctx := { m.ctx with push := some next } } : Main).count F.PE_CNT 15)
  | _, _ => (none, m)

/-- The first level of the lane's direct queue that is due. -/
def fillFirstLevel (p : Main) (b : Img) (abs l : Nat) (m : Main) : Option (Option TlpFrame × List PendEntry × Main) :=
  (vget m.ctx.direct l []).findSome? fun d => match d with
    | .level i slot => if slot ≤ abs then some (fillLevel p b abs l i (withDirect l (fun q => q.erase d) m)) else none
    | .part _ _ => none

/-- A TX_DIRECT cell takes the head of its lane's direct queue (R37). On the beacon entry these are the schedule parts owed to a lantern that
has joined, the oldest join answer, and a lantern's level, in this order; on another entry only the levels. A schedule push takes a cell
that nothing else claims (R150). The order is a DESIGN CHOICE (log entry 60). -/
def fillDirect (p : Main) (b : Img) (abs l w : Nat) (m : Main) : Option TlpFrame × List PendEntry × Main :=
  let plain (r : Option TlpFrame × Main) : Option TlpFrame × List PendEntry × Main := (r.1, [], r.2)
  let beacon := onBeaconEntry b l w
  match if beacon then (vget m.ctx.direct l []).head? else none with
  | some (.part i k) => plain (sealSchedule m b b i k abs l, withDirect l (·.drop 1) m)
  | _ =>
    match if beacon then m.ctx.joinQ.find? fun q => decide (q.slot ≤ abs) && servesJoin b l q else none with
    | some q => plain (fillAnswer b abs l q m)
    | none => (fillFirstLevel p b abs l m).getD (plain (fillPush b abs l m))

/-! ### IMAGE (R136, R532) -/

def limgByte (m : Main) (i : Nat) : Byte := sget (fun _ => 0) m.upd.limg i
def limgLe (m : Main) (o n : Nat) : Nat := leVal ((List.range n).map fun i => limgByte m (o + i))

/-- Segments of the held lantern image: its manifest and its octets. -/
def limgSegs (m : Main) : Nat := (64 + limgLe m 12 4 + 255) / 256

def chainOf (m : Main) (c : Nat) : Option LChain := sget (fun _ => none) m.upd.chains c
def withChain (c : Nat) (v : Option LChain) (m : Main) : Main :=
  { m with upd := { m.upd with chains := sset (fun _ => none) m.upd.chains c v } }

/-- The lanterns of a chain, in its order. -/
def chainLanterns (b : Img) (c : Nat) : List Nat :=
  let o := sectOff b 15 + 128 * c
  (List.range (le b o 1)).map fun k => le b (o + 2 + 2 * k) 2

/-- The map of a chain's present run: each lantern with its successor. -/
def chainMap (b : Img) (c : Nat) (k : LChain) : List (Nat × Nat) :=
  let ls := (chainLanterns b c).filter fun i => !k.out.contains i
  ls.zip (ls.drop 1 ++ [0xFFFF])

/-- The next IMAGE frame of a running chain. -/
def fillImage (b : Img) (abs l w : Nat) (m : Main) : Option TlpFrame × Main :=
  let c := CellW.pref w
  match chainOf m c with
  | none => (none, m)
  | some k =>
    let segs := limgSegs m
    if segs < k.seg then (none, m)
    else
      let map := chainMap b c k
      let data := if k.seg = 0 then leBytes 2 k.named ++ leBytes 2 map.length ++ map.flatMap fun e => leBytes 2 e.1 ++ leBytes 2 e.2
        else (List.range 256).map fun i => limgByte m (256 * (k.seg - 1) + i)
      let last := k.seg == segs && k.seg != 0
      let next := if k.named = 0xFFFF then (map.headD (0xFFFF, 0)).1 else k.named
      let body := leBytes 2 c ++ leBytes 2 next ++ (List.range 4).map (fun i => limgByte m (16 + i)) ++
        leBytes 3 (if k.seg = 0 then 0xFF0000 + k.resume else k.seg - 1) ++ leBytes 1 (natOf last) ++ (data ++ zeros 256).take 256
      match sealFrame m b 4 body abs l with
      | none => (none, m)
      | some f => (some f, withChain c (some { k with seg := k.seg + 1, lastAt := if last then some (abs / 100) else k.lastAt }) m)

/-! ### The fetch -/

/-- A seat-0 transmit cell is filled, and its frame kept for its twin and for the digest; a course that is repeated leaves one of each. -/
def fillCell (p : Main) (b : Img) (abs l w : Nat) (m : Main) : Option TlpFrame × List PendEntry × Main :=
  let keep (f : Option TlpFrame) (m : Main) : Main := { m with ylm := { m.ylm with built := (m.ylm.built.filter fun x => !(x.1 == abs && x.2.1 == l)) ++ [(abs, l, f)] } }
  match CellW.action w with
  | 1 =>
    let r := fillSheaf p b abs l w m
    (r.1, r.2.1, keep r.1 r.2.2)
  | 2 =>
    let m := if m.key.work[0].isSome then fillContinuation p b abs l 256 m else m
    (frameOf m abs l, [], m)
  | 3 =>
    let r := fillDirect p b abs l w m
    (r.1, r.2.1, keep r.1 r.2.2)
  | 4 =>
    let f := fillBeacon p b abs l w m
    (f, [], keep f m)
  | 5 =>
    let r := fillImage b abs l w m
    (r.1, [], keep r.1 r.2)
  | _ => (none, [], m)

/-- The cell of lane `l` that begins in slot `abs` is fetched. In LISTEN the lanes listen only (R562): a transmit cell of the own
seat is not executed, and nothing is built. -/
def fetchCell (p : Main) (b : Img) (abs : Nat) (m : Main) (l : Nat) : Main :=
  let w := wordAt b abs l
  let put (c : Option Cell) (m : Main) : Main := { m with ylm := { m.ylm with next := vmod m.ylm.next l fun _ => c } }
  let cell (shadow : Bool) (f : Option TlpFrame) (es : List PendEntry) : Option Cell := some ⟨w, abs, shadow, f, es, false, false⟩
  if CellW.action w = 10 then put none m
  else if !isTx w then put (cell false none []) m
  else
    let shadow := CellW.seat w != ownSeat m
    if m.exec = Ex.running then
      if CellW.seat w = 0 then
        let r := fillCell p b abs l w m
        put (cell shadow r.1 r.2.1) r.2.2
      else put (cell shadow ((sourceCell b abs l w).bind fun s => frameOf m s l) []) m
    else put (if shadow then cell true none [] else none) m

/-- The cells of slot `abs` are fetched and their fill is done. -/
def fetchSlot (abs : Nat) (m : Main) : Main :=
  match runImg m with
  | some b =>
    if cellsRun m then
      let p := preview abs m
      (List.range 8).foldl (fetchCell p b abs) { m with ylm := { m.ylm with deferred := false } }
    else { m with ylm := { m.ylm with next := Vector.replicate 8 none, deferred := false } }
  | none => { m with ylm := { m.ylm with next := Vector.replicate 8 none, deferred := false } }

/-- The armed switch can be made at the boundary of a course (R60, R63, R65). -/
def switchDue (m : Main) (course : Nat) : Bool :=
  match bankIn m Bk.armed with
  | some k => armLoaded m k && confirmed m && decide (switchAt m ≤ course)
  | none => false

/-- The next course boundary is that of a pending rollback. -/
def rollbackDue (m : Main) : Bool := m.ylm.rollback.any fun r => decide (r.1 ≤ 1)

/-- SLOT_FETCH: the slot after the present one. The first slot of a course at whose boundary the plan changes is fetched there,
under the plan that it carries (R64). -/
def slotFetch (m : Main) : Main :=
  let abs := m.slotNow + 1
  if abs % 100 = 0 ∧ (switchDue m (abs / 100) ∨ rollbackDue m) then
    { m with ylm := { m.ylm with next := Vector.replicate 8 none, deferred := true } }
  else fetchSlot abs m

/-! ### The deadlines -/

/-- The executor's counters by lane. -/
def ylmUnused (l : Nat) (m : Main) : Main := m.count F.YLM_UNUSED l

/-- A cell underrun (R43, R46). It counts in the course in which it is found: that of slot 0's cell, 300 µs before the slot, in the course
before (DESIGN CHOICE, log entry 67). -/
def underrun (l abs : Nat) (m : Main) : Main :=
  let m := (m.count F.YLM_UNDERRUNS l).putBit F.YLM_ERR_UNDERRUN true
  let y : Ylm := { m.ylm with underrun := true, cur := { m.ylm.cur with underruns := vmod m.ylm.cur.underruns l (· + 1) } }
  sky { m with ylm := y } 0x02 (l * 2 ^ 29 + abs % 100 * 2 ^ 16) (some l)

/-- The frame's airtime fits its cell (R45). -/
def fits (b : Img) (l w : Nat) (f : TlpFrame) : Bool :=
  decide (airtime (chanAt b l (CellW.chan w)) (psduLen l (16 + f.body.length)) ≤ airLimit (CellW.len w))

/-- The fetched cell of a lane is sent as IDLE, or sends nothing. -/
def idleCell (l : Nat) (m : Main) : Main :=
  { m with ylm := { m.ylm with next := vmod m.ylm.next l fun c => c.map fun k => { k with idle := true } } }

/-- A transmit cell of the own seat at the fill deadline; `late` says that its payload is not sealed, which idles a cell of plan content
alone: a demand cell with something waiting is still sent (DESIGN CHOICE, log entry 67). A MUTED module, and one
without a network key, send nothing, and their cells are unused (R425, R483). -/
def deadlineCell (late : Bool) (l : Nat) (c : Cell) (b : Img) (m : Main) : Main :=
  let a := CellW.action c.word
  let content := a == 1 || a == 4
  if m.bit F.RED_STATUS_MUTED || m.key.work[0].isNone then idleCell l (ylmUnused l m)
  else
    match c.frame with
    | none => idleCell l (if content && (sourceCell b c.start l c.word).isSome then underrun l c.start m else ylmUnused l m)
    | some f =>
      if content && late then idleCell l (underrun l c.start m)
      else if !fits b l c.word f then
        idleCell l (underrun l c.start ((m.count F.YLM_OVERLENGTH l).putBit F.YLM_ERR_OVERLENGTH true))
      else m

/-- A transmit cell of the own seat that is fetched and not yet counted. -/
def ownCell (m : Main) (l : Nat) : Option Cell :=
  (vget m.ylm.next l none).bind fun c => if isTx c.word && !c.shadow && !c.idle then some c else none

/-- FILL_DEADLINE; `late` is the mask of lanes whose payload is not sealed. -/
def fillDeadline (late : Nat) (m : Main) : Main :=
  match runImg m with
  | none => m
  | some b =>
    (List.range 8).foldl (fun m l =>
      match ownCell m l with
      | some c => if CellW.action c.word = 8 then m else deadlineCell (bitOf late l) l c b m
      | none => m) m

/-- BIND_CUTOFF: what is bound to the WAVE_RESERVE cells of the coming slot is taken; a cell with nothing bound is unused. A cell
whose decision came late sends nothing and is not counted. -/
def bindCutoff (m : Main) : Main :=
  match runImg m with
  | none => m
  | some b =>
    (List.range 8).foldl (fun m l =>
      match ownCell m l with
      | some c =>
        if CellW.action c.word ≠ 8 then m
        else
          match sourceCell b c.start l c.word with
          | none => idleCell l (ylmUnused l m)
          | some s =>
            if boundLate m s l then idleCell l m
            else if m.bit F.RED_STATUS_MUTED || m.key.work[0].isNone then idleCell l (ylmUnused l m)
            else
              match frameOf m s l with
              | none => idleCell l (ylmUnused l m)
              | some f =>
                let m : Main := { m with ylm := { m.ylm with next := vmod m.ylm.next l fun k => k.map fun k => { k with frame := some f } } }
                if fits b l c.word f then m
                else idleCell l (underrun l c.start ((m.count F.YLM_OVERLENGTH l).putBit F.YLM_ERR_OVERLENGTH true))
      | none => m) m

def execSlotFetch (s : State) : Result := s.onMain slotFetch
def execFillDeadline (late : Nat) (s : State) : Result := s.onMain (fillDeadline late)
def execBindCutoff (s : State) : Result := s.onMain bindCutoff

end Sys2Proof.Machine
end

