-- ==== Sys2Proof/Machine/Cells.lean ====
section
/-!
DEFINITION. The beginning and the end of cells (R39, R41, R97, R99, R102–R105, R198), and the slot boundary (R20, R54, R165, R202,
R236).
-/
namespace Sys2Proof.Machine

/-! ### CELL_START -/

/-- The frame of a lane that has been fetched for the present slot will go out, faults of its antenna apart. -/
def willSend (m : Main) (l : Nat) : Bool :=
  match vget m.ylm.next l none with
  | some c => isTx c.word && !c.shadow && !c.idle && c.frame.isSome && c.start == m.slotNow && !(laneOf m l).skip && !m.bit F.RED_STATUS_MUTED
  | none => false

/-- The cell that a lane transmits in during the present slot, if it transmits. -/
def txCell (m : Main) (l : Nat) : Option Cell :=
  if laneState m l = 3 then (if (laneOf m l).sentIn m.slotNow then vget m.ylm.cells l none else none)
  else if willSend m l then vget m.ylm.next l none
  else none

/-- The partner lane transmits in the present slot (R100, R103): a faulty one that has no cell to probe in and no fall back skips its. -/
def partnerSends (m : Main) (b : Img) (l : Nat) : Bool :=
  let k := partnerLane l
  match txCell m k with
  | some c => laneState m k == 3 || !antFault m k || !(laneOf m k).txSeen || (chanAt b k (CellW.chan c.word)).txFallback
  | none => false

/-- A power in 0.5 dB steps as the lane sends it on an antenna: 6 dB below POWER but not below 0 dBm after a frame that was not OK (R102),
and 3 dB less while the amplifier is hot (R104). -/
def setPowerOf (m : Main) (l ant power : Nat) : Int :=
  let p : Int := if vget (laneOf m l).reduced ant false then ((power - 12 : Nat) : Int) else power
  if laneFault m l 6 then p - 6 else p

/-- How a lane sends a frame: the antenna (0 own, 1 partner), the power in 0.5 dB steps, or the attenuation in dB of a power-line
lane, and whether it is a probe; none where it skips the cell (R102–R105). `first` says that the cell is the lane's first transmit
cell of the course, in which alone it probes. -/
def txPlan (m : Main) (b : Img) (e : Chan) (l : Nat) (first : Bool) : Option (Nat × Int × Bool) :=
  let g := laneOf m l
  if l < 4 then
    if !antFault m l then some (0, setPowerOf m l 0 e.power, false)
    else if first then some (0, 0, true)
    else if e.txFallback && !partnerSends m b l then some (1, setPowerOf m l 1 e.power, false)
    else none
  else if g.thermal = 2 then none
  else
    let level := e.power + (if laneFault m l 2 then 6 else 0)
    if !laneFault m l 0 then some (0, level, false)
    else if first then some (0, level + 12, true)
    else none

/-- Two cells of radio lanes are on frequencies whose bands overlap (R97). -/
def cellsOverlap (b : Img) (l : Nat) (s w : Nat) (k : Nat) (t v : Nat) : Bool :=
  bandsOverlap (freqOf b s l w) (spacing (chanAt b l (CellW.chan w)).mode) (freqOf b t k v) (spacing (chanAt b k (CellW.chan v)).mode)

/-- The radio lanes below `n` that transmit in the present slot, with their cells. -/
def sending (m : Main) (b : Img) : Nat → List (Nat × Cell)
  | 0 => []
  | n + 1 =>
    let below := sending m b n
    match txCell m n with
    | some c =>
      let goes := laneState m n == 3 ||
        ((txPlan m b (chanAt b n (CellW.chan c.word)) n (!(laneOf m n).txSeen)).isSome &&
          !below.any fun d => cellsOverlap b n c.start c.word d.1 d.2.start d.2.word)
      if goes then below ++ [(n, c)] else below
    | none => below

/-- Slots after its first in which a frame of a cell is still on the air (R30). -/
def laterSlots (air : Nat) : List Nat := (List.range 8).filter fun k => k != 0 && decide (30000 * k < 750 + air)

/-- A lower-numbered radio lane transmits in a slot of the frame, on an overlapping band (R97): in the present slot, or in a cell with plan
content that begins under the frame. -/
def collides (m : Main) (b : Img) (l : Nat) (c : Cell) (air : Nat) : Bool :=
  l < 4 &&
  ((sending m b l).any (fun d => cellsOverlap b l c.start c.word d.1 d.2.start d.2.word) ||
   (laterSlots air).any fun s => (List.range l).any fun k =>
     let w := wordAt b (c.start + s) k
     (CellW.action w == 1 || CellW.action w == 4) && CellW.seat w == ownSeat m && cellsOverlap b l c.start c.word k (c.start + s) w)

/-- The trace of a cell (R508). -/
def cellTrace (l action : Nat) (c : Cell) (spar : Nat) (m : Main) : Main :=
  sky m 0x01 (l * 2 ^ 29 + action * 2 ^ 24 + CellW.seat c.word * 2 ^ 23 + c.start % 100 * 2 ^ 16 + spar % 65536) (some l)

/-- A higher-numbered radio lane still on the air on an overlapping band gives way to a lane that begins (R97). -/
def yieldTo (b : Img) (l : Nat) (c : Cell) (m : Main) : Main :=
  if 4 ≤ l then m
  else
    (List.range 4).foldl (fun m k =>
      match if l < k then txCell m k else none with
      | some d =>
        if laneState m k = 3 ∧ cellsOverlap b l c.start c.word k d.start d.word then setLane k 1 (m.count F.TLR_COLLISIONS k) else m
      | none => m) m

/-- A frame goes out (R30, R113): the lane, its airtime, what the status registers show of a beacon, and event 27. A beacon that goes out
begins the count of QUIET (R129). -/
def putOnAir (b : Img) (l : Nat) (c : Cell) (f : TlpFrame) (plan : Nat × Int × Bool) (m : Main) : Main :=
  let e := chanAt b l (CellW.chan c.word)
  let f : TlpFrame := { f with copy := CellW.seat c.word }
  let air := airtime e (psduLen l (16 + f.body.length))
  let m := withLane l (fun g => { g with
    wasProbe := plan.2.2, setPower := plan.2.1, air := g.air + air, txSlot := c.start, txAir := air }) (yieldTo b l c m)
  let m := (setChan l (CellW.chan c.word) (setLane l 3 m)).count F.YLM_TX_CELLS l
  let m := if l < 4 then m.put F.TLR_LANE_STATUS_ANT_TX plan.1 l else m
  let m := m.emit (.laneTx l c.start (CellW.chan c.word) f.octets)
  let m := if plan.2.2 then m.emit (.laneProbe l c.start) else m
  let m := if f.typ = 0 then
      let m : Main := { m with ctx := { m.ctx with beaconed := true } }
      (m.put F.TLP_PE_STATUS_QUIET_NOW (lle f.body 6 1)).putBit F.TLP_PE_STATUS_REJOIN_NOW (bitOf (lle f.body 7 1) 0)
    else m
  let m := fireIf (f.typ == 5 && (lle f.body 0 1 == 1 || lle f.body 0 1 == 7)) 27 m
  cellTrace l (CellW.action c.word) c f.spar m

/-- A cell of the own seat that sends nothing. -/
def emptyCell (l : Nat) (c : Cell) (m : Main) : Main :=
  cellTrace l (CellW.action c.word) c 0 (if lanesOn m then setChan l (CellW.chan c.word) (setLane l 1 m) else m)

/-- A transmit cell of the own seat; `first` says that it is its lane's first of the course. A lane that skips a cell leaves ANT_TX as the
last frame set it: the rules list a code for none and name no occasion of it (DESIGN CHOICE, log entry 64). -/
def ownTx (b : Img) (l : Nat) (first : Bool) (c : Cell) (m : Main) : Main :=
  let quiet (m : Main) : Main := emptyCell l c m
  match c.idle, c.frame with
  | true, _ => quiet (m.emit (.laneIdle l c.start))
  | false, none => quiet (ylmUnused l m)
  | false, some f =>
    let e := chanAt b l (CellW.chan c.word)
    if m.mode = Md.hold then (m.count F.HOLD_SKIPPED).emit (.laneIdle l c.start)
    else if m.bit F.RED_STATUS_MUTED then quiet (ylmUnused l m)
    else if (laneOf m l).skip then quiet m
    else if collides m b l c (airtime e (psduLen l (16 + f.body.length))) then quiet (m.count F.TLR_COLLISIONS l)
    else
      match txPlan m b e l first with
      | none => quiet (faultSkipped l m)
      | some p => putOnAir b l c f p m

/-- What the seat-0 cell of a frame sets going, whether or not this module sends it: the base commands of a SHEAF or DIRECT, and the
entries of a WAVE (R198). -/
def beginSeat0 (l : Nat) (c : Cell) (m : Main) : Main :=
  placeBound l c.start { m with ctx := { m.ctx with baseCmds := m.ctx.baseCmds ++ c.entries } }

/-- CELL_START: the cell that was fetched for this slot begins on a lane. -/
def cellStart (l : Nat) (m : Main) : Main :=
  match vget m.ylm.next l none, runImg m with
  | some c, some b =>
    let c : Cell := if c.shadow && m.exec == Ex.running then { c with frame := (sourceCell b c.start l c.word).bind fun s => frameOf m s l } else c
    if c.start ≠ m.slotNow then m
    else
      let skip := (laneOf m l).skip
      let m : Main := { m with ylm := { m.ylm with
        next := vmod m.ylm.next l fun _ => none, cells := vmod m.ylm.cells l fun _ => some { c with idle := c.idle || skip } } }
      let done := withLane l fun g => { g with skip := false }
      if !cellsRun m then done m
      else done (
        let m := if isTx c.word && CellW.seat c.word == 0 && m.exec == Ex.running then beginSeat0 l c m else m
        if isTx c.word && !c.shadow then
          ownTx b l (!(laneOf m l).txSeen) c (withLane l (fun g => { g with txSeen := true }) m)
        else if !lanesOn m then m
        else if skip then emptyCell l c m
        else if c.shadow then cellTrace l 9 c 0 (setChan l (CellW.chan c.word) (setLane l 5 m))
        else if isRx c.word then
          withLane l (fun g => { g with rxSeen := true }) (cellTrace l (CellW.action c.word) c 0 (setChan l (CellW.chan c.word) (setLane l 4 m)))
        else emptyCell l c m)
  | _, _ => m

/-! ### SLOT_BOUNDARY -/

/-- The partner's seat sends in a cell: a frame was built for it here, or it has content by the plan (R41, R421; log entry 67). -/
def partnerFrame (m : Main) (l : Nat) (c : Cell) : Bool :=
  c.frame.isSome || ((CellW.action c.word == 1 || CellW.action c.word == 4) &&
    (match runImg m with | some b => (sourceCell b c.start l c.word).isSome | none => false))

/-- The cell of a lane ends: a frame of the partner's seat that was not heard is missed (R41, R421). -/
def cellEnd (abs : Nat) (m : Main) (l : Nat) : Main :=
  match vget m.ylm.cells l none with
  | some c =>
    if abs < c.start + CellW.len c.word then m
    else
      let m : Main := { m with ylm := { m.ylm with cells := vmod m.ylm.cells l fun _ => none } }
      let m := if laneState m l = 0 then m else setLane l 1 m
      if c.shadow && partnerFrame m l c && !c.heard && !c.idle then m.count F.YLM_SHADOW_MISSED l else m
  | none => m

/-- MUTED is set and cleared at slot boundaries (R425, R427). -/
def muteStep (m : Main) : Main :=
  let m := if m.red.clearPend then (m.putBit F.RED_STATUS_MUTED false).putBit F.RED_STATUS_IN_SYNC true else m
  let m := if m.red.mutePend then m.putBit F.RED_STATUS_MUTED true else m
  { m with red := { m.red with mutePend := false, clearPend := false } }

/-- The last slot boundary of a course leaves what its digest shows (R423). -/
def keepLast (abs : Nat) (m : Main) : Main :=
  if abs % 100 = 99 then
    let l : LastSlot := ⟨abs, (List.range 4).map (modelTgt m), (List.range 16).map fun g => m.get F.PUR_SCALE_SCALE g, wavesBusy m⟩
    { m with red := { m.red with last := some l } }
  else m

/-- SLOT_BOUNDARY of the slot `abs`, as 100 × TAI seconds + slot. A slot that does not follow the last one shows a jump of the
clock: the profile state is computed anew (R28, R57). -/
def slotBoundary (abs : Nat) (m : Main) : Main :=
  if !awake m then m else
  let jump := abs != m.slotNow + 1 && abs != m.slotNow
  let m : Main := { reachClock (10000000 * abs) m with ylm := { m.ylm with slot := abs } }
  let m := m.put F.YLM_COURSE_SLOT (abs % 100)
  let m := (List.range 8).foldl (cellEnd abs) m
  let m := muteStep m
  let m := if jump then recomputeProfile abs m else almanacDue abs m
  let m := keepScales m
  let m := submitScales (applyInputs abs m)
  let m := if m.exec = Ex.noPlan ∨ m.exec = Ex.loading then m else slotUpdate abs m
  let m := keepLast abs (freeWaves abs m)
  if m.ylm.deferred then fetchSlot abs m else m

def execCellStart (l : Fin 8) (s : State) : Result := s.onMain (cellStart l)
def execSlotBoundary (abs : Nat) (s : State) : Result := s.onMain (slotBoundary abs)

end Sys2Proof.Machine
end

