-- ==== Sys2Proof/Machine/Ligger.lean ====
section
/-!
DEFINITION. Lantern images and ligger chains (R530–R536, R538): the held image, the progress table, and the start, stop and
resume of chains.
-/
namespace Sys2Proof.Machine

/-- A progress record on UPL6, with event 61 (R538). -/
def progressRec (kind a b c : Nat) (m : Main) : Main :=
  fire 61 (uplPost 6 (leBytes 1 kind ++ zeros 3 ++ leBytes 4 a ++ leBytes 4 b ++ leBytes 4 c ++ zeros 16) m)

/-! ### The progress table (R534, R539): 0 none, 1 pending, 2 confirmed, 3 refused, 4 gap -/

def progressOf (m : Main) (i : Nat) : Nat := sget (fun _ => 0) m.upd.progress i

/-- UPD_LCOUNT and UPD_LPROG. -/
def showProgress (m : Main) : Main :=
  let n (v : Nat) : Nat := (m.upd.progress.filter fun p => p.2 == v).length
  ((m.put F.UPD_LCOUNT_CONFIRMED (n 2)).put F.UPD_LCOUNT_PENDING (n 1)).put F.UPD_LPROG_VALUE (progressOf m (m.get F.UPD_LSEL_INDEX))

def setProgress (i v : Nat) (m : Main) : Main :=
  showProgress { m with upd := { m.upd with progress := sset (fun _ => 0) m.upd.progress i v } }

/-- The chain that holds a lantern (R531). -/
def chainWith (b : Img) (i : Nat) : Option Nat := (List.range (sectCount b 15)).find? fun c => (chainLanterns b c).contains i

/-- A running chain whose lanterns are all confirmed or refused is done. -/
def chainDone (b : Img) (c : Nat) (m : Main) : Main :=
  let ls := chainLanterns b c
  if (chainOf m c).isSome && ls.all (fun i => progressOf m i == 2 || progressOf m i == 3) then
    progressRec 0x12 c (ls.filter fun i => progressOf m i == 2).length (ls.filter fun i => progressOf m i == 3).length (withChain c none m)
  else m

/-- The outcome of a lantern is recorded. -/
def lanternOutcome (b : Img) (i v : Nat) (m : Main) : Main :=
  match chainWith b i with
  | some c => chainDone b c (progressRec 0x10 i c v (setProgress i v m))
  | none => m

/-- An ACK of an IMAGE frame (R534): RESULT 0 confirmed, 1 refused, 2 gap. -/
def imageAck (b : Img) (i : Nat) (body : List Byte) (m : Main) : Main :=
  let r := lle body 4 1
  if lle body 0 1 = 4 ∧ r ≤ 2 then lanternOutcome b i (r + 2) m else m

/-! ### Starting, stopping and resuming (R535, R536) -/

/-- A course boundary at least 2 courses ahead. -/
def liggerBoundary (m : Main) : Nat := m.course + 3

/-- An action is set for a boundary, and the partner is told of it: 1 start, 2 stop, 3 resume. -/
def schedule (action c named : Nat) (m : Main) : Main :=
  let at' := liggerBoundary m
  let m : Main := { m with upd := { m.upd with sched := m.upd.sched ++ [(at', action, c, named)] } }
  toPartner (beBytes 1 0x23 ++ beBytes 1 action ++ beBytes 2 c ++ beBytes 6 at' ++ beBytes 2 named) m

/-- The first lantern of a chain's map that is not confirmed, and the last confirmed one before it. -/
def firstOpen (m : Main) (b : Img) (c : Nat) (k : LChain) : Option (Nat × Nat) :=
  let ls := (chainLanterns b c).filter fun i => !k.out.contains i
  (ls.find? fun i => progressOf m i != 2).map fun u =>
    (u, ((ls.takeWhile (· != u)).filter fun i => progressOf m i == 2).getLastD 0xFFFF)

/-- The sequence of a chain has stood without the confirmation of its first open lantern for long enough (R535). -/
def overdue (m : Main) (k : LChain) : Bool :=
  match k.lastAt with
  | some t => decide (3 * (limgSegs m + 1 + 64) ≤ m.course - t)
  | none => false

/-- LIGGER_RESUME: the active module resumes a chain; after three resumes for one lantern it leaves that lantern out. -/
def liggerResume (c : Nat) (m : Main) : Main :=
  match runImg m, chainOf m c with
  | some b, some k =>
    if standby m || !overdue m k then m
    else
      match firstOpen m b c k with
      | none => m
      | some (u, _) =>
        let tries := if k.resumed = u then k.tries else 0
        let r : LChain × Main :=
          if tries < 3 then ({ k with resumed := u, tries := tries + 1 }, m)
          else
            let k : LChain := { k with out := k.out ++ [u] }
            let m := progressRec 0x10 u c 3 (setProgress u 3 m)
            match firstOpen m b c k with
            | some (v, _) => ({ k with resumed := v, tries := 1 }, m)
            | none => (k, m)
        match firstOpen r.2 b c r.1 with
        | some (_, named) => schedule 3 c named (withChain c (some { r.1 with lastAt := none }) r.2)
        | none => chainDone b c (withChain c (some r.1) r.2)
  | _, _ => m

/-- An action at its boundary. -/
def liggerAct (action c named : Nat) (m : Main) : Main :=
  match action with
  | 1 =>
    match runImg m with
    | some b =>
      let m := (chainLanterns b c).foldl (fun m i => if progressOf m i = 0 then setProgress i 1 m else m) m
      withChain c (some ⟨0, 0xFFFF, 0, none, [], 0xFFFF, 0⟩) m
    | none => m
  | 2 => withChain c none m
  | _ =>
    match chainOf m c with
    | some k =>
      let n := (k.resume + 1) % 256
      progressRec 0x11 c n named (withChain c (some { k with resume := n, named := named, seg := 0, lastAt := none }) m)
    | none => m

/-- LIGGER_BOUNDARY: what is set for this boundary, or an earlier one, takes effect. -/
def liggerBoundaryStep (m : Main) : Main :=
  let due := m.upd.sched.filter fun x => decide (x.1 ≤ m.course)
  due.foldl (fun m x => liggerAct x.2.1 x.2.2.1 x.2.2.2 m)
    { m with upd := { m.upd with sched := m.upd.sched.filter fun x => decide (m.course < x.1) } }

/-- LIGGER (R536): the active module has named a boundary: KIND 0x23, ACTION, CHAIN, BOUNDARY, RESUME. -/
def liggerRx (f : RidgeFrame) (m : Main) : Main :=
  let p := f.payload
  if fromPartner m f && standby m && f.kind == 0x23 then
    { m with upd := { m.upd with sched := m.upd.sched ++ [(lbe p 4 6, lbe p 1 1, lbe p 2 2, lbe p 10 2)] } }
  else m

/-! ### Commands (R522, R530) -/

def limgBytes (m : Main) (o n : Nat) : List Byte := (List.range n).map fun i => limgByte m (o + i)

/-- The manifest of R530 is well formed, and its CMAC holds under K_IMG. -/
def manifestOk (m : Main) : Bool :=
  limgLe m 0 4 == 0x494C5A55 && limgLe m 6 2 == 0 && decide (256 ≤ limgLe m 12 4) && decide (limgLe m 12 4 ≤ 2097088) &&
    m.key.work[3].any fun k => Cipher.cmac k.key.bytes (limgBytes m 0 48) == limgBytes m 48 16

/-- IMAGE_HASH is the SHA-256 of the bytes after the manifest (R530). -/
def limgHashOk (m : Main) : Bool := Cipher.sha256 (limgBytes m 64 (limgLe m 12 4)) == lbe (limgBytes m 16 32) 0 32

/-- LIMG_WRITE: a chunk of the lantern image; the first begins with the manifest. -/
def limgWriteData (d : Desc) (data : List Byte) (m : Main) : Main × Reply :=
  let first := bitOf d.param 0
  let last := bitOf d.param 1
  let drop (m : Main) : Main :=
    ({ m with upd := { m.upd with limg := [], limgOk := false, limgPos := none } } : Main).put F.UPD_LIMG 0
  if bitOf d.param 2 then (if m.upd.limgPos.isSome then drop m else m, .done 0)
  else if first && !m.upd.chains.isEmpty then (m, .refused d 0x24)
  else
    let m := if first then { drop m with upd := { (drop m).upd with limgPos := some 0 } } else m
    match m.upd.limgPos with
    | none => (m, .refused d 0x23)
    | some pos =>
      let m : Main := { m with upd := { m.upd with limg := appendImg m.upd.limg pos data, limgPos := some (pos + data.length) } }
      let n := pos + data.length
      if first && !(decide (64 ≤ n) && manifestOk m) then (drop m, .refused d 0x23)
      else if 64 + limgLe m 12 4 < n then (drop m, .refused d 0x23)
      else if !last then (m, .done d.length)
      else if n = 64 + limgLe m 12 4 ∧ limgHashOk m then
        let id := limgLe m 16 4
        let m : Main := { m with upd := { m.upd with
          limgOk := true, limgPos := none, limgId := id, progress := if m.upd.limgId = id then m.upd.progress else [] } }
        (showProgress (m.put F.UPD_LIMG id), .done d.length)
      else (drop m, .refused d 0x23)

def limgWrite (r : Fin 8) (d : Desc) : Main → Main :=
  cmdNow r d ⟨isOp 0x0811, d.length == 0 && bitOf d.param 2, fun d => if bitOf d.param 2 then d.length == 0 else decide (4 ≤ d.length), 7, 0, openGate⟩
    (limgWriteData d)

/-- LIMG_START and LIMG_STOP name one chain, or ALL. -/
def chainsOf (b : Img) (d : Desc) : List Nat := if bitOf d.param 10 then List.range (sectCount b 15) else [d.param % 1024]

def limgStart (r : Fin 8) (d : Desc) : Main → Main :=
  cmdNow r d (.plain 0x0812 0x7FF activeGate) fun _ m =>
    match runImg m with
    | some b =>
      if !m.upd.limgOk then (m, .fail St.refused 0x25)
      else if (sect b 15).isNone ∨ (!bitOf d.param 10 ∧ sectCount b 15 ≤ d.param % 1024) then (m, .fail St.refused 0x26)
      else ((chainsOf b d).foldl (fun m c => schedule 1 c 0xFFFF m) m, .done 0)
    | none => (m, .fail St.refused (if m.upd.limgOk then 0x26 else 0x25))

def limgStop (r : Fin 8) (d : Desc) : Main → Main :=
  cmdNow r d (.plain 0x0813 0x7FF activeGate) fun _ m =>
    match runImg m with
    | some b => ((chainsOf b d).foldl (fun m c => schedule 2 c 0xFFFF m) m, .done 0)
    | none => (m, .done 0)

def execLigger (f : RidgeFrame) (s : State) : Result := s.onMain (liggerRx f)
def execLiggerBoundary (s : State) : Result := s.onMain liggerBoundaryStep
def execLiggerResume (c : Fin 1024) (s : State) : Result := s.onMain (liggerResume c)
def execLimgWrite (r : Fin 8) (d : Desc) (s : State) : Result := s.onMain (limgWrite r d)
def execLimgStart (r : Fin 8) (d : Desc) (s : State) : Result := s.onMain (limgStart r d)
def execLimgStop (r : Fin 8) (d : Desc) (s : State) : Result := s.onMain (limgStop r d)

end Sys2Proof.Machine
end

