-- ==== Sys2Proof/Machine/Intake.lean ====
section
/-!
DEFINITION. Intake at the module (R124–R126, R138, R148, R149, R173–R184): a packet taken from a gutter, its checks, and where it
goes.
-/
namespace Sys2Proof.Machine

/-! ### Formats (R112) -/

/-- TYPE and the length of the body agree, and DIR matches the direction of the type. -/
def formatOk (f : TlpFrame) : Bool :=
  let n := f.body.length
  let up := bitOf f.sender 15
  match f.typ with
  | 0x0 => n == 12 && !up
  | 0x1 => n == 132 && !up
  | 0x2 => n % 8 == 0 && 16 ≤ n && n ≤ 264 && !up
  | 0x3 => n == 8 && !up
  | 0x4 => n == 268 && !up
  | 0x5 => 4 ≤ n && n ≤ 68 && !up
  | 0x8 => n == 20 && up
  | 0x9 => n == 12 && up
  | 0xA => n == 8 && up
  | 0xB => n == 22 && up
  | 0xC => n == 8 && up
  | _ => false

/-! ### The order of service (R177) -/

/-- The gutter whose head packet is taken: DETECT first, in turn from the gutter after the last served. -/
def pickGutter (m : Main) : Option Nat :=
  let order := (List.range 8).map fun k => (m.ctx.served + 1 + k) % 8
  match order.find? fun l => (gutter m l).headType == some 0xA with
  | some l => some l
  | none => order.find? fun l => (gutter m l).packets != 0

/-! ### The checks (R125) -/

/-- A packet is dropped under a counter of R154, with its trace. -/
def dropPacket (l n lantern : Nat) (m : Main) : Main :=
  sky (peCount n m) 0x04 (l * 2 ^ 29 + n * 2 ^ 16 + lantern % 8192) (some l) (some (lantern % 8192))

/-- JK is set. -/
def joinKeyed (f : TlpFrame) : Bool := bitOf f.sender 14

/-- The EUI that a JOIN carries. -/
def joinEui (f : TlpFrame) : Nat := lle f.body 0 8

/-- EPOCH is acceptable for a frame received in course `rx` (R118): 0 not, 1 the running epoch, 2 the previous one. -/
def epochKind (m : Main) (b : Img) (f : TlpFrame) (rx : Nat) : Nat :=
  if f.epoch = Hdr.epoch b then 1
  else if prevAccepted m rx && m.ctx.prevEpoch == some f.epoch then 2
  else 0

/-- The first check from 2 to 7 that a frame fails, as its counter. -/
def intakeFail (m : Main) (b : Img) (p : Packet) (f : TlpFrame) : Option Nat :=
  if !(decide (16 ≤ p.octets.length) && formatOk f) then some 1
  else if !bitOf f.sender 15 then some (if ownDownlink b f then 3 else 2)
  else if m.key.work[0].isNone then some 7
  else if epochKind m b f p.rxCourse = 0 then some 4
  else if 64 < (p.rxCourse + 256 - f.courseLo % 256) % 256 ∨ 4 < f.hops then some 8
  else if !joinKeyed f ∧
      !(decide (f.sender % 8192 < Hdr.lanterns b) && !bitOf f.sender 13 && (ctxOf m (f.sender % 8192)).live && (ctxOf m (f.sender % 8192)).joined) then some 5
  else none

/-- The seal of a received frame's fields under a key (R115, R117). -/
def rxSeal (p : Packet) (k : TlpKey) : TlpSeal := ⟨k, originCourse p.rxCourse (lle p.octets 6 1) % 2 ^ 32⟩

/-- The fields of a packet's frame, its body still sealed. -/
def rxFields (p : Packet) : TlpFrame := tlpParse p.octets (rxSeal p (.epoch 0 0))

/-- Check 8: the frame in clear, where its MIC verifies under K_E of an epoch, or under the join key of the EUI that a JOIN carries. -/
def openRx (m : Main) (p : Packet) (epoch : Nat) : Option TlpFrame :=
  match m.key.work[0] with
  | none => none
  | some k =>
    let f := rxFields p
    if joinKeyed f then (if f.typ = 0xB then tlpOpen p.octets (rxSeal p (.join k.key (joinEui f))) else none)
    else tlpOpen p.octets (rxSeal p (.epoch k.key epoch))

/-! ### Routes (R126) -/

/-- Counts of a TALLY join the context's, each saturating. -/
def addTally (body : List Byte) (c : Ctx) : Ctx :=
  { c with tally := (List.range 4).map fun i => min 65535 (c.tally.getD i 0 + lle body (4 + 2 * i) 2) }

/-- Seconds in interval `k`: 1, 5 and 15 minutes. -/
def zoneSpan (k : Nat) : Nat := match k with
  | 0 => 60
  | 1 => 300
  | _ => 900

/-- A count joins a saturating counter of 32 bits. -/
def satAdd (s : Sparse Nat) (k n : Nat) : Sparse Nat := sset (fun _ => 0) s k (min (sget (fun _ => 0) s k + n) (2 ^ 32 - 1))

/-- A zone's counters of the three intervals take a TALLY received in course `rx` (R184): the running counter where `rx` lies in the
present interval, the completed one where it lies in the interval before. -/
def addZone (rx : Nat) (body : List Byte) (m : Main) : Main :=
  let z := lle body 0 2
  if 511 < z then m
  else
    (List.range 12).foldl (fun m k =>
      let n := lle body (4 + 2 * (k % 4)) 2
      let back := utcOf m m.course / zoneSpan (k / 4) - utcOf m rx / zoneSpan (k / 4)
      if back = 0 then { m with ctx := { m.ctx with run := satAdd m.ctx.run (12 * z + k) n } }
      else if back = 1 then { m with ctx := { m.ctx with done := satAdd m.ctx.done (12 * z + k) n } }
      else m) m

/-- The context's fields that a REPORT writes. -/
def reportCtx (body : List Byte) (c : Ctx) : Ctx :=
  { c with status := lle body 0 2, faults := lle body 2 2, energy := lle body 6 4, lux := lle body 10 2, temp := lle body 12 1,
           link := lle body 13 1, fw := lle body 14 4 }

/-- A join answer joins the queue. Of two for one EUI and slot only the later counts (R23). -/
def pushAnswer (q : JoinReq) (m : Main) : Main :=
  showJoins { m with ctx := { m.ctx with joinQ := (m.ctx.joinQ.filter fun x => !(x.eui == q.eui && x.slot == q.slot)) ++ [q] } }

/-- The rafter cores take a JOIN (R148, R149): the active module queues its answer and accepts it as an input. One that would be the
65th input of a heartbeat interval (R417) is dropped as one that finds the queue full (DESIGN CHOICE, log entry 68). -/
def takeJoin (b : Img) (f : TlpFrame) (l : Nat) (m : Main) : Main :=
  let eui := joinEui f
  if standby m then m
  else if 256 ≤ m.ctx.joinQ.length ∨ !inputRoom m then dropPacket l 14 0 m
  else
    let push (a : JoinAns) (k : InputKind) (m : Main) : Main := acceptInput k (pushAnswer ⟨eui, a, inputSlot m⟩ m)
    match lanternOf b eui with
    | none => push (.refuse 1) (.join eui 1) m
    | some i =>
      let keep := lbe f.body 10 4 == schedHash b i
      if keep && lle f.body 8 2 == i then push (.confirm i) (.confirm (i / 64) (2 ^ (i % 64))) m
      else push (.accept i keep) (.join eui 0) m

/-- A MIC-valid frame of a lantern: LAST_HEARD, the lanterns heard (R68), and the lantern is no longer silent. -/
def heardFrom (i l : Nat) (p : Packet) (m : Main) : Main :=
  let m := withCtx i (fun c => { c with lastHeard := p.rxCourse % 2 ^ 32 }) m
  let cur := m.ylm.cur
  { m with
    ctx := { m.ctx with silent := m.ctx.silent.filter (· != i) }
    ylm := { m.ylm with cur := { cur with heard := if cur.heard.contains (l, i) then cur.heard else (l, i) :: cur.heard } } }

/-- The lantern's last spar (R124). -/
def takeSpar (i spar : Nat) : Main → Main := withCtx i fun c => { c with lastSpar := spar % 65536 }

/-- A new frame goes where its type sends it. -/
def routeFrame (b : Img) (i l us : Nat) (p : Packet) (f : TlpFrame) (m : Main) : Main :=
  let rec' := upRecord f.typ l i (p.rxCourse % 2 ^ 32) p.rxSlot 0 f.spar f.body
  let post (k : Nat) (m : Main) : Main := coalPost k i (p.rxCourse % 2 ^ 32) p.rxSlot rec' m
  match f.typ with
  | 0x8 => post 0 (withCtx i (reportCtx f.body) m)
  | 0x9 => post 1 (addZone p.rxCourse f.body (withCtx i (addTally f.body) m))
  | 0xA =>
    let m := sky m 0x05 (l * 2 ^ 29 + lle f.body 0 1 * 2 ^ 16 + i) none (some i)
    let m := post 2 m
    if standby m then forwardDetect ⟨i, f.spar, p.rxCourse, p.rxSlot, l, f.body⟩ m else detect 0 i f.body p.rxCourse us m
  | 0xC => imageAck b i f.body m
  | _ => m

/-- An uplink frame, a failed MIC, a MIC-valid REPORT count for R68. -/
def countUplink (l : Nat) (m : Main) : Main :=
  { m with ylm := { m.ylm with cur := { m.ylm.cur with frames := vmod m.ylm.cur.frames l (· + 1) } } }
def countMicFail (l : Nat) (m : Main) : Main :=
  { m with ylm := { m.ylm with cur := { m.ylm.cur with micFail := vmod m.ylm.cur.micFail l (· + 1) } } }
def countReport (l : Nat) (m : Main) : Main :=
  { m with ylm := { m.ylm with cur := { m.ylm.cur with reports := vmod m.ylm.cur.reports l (· + 1) } } }

/-- A MIC-valid frame in clear: check 9, and its route. -/
def takeFrameRx (b : Img) (l us : Nat) (p : Packet) (f : TlpFrame) (m : Main) : Main :=
  if f.typ = 0xB then
    let m := match lanternOf b (joinEui f) with
      | some j => takeSpar j f.spar (heardFrom j l p m)
      | none => m
    takeJoin b f l m
  else
    let i := f.sender % 8192
    let m := heardFrom i l p m
    let m := if f.typ = 0x8 then countReport l m else m
    let t := sparTest (ctxOf m i).lastSpar f.spar
    if t ≠ 0 then dropPacket l t i m else routeFrame b i l us p f (takeSpar i f.spar m)

/-- Check 8 of a packet that has passed the others, and what follows it. The MIC is tried under the running epoch's key, then, with
the packet read again from its mark, under the previous epoch's where that one is named (R118, R179). -/
def intakeRoute (b : Img) (l us : Nat) (p : Packet) (g : Gutter) (m : Main) : Main :=
  let f := rxFields p
  match openRx m p (Hdr.epoch b) with
  | some x => takeFrameRx b l us p x m
  | none =>
    let again := packetOf (g.rewind.readPacket 76).1 m.course
    match if epochKind m b f p.rxCourse = 2 then openRx m again f.epoch else none with
    | some x => takeFrameRx b l us p x (peCount 11 m)
    | none => dropPacket l 6 (if joinKeyed f then 0 else f.sender % 8192) (countMicFail l m)

/-- An uncorrectable ECC error in a context (R166). -/
def eccError (i : Nat) (m : Main) : Main := record 0x0402 i 0 0 0 (withCtx i (fun c => { c with excluded := true }) m)

/-- PACKET_RELEASE: the next packet is marked, read, checked, routed and released, `us` µs into the present slot. `upset` names a word
of it that lost bits in the gutter, with their mask; `ecc` a context in which the step meets an uncorrectable ECC error. -/
def packetRelease (upset : Option (Nat × Nat)) (ecc : Option (Fin 8192)) (us : Nat) (m : Main) : Main :=
  match pickGutter m with
  | none => m
  | some l =>
    let g := gutter m l
    let g := match upset with
      | some (k, mask) => g.upset k mask
      | none => g
    let r := g.setMark.readPacket 76
    let p := packetOf r.1 m.course
    let bad := r.1.any Stage.poison
    let m := withGutter l (fun _ => r.2.release) { m with ctx := { m.ctx with served := l } }
    let m := if bad then fire 15 (m.count F.GUT_POISON l) else m
    let f := rxFields p
    let lantern := if joinKeyed f then 0 else f.sender % 8192
    match runImg m with
    | none => dropPacket l 10 lantern m
    | some b =>
      if m.exec ≠ Ex.running then dropPacket l 10 lantern m
      else if bad then dropPacket l 0 lantern m
      else
        let m := match ecc with
          | some i => eccError i m
          | none => m
        let m := if bitOf f.sender 15 then countUplink l m else m
        match intakeFail m b p f with
        | some n => dropPacket l n lantern m
        | none => intakeRoute b l us p r.2 m

def execPacketRelease (upset : Option (Nat × Nat)) (ecc : Option (Fin 8192)) (us : Nat) (s : State) : Result :=
  s.onMain (packetRelease upset ecc us)

end Sys2Proof.Machine
end

