-- ==== Sys2Proof/Machine/PairSnap.lean ====
section
/-!
DEFINITION. The payloads of the pair's messages (chapter 13): HEARTBEAT (R415, R416), DIGEST (R423) and RESYNC (R426), in both
directions.
-/
namespace Sys2Proof.Machine

/-! ### HEARTBEAT and DIGEST -/

def inRecBytes (r : InRec) : List Byte := beBytes 1 r.kind ++ beBytes 1 r.sub ++ beBytes 6 r.slot ++ (r.arg ++ zeros 8).take 8

def hbBytes (h : HbMsg) : List Byte :=
  beBytes 1 0x20 ++
    beBytes 1 (natOf h.active + 2 * h.seat + 4 * natOf h.muted + 8 * natOf h.inSync + 16 * natOf h.keyReady + 32 * natOf h.plan) ++
    beBytes 1 h.epoch ++ beBytes 1 h.inputs.length ++ beBytes 2 h.hbSeq ++ beBytes 6 h.swapAt ++ beBytes 1 h.swapCause ++ zeros 3 ++
    h.inputs.flatMap inRecBytes

/-- A HEARTBEAT payload; none where a field breaks the layout. -/
def hbOf (o : List Byte) : Option HbMsg :=
  let fl := lbe o 1 1
  let n := lbe o 3 1
  if lbe o 0 1 = 0x20 ∧ fl < 64 ∧ n ≤ 64 ∧ (bitOf fl 0 ∨ n = 0) ∧ lbe o 12 1 ≤ 3 ∧ lbe o 13 3 = 0 ∧ o.length = 16 + 16 * n then
    some { active := bitOf fl 0, seat := bits fl 1 1, muted := bitOf fl 2, inSync := bitOf fl 3, keyReady := bitOf fl 4, plan := bitOf fl 5,
           epoch := lbe o 2 1, hbSeq := lbe o 4 2, swapAt := lbe o 6 6, swapCause := lbe o 12 1,
           inputs := (List.range n).map fun k =>
             ⟨lbe o (16 + 16 * k) 1, lbe o (17 + 16 * k) 1, lbe o (18 + 16 * k) 6, slice o (24 + 16 * k) 8⟩ }
  else none

def digestBytes (d : Digest) : List Byte :=
  beBytes 1 0x21 ++ beBytes 1 d.epoch ++ zeros 2 ++ beBytes 6 d.course ++ beBytes 2 d.frames ++ beBytes 2 d.decSeq ++ beBytes 2 d.inputs ++
    beBytes 16 d.hash ++ d.model.flatMap (beBytes 6) ++ d.scale.flatMap (beBytes 2) ++ beBytes 2 d.busy ++ zeros 2

/-- A DIGEST payload; none where a field breaks the layout. -/
def digestOf (o : List Byte) : Option Digest :=
  if lbe o 0 1 = 0x21 ∧ lbe o 2 2 = 0 ∧ lbe o 90 2 = 0 ∧ o.length = 92 then
    some { epoch := lbe o 1 1, course := lbe o 4 6, frames := lbe o 10 2, decSeq := lbe o 12 2, inputs := lbe o 14 2, hash := lbe o 16 16,
           model := (List.range 4).map fun k => lbe o (32 + 6 * k) 6, scale := (List.range 16).map fun k => lbe o (56 + 2 * k) 2,
           busy := lbe o 88 2 }
  else none

/-! ### RESYNC -/

/-- A message of a resync: CHUNK, CHUNKS, SNAP_COURSE and its data. -/
structure ResyncMsg where
  chunk : Nat
  chunks : Nat
  course : Nat
  data : List Byte
  deriving DecidableEq, Repr

def resyncBytes (x : ResyncMsg) : List Byte :=
  beBytes 1 0x22 ++ zeros 1 ++ beBytes 2 x.chunk ++ beBytes 2 x.chunks ++ beBytes 6 x.course ++ zeros 2 ++ x.data

def resyncOf (o : List Byte) : Option ResyncMsg :=
  if lbe o 0 1 = 0x22 ∧ lbe o 1 1 = 0 ∧ lbe o 12 2 = 0 ∧ 14 ≤ o.length ∧ o.length ≤ 1470 ∧ lbe o 2 2 < lbe o 4 2 then
    some ⟨lbe o 2 2, lbe o 4 2, lbe o 6 6, o.drop 14⟩
  else none

/-! The data of the messages: R426 names what they hold; the order, the counts before the lists, and the forms of the pending entries,
the continuations and the joins are the model's (log entry 33). -/

/-- The instant nearest to `near` with these bits 23:0. -/
def nearest24 (near v : Nat) : Nat :=
  let up := near + 2 ^ 23
  up - (up + 2 ^ 24 - v % 2 ^ 24) % 2 ^ 24

def u16 (v : Nat) : List Byte := beBytes 2 v
/-- A number that may be absent; 0xFFFF says so. -/
def optBytes (v : Option Nat) : List Byte := u16 (v.getD 0xFFFF)
def optOf (v : Nat) : Option Nat := if v = 0xFFFF then none else some v

/-- Bytes 0–61 and 84–85 of a context (R166). -/
def snapCtxBytes (i : Nat) (c : Ctx) : List Byte := (ctxBytes i c).take 62 ++ slice (ctxBytes i c) 84 2

/-- What those bytes say of a context, its other fields as in `own`; `near` is a slot near the snapshot's. -/
def snapCtxOf (near : Nat) (own : Ctx) (o : List Byte) : Ctx :=
  let ident := lle o 0 2
  let fd := lle o 8 1
  let base := lle o 42 2
  let wave := lle o 44 2
  let back := lle o 49 1
  let tgt := lle o 60 2
  { own with
    joined := bitOf ident 13, inPlan := bitOf ident 14, euiRef := lle o 2 2, primary := lle o 4 1, secondary := lle o 5 1,
    relayParent := lle o 6 2, feeder := fd % 4, depth := fd / 4, groups := (List.range (min 8 (lle o 9 1))).map fun k => lle o (10 + k) 1,
    fluxGain := lle o 18 2, cctOffset := signed 8 (lle o 20 1), loopGroup := lle o 21 1, levelMin := lle o 22 2, levelMax := lle o 24 2,
    curve := (List.range 8).map fun k => lle o (26 + 2 * k) 2, base := base % 4096, baseRamp := base / 4096, wave := wave % 4096,
    waveRamp := wave / 4096, waveEnd := nearest24 near (lle o 46 3), back := back % 16, waveOn := bitOf back 4, ovr := lle o 50 2,
    ovrUntil := lle o 52 4, now := lle o 56 4 % 2 ^ 20, target := tgt % 4096, targetRamp := tgt / 4096, zone := lle o 62 2 }

/-- A wave context record (R212). -/
def waveOfBytes (o : List Byte) : WaveCtx :=
  ⟨lle o 0 1, lle o 1 1, lle o 2 2, lle o 4 2, lle o 6 1, lle o 7 1, lle o 8 6, lle o 14 6, lle o 20 6, lle o 26 2⟩

/-- A pending entry in 24 bytes: the step of R208, its wave context and the frame's SPAR. -/
def storedBytes (e : PendEntry × Nat) : List Byte :=
  handoffStep ⟨e.1.lantern, e.1.level, e.1.ramp, e.1.at', e.1.until', e.2, false⟩ ++ optBytes e.1.wave ++ u16 e.1.spar
def storedOf (o : List Byte) : PendEntry × Nat :=
  (⟨lbe o 0 2, lbe o 2 2 % 4096, lbe o 2 2 / 4096, lbe o 8 6, lbe o 14 6, optOf (lbe o 20 2), lbe o 22 2⟩, lbe o 4 1)

/-- A step of a continuation in 22 bytes: the step of R208, and whether it is a zone hold's. -/
def contStepBytes (s : WStep) : List Byte := handoffStep s ++ u16 (natOf s.rel)
def contStepOf (o : List Byte) : WStep :=
  ⟨lbe o 0 2, lbe o 2 2 % 4096, lbe o 2 2 / 4096, lbe o 8 6, lbe o 14 6, lbe o 4 1, lbe o 20 2 == 1⟩

/-- A continuation: eight bytes and its steps. -/
def contBytes (c : Cont) : List Byte := u16 c.waveId ++ optBytes c.wave ++ u16 c.lead ++ u16 c.steps.length ++ c.steps.flatMap contStepBytes
def contOf (o : List Byte) : Cont :=
  ⟨lbe o 0 2, optOf (lbe o 2 2), lbe o 4 2, (List.range (lbe o 6 2)).map fun k => contStepOf (o.drop (8 + 22 * k))⟩

/-- A waiting join answer in 18 bytes. -/
def joinBytes (q : JoinReq) : List Byte :=
  beBytes 8 q.eui ++ beBytes 6 q.slot ++ (match q.ans with
    | .accept l keep => beBytes 1 0 ++ beBytes 1 (natOf keep) ++ u16 l
    | .refuse reason => beBytes 1 1 ++ beBytes 1 reason ++ u16 0
    | .confirm l => beBytes 1 2 ++ beBytes 1 0 ++ u16 l)
def joinOf (o : List Byte) : JoinReq :=
  ⟨lbe o 0 8, match lbe o 14 1 with
    | 0 => .accept (lbe o 16 2) (lbe o 15 1 == 1)
    | 1 => .refuse (lbe o 15 1)
    | _ => .confirm (lbe o 16 2), lbe o 8 6⟩

/-- The contexts by index, their bytes, and the rest of what a snapshot holds. -/
structure Snapshot where
  ctxs : List (List Byte)
  waves : Vector WaveCtx 256
  store : List (PendEntry × Nat)
  conts : Vector (List Cont) 8
  joinQ : List JoinReq
  scales : List Nat
  decSeq : Nat
  deriving DecidableEq, Repr

/-- A list's length and its members. -/
def listBytes {α : Type} (f : α → List Byte) (l : List α) : List Byte := u16 l.length ++ l.flatMap f

def snapBytes (s : Snapshot) : List Byte :=
  listBytes id s.ctxs ++ s.waves.toList.flatMap waveBytes ++ listBytes storedBytes s.store ++ s.conts.toList.flatMap (listBytes contBytes) ++
    listBytes joinBytes s.joinQ ++ s.scales.flatMap u16 ++ u16 s.decSeq

/-- `n` members of `size` bytes each from position `p` on. -/
def membersAt {α : Type} (f : List Byte → α) (size n : Nat) (o : List Byte) (p : Nat) : List α :=
  (List.range n).map fun k => f (slice o (p + size * k) size)

/-- `n` continuations from position `p` on, and the position after them. -/
def contsAt (o : List Byte) : Nat → Nat → List Cont × Nat
  | 0, p => ([], p)
  | n + 1, p =>
    let r := contsAt o n (p + 8 + 22 * lbe o (p + 6) 2)
    (contOf (o.drop p) :: r.1, r.2)

/-- The continuation queues of `n` lanes from position `p` on, and the position after them. -/
def queuesAt (o : List Byte) : Nat → Nat → List (List Cont) × Nat
  | 0, p => ([], p)
  | n + 1, p =>
    let q := contsAt o (lbe o p 2) (p + 2)
    let r := queuesAt o n q.2
    (q.1 :: r.1, r.2)

/-- The snapshot that the joined data of its messages spells. -/
def snapOf (o : List Byte) : Snapshot :=
  let nc := lbe o 0 2
  let pw := 2 + 64 * nc
  let ps := pw + 32 * 256
  let ns := lbe o ps 2
  let q := queuesAt o 8 (ps + 2 + 24 * ns)
  let nj := lbe o q.2 2
  let pc := q.2 + 2 + 18 * nj
  { ctxs := membersAt id 64 nc o 2, waves := Vector.ofFn fun (i : Fin 256) => waveOfBytes (slice o (pw + 32 * i.val) 32),
    store := membersAt storedOf 24 ns o (ps + 2), conts := Vector.ofFn fun (l : Fin 8) => q.1.getD l.val [],
    joinQ := membersAt joinOf 18 nj o (q.2 + 2), scales := (List.range 16).map fun g => lbe o (pc + 2 * g) 2, decSeq := lbe o (pc + 32) 2 }

end Sys2Proof.Machine
end

