-- ==== Sys2Proof/Machine/Pair.lean ====
section
/-!
DEFINITION. The redundant pair (chapter 13): heartbeats, roles, digests, muting, resync and swaps.
-/
namespace Sys2Proof.Machine

def paired (m : Main) : Bool := m.bit F.RED_STATUS_PAIRED
def muted (m : Main) : Bool := m.bit F.RED_STATUS_MUTED

/-- The network key and K_FAB are ready (R414). -/
def keysReady (m : Main) : Bool := m.key.work[0].isSome && m.key.work[1].isSome

def redCount (n : Nat) (m : Main) : Main := m.count F.RED_CNT n

/-- The trace of a pair message (R508). -/
def pairTrace (kind : Nat) (matched : Bool) (low : Nat) (m : Main) : Main :=
  sky m 0x0E (kind * 2 ^ 24 + natOf matched * 2 ^ 23 + low % 65536)

/-! ### Roles (R419) -/

/-- SWAP_AT, 0 for none. -/
def swapAt (m : Main) : Nat := m.get64 F.RED_SWAP_AT_LO F.RED_SWAP_AT_HI
def setSwap (at' cause : Nat) (announced : Bool) (m : Main) : Main :=
  { m.put64 F.RED_SWAP_AT_LO F.RED_SWAP_AT_HI at' with red := { m.red with swapCause := cause, announced := announced } }

/-- A role is taken with a cause: 1 STANDBY, 2 ACTIVE. A STANDBY by START, SPLIT or KEY is MUTED, and an ACTIVE module is not. -/
def changeRole (role cause : Nat) (m : Main) : Main :=
  let changed := m.red.role != role
  let mutes := role == 1 && (cause == 1 || cause == 6 || cause == 8)
  let m := setRole role { m with red := { m.red with pendRole := none, actRun := 0, sbyRun := 0, toSend := if role = 1 then [] else m.red.toSend } }
  let m := if role = 2 then m.putBit F.RED_STATUS_MUTED false else if mutes then m.putBit F.RED_STATUS_MUTED true else m
  if !changed then m
  else
    let m := fire 49 (record 0x0352 (natOf (role == 2)) cause 0 0 (m.put F.RED_STATUS_CAUSE cause))
    let m := if role = 2 ∧ cause = 2 then
        record 0x0350 (match m.red.partner with | some h => h.hbSeq | none => 0) (m.red.lastInput % 2 ^ 32) (m.red.lastInput / 2 ^ 32) 0 m
      else m
    let m := if role = 2 then keepSubmitted m else m
    let m := if role = 1 ∧ cause = 1 ∧ m.red.partner.any (·.active) then { m with ctx := { m.ctx with quiet := 0, rejoin := 0 } } else m
    let m := if role = 2 ∧ cause = 1 ∧ (m.ctx.quiet ≠ 0 ∨ m.ctx.rejoin ≠ 0) then acceptInput (.quiet m.ctx.quiet (m.ctx.rejoin != 0)) m else m
    followRole m

/-- A change of role is to be made at the next slot boundary. -/
def wantRole (role cause : Nat) (m : Main) : Main := { m with red := { m.red with pendRole := some (role, cause) } }

/-- The role of a module that has reached RUNNING, once a heartbeat of its partner has been heard. -/
def startRole (m : Main) (h : HbMsg) : Nat := if h.active || ownSeat m == 1 then 1 else 2

/-- ROLE_CHANGE: what is due at this slot boundary. A module whose keys are not ready holds STANDBY (R414). -/
def roleChange (m : Main) : Main :=
  if !paired m || m.exec != Ex.running then m
  else if !keysReady m then (if m.red.role = 1 ∧ muted m then m else changeRole 1 8 m)
  else
    match m.red.pendRole with
    | some (r, c) => changeRole r c m
    | none => m

/-- The module takes its role on reaching RUNNING (R412, R414, R419): at once where it can, and else it waits for a heartbeat. -/
def takeRole (m : Main) : Main :=
  if !paired m then followRole (setRole 2 (if m.red.role = 1 then keepSubmitted m else m))
  else if !keysReady m then changeRole 1 8 m
  else if m.bit F.RED_STATUS_PARTNER_UP then
    match m.red.partner with
    | some h => changeRole (startRole m h) 1 m
    | none => m
  else m

/-- START_ROLE_TIMEOUT: no valid heartbeat within 2 s of reaching RUNNING. -/
def startRoleTimeout (m : Main) : Main :=
  if paired m && m.exec == Ex.running && m.red.role == 0 && m.red.partner.isNone && keysReady m then wantRole 2 1 m else m

/-- IN_SYNC is left: a standby withdraws its echo (R429). -/
def leaveSync (m : Main) : Main :=
  let m := m.putBit F.RED_STATUS_IN_SYNC false
  if m.red.role = 1 ∧ swapAt m ≠ 0 then setSwap 0 0 false m else m

/-- PARTNER_LOST: no valid heartbeat for LOSS_MS (R419, R424). -/
def partnerLost (m : Main) : Main :=
  if !paired m then m
  else
    let up := m.bit F.RED_STATUS_PARTNER_UP
    let m := if up then fire 50 (redCount 2 (leaveSync (m.putBit F.RED_STATUS_PARTNER_UP false))) else m
    let m : Main := { m with red := { m.red with syncSince := none, actRun := 0, sbyRun := 0 } }
    if m.red.role = 1 ∧ keysReady m then wantRole 2 2 m else m

/-! ### Heartbeats (R415–R418, R429, R432, R433) -/

/-- The heartbeat as it stands, with the inputs that it takes. -/
def ownHeartbeat (m : Main) : HbMsg :=
  let act := m.red.role == 2
  { active := act, seat := ownSeat m, muted := muted m, inSync := m.bit F.RED_STATUS_IN_SYNC, keyReady := keysReady m,
    plan := m.exec == Ex.running, epoch := m.get F.YLM_STATUS_RUN_EPOCH, hbSeq := m.red.hbSeq, swapAt := swapAt m,
    swapCause := m.red.swapCause, inputs := if act then m.red.toSend.take 64 else [] }

/-- HEARTBEAT_TX. HOLD stops heartbeats (R550). The interval that begins takes 64 inputs again, so that commands that wait for it may go
on (R417). -/
def heartbeatTx (m : Main) : Main :=
  if !paired m || !fabReady m || m.mode == Md.hold then m
  else
    let h := ownHeartbeat m
    let m : Main := { m with red := { m.red with hbSeq := (m.red.hbSeq + 1) % 65536, toSend := m.red.toSend.drop h.inputs.length } }
    unpark (redCount 0 (toPartner (hbBytes h) m))

/-- The partner's EUI, as its HELLOs on the port where it is heard have shown it (R394). -/
def partnerEui (m : Main) : Nat :=
  match [0, 1].find? fun p => m.get F.RDG_PORT_STATUS_HEARD p == pairPartner m with
  | some p => m.get F.RDG_PORT_EUI_LO p + 2 ^ 32 * m.get F.RDG_PORT_EUI_HI p
  | none => 0

/-- Three heartbeats in a row that show ACTIVE to an ACTIVE module (R432), or STANDBY to a STANDBY in seat 0 (R433). -/
def watchRoles (h : HbMsg) (m : Main) : Main :=
  let act := if m.red.role = 2 ∧ h.active then m.red.actRun + 1 else 0
  let sby := if m.red.role = 1 ∧ ownSeat m = 0 ∧ !h.active then m.red.sbyRun + 1 else 0
  let m : Main := { m with red := { m.red with actRun := act % 3, sbyRun := sby % 3 } }
  let m := if act = 3 then
      let m := redCount 10 (m.putBit F.RED_STATUS_SPLIT true)
      if m.fuse.eui < partnerEui m then wantRole 1 6 m else m
    else m
  if sby = 3 ∧ keysReady m then wantRole 2 7 m else m

/-- A standby follows the announcement that the active module's heartbeat shows. -/
def followSwap (h : HbMsg) (m : Main) : Main :=
  if m.red.role ≠ 1 ∨ !h.active then m
  else if h.swapAt = 0 ∨ !m.bit F.RED_STATUS_IN_SYNC then (if swapAt m = 0 then m else setSwap 0 0 false m)
  else if swapAt m = h.swapAt then m
  else fire 51 (setSwap h.swapAt h.swapCause false m)

/-- A join answer or a block confirmation of the active module joins the queue. Whether the active module found the stored schedule
to stand is in no heartbeat: KEEP is free (log entry 32). -/
def queueInput (i : Input) (m : Main) : Main :=
  match runImg m, i.kind with
  | some b, .join eui reason =>
    if reason ≠ 0 then pushAnswer ⟨eui, .refuse reason, i.slot⟩ m
    else
      match lanternOf b eui with
      | some l =>
        let v := m.freeVal
        pushAnswer ⟨eui, .accept l (v.1 % 2 == 1), i.slot⟩ v.2
      | none => m
  | some b, .confirm block map =>
    (List.range 64).foldl (fun m k =>
      if bitOf map k then pushAnswer ⟨invEui b (64 * block + k), .confirm (64 * block + k), i.slot⟩ m else m) m
  | _, _ => m

/-- The input records of a heartbeat are logged for their slots (R418). -/
def takeInputs (h : HbMsg) (m : Main) : Main :=
  if m.red.role = 2 then m
  else
    h.inputs.foldl (fun m r =>
      match recInput r with
      | some i => queueInput i (logInput i { m with red := { m.red with lastInput := max m.red.lastInput r.slot } })
      | none => m) m

/-- A valid heartbeat of the partner. -/
def heartbeatGood (h : HbMsg) (m : Main) : Main :=
  let m := redCount 1 (pairTrace 0x20 false h.hbSeq (m.putBit F.RED_STATUS_PARTNER_UP true))
  let since := if h.inSync then (match m.red.syncSince with | some t => some t | none => some m.course) else none
  let m : Main := { m with red := { m.red with
    partner := some h, syncSince := since, resync := if h.muted then m.red.resync else none } }
  let m := if m.red.role = 0 ∧ m.exec = Ex.running ∧ keysReady m then wantRole (startRole m h) 1 m else m
  takeInputs h (followSwap h (watchRoles h m))

/-- HEARTBEAT_RX: a HEARTBEAT delivered from the partner. -/
def heartbeatRx (f : RidgeFrame) (m : Main) : Main :=
  match hbOf f.payload with
  | some h => if fromPartner m f && fabReady m then heartbeatGood h m else m
  | none => m

/-! ### Digests (R422–R425) -/

/-- The octets that FRAME_HASH takes of one cell (R422). -/
def hashPart (f : Option TlpFrame) : List Byte :=
  match f with
  | none => zeros 2
  | some f => beBytes 2 (16 + f.body.length) ++ tlpHeader { f with hops := 0, copy := 0 } ++ f.body

/-- The seat-0 transmit and WAVE_RESERVE cells of a course, in order of first slot and then lane. -/
def seat0Cells (b : Img) (course : Nat) : List (Nat × Nat) :=
  (List.range 100).flatMap fun s => (List.range 8).filterMap fun l =>
    let w := wordAt b (100 * course + s) l
    if isTx w ∧ CellW.seat w = 0 then some (100 * course + s, l) else none

/-- The digest of a course (R422, R423), taken at its end; where its last slot boundary did not come, with what holds then (DESIGN CHOICE,
log entry 32). -/
def ownDigest (m : Main) (b : Img) (course : Nat) : Digest :=
  let cells := seat0Cells b course
  let bytes := cells.flatMap fun c => hashPart (frameOf m c.1 c.2)
  let now : LastSlot := ⟨100 * course + 99, (List.range 4).map (modelTgt m), (List.range 16).map fun g => m.get F.PUR_SCALE_SCALE g, wavesBusy m⟩
  let l := match m.red.last with
    | some x => if x.slot = 100 * course + 99 then x else now
    | none => now
  { epoch := Hdr.epoch b, course := course, frames := cells.length, decSeq := m.wav.seq, inputs := m.red.inCount,
    hash := Cipher.sha256 bytes / 2 ^ 128, model := l.model, scale := l.scale, busy := l.busy }

/-- The fields in which two digests differ (R436). -/
def digestDiff (a b : Digest) : Nat :=
  natOf (a.epoch != b.epoch || a.course != b.course) + 2 * natOf (a.frames != b.frames || a.hash != b.hash) + 4 * natOf (a.decSeq != b.decSeq) +
    8 * natOf (a.inputs != b.inputs) + 16 * natOf (a.model != b.model) + 32 * natOf (a.scale != b.scale) + 64 * natOf (a.busy != b.busy)

/-- Two digests of one course are compared (R424, R425, R427). -/
def compareDigests (a d : Digest) (m : Main) : Main :=
  let diff := digestDiff a d
  if diff = 0 then
    let m := redCount 3 ((pairTrace 0x21 true d.course m).putBit F.RED_STATUS_RESYNC_FAIL false)
    let m : Main := { m with red := { m.red with missRun := 0, fails := 0 } }
    if !muted m then m.putBit F.RED_STATUS_IN_SYNC true
    else if m.red.applied.any fun t => decide (t < d.course) then { m with red := { m.red with clearPend := true, applied := none } }
    else m
  else
    let m := redCount 4 ((pairTrace 0x21 false d.course m).put F.RED_DIFF_DIFF diff)
    let m := leaveSync (record 0x0351 (d.course % 2 ^ 32) diff 0 0 m)
    let cur := m.ylm.cur
    let over' := m.red.resync.any fun t => decide (t + 1 < d.course)
    { m with
      ylm := { m.ylm with cur := { cur with mismatches := cur.mismatches + 1 } }
      red := { m.red with missRun := 0, mutePend := m.red.mutePend || m.red.role == 1, resync := if over' then none else m.red.resync } }

/-- DIGEST_TX: the digest of the course just ended goes out; one of the partner's that has come before it is compared. -/
def digestTx (m : Main) : Main :=
  match m.red.own.find? fun d => d.course + 1 == m.course with
  | none => m
  | some d =>
    let m := toPartner (digestBytes d) m
    match m.red.theirs.find? fun e => e.course == d.course && decide (d.course ∉ m.red.compared) with
    | some e => compareDigests d e { m with red := { m.red with compared := [d.course] } }
    | none => m

/-- DIGEST_RX: a DIGEST delivered from the partner. -/
def digestRx (f : RidgeFrame) (m : Main) : Main :=
  match digestOf f.payload with
  | none => m
  | some e =>
    if !fromPartner m f || !fabReady m then m
    else
      let m : Main := { m with red := { m.red with theirs := (e :: m.red.theirs).take 4 } }
      match m.red.own.find? fun d => d.course == e.course with
      | some d => if m.red.compared.contains d.course then m else compareDigests d e { m with red := { m.red with compared := [d.course] } }
      | none => pairTrace 0x21 false e.course m

/-- DIGEST_MISSING: +100 ms into a course, without the partner's digest of the course before. -/
def digestMissing (m : Main) : Main :=
  if !paired m || !(m.red.own.any fun d => d.course + 1 == m.course) || (m.red.theirs.any fun d => d.course + 1 == m.course) then m
  else
    let m := redCount 5 { m with red := { m.red with missRun := m.red.missRun + 1 } }
    if 2 ≤ m.red.missRun then leaveSync m else m

/-! ### Resync (R426, R427, R430) -/

def takeSnapshot (m : Main) : Snapshot :=
  { ctxs := (m.ctx.ctx.filter fun p => p.2.live).map fun p => snapCtxBytes p.1 p.2, waves := m.wav.ctxs, store := m.wav.store,
    conts := m.wav.conts, joinQ := m.ctx.joinQ, scales := (List.range 16).map fun g => m.get F.PUR_SCALE_SCALE g, decSeq := m.wav.seq }

/-- The messages of a snapshot, 1,456 data bytes each. -/
def resyncMsgs (course : Nat) (s : Snapshot) : List ResyncMsg :=
  let data := snapBytes s
  let n := (data.length + 1455) / 1456
  (List.range n).map fun k => ⟨k, n, course, slice data (1456 * k) (min 1456 (data.length - 1456 * k))⟩

/-- The messages go out on the port where the partner is heard, in the REPORT class and paced, so that no queue holds them. -/
def sendResync (course : Nat) (s : Snapshot) (m : Main) : Main :=
  match [0, 1].find? fun p => m.get F.RDG_PORT_STATUS_HEARD p == pairPartner m && portState m p != Ps.down with
  | none => m
  | some p =>
    (resyncMsgs course s).foldl (fun m x =>
      let f := newFrame 2 (pairPartner m) (resyncBytes x) false m
      (f.2.emit (.ridgeTx p (ethOctets f.2 p (onWire f.2 f.1)))).count F.RDG_TX_FRAMES p) m

/-- RESYNC_SNAPSHOT, at a course boundary. -/
def resyncSnapshot (m : Main) : Main :=
  if paired m && m.red.role == 2 && m.bit F.RED_STATUS_PARTNER_UP && m.red.partner.any (·.muted) && m.red.resync.isNone &&
      decide (m.red.nextTry ≤ m.course) && fabReady m then
    let s := takeSnapshot m
    sendResync m.course s { m with red := { m.red with resync := some m.course } }
  else m

/-- RESYNC_RX: a chunk of the snapshot of a course, delivered from the partner. -/
def resyncRx (f : RidgeFrame) (m : Main) : Main :=
  match resyncOf f.payload with
  | none => m
  | some x =>
    if !fromPartner m f || m.red.role != 1 || !fabReady m then m
    else
      let held := if m.red.snap = some x.course then m.red.chunks else []
      pairTrace 0x22 false x.course { m with red := { m.red with
        chunks := if held.any fun c => c.1 == x.chunk then held else (x.chunk, x.data) :: held, chunkCount := x.chunks, snap := some x.course } }

/-- What a snapshot of course `c` holds is put in place; of a context, bytes 0–61 and 84–85. -/
def restore (c : Nat) (s : Snapshot) (m : Main) : Main :=
  let m := s.ctxs.foldl (fun m o => withCtx (lle o 0 2 % 8192) (fun own => snapCtxOf (100 * c) own o) m) m
  let m : Main := { m with
    wav := { m.wav with ctxs := s.waves, store := s.store, conts := s.conts, bound := [], reserved := 0, seq := s.decSeq }
    ctx := { m.ctx with joinQ := s.joinQ, baseCmds := [] } }
  (List.range 16).foldl (fun m g => m.put F.PUR_SCALE_SCALE (s.scales.getD g 4096) g) m

/-- One slot of the replay of R427: its inputs, its boundary, the seat-0 cells that begin in it, the decisions that came in it, and
the fill of the next slot. -/
def replaySlot (b : Img) (m : Main) (abs : Nat) : Main :=
  let m : Main := { m with ylm := { m.ylm with slot := abs } }
  let due := m.red.inLog.filter fun i => i.slot == abs
  let m := freeWaves abs (slotUpdate abs (due.foldl (fun m i => applyInput i m) (almanacDue abs m)))
  let m := (List.range 8).foldl (fun m l =>
    match vget m.ylm.next l none with
    | some c => if isTx c.word ∧ CellW.seat c.word = 0 ∧ c.start = abs then beginSeat0 l c m else m
    | none => m) m
  let m := (m.red.decLog.filter fun d => d.1 == abs).foldl (fun m d => applyDecision d.2.2 d.2.1 m) m
  (List.range 8).foldl (fetchCell m b (abs + 1)) m

/-- The replay of course `c`; what it sends, records or counts has been sent, recorded and counted already, so only the contexts,
the waves, the join queue and the scales are kept. -/
def replayCourse (b : Img) (c : Nat) (m : Main) : Main :=
  let start := (List.range 8).foldl (fetchCell m b (100 * c)) { m with ylm := { m.ylm with slot := 100 * c - 1 } }
  let x := (List.range 100).foldl (fun x s => replaySlot b x (100 * c + s)) start
  let m : Main := { m with ctx := { m.ctx with ctx := x.ctx.ctx, baseCmds := x.ctx.baseCmds, joinQ := x.ctx.joinQ }, wav := x.wav, free := x.free }
  let m := (List.range 16).foldl (fun m g => m.put F.PUR_SCALE_SCALE (x.get F.PUR_SCALE_SCALE g) g) m
  showWaves (showJoins (updateModel m.slotNow m))

/-- RESYNC_APPLY, one second after the snapshot: the standby applies a complete snapshot and replays its course; `missing` tells the
active module that a chunk did not arrive. -/
def resyncApply (missing : Bool) (m : Main) : Main :=
  if !paired m then m
  else if m.red.role = 2 then
    if missing && m.red.resync.isSome then
      let n := m.red.fails + 1
      let m := if 3 ≤ n then m.putBit F.RED_STATUS_RESYNC_FAIL true else m
      { m with red := { m.red with resync := none, fails := n, nextTry := if 3 ≤ n then m.course + 60 else m.course + 1 } }
    else m
  else
    match m.red.snap, runImg m with
    | some c, some b =>
      let whole := decide (m.red.chunks.length = m.red.chunkCount ∧ m.red.chunkCount ≠ 0)
      let data := (List.range m.red.chunkCount).flatMap fun k => ((m.red.chunks.find? fun x => x.1 == k).map (·.2)).getD []
      let m : Main := { m with red := { m.red with snap := none, chunks := [], chunkCount := 0 } }
      if whole && c + 1 == m.course then
        redCount 6 (replayCourse b c (restore c (snapOf data) { m with red := { m.red with applied := some m.course } }))
      else m
    | _, _ => m

/-- RED_RESYNC: the standby is muted at the next slot boundary, and the resync follows when the active module sees it. How the
active module tells its partner is in no rule: the partner takes the command by the pair path (log entry 34). -/
def redResync (via : PlanVia) (m : Main) : Main :=
  match via with
  | .host r d => cmdNow r d (.plain 0x0902 0 activeGate) (fun _ m => ({ m with red := { m.red with resync := none, nextTry := m.course } }, .done 0)) m
  | .pair _ _ => if paired m && m.red.role == 1 then { m with red := { m.red with mutePend := true } } else m

/-! ### Swaps (R428, R429, R431) -/

/-- The conditions under which the active module announces a swap. -/
def maySwap (m : Main) : Bool :=
  paired m && m.red.role == 2 && m.bit F.RED_STATUS_PARTNER_UP && m.red.partner.any (fun h => h.inSync && h.keyReady) && !muted m

def announce (at' cause : Nat) (m : Main) : Main := fire 51 (setSwap at' cause true m)

/-- SWAP_ANNOUNCE, 60 courses before a scheduled swap. -/
def swapAnnounce (m : Main) : Main :=
  let period := 3600 * max 1 (min 720 (m.get F.RED_CFG_SWAP_PERIOD))
  if !paired m || m.red.role != 2 || !m.bit F.RED_CTRL_SWAP_EN || (m.course + 60) % period != 0 then m
  else if maySwap m && swapAt m == 0 then announce (m.course + 60) 1 m
  else redCount 9 m

/-- REVERT_HOLDOFF. -/
def revertHoldoff (m : Main) : Main :=
  let hold := max 60 (min 3600 (m.get F.RED_HOLDOFF_HOLDOFF))
  let cause := m.get F.RED_STATUS_CAUSE
  if maySwap m && swapAt m == 0 && m.bit F.RED_CTRL_REVERT_EN && ownSeat m == 1 && (cause == 1 || cause == 2) &&
      (m.red.syncSince.any fun t => decide (t + hold ≤ m.course)) then announce (m.course + 2) 3 m
  else m

/-- RED_SWAP. -/
def redSwap (r : Fin 8) (d : Desc) : Main → Main :=
  cmdNow r d (.plain 0x0901 0 activeGate) fun _ m => if maySwap m then (announce (m.course + 2) 2 m, .done 0) else (m, .fail St.refused 1)

/-- The partner's last heartbeat carries this SWAP_AT. -/
def partnerAgrees (m : Main) : Bool := m.red.partner.any fun h => h.swapAt == swapAt m

/-- SWAP_WITHDRAW, from 400 ms before the boundary on. -/
def swapWithdraw (m : Main) : Main :=
  if m.red.announced && swapAt m != 0 && decide (100 * swapAt m ≤ m.slotNow + 40) && !partnerAgrees m then redCount 9 (setSwap 0 0 false m) else m

/-- SWAP_BOUNDARY. -/
def swapBoundary (m : Main) : Main :=
  if !paired m || swapAt m == 0 || decide (m.course < swapAt m) then m
  else
    let go := partnerAgrees m && m.red.role != 0
    let cause := m.red.swapCause + 2
    let said := m.red.announced
    let m := setSwap 0 0 false m
    if go then redCount 8 (changeRole (3 - m.red.role) cause m) else if said then redCount 9 m else m

def execHeartbeatTx (s : State) : Result := s.onMain heartbeatTx
def execHeartbeatRx (f : RidgeFrame) (s : State) : Result := s.onMain (heartbeatRx f)
def execRoleChange (s : State) : Result := s.onMain roleChange
def execPartnerLost (s : State) : Result := s.onMain partnerLost
def execStartRoleTimeout (s : State) : Result := s.onMain startRoleTimeout
def execDigestTx (s : State) : Result := s.onMain digestTx
def execDigestRx (f : RidgeFrame) (s : State) : Result := s.onMain (digestRx f)
def execDigestMissing (s : State) : Result := s.onMain digestMissing
def execResyncSnapshot (s : State) : Result := s.onMain resyncSnapshot
def execResyncRx (f : RidgeFrame) (s : State) : Result := s.onMain (resyncRx f)
def execResyncApply (missing : Bool) (s : State) : Result := s.onMain (resyncApply missing)
def execRedResync (via : PlanVia) (s : State) : Result := s.onMain (redResync via)
def execSwapAnnounce (s : State) : Result := s.onMain swapAnnounce
def execRevertHoldoff (s : State) : Result := s.onMain revertHoldoff
def execRedSwap (r : Fin 8) (d : Desc) (s : State) : Result := s.onMain (redSwap r d)
def execSwapWithdraw (s : State) : Result := s.onMain swapWithdraw
def execSwapBoundary (s : State) : Result := s.onMain swapBoundary

end Sys2Proof.Machine
end

