-- ==== Sys2Proof/Machine/DormerFrames.lean ====
section
/-!
DEFINITION. The dormer's frames octet by octet, as the dormer seals them and the main side verifies and reads them (R276–R280,
R316–R319).
-/
namespace Sys2Proof.Machine

/-! ### Octets -/

def frameLen : DmrBody → Nat
  | .snapshot _ => 568
  | .info _ _ => 408
  | .interval _ _ => 120
  | .profile _ _ _ => 432
  | .state _ => 440

def frameKind : DmrBody → Nat
  | .snapshot _ => 1
  | .info _ _ => 2
  | .interval _ _ => 3
  | .profile _ _ _ => 4
  | .state _ => 5

/-- A feeder block (R277). -/
def feederBytes (b : FeederBlk) : List Byte :=
  leBytes 4 (twos 32 b.pNet) ++ b.p.flatMap (fun v => leBytes 4 (twos 32 v)) ++ leBytes 4 (twos 32 b.qNet) ++ leBytes 4 b.sNet ++
  b.irms.flatMap (leBytes 4) ++ b.e.flatMap (fun v => leBytes 4 (twos 32 v)) ++ leBytes 2 (twos 16 b.pf) ++ zeros 10

/-- The STATE body (R319). -/
def stateBytes (b : StateBody) : List Byte :=
  leBytes 1 b.sealState ++
  leBytes 1 (natOf b.lidOpen + 2 * natOf b.switch + 4 * natOf b.gateOpen + 8 * natOf b.meterFault + 16 * maskOf 4 fun f => b.ovf.getD f false) ++
  leBytes 1 b.session ++ leBytes 1 b.result ++ leBytes 8 b.nonce ++ leBytes 2 b.nextSeq ++ leBytes 2 b.gateLeft ++ leBytes 4 b.breaks ++
  leBytes 4 b.sessions ++ leBytes 2 b.reserveLeft ++ leBytes 1 b.utc ++ zeros 1 ++ leBytes 4 b.logCount ++ b.pulse ++
  b.pending.flatMap (leBytes 2) ++ leBytes 4 b.runIvl ++ zeros 4 ++ b.run.flatMap (leBytes 4) ++ b.newest.flatMap posBytes ++
  leBytes 2 b.replayPos ++ zeros 6 ++ b.replay.flatMap posBytes

/-- The body of a frame, from offset 32 to the MIC (R277, R317, R319). -/
def bodyBytes : DmrBody → List Byte
  | .snapshot b =>
    b.vrms.flatMap (leBytes 2) ++ leBytes 2 b.ang2 ++ leBytes 2 b.ang3 ++ zeros 4 ++ b.feeders.flatMap feederBytes ++
      b.totals.flatMap (leBytes 8)
  | .info i m => i ++ m
  | .interval n w => leBytes 4 n ++ zeros 12 ++ w.flatMap (leBytes 4)
  | .profile n f w => leBytes 4 n ++ leBytes 1 f ++ zeros 3 ++ w.flatMap (leBytes 4)
  | .state b => stateBytes b

/-- A frame without its MIC: the header (R276) and the body. -/
def frameBytes (f : DmrFrame) : List Byte :=
  leBytes 2 (frameLen f.body) ++ leBytes 1 (frameKind f.body) ++ leBytes 1 1 ++ leBytes 6 f.stepNo ++ leBytes 1 f.samples ++
  leBytes 1 f.flags ++ leBytes 4 f.tagSec ++ leBytes 1 f.tagSlot ++ leBytes 1 f.vstate ++ leBytes 1 f.sagSwell ++
  leBytes 1 f.feeders ++ leBytes 2 f.openCt ++ leBytes 2 f.noload ++ leBytes 2 f.reverse ++ leBytes 2 f.freq ++ leBytes 4 f.seq ++
  bodyBytes f.body

/-- The MIC under K_DL over bytes 0 to LENGTH − 9, whose header gives the nonce STEP_NO, KIND, SEQ, 0, 0 (R278). -/
def frameMic (k : Key) (l : List Byte) : List Byte :=
  Cipher.ccmMic k.bytes (slice l 4 6 ++ slice l 2 1 ++ slice l 28 4 ++ zeros 2) l []

/-- The octets of a frame as the dormer sends it. -/
def DmrFrame.octets (k : Key) (f : DmrFrame) : List Byte := frameBytes f ++ frameMic k (frameBytes f)

/-! ### Reading -/

def words4 (l : List Byte) (o n : Nat) : List Nat := (List.range n).map fun i => lle l (o + 4 * i) 4
def ints4 (l : List Byte) (o n : Nat) : List Int := (List.range n).map fun i => signed 32 (lle l (o + 4 * i) 4)

def feederOf (l : List Byte) (o : Nat) : FeederBlk :=
  { pNet := signed 32 (lle l o 4), p := ints4 l (o + 4) 3, qNet := signed 32 (lle l (o + 16) 4), sNet := lle l (o + 20) 4,
    irms := words4 l (o + 24) 4, e := ints4 l (o + 40) 3, pf := signed 16 (lle l (o + 52) 2) }

def stateOf (l : List Byte) : StateBody :=
  let fl := lle l 33 1
  { sealState := lle l 32 1, lidOpen := bitOf fl 0, switch := bitOf fl 1, gateOpen := bitOf fl 2, meterFault := bitOf fl 3,
    ovf := (List.range 4).map fun f => bitOf fl (4 + f), session := lle l 34 1, result := lle l 35 1, nonce := lle l 36 8,
    nextSeq := lle l 44 2, gateLeft := lle l 46 2, breaks := lle l 48 4, sessions := lle l 52 4, reserveLeft := lle l 56 2,
    utc := lle l 58 1, logCount := lle l 60 4, pulse := slice l 64 24, pending := (List.range 4).map fun f => lle l (88 + 2 * f) 2,
    runIvl := lle l 96 4, run := words4 l 104 16, newest := (List.range 4).map fun i => legalRec (slice l (168 + 32 * i) 32),
    replayPos := lle l 296 2, replay := (List.range 4).map fun i => legalRec (slice l (304 + 32 * i) 32) }

/-- The body of a frame of KIND 1–5. -/
def bodyOf (kind : Nat) (l : List Byte) : DmrBody :=
  match kind with
  | 1 => .snapshot ⟨(List.range 4).map (fun p => lle l (32 + 2 * p) 2), lle l 40 2, lle l 42 2,
      (List.range 4).map (fun f => feederOf l (48 + 64 * f)), (List.range 32).map fun k => lle l (304 + 8 * k) 8⟩
  | 2 => .info (slice l 32 128) (slice l 160 240)
  | 3 => .interval (lle l 32 4) (words4 l 48 16)
  | 4 => .profile (lle l 32 4) (lle l 36 1) (words4 l 40 96)
  | _ => .state (stateOf l)

/-- The fields of a frame. -/
def dmrFields (l : List Byte) : DmrFrame :=
  { stepNo := lle l 4 6, samples := lle l 10 1, flags := lle l 11 1, tagSec := lle l 12 4, tagSlot := lle l 16 1, vstate := lle l 17 1,
    sagSwell := lle l 18 1, feeders := lle l 19 1, openCt := lle l 20 2, noload := lle l 22 2, reverse := lle l 24 2, freq := lle l 26 2,
    seq := lle l 28 4, body := bodyOf (lle l 2 1) l }

/-- A received frame that the main side verifies (R280): LENGTH is that of its KIND and of what arrived, and the MIC holds. -/
def dmrVerified (k : Key) (l : List Byte) : Option DmrFrame :=
  let f := dmrFields l
  let n := frameLen f.body
  if 1 ≤ lle l 2 1 ∧ lle l 2 1 ≤ 5 ∧ lle l 0 2 = n ∧ l.length = n ∧ frameMic k (l.take (n - 8)) = l.drop (n - 8) then some f else none

end Sys2Proof.Machine
end

