-- ==== Sys2Proof/Machine/DormerMeas.lean ====
section
/-!
DEFINITION. The dormer's measurement (R254–R273), its totals, intervals, load profile and state copies (R284–R301), its
pulse outputs (R302–R306), its legal log (R313, R314) and its frames (R275–R279, R316–R319).
-/
namespace Sys2Proof.Machine

/-! ### The sealed blocks -/

namespace MeasCfg
variable (b : List Byte)
def sensor (c : Nat) : Nat := lle b (12 * c) 1
/-- PHASE_CORR and GAIN_TRIM of a channel: 0–15 the currents, 16–19 the voltages. -/
def phaseCorr (c : Nat) : Int := signed 16 (if c < 16 then lle b (12 * c + 6) 2 else lle b (192 + 8 * (c - 16) + 4) 2)
def gainTrim (c : Nat) : Int := signed 16 (if c < 16 then lle b (12 * c + 8) 2 else lle b (192 + 8 * (c - 16) + 2) 2)
def primary (c : Nat) : Nat := lle b (12 * c + 2) 2
def burden (c : Nat) : Nat := lle b (12 * c + 4) 2
def divider (v : Nat) : Nat := lle b (192 + 8 * v) 2
def un : Nat := lle b 224 2
def fnom : Nat := lle b 226 1
def arith : Bool := lle b 227 1 == 1
def unusedMask : Nat := lle b 228 1
def unused (f : Nat) : Bool := bitOf (unusedMask b) f
def count : Nat := lle b 232 4
end MeasCfg

/-- A signed 16-bit field lies within ±`n`. -/
def withinS (b : List Byte) (o n : Nat) : Bool := decide ((signed 16 (lle b o 2)).natAbs ≤ n)

/-- R257's ranges and R258's conditions on channel `c`. -/
def currentOk (b : List Byte) (c : Nat) : Bool :=
  let o := 12 * c
  let s := MeasCfg.sensor b c
  let bu := MeasCfg.burden b c
  let rated := if s = 1 then 1 else 5
  s ≤ 3 && lle b (o + 1) 1 == 0 && 1 ≤ MeasCfg.primary b c && MeasCfg.primary b c ≤ 10000 && withinS b (o + 6) 5000 &&
  withinS b (o + 8) 20000 && lle b (o + 10) 2 == 0 &&
  (if s = 0 then true
   else if s = 3 then 1 ≤ bu && bu ≤ 10000 && 2 * (2 * MeasCfg.primary b c * bu * MeasCfg.fnom b) ^ 2 ≤ (900000 * 50) ^ 2
   else 100 ≤ bu && bu ≤ 10000 && 2 * (2 * rated * bu) ^ 2 ≤ 9000 ^ 2) &&
  (!MeasCfg.unused b (c / 4) || s == 0)

def voltageOk (b : List Byte) (v : Nat) : Bool :=
  let o := 192 + 8 * v
  1 ≤ MeasCfg.divider b v && MeasCfg.divider b v ≤ 10000 && withinS b (o + 2) 20000 && withinS b (o + 4) 5000 &&
  lle b (o + 6) 2 == 0 && 2 * (12 * MeasCfg.un b) ^ 2 ≤ (90 * MeasCfg.divider b v) ^ 2

/-- R258: the dormer accepts a measurement block. -/
def measOk (b : List Byte) : Bool :=
  b.length == 240 && (List.range 16).all (currentOk b) && (List.range 4).all (voltageOk b) &&
  1000 ≤ MeasCfg.un b && MeasCfg.un b ≤ 4000 && (MeasCfg.fnom b == 50 || MeasCfg.fnom b == 60) && lle b 227 1 ≤ 1 &&
  MeasCfg.unusedMask b < 16 && lle b 229 3 == 0 && lle b 236 4 == 0 &&
  (List.range 4).all fun f => MeasCfg.unused b f || (List.range 3).all fun p =>
    6 * MeasCfg.un b * MeasCfg.primary b (4 * f + p) ≤ 2500000

def pulseConst (b : List Byte) (f : Nat) : Nat := lle b (4 * f) 4
def pulseSource (b : List Byte) (f : Nat) : Nat := bits (lle b 16 1) (2 * f + 1) (2 * f)

/-- R302 against a measurement block. -/
def pulseOk (meas b : List Byte) : Bool :=
  b.length == 24 && (slice b 17 7).all (· == 0) &&
  (List.range 4).all fun f => 1 ≤ pulseConst b f && pulseConst b f ≤ 100000 &&
    (!MeasCfg.unused meas f || pulseSource b f == 3)

/-! ### The legal log -/

/-- Write a LEGAL record (R313, R314): codes 0x0101–0x0105 fill FIRST positions 768–1,023 and the others 0–767 (log entry
24), and every record goes to LAST. -/
def legal (d : Dormer) (code p0 p1 p2 p3 : Nat) : Dormer :=
  let r : SofRec := ⟨0, true, false, false, code, d.stepNo / 100 % 2 ^ 32, d.cycles % 2 ^ 24, d.stepNo % 100 * 256 / 100,
    p0 % 2 ^ 32, p1 % 2 ^ 32, p2 % 2 ^ 32, p3 % 2 ^ 32, 0⟩
  let res := decide (code ≤ 0x0105)
  let log := sset (fun _ => none) d.log (1024 + d.logCount % 8192) (some r)
  let d := { d with log := log, logCount := d.logCount + 1 }
  if res then
    if d.reserveUsed < 256 then
      { d with log := sset (fun _ => none) d.log (768 + d.reserveUsed) (some r), reserveUsed := d.reserveUsed + 1 } else d
  else if d.firstUsed < 768 then
    { d with log := sset (fun _ => none) d.log d.firstUsed (some r), firstUsed := d.firstUsed + 1 } else d

def reserveLeft (d : Dormer) : Nat := 256 - d.reserveUsed

/-! ### Samples (R254–R259) -/

/-- A code of channel `c` as a line voltage in µV or a primary current in µA. Full scale, ±1.000 V, is ±2^23; the integrator's output is
that of the coil at 50 Hz (log entry 22). A channel with no sensor reads zero (R255). -/
def scaled (b : List Byte) (c : Nat) (x : Int) : Int :=
  let gain : Int := 1000000 + MeasCfg.gainTrim b c
  if 16 ≤ c then roundAway (x * gain * MeasCfg.divider b (c - 16)) (2 ^ 23)
  else match MeasCfg.sensor b c with
    | 1 => roundAway (x * gain * (10000 * MeasCfg.primary b c)) (2 ^ 23 * MeasCfg.burden b c)
    | 2 => roundAway (x * gain * (10000 * MeasCfg.primary b c)) (2 ^ 23 * MeasCfg.burden b c * 5)
    | 3 => roundAway (x * gain * 1000000) (2 ^ 23 * MeasCfg.burden b c)
    | _ => 0

/-- The samples that a step takes, `n` of them. -/
def stepCodes (m : Meas) (n : Nat) : List (List Int) := (List.range n).map fun k => m.codes.getD k []

def channelOfCodes (b : List Byte) (codes : List (List Int)) (c : Nat) : List Int := codes.map fun s => scaled b c (s.getD c 0)

/-- The last `n` values of a filter's output. -/
def lastOf (n : Nat) (l : List Int) : List Int := (List.range n).map fun k => l.getD (l.length - n + k) 0

/-- A channel's values in a step of `n` samples, after PHASE_CORR (R259). -/
def corrected (d : Dormer) (m : Meas) (n c : Nat) : List Int :=
  let now := channelOfCodes d.meas (stepCodes m n) c
  let corr := MeasCfg.phaseCorr d.meas c
  if corr = 0 then now else lastOf n (Config.phased (64 * d.free + c) corr (channelOfCodes d.meas d.past c ++ now))

/-- The voltage of a phase delayed by 90° (R263). -/
def delayed (d : Dormer) (m : Meas) (n p : Nat) : List Int :=
  lastOf n (Config.hilbert (64 * d.free + 32 + p) (channelOfCodes d.meas d.past (16 + p) ++ corrected d m n (16 + p)))

def dot (x y : List Int) : Int := ((x.zip y).map fun p => p.1 * p.2).sum

/-! ### Quantities of a step (R263–R266) -/

/-- What a step sums over its samples, in µV and µA, and what its crossings and tests show. -/
structure Sums where
  /-- Σ v·i and Σ v^H·i of feeder f and phase p at 3 × f + p -/
  vi : List Int
  vhi : List Int
  /-- Σ v² of L1, L2, L3, N–PE, and Σ i² of each channel -/
  vv : List Nat
  ii : List Nat
  /-- lag of L2 and of L3 behind L1, in 0.01°, and the frequency by each phase, in mHz -/
  ang2 : Nat
  ang3 : Nat
  freq : List Nat
  /-- impedance of the channel under test, in 0.1 mΩ -/
  imp : Nat
  deriving DecidableEq, Repr

/-- The frequency by a phase, in mHz: from the mean period of its last 10 cycles, or of as many as there are (R263); a free value while
there is none. -/
def crossFreq (d : Dormer) (p : Nat) : Nat :=
  let c := d.cross.toList.getD p []
  let ns := c.headD 0 - c.getLastD 0
  if ns = 0 then Config.dormerFree d.free % 65536 else (roundAway ((c.length - 1) * 10 ^ 12 : Nat) ns).toNat % 65536

/-- The lag of a phase behind L1, in 0.01°: between their latest crossings, as a part of L1's mean period (log entry 26); a free value
while there is no period. -/
def crossAngle (d : Dormer) (p : Nat) : Nat :=
  let a := d.cross.toList.getD 0 []
  let b := d.cross.toList.getD p []
  let ns := a.headD 0 - a.getLastD 0
  let k := a.length - 1
  if ns = 0 ∨ b.isEmpty then Config.dormerFree d.free % 36000
  else ((36000 * k * ((b.headD 0 : Int) - a.headD 0)) / ns % 36000).toNat

/-- The sums of a step of `n` samples; `d` holds its crossings already. -/
def sumsOf (d : Dormer) (m : Meas) (n : Nat) : Sums :=
  let v (p : Nat) : List Int := corrected d m n (16 + p)
  let i (c : Nat) : List Int := corrected d m n c
  { vi := (List.range 12).map fun k => dot (v (k % 3)) (i (4 * (k / 3) + k % 3))
    vhi := (List.range 12).map fun k => dot (delayed d m n (k % 3)) (i (4 * (k / 3) + k % 3))
    vv := (List.range 4).map fun p => (dot (v p) (v p)).toNat
    ii := (List.range 16).map fun c => (dot (i c) (i c)).toNat
    ang2 := crossAngle d 1, ang3 := crossAngle d 2, freq := (List.range 3).map (crossFreq d), imp := m.imp }

def mInt (l : List Int) (i : Nat) : Int := l.getD i 0
def mNat (l : List Nat) (i : Nat) : Nat := l.getD i 0

/-- Σ i² of a channel; Σ v·i and Σ v^H·i of a phase of a feeder (R254). -/
def sqI (m : Sums) (c : Nat) : Nat := mNat m.ii c
def sumVi (m : Sums) (f p : Nat) : Int := mInt m.vi (3 * f + p)
def sumVhi (m : Sums) (f p : Nat) : Int := mInt m.vhi (3 * f + p)

/-- R266: the state of a phase channel after a step of `n` samples. `on` is NO_LOAD. -/
def loadStep (d : Dormer) (m : Sums) (n c : Nat) (l : Deb) : Deb :=
  let pr := MeasCfg.primary d.meas c
  let i := sqI m c
  if n * (7000 * pr) ^ 2 ≤ 100 * i then ⟨false, 0, 0⟩
  else
    let low := if 4 * i < n * (1000 * pr) ^ 2 then l.down + 1 else 0
    ⟨l.on || 100 ≤ low, 0, low⟩

/-- The step registers for a phase: it is in RUN, or enters it at this step's end. -/
def registers (d : Dormer) (m : Sums) (n f p : Nat) : Bool :=
  let c := 4 * f + p
  let l := d.load.toList.getD c Deb.off
  !l.on || !(loadStep d m n c l).on

/-- Samples of 125 µs in pW, or pvar or pVA, to the n-unit (R263). -/
def perUnit : Nat := 28800000000

/-- E_p in nWh (R263). -/
def energy (d : Dormer) (m : Sums) (n f p : Nat) : Int :=
  if registers d m n f p then roundAway (sumVi m f p) perUnit else 0

/-- The reactive sum of a phase for registration; a phase in NO_LOAD contributes none (R265). -/
def reactive (d : Dormer) (m : Sums) (n f p : Nat) : Int := if registers d m n f p then sumVhi m f p else 0

/-- The apparent sum of a phase, V_rms × I_rms × n in pVA, scaled by 2^32. -/
def apparentRaw (m : Sums) (f p : Nat) : Nat := Nat.sqrt (mNat m.vv p * sqI m (4 * f + p) * 2 ^ 64)
def apparent (d : Dormer) (m : Sums) (n f p : Nat) : Nat := if registers d m n f p then apparentRaw m f p else 0

/-- What a unit's step adds to the eight totals of its feeder, in n-units (R264, R265). -/
def unitAdds (e q : Int) (s : Nat) : List Nat :=
  let qe := roundAway q perUnit
  let se := (roundAway s (perUnit * 2 ^ 32)).natAbs
  let neg := decide (e < 0)
  [if neg then 0 else e.natAbs, if neg then e.natAbs else 0,
   if 0 < qe ∧ ¬ neg then qe.natAbs else 0, if 0 < qe ∧ neg then qe.natAbs else 0,
   if qe < 0 ∧ neg then qe.natAbs else 0, if qe < 0 ∧ ¬ neg then qe.natAbs else 0,
   if neg then 0 else se, if neg then se else 0]

def addLists (a b : List Nat) : List Nat := (List.range 8).map fun i => a.getD i 0 + b.getD i 0

/-- What a step adds to feeder `f`'s totals; an unused feeder's totals stand (R286). -/
def feederAdds (d : Dormer) (m : Sums) (n f : Nat) : List Nat :=
  if MeasCfg.unused d.meas f then List.replicate 8 0
  else if MeasCfg.arith d.meas then
    (List.range 3).foldl (fun a p => addLists a (unitAdds (energy d m n f p) (reactive d m n f p) (apparent d m n f p)))
      (List.replicate 8 0)
  else
    let sumI (g : Nat → Int) : Int := g 0 + g 1 + g 2
    unitAdds (sumI (energy d m n f)) (sumI (reactive d m n f)) (apparent d m n f 0 + apparent d m n f 1 + apparent d m n f 2)

/-- R285: the step energy goes to the residue, and whole thousands to the total. -/
def register (d : Dormer) (m : Sums) (n : Nat) : Dormer :=
  let add (k : Nat) := (feederAdds d m n (k / 8)).getD (k % 8) 0
  { d with
    totals := Vector.ofFn fun (k : Fin 32) => d.totals[k] + (d.resid[k] + add k) / 1000
    resid := Vector.ofFn fun (k : Fin 32) => (d.resid[k] + add k) % 1000
    seenImp := Vector.ofFn fun (f : Fin 4) => d.seenImp[f] || decide (0 < (feederAdds d m n f).getD 0 0)
    seenExp := Vector.ofFn fun (f : Fin 4) => d.seenExp[f] || decide (0 < (feederAdds d m n f).getD 1 0) }

/-! ### Intervals (R290–R296) -/

/-- The quarter hour of a tag (R290), with TAI − UTC. -/
def ivlOf (tag utc : Nat) : Nat := (tag / 100 - utc - 946684800) / 900

/-- T of R292 for value `k` of feeder `f`: AI, AE, RP, RN. -/
def basis (t : Vector Nat 32) (f k : Nat) : Nat :=
  let q (i : Nat) := t.toList.getD (8 * f + i) 0
  match k with
  | 0 => q 0
  | 1 => q 1
  | 2 => q 2 + q 3
  | _ => q 4 + q 5

/-- R292's value so far. -/
def ivlValue (d : Dormer) (f k : Nat) : Nat := basis d.totals f k / 1000 - d.bases.toList.getD (4 * f + k) 0 / 1000

namespace IvlFlag
def powerFail : Nat := 0
def timeJump : Nat := 1
def cfgChanged : Nat := 2
def settling : Nat := 3
def timeFree : Nat := 4
def clkInternal : Nat := 5
end IvlFlag

def setBit (v i : Nat) : Nat := if bitOf v i then v else v + 2 ^ i

def Dormer.flag (d : Dormer) (i : Nat) (on : Bool) : Dormer := if on then { d with ivlFlags := setBit d.ivlFlags i } else d

/-- The four words of feeder `f`'s record of the open interval (R296). -/
def ivlWords (d : Dormer) (f : Nat) : List Nat :=
  let fl (i : Nat) := natOf (bitOf d.ivlFlags i)
  let rev := natOf (d.seenImp.toList.getD f false && d.seenExp.toList.getD f false)
  [ivlValue d f 0 % 2 ^ 30 + rev * 2 ^ 31 + fl IvlFlag.powerFail * 2 ^ 30,
   ivlValue d f 1 % 2 ^ 30 + fl IvlFlag.timeJump * 2 ^ 31,
   ivlValue d f 2 % 2 ^ 30 + fl IvlFlag.cfgChanged * 2 ^ 31 + fl IvlFlag.settling * 2 ^ 30,
   ivlValue d f 3 % 2 ^ 30 + fl IvlFlag.timeFree * 2 ^ 31 + fl IvlFlag.clkInternal * 2 ^ 30]

/-- Store the record words of interval `n` (R296). -/
def putIvl (p : Sparse Nat) (n : Nat) (w : Nat → List Nat) : Sparse Nat :=
  (List.range 16).foldl (fun p i => sset profileDefault p (16 * (n % 3360) + i) ((w (i / 4)).getD (i % 4) 0)) p

/-- Close the open interval `n`. -/
def closeIvl (d : Dormer) (n : Nat) : Dormer := { d with profile := putIvl d.profile n (ivlWords d), newest := n }

/-- Open interval `n` with the totals as they stand. -/
def openIvl (d : Dormer) (n : Nat) : Dormer :=
  { d with
    ivl := some n, bases := Vector.ofFn fun (i : Fin 16) => basis d.totals (i / 4) (i % 4), ivlFlags := 0,
    seenImp := Vector.replicate 4 false, seenExp := Vector.replicate 4 false }

/-- Close `k` quarter hours from `n` on as MISSING (R294). -/
def closeMissing (d : Dormer) (n : Nat) : Nat → Dormer
  | 0 => d
  | k + 1 => closeMissing { d with profile := putIvl d.profile n (fun _ => [0, 2 ^ 30, 0, 0]), newest := n } (n + 1) k

/-- R291 and R294: bring the open interval to the quarter hour of a step tagged `tag`. The first interval of all is one in which the
dormer powered up (R293). -/
def rollIvl (d : Dormer) (tag : Nat) : Dormer :=
  let n := ivlOf tag d.utc
  match d.ivl with
  | none => (openIvl d n).flag IvlFlag.powerFail true
  | some o =>
    if n < o then d.flag IvlFlag.timeJump true
    else if n = o then d
    else
      let d := closeIvl (d.flag IvlFlag.timeJump (decide (d.tag + 100 < tag))) o
      let k := min (n - o - 1) 3360
      { openIvl (closeMissing d (n - k) k) n with ivlDue := some (tag / 100) }

/-! ### State copies (R298–R301) -/

def copyOf (d : Dormer) (seq : Nat) : StateCopy :=
  StateCopy.sealed {
    seq := seq % 2 ^ 32, totals := d.totals, resid := d.resid, ivl := d.ivl, bases := d.bases, ivlFlags := d.ivlFlags,
    seenImp := d.seenImp, seenExp := d.seenExp, acc := d.pulses.map fun o => o.acc, pending := d.pulses.map fun o => o.pending,
    stepNo := d.stepNo, tag := d.tag, utc := d.utc, crc := 0 }

/-- The write sequence of a copy; an invalid copy counts below every valid one. -/
def copySeq (c : Option StateCopy) : Nat := (c.map (·.seq + 1)).getD 0

/-- Write the copy that was not written last. -/
def writeCopy (d : Dormer) : Dormer :=
  let a := copySeq d.copies[0]
  let b := copySeq d.copies[1]
  { d with copies := d.copies.set (if a ≤ b then 0 else 1) (some (copyOf d (max a b))) (by split <;> omega) }

/-! ### Supervision (R270, R271) -/

/-- A flag that sets after `nu` steps in a row with `set`, and clears after `nd` in a row with `clear`. -/
def Deb.step (b : Deb) (set clear : Bool) (nu nd : Nat) : Deb :=
  let up := if set then b.up + 1 else 0
  let down := if clear then b.down + 1 else 0
  ⟨if b.on then !decide (nd ≤ down) else decide (nu ≤ up), up, down⟩

/-- Volts below 20 % of UN over a step of `n` samples. -/
def below20 (d : Dormer) (m : Sums) (n p : Nat) : Bool := decide (mNat m.vv p < n * (20000 * MeasCfg.un d.meas) ^ 2)

/-- Sag or swell over the refreshes of a step: the flag after them, and whether it held at any instant. -/
def cycleFlag (on : Bool) (rms : List Nat) (set clear : Nat → Bool) : Bool × Bool :=
  rms.foldl (fun (s : Bool × Bool) r =>
    let now := if s.1 then !clear r else set r
    (now, s.2 || now)) (on, on)

/-- |P| is at least 1 % of UN × In (R270). The feeder takes In of its L1 channel (log entry 25). -/
def reverseBig (d : Dormer) (vi : Int) (n c : Nat) : Bool :=
  decide (n * (MeasCfg.un d.meas * MeasCfg.primary d.meas c * 10 ^ 9) ≤ vi.natAbs)

def reverseStep (d : Dormer) (m : Sums) (n i : Nat) (b : Deb) : Deb :=
  let f := i / 4
  let p := i % 4
  let e := if p = 3 then energy d m n f 0 + energy d m n f 1 + energy d m n f 2 else energy d m n f p
  let vi := if p = 3 then sumVi m f 0 + sumVi m f 1 + sumVi m f 2 else sumVi m f p
  b.step (decide (e < 0) && reverseBig d vi n (if p = 3 then 4 * f else i)) (decide (0 ≤ e)) 100 100

/-- The channel tested in a step (R271). -/
def testChannel (d : Dormer) : Option (Fin 16) :=
  (List.finRange 16).find? fun c => d.stepNo % 100 == 6 * c.val && MeasCfg.sensor d.meas c != 0 && !MeasCfg.unused d.meas (c.val / 4)

def openNow (d : Dormer) (m : Sums) (c : Nat) : Bool :=
  if MeasCfg.sensor d.meas c = 3 then decide (50000000 < m.imp) else decide (100 * MeasCfg.burden d.meas c < m.imp)

/-- Sequence, neutral and open CT, with their LEGAL records (R270, R271, R505). -/
def superviseLegal (d : Dormer) (m : Sums) (n : Nat) : Dormer :=
  let undet := below20 d m n 0 || below20 d m n 1 || below20 d m n 2
  let wrong := !undet && 21000 ≤ m.ang2 && m.ang2 ≤ 27000 && 9000 ≤ m.ang3 && m.ang3 ≤ 15000
  let right := !undet && 9000 ≤ m.ang2 && m.ang2 ≤ 15000 && 21000 ≤ m.ang3 && m.ang3 ≤ 27000
  let q := d.pseq.step wrong right 100 100
  let d0 := d
  let d := if q.on = d.pseq.on then d else legal d 0x0110 (natOf q.on) 0 0 0
  let d := { d with pseq := q, undet := undet }
  let k := d.missingN.step (decide (n * 50000000 ^ 2 < mNat m.vv 3)) (decide (mNat m.vv 3 < n * 25000000 ^ 2)) 50 100
  let d := if k.on = d.missingN.on then d else legal d 0x0111 (natOf k.on) 0 0 0
  let d := { d with missingN := k }
  match testChannel d0 with
  | none => d
  | some c =>
    let o := d.openCt[c].step (openNow d m c) (!openNow d m c) 3 3
    let d1 := if o.on = d.openCt[c].on then d else legal d 0x0112 (natOf o.on) c.val 0 0
    { d1 with openCt := d.openCt.set c o }

/-! ### Pulses (R303–R306) -/

/-- The energy that a feeder's pulse source takes from a step. -/
def pulseEnergy (d : Dormer) (m : Sums) (n f : Nat) : Int :=
  let a := feederAdds d m n f
  match pulseSource d.pulse f with
  | 0 => a.getD 0 0
  | 1 => a.getD 1 0
  | 2 => (a.getD 0 0 : Int) - a.getD 1 0
  | _ => 0

/-- R303 and R304 on one output. -/
def accrue (o : PulseOut) (x : Int) : PulseOut :=
  let acc := o.acc + x
  let k : Nat := if acc < 0 then 0 else acc.natAbs / 10 ^ 12
  let room := 65535 - o.pending
  { o with
    acc := acc - (k : Int) * 10 ^ 12, pending := o.pending + min k room, accr := (k :: o.accr).take 8, lost := o.lost + (k - room),
    ovf := o.ovf || decide (room < k) }

/-- W of R305, in samples of 125 µs. -/
def pulseWidth (o : PulseOut) : Nat := if o.accr.sum ≤ 1 then 320 else 320 / min o.accr.sum 8

/-! ### Frames (R275–R279, R316–R319) -/

def dmrFlags (d : Dormer) (settling : Bool) : Nat :=
  natOf settling + 2 * natOf d.clkInternal + 4 * natOf d.timeFree + 8 * natOf d.aligning + 16 * natOf (MeasCfg.arith d.meas) +
  32 * natOf (d.session == 2) + 64 * natOf (d.sealState == 1) + 128 * natOf (lle d.ident 96 1 == 1)

def vstateOf (d : Dormer) (freqBad : Bool) : Nat :=
  (if d.undet then 2 else natOf d.pseq.on) + 4 * natOf d.missingN.on + 8 * natOf freqBad

def atRest (d : Dormer) (f : Nat) : Bool := (List.range 3).all fun p => (d.load.toList.getD (4 * f + p) Deb.off).on

/-- What the headers of all frames that follow a step share (R276): everything but SEQ. -/
structure DmrHeader where
  stepNo : Nat
  samples : Nat
  flags : Nat
  tagSec : Nat
  tagSlot : Nat
  vstate : Nat
  sagSwell : Nat
  feeders : Nat
  openCt : Nat
  noload : Nat
  reverse : Nat
  freq : Nat
  deriving DecidableEq, Repr

/-- Send a frame after a step: the header, SEQ and the MIC (R276, R278). -/
def sendFrame (h : DmrHeader) (body : DmrBody) (d : Dormer) : Dormer :=
  let f : DmrFrame :=
    { stepNo := h.stepNo, samples := h.samples, flags := h.flags, tagSec := h.tagSec, tagSlot := h.tagSlot, vstate := h.vstate,
      sagSwell := h.sagSwell, feeders := h.feeders, openCt := h.openCt, noload := h.noload, reverse := h.reverse, freq := h.freq,
      seq := d.seq % 2 ^ 32, body := body }
  { d with seq := d.seq + 1, sent := f.octets d.kDl :: d.sent }

/-- A feeder's block (R277); an unused feeder's reads zero. Power is rounded half away from zero (log entry 26). -/
def feederBlk (d : Dormer) (m : Sums) (n f : Nat) : FeederBlk :=
  if MeasCfg.unused d.meas f then FeederBlk.zero
  else
    let v (p : Nat) := sumVi m f p
    let h (p : Nat) := sumVhi m f p
    let s := apparentRaw m f 0 + apparentRaw m f 1 + apparentRaw m f 2
    let pn := v 0 + v 1 + v 2
    { pNet := roundAway pn (10 ^ 9 * n), p := (List.range 3).map fun p => roundAway (v p) (10 ^ 9 * n),
      qNet := roundAway (h 0 + h 1 + h 2) (10 ^ 9 * n), sNet := (roundAway s (10 ^ 9 * n * 2 ^ 32)).natAbs,
      irms := (List.range 4).map fun p => (Nat.sqrt (4 * sqI m (4 * f + p) / n) + 1000) / 2000,
      e := (List.range 3).map fun p => energy d m n f p,
      pf := if s = 0 then 0 else roundAway (pn * 10000 * 2 ^ 32) s }

def snapBody (d0 d : Dormer) (m : Sums) (n : Nat) : SnapBody :=
  { vrms := (List.range 4).map fun p => (Nat.sqrt (4 * mNat m.vv p / n) + 10000) / 20000, ang2 := m.ang2, ang3 := m.ang3,
    feeders := (List.range 4).map fun f => feederBlk d0 m n f,
    totals := (List.range 32).map fun k =>
      if d.meterFault then 2 ^ 64 - 1 else if MeasCfg.unused d0.meas (k / 8) then 0 else d.totals.toList.getD k 0 % 2 ^ 64 }

/-- The n-th LEGAL record from the newest, if that many exist. -/
def newestLegal (d : Dormer) (i : Nat) : Option SofRec :=
  if i < d.logCount then sget (fun _ => none) d.log (1024 + (d.logCount - 1 - i) % 8192) else none

def stateBody (d : Dormer) : StateBody :=
  { sealState := d.sealState, lidOpen := d.lidOpen, switch := d.switch, gateOpen := d.gateOpen, meterFault := d.meterFault,
    ovf := d.pulses.toList.map (·.ovf), session := d.session, result := d.result, nonce := if d.session = 0 then 0 else d.nonce,
    nextSeq := d.nextSeq, gateLeft := (d.gateLeft + 99) / 100, breaks := d.breaks % 2 ^ 32, sessions := d.sessions % 2 ^ 32,
    reserveLeft := reserveLeft d, utc := d.utc % 256, logCount := d.logCount % 2 ^ 32, pulse := d.pulse,
    pending := d.pulses.toList.map (·.pending), runIvl := (d.ivl.getD 0) % 2 ^ 32,
    run := (List.range 16).map fun i => ivlValue d (i / 4) (i % 4) % 2 ^ 32, newest := (List.range 4).map (newestLegal d),
    replayPos := d.replayPos, replay := (List.range 4).map fun i => sget (fun _ => none) d.log (d.replayPos + i) }

/-- The sixteen words of the records of an interval. -/
def ivlRecord (d : Dormer) (n : Nat) : List Nat := (List.range 16).map fun i => sget profileDefault d.profile (16 * (n % 3360) + i)

def inService (d : Dormer) : List Nat := (List.range 4).filter fun f => !MeasCfg.unused d.meas f

/-- The next PROFILE frame of the cycle (R318); none while no feeder is in service. -/
def sendProfile (h : DmrHeader) (d : Dormer) : Dormer :=
  let d := match d.cycleF with
    | _ :: _ => d
    | [] =>
      if d.cycleB + 1 < 140 then { d with cycleB := d.cycleB + 1, cycleF := inService d }
      else { d with cycleN := d.newest, cycleB := 0, cycleF := inService d }
  match d.cycleF with
  | [] => d
  | f :: fs =>
    let first := (d.cycleN + 2 ^ 32 - 3359 + 24 * d.cycleB) % 2 ^ 32
    let words := (List.range 24).flatMap fun i =>
      (List.range 4).map fun w => sget profileDefault d.profile (16 * ((d.cycleN + 1 + 24 * d.cycleB + i) % 3360) + 4 * f + w)
    sendFrame h (.profile first f words) { d with cycleF := fs }

def sendState (h : DmrHeader) (d : Dormer) : Dormer :=
  let d := sendFrame h (.state (stateBody d)) d
  { d with replayPos := (d.replayPos + 4) % 9216, pulses := d.pulses.map fun o => { o with ovf := false } }

/-- The frames that follow the SNAPSHOT of a step (R275, R316). -/
def sendOthers (h : DmrHeader) (d : Dormer) : Dormer :=
  let slot := d.tag % 100
  let d := if slot = 50 then sendFrame h (.info d.ident d.meas) d else d
  let d := if slot = 25 ∧ d.ivlDue = some (d.tag / 100) then
      { sendFrame h (.interval (d.newest % 2 ^ 32) (ivlRecord d d.newest)) d with ivlDue := none } else d
  let d := if slot = 0 then sendProfile h d else d
  if slot = 75 then sendState h d else d

/-! ### The step (R261, R262) -/

/-- Accruals lost in a course give a record at its end (R304, R313). -/
def overflowRecords (d : Dormer) : Dormer :=
  let d1 := (List.range 4).foldl (fun e f =>
    let k := ((d.pulses.toList[f]?).map (·.lost)).getD 0
    if k = 0 then e else legal e 0x0107 f k 0 0) d
  { d1 with pulses := d.pulses.map fun o => { o with lost := 0 } }

/-- The step boundary at which a CLOSE takes effect (R312). -/
def applySealed (d : Dormer) : Dormer :=
  match d.apply with
  | none => d
  | some (me, pu) => { d with prevMeas := d.meas, prevPulse := d.pulse, meas := me, pulse := pu, apply := none, changed := true }

/-- The samples of a step (R261, R262, R299): 72 to 88 by the slot marks, 80 while none arrive, and what there is where the supply
warning ends it. -/
def stepSamples (m : Meas) (short : Bool) : Nat :=
  if short then max m.n 1 else match m.mark with
    | some _ => min (max m.n 72) 88
    | none => 80

/-- The tag of a step (R261, R262): the slot it covers, or the slot after the previous step's. -/
def stepTag (m : Meas) (d : Dormer) : Nat :=
  match m.mark with
  | some (s, k) => 100 * s + k
  | none => d.tag + 1

/-- The latest crossings of a phase, newest first, at most 11: ten cycles. -/
def crossings (m : Meas) (d : Dormer) (p : Fin 3) : List Nat := ((m.cross.getD p []).reverse ++ d.cross[p]).take 11

/-- What a step takes in at its end: its number, the time channel, the crossings and the switch. -/
def stepEnter (m : Meas) (short : Bool) (d : Dormer) : Dormer :=
  { d with
    utc := m.utc.getD d.utc, stepNo := d.stepNo + 1, clock := d.clock + stepSamples m short, timeFree := m.mark.isNone,
    cross := Vector.ofFn (crossings m d),
    aligning := if short ∨ m.mark.isNone then d.aligning else !decide (72 ≤ m.n ∧ m.n ≤ 88), switch := m.switch }

/-- The flags that a step gives its interval (R293). -/
def stepFlags (settling : Bool) (d : Dormer) : Dormer :=
  (((d.flag IvlFlag.settling settling).flag IvlFlag.timeFree (d.timeFree || d.aligning)).flag
    IvlFlag.clkInternal d.clkInternal).flag IvlFlag.cfgChanged d.changed

/-- A step's energy is registered, in its interval, and accrues pulses; with METER_FAULT nothing is (R301). -/
def stepMeter (m : Sums) (n tag : Nat) (d0 : Dormer) : Dormer :=
  if d0.meterFault then d0
  else
    let d := register (stepFlags (decide (0 < d0.settle)) (rollIvl d0 tag)) m n
    { d with changed := false, pulses := Vector.ofFn fun (f : Fin 4) =>
        accrue d.pulses[f] (pulseConst d0.pulse f * pulseEnergy d0 m n f) }

/-- Supervision after a step: its LEGAL conditions, the load state and reverse flow; the samples count against the state `d0`
that the step found. -/
def stepWatch (m : Sums) (n : Nat) (d0 d : Dormer) : Dormer :=
  { superviseLegal d m n with
    load := Vector.ofFn fun (c : Fin 16) => loadStep d0 m n c d0.load[c]
    reverse := Vector.ofFn fun (i : Fin 16) => reverseStep d0 m n i d0.reverse[i] }

/-- Sags and swells of a step (R270), and SAGSWELL of its frames. -/
def stepDips (m : Meas) (d : Dormer) : Dormer × Nat :=
  let un := MeasCfg.un d.meas
  let sag (p : Fin 3) := cycleFlag d.sag[p] (m.cycle.getD p []) (fun r => decide (r < 9 * un)) (fun r => decide (92 * un < 10 * r))
  let swell (p : Fin 3) := cycleFlag d.swell[p] (m.cycle.getD p []) (fun r => decide (11 * un < r)) (fun r => decide (10 * r < 108 * un))
  ({ d with sag := Vector.ofFn fun p => (sag p).1, swell := Vector.ofFn fun p => (swell p).1 },
   ((List.finRange 3).map fun p => natOf (sag p).2 * 2 ^ p.val + natOf (swell p).2 * 2 ^ (4 + p.val)).sum)

/-- What the headers of the frames of a step show. -/
def stepHeader (m : Sums) (n seen : Nat) (settling : Bool) (d : Dormer) : DmrHeader :=
  let src := (List.range 3).find? fun p => !below20 d m n p
  { stepNo := d.stepNo % 2 ^ 48, samples := n, flags := dmrFlags d settling, tagSec := d.tag / 100 % 2 ^ 32, tagSlot := d.tag % 100,
    vstate := vstateOf d src.isNone, sagSwell := seen,
    feeders := MeasCfg.unusedMask d.meas % 16 + 16 * maskOf 4 (atRest d),
    openCt := maskOf 16 fun c => (d.openCt.toList.getD c Deb.off).on,
    noload := maskOf 16 fun c => c % 4 != 3 && (d.load.toList.getD c Deb.off).on,
    reverse := maskOf 16 fun c => (d.reverse.toList.getD c Deb.off).on,
    freq := match src with
      | some p => mNat m.freq p
      | none => 0 }

/-- The step boundary: a CLOSE takes effect, the gate's time runs, and every hundredth STEP_NO goes to MRAM (R279). -/
def stepLeave (d : Dormer) : Dormer :=
  { applySealed d with gateLeft := d.gateLeft - 1, stepStored := if d.stepNo % 100 = 0 then d.stepNo else d.stepStored }

/-- What a step's sums do: they are registered, and the step's tag and samples stay for the next one. -/
def stepRun (q : Sums) (n tag : Nat) (codes : List (List Int)) (d : Dormer) : Dormer :=
  { stepMeter q n tag d with tag := tag, settle := d.settle - 1, past := codes, free := d.free + 1 }

/-- End a step: `short` where the supply warning ends it at the present sample (R299). Everything the step does, up to
its frames; the last component tells the frames' header. -/
def stepCore (m : Meas) (short : Bool) (d : Dormer) : Dormer × DmrHeader × SnapBody :=
  let n := stepSamples m short
  let tag := stepTag m d
  let d0 := stepEnter m short d
  let q := sumsOf d0 m n
  let s := stepDips m (stepWatch q n d0 (stepRun q n tag (stepCodes m n) d0))
  (stepLeave s.1, stepHeader q n s.2 (decide (0 < d0.settle)) s.1, snapBody d0 s.1 q n)

/-- The end of the step tagged slot 99: the overflow records and the state copy (R298, R304). -/
def stepCourseEnd (d : Dormer) : Dormer :=
  if d.tag % 100 = 99 then writeCopy (overflowRecords d) else d

/-- DORMER_STEP_END on a dormer that runs. -/
def stepEnd (m : Meas) (d : Dormer) : Dormer :=
  if d.halted then d
  else
    let r := stepCore m false d
    sendOthers r.2.1 (sendFrame r.2.1 (.snapshot r.2.2) (stepCourseEnd r.1))

/-- A pulse cut short by the halt returns to the pending count (R306). -/
def pulseCut (o : PulseOut) : PulseOut := if o.on then { o with on := false, pending := min (o.pending + 1) 65535 } else o

/-- The flush (R299). -/
def flush (d : Dormer) : Dormer :=
  writeCopy (({ d with pulses := d.pulses.map pulseCut } : Dormer).flag IvlFlag.powerFail true)

/-- R299 and R300: the flush and the halt. -/
def supplyWarning (m : Meas) (d : Dormer) : Dormer :=
  if d.halted then d
  else
    let r := stepCore m true d
    { sendOthers r.2.1 (sendFrame r.2.1 (.snapshot r.2.2) (flush (stepCourseEnd r.1))) with halted := true }

/-- What a power-up finds and starts, whatever copy it restores (R273, R279, R295). A session does not outlive the supply. -/
def powerBase (a b : Option StateCopy) (d : Dormer) : Dormer :=
  { d with
    copies := ⟨#[a, b], rfl⟩, halted := false, cycles := d.cycles + 1, stepNo := d.stepStored + 200, stepStored := d.stepStored + 200,
    seq := 0, timeFree := true, aligning := false, clkInternal := false, settle := 20, clock := 0, past := [], cross := Vector.replicate 3 [], ivlDue := none,
    load := Vector.replicate 16 ⟨true, 0, 0⟩, pseq := Deb.off, undet := false, missingN := Deb.off,
    openCt := Vector.replicate 16 Deb.off, sag := Vector.replicate 3 false, swell := Vector.replicate 3 false,
    reverse := Vector.replicate 16 Deb.off, gateOpen := false, gateLeft := 0, session := 0, nonce := 0, nextSeq := 0,
    staged := (none, none), switch := false, changed := d.apply.isSome || d.changed, cycleB := 140, cycleF := [],
    meas := (d.apply.map Prod.fst).getD d.meas, pulse := (d.apply.map Prod.snd).getD d.pulse,
    prevMeas := if d.apply.isSome then d.meas else d.prevMeas, prevPulse := if d.apply.isSome then d.pulse else d.prevPulse,
    apply := none }

/-- Neither copy is valid (R301): at each such power-up STORE_FAIL is written, and no pulse goes on. -/
def storeFail (d : Dormer) : Dormer :=
  legal { d with meterFault := true, pulses := Vector.replicate 4 PulseOut.reset } 0x0109 0 0 0 0

/-- A copy is restored; `old` where the other one is invalid (R298, R301). -/
def restoreCopy (old : Bool) (c : StateCopy) (d : Dormer) : Dormer :=
  let r : Dormer := { d with
    totals := c.totals, resid := c.resid, ivl := c.ivl, bases := c.bases, ivlFlags := setBit c.ivlFlags IvlFlag.powerFail,
    seenImp := c.seenImp, seenExp := c.seenExp, tag := c.tag, utc := c.utc,
    pulses := Vector.ofFn fun (f : Fin 4) => { PulseOut.reset with acc := c.acc[f], pending := c.pending[f] } }
  if old then legal r 0x0108 c.seq 0 0 0 else r

/-- R273, R279, R295, R301: power-up; `xa` and `xb` are the bits of the copies' CRC words that no longer agree with what they cover. -/
def powerUp (xa xb : Nat) (d : Dormer) : Dormer :=
  let a := d.copies[0].filter fun c => c.valid xa
  let b := d.copies[1].filter fun c => c.valid xb
  match if copySeq a < copySeq b then b else a with
  | none => storeFail (powerBase a b d)
  | some c => restoreCopy (a.isNone || b.isNone) c (powerBase a b d)

end Sys2Proof.Machine
end

