-- ==== Sys2Proof/Machine/DormerSeal.lean ====
section
/-!
DEFINITION. The dormer's seal, gate and sessions (R307–R314), its clock (R260), its halt (R300) and its pulses (R305).
-/
namespace Sys2Proof.Machine

/-- SERIAL of the identity block (R281). -/
def Dormer.serial (d : Dormer) : Nat := lle d.ident 0 8

/-- The blocks in force from the next step boundary on: those of a CLOSE that is still to take effect, or the present ones. -/
def Dormer.nextBlocks (d : Dormer) : List Byte × List Byte := d.apply.getD (d.meas, d.pulse)

/-! ### Session commands (R310) -/

namespace Ses
/-- CMD, CFLAGS and SEQ of a session command's bytes. -/
def cmd (c : List Byte) : Nat := lle c 2 1
def cflags (c : List Byte) : Nat := lle c 3 1
def seq (c : List Byte) : Nat := lle c 20 2
/-- The length of DATA that CMD asks for. -/
def dataLen (c : List Byte) : Nat := if cmd c = 2 then 240 else if cmd c = 3 then 24 else 0
def data (c : List Byte) : List Byte := slice c 24 (dataLen c)
/-- LENGTH, CMD and CFLAGS agree with R310. -/
def formed (c : List Byte) : Bool :=
  lle c 0 2 == 88 + dataLen c && c.length == 88 + dataLen c && decide (1 ≤ cmd c ∧ cmd c ≤ 5) &&
    (cflags c == 0 || (cmd c == 4 && cflags c == 1))
/-- SIG verifies under the metrology key. -/
def sigOk (pub : BitVec 512) (c : List Byte) : Bool :=
  Cipher.ecdsaOk (beBytes 64 pub.toNat) (Cipher.sha256 (c.take (24 + dataLen c))) (slice c (24 + dataLen c) 64)
end Ses

/-- The checks of R311 up to STATE, in order; 0 where all hold. -/
def sealCheck (d : Dormer) (c : List Byte) : Nat :=
  if !Ses.formed c then 1
  else if lle c 4 8 ≠ d.serial then 2
  else if lle c 12 8 ≠ d.nonce ∨ d.session = 0 then 3
  else if !Ses.sigOk d.metroPub c then 4
  else if Ses.seq c ≠ d.nextSeq then 5
  else if d.session ≠ (if Ses.cmd c = 1 then 1 else 2) then 6
  else 0

/-- A session that ends (R312): IDLE, the staged blocks and the nonce gone, and SESSION_END on record. -/
def endSession (d : Dormer) (result : Nat) : Dormer :=
  legal { d with session := 0, nonce := 0, nextSeq := 0, staged := (none, none), result := result } 0x0105 result d.sessions 0 0

/-- A press of the seal switch (R309). -/
def sealPress (d : Dormer) : Dormer :=
  let d := { d with gateOpen := true, gateLeft := 60000, switch := true }
  if d.session = 0 then
    { d with session := 1, nonce := Config.dormerRandom d.free % 2 ^ 64, nextSeq := 0, free := d.free + 1 }
  else d

/-- The gate shuts (R309, R312). -/
def gateShut (d : Dormer) : Dormer :=
  let d := { d with gateOpen := false, gateLeft := 0 }
  if d.session = 1 then { d with session := 0, nonce := 0, nextSeq := 0 }
  else if d.session = 2 then endSession d 0x0A
  else d

/-- The witness contact opens (R308). -/
def witnessOpen (d : Dormer) : Dormer :=
  let d := { d with lidOpen := true, sealState := 1, breaks := d.breaks + 1 }
  legal d 0x0101 d.breaks d.stepNo 0 0

def witnessClose (d : Dormer) : Dormer := { d with lidOpen := false }

def sealOpen (c : List Byte) (d : Dormer) : Dormer :=
  let r := sealCheck d c
  if r ≠ 0 then { d with result := r }
  else if reserveLeft d < 5 then { d with result := 7 }
  else legal { d with session := 2, nextSeq := 1, result := 0 } 0x0103 d.nonce (d.nonce / 2 ^ 32) 0 0

/-- A block that a SET command offers: staged, or refused with its record (R311–R313). The number of the failing rule in
the record is not given by the spec: a free value (log entry 27). -/
def stageBlock (ok : Bool) (put : Dormer → Dormer) (c : List Byte) (d : Dormer) : Dormer :=
  if ok then put { d with nextSeq := Ses.seq c + 1, result := 0 }
  else legal { d with result := 8, free := d.free + 1 } 0x0106 (Ses.seq c) (Config.dormerFree d.free) 0 0

def sealSetMeas (c : List Byte) (d : Dormer) : Dormer :=
  let r := sealCheck d c
  if r ≠ 0 then { d with result := r }
  else stageBlock (measOk (Ses.data c)) (fun d => { d with staged := (some (Ses.data c), d.staged.2) }) c d

def sealSetPulse (c : List Byte) (d : Dormer) : Dormer :=
  let r := sealCheck d c
  if r ≠ 0 then { d with result := r }
  else stageBlock (pulseOk (d.staged.1.getD d.nextBlocks.1) (Ses.data c)) (fun d => { d with staged := (d.staged.1, some (Ses.data c)) }) c d

/-- The measurement block with another CFG_COUNT (R257). -/
def withCount (b : List Byte) (n : Nat) : List Byte := b.take 232 ++ leBytes 4 n ++ slice b 236 4

/-- The measurement block that a CLOSE leaves, with CFG_COUNT as it was; the block changed, or the pulse block did. -/
def closeMeas (d : Dormer) : List Byte := withCount (d.staged.1.getD d.nextBlocks.1) (MeasCfg.count d.nextBlocks.1)
def closePulse (d : Dormer) : List Byte := d.staged.2.getD d.nextBlocks.2
def closeChanges (d : Dormer) : Bool := closeMeas d != d.nextBlocks.1 || closePulse d != d.nextBlocks.2

/-- What a CLOSE sets to take effect at the next step boundary, and the sessions that changed a block (R312). -/
def closeBlocks (d : Dormer) : Dormer :=
  if closeChanges d then
    { d with sessions := d.sessions + 1, apply := some (withCount (closeMeas d) (MeasCfg.count d.nextBlocks.1 + 1), closePulse d) }
  else d

/-- CFG_CHANGE: the first 8 bytes of the old and the new block's hash (R313). -/
def cfgChange (changed : Bool) (old new : List Byte) (d : Dormer) : Dormer :=
  let hi (b : List Byte) : Nat := Cipher.sha256 b / 2 ^ 224
  let lo (b : List Byte) : Nat := Cipher.sha256 b / 2 ^ 192 % 2 ^ 32
  if changed then legal d 0x0104 (hi old) (lo old) (hi new) (lo new) else d

/-- A broken seal is renewed (R308). -/
def reseal (asked : Bool) (d : Dormer) : Dormer :=
  if asked ∧ d.sealState = 1 then legal { d with sealState := 2 } 0x0102 d.breaks d.sessions 0 0 else d

/-- CLOSE (R308, R312): every staged block from the next step boundary, the counters, and the records. -/
def sealClose (c : List Byte) (d : Dormer) : Dormer :=
  let r := sealCheck d c
  if r ≠ 0 then { d with result := r }
  else if Ses.cflags c = 1 ∧ d.lidOpen then { d with result := 9 }
  else
    reseal (Ses.cflags c == 1) (endSession
      (cfgChange (closePulse d != d.nextBlocks.2) d.nextBlocks.2 (closePulse d)
        (cfgChange (closeMeas d != d.nextBlocks.1) d.nextBlocks.1 (withCount (closeMeas d) (MeasCfg.count d.nextBlocks.1 + 1)) (closeBlocks d))) 0)

def sealAbort (c : List Byte) (d : Dormer) : Dormer :=
  let r := sealCheck d c
  if r ≠ 0 then { d with result := r } else endSession d 0

/-- R305: a pulse starts at sample `t` of the dormer's clock where it may. -/
def pulseStart (f : Fin 4) (t : Nat) (d : Dormer) : Dormer :=
  let o := d.pulses[f]
  let due := match o.last with
    | none => true
    | some l => decide (l + 2 * pulseWidth o ≤ t)
  if !d.halted && !d.meterFault && !o.on && decide (0 < o.pending) && due then
    { d with pulses := d.pulses.set f { o with pending := o.pending - 1, on := true, last := some t } }
  else d

def pulseEnd (f : Fin 4) (d : Dormer) : Dormer := { d with pulses := d.pulses.set f { d.pulses[f] with on := false } }

def haltRecover (d : Dormer) : Dormer := { d with halted := false }
def clockLoss (d : Dormer) : Dormer := { d with clkInternal := true }
def clockReturn (d : Dormer) : Dormer := { d with clkInternal := false }

end Sys2Proof.Machine
end

