-- ==== Sys2Proof/Machine/Mirror.lean ====
section
/-!
DEFINITION. The main side of the dormer's frames: verification, the mirror registers, events 7, 19, 37–41, the SYSTEM records
of R270, the legal-log mirror of R499–R501, and the reading of totals (R280–R283, R287, R319–R321).
-/
namespace Sys2Proof.Machine

namespace Dc
def framesOk : Nat := 0
def micFail : Nat := 1
def seqGap : Nat := 2
def infoOk : Nat := 3
def sagStarts : Nat := 4
def swellStarts : Nat := 5
end Dc

/-- SNAPSHOT frames that a SEQ discontinuity shows to be missing (R280): each step sends one, before its other frames, so that they are
those of the steps between, less than the frames between. A SEQ that falls back is a dormer that powered up. -/
def missingSnaps (last : Option (Nat × Nat)) (f : DmrFrame) : Nat :=
  match last with
  | some (seq, step) => min (f.seq - (seq + 1)) (f.stepNo - step - (if frameKind f.body = 1 then 1 else 0))
  | none => 0

/-- What every verified frame does: the counters, SEQ gaps, and the flags of DMR_LINK. -/
def frameVerified (f : DmrFrame) (m : Main) : Main :=
  let m := sky (m.count F.DMR_CNT Dc.framesOk) 0x09 (frameKind f.body * 2 ^ 24 + f.seq % 65536)
  let gap := missingSnaps m.mir.lastSeq f
  let m := if gap = 0 then m else m.count F.DMR_CNT Dc.seqGap gap
  let m : Main := { m with mir := { m.mir with lastSeq := some (f.seq, f.stepNo) } }
  ((m.put F.DMR_LINK_TFLAGS (bits f.flags 3 1)).put F.DMR_LINK_SETTLING (bits f.flags 0 0)).put F.DMR_LINK_LAST_SEQ f.seq

/-- A frame whose MIC or LENGTH fails, or which is of another kind than its command names, is discarded (R280). -/
def frameFailed (o : List Byte) (m : Main) : Main :=
  sky (m.count F.DMR_CNT Dc.micFail) 0x09 (lle o 2 1 * 2 ^ 24 + 65536 + lle o 28 4 % 65536)

/-- A frame of the dormer link as the main side verifies it under K_DL. -/
def linkFrame (m : Main) (o : List Byte) : Option DmrFrame := dmrVerified m.fuse.kDl o

/-! ### SNAPSHOT (R280–R283) -/

/-- DMR_ALARM as a verified SNAPSHOT shows it; the wrong flag keeps its value while the sequence is undetermined. -/
def alarmWord (f : DmrFrame) (old : Nat) : Nat :=
  let seq := bits f.vstate 1 0
  let wrong := if seq = 2 then bits old 10 10 else natOf (seq == 1)
  f.openCt % 65536 * 65536 + bits f.feeders 7 4 * 4096 + bits f.vstate 2 2 * 2048 + wrong * 1024 + natOf (seq == 2) * 512 +
    bits f.vstate 3 3 * 256 + bits f.sagSwell 6 4 * 16 + bits f.sagSwell 2 0

/-- A sag or swell on a phase, watched through the snapshots: `code` is its record, `worse` keeps the extreme. -/
def watchDip (code p v : Nat) (on : Bool) (worse : Nat → Nat → Nat) (d : Option Dip) (m : Main) : Option Dip × Main :=
  match d, on with
  | none, true => (some ⟨v, 1⟩, m.count F.DMR_CNT (if code = 0x0330 then Dc.sagStarts else Dc.swellStarts))
  | some d, true => (some ⟨worse d.extreme v, d.steps + 1⟩, m)
  | some d, false => (none, record code p d.extreme d.steps 0 m)
  | none, false => (none, m)

def watchDips (f : DmrFrame) (b : SnapBody) (m : Main) : Main :=
  (List.range 3).foldl (fun m p =>
    let v := b.vrms.getD p 0
    let s := watchDip 0x0330 p v (bitOf f.sagSwell p) min (vget m.mir.sag p none) m
    let m : Main := { s.2 with mir := { s.2.mir with sag := vmod s.2.mir.sag p fun _ => s.1 } }
    let w := watchDip 0x0331 p v (bitOf f.sagSwell (4 + p)) max (vget m.mir.swell p none) m
    { w.2 with mir := { w.2.mir with swell := vmod w.2.mir.swell p fun _ => w.1 } }) m

/-- Reverse-flow records, by feeder (R270, R505). -/
def watchReverse (old new : Nat) (m : Main) : Main :=
  (List.range 4).foldl (fun m f =>
    let o := bits old (4 * f + 3) (4 * f)
    let n := bits new (4 * f + 3) (4 * f)
    let m := if n &&& (o ^^^ 15) = 0 then m else record 0x0332 f n 1 0 m
    if o &&& (n ^^^ 15) = 0 then m else record 0x0332 f n 0 0 m) m

/-- Events 37–40 (R282), between two values of DMR_ALARM. -/
def alarmChange (old new : Nat) (m : Main) : Main :=
  let m := fireIf (bitOf old 10 != bitOf new 10) 37 m
  let m := fireIf (bitOf old 11 != bitOf new 11) 38 m
  let o := old / 65536
  let n := new / 65536
  let m := fireIf (n &&& (o ^^^ 65535) != 0 || (o != 0 && n == 0)) 39 m
  fireIf (bits old 15 12 != bits new 15 12) 40 m

/-- Events 37–40 fire only with LINK_UP set, on what has changed since they last did: what arises and ends while LINK_UP is clear
fires none (R282). -/
def alarmEvents (new : Nat) (m : Main) : Main :=
  if m.bit F.DMR_LINK_LINK_UP then
    alarmChange m.mir.alarmSeen new { m with mir := { m.mir with alarmSeen := new } }
  else m

/-- A verified SNAPSHOT (R280), received as the octets `o`. -/
def snapshotGood (o : List Byte) (f : DmrFrame) (b : SnapBody) (m : Main) : Main :=
  let m := frameVerified f m
  let run := min 3 (m.mir.upRun + 1)
  let m : Main := { m with mir := { m.mir with upRun := run, snap := some f } }
  let m := if run = 3 then m.putBit F.DMR_LINK_LINK_UP true else m
  let oldA := m.word (F.DMR_ALARM_SAG.addr 0)
  let oldR := m.get F.DMR_PHASE_REVERSE
  let newA := alarmWord f oldA
  let m := m.setWord (F.DMR_ALARM_SAG.addr 0) newA
  let m := (m.put F.DMR_PHASE_NOLOAD f.noload).put F.DMR_PHASE_REVERSE f.reverse
  let rise := newA &&& (oldA ^^^ 0xFFFFFFFF) &&& 0xFFFF0C77
  let m := m.setWord (F.DMR_ALARM_LATCH_SAG.addr 0) (m.word (F.DMR_ALARM_LATCH_SAG.addr 0) ||| rise)
  let m := m.putWords (F.DMR_SNAP_WIN.addr 0) (wordsOf o 142)
  watchReverse oldR f.reverse (watchDips f b (alarmEvents newA m))

/-- SNAPSHOT_RX. -/
def snapshotRx (o : List Byte) (m : Main) : Main :=
  match linkFrame m o with
  | some f =>
    match f.body with
    | .snapshot b => snapshotGood o f b m
    | _ => frameFailed o m
  | none => frameFailed o { m with mir := { m.mir with upRun := 0 } }

/-- No verified SNAPSHOT for 30 ms (R280). -/
def linkTimeout (m : Main) : Main := { m.putBit F.DMR_LINK_LINK_UP false with mir := { m.mir with upRun := 0 } }

/-! ### INFO, INTERVAL and PROFILE -/

def infoGood (f : DmrFrame) (ident meas : List Byte) (m : Main) : Main :=
  let m := (frameVerified f m).count F.DMR_CNT Dc.infoOk
  let m : Main := { m with mir := { m.mir with ident := ident, meas := meas } }
  let m := ((m.put F.DMR_ID_ROM_ID (lle ident 8 2)).putBit F.DMR_ID_INFO_VALID true).putBit F.DMR_ID_APPROVED (lle ident 96 1 == 1)
  m.putWords (F.DMR_INFO_WIN.addr 0) (wordsOf (ident ++ meas) 92)

def infoRx (o : List Byte) (m : Main) : Main :=
  match linkFrame m o with
  | some f =>
    match f.body with
    | .info ident meas => infoGood f ident meas m
    | _ => frameFailed o m
  | none => frameFailed o m

/-- An INTERVAL frame: its window, the meter interval ring, and event 19 (R316, R319). -/
def intervalRx (o : List Byte) (m : Main) : Main :=
  match linkFrame m o with
  | some f =>
    match f.body with
    | .interval n w => fire 19 (uplPost 3 o ((frameVerified f m).putWords (F.DMR_IVL_WIN.addr 0) (n :: w)))
    | _ => frameFailed o m
  | none => frameFailed o m

def profileRx (o : List Byte) (m : Main) : Main :=
  match linkFrame m o with
  | some f =>
    match f.body with
    | .profile _ _ _ => uplPost 3 o (frameVerified f m)
    | _ => frameFailed o m
  | none => frameFailed o m

/-! ### STATE and the legal-log mirror (R499–R501, R319–R321) -/

/-- Store D's FIRST area closes, or its reserve is spent (R501). -/
def closeD (m : Main) : Main := record 0x03E1 0 0 0 0 (setClosed m 0)

/-- A record goes to a position of the mirror; `fresh` delivers it as new. -/
def mirrorRec (area pos : Nat) (r : Option SofRec) (fresh : Bool) (m : Main) : Main :=
  let first := area == 0 && pos == 767 && (recAt m 0 0 767).isNone && r.isSome
  let m := putRec m 0 area pos r
  let m := match r, fresh with
    | some x, true => deliverLive m 0 x false
    | _, _ => m
  if first then closeD m else m

/-- The LOG_COUNT of a STATE frame and its newest records (R500). -/
def mirrorNewest (b : StateBody) (m : Main) : Main :=
  let seen := recNo m 0
  let k := b.logCount - seen
  let n := min k 4
  let m := setRecNo m 0 b.logCount
  let m := (List.range n).foldl (fun m i =>
    let j := n - 1 - i
    mirrorRec 1 ((b.logCount - 1 - j) % 8192) ((b.newest[j]?).getD none) true m) m
  if 4 < k then record 0x03E0 (k - 4) 0 0 0 m else m

/-- The replayed records of a STATE frame: one that differs from the mirror's copy is new (R499, R500). A position past the two areas
does not exist. -/
def mirrorReplay (b : StateBody) (m : Main) : Main :=
  (List.range 4).foldl (fun m i =>
    let p := b.replayPos + i
    let area := if p < 1024 then 0 else 1
    let pos := if p < 1024 then p else p - 1024
    let r := (b.replay[i]?).getD none
    if 9216 ≤ p ∨ recAt m 0 area pos = r then m else mirrorRec area pos r true m) m

/-- The seal as the main side sees it: TMP_STATUS, and class 3 of R478. -/
def sealMirror (b : StateBody) (m : Main) : Main :=
  let broken := b.sealState == 1
  let m := m.putBit F.TMP_STATUS_SEAL_LIVE broken
  if broken then m.putBit F.TMP_STATUS_SEAL_LATCH true else m

def stateGood (f : DmrFrame) (b : StateBody) (m : Main) : Main :=
  let old := m.mir.state
  let m := frameVerified f m
  let m : Main := { m with mir := { m.mir with state := some b } }
  let m := m.setWord 0x0A0900 (b.nextSeq % 65536 * 65536 + b.result % 256 * 256 + b.session % 4 * 64 + b.sealState % 4 * 16 +
    natOf b.meterFault * 8 + natOf b.gateOpen * 4 + natOf b.switch * 2 + natOf b.lidOpen)
  let m := m.putWords (F.DMR_SEAL_NONCE.addr 0) [b.nonce % 2 ^ 32, b.nonce / 2 ^ 32]
  let m := m.putWords (F.DMR_SEAL_CNT.addr 0) [b.breaks, b.sessions]
  let m := (List.range 4).foldl (fun m i =>
    let m := (m.put F.DMR_PULSE_PENDING (b.pending.getD i 0) i).put F.DMR_PULSE_SOURCE (pulseSource b.pulse i) i
    let m := m.put F.DMR_PULSE_CONST_CONST (pulseConst b.pulse i) i
    if b.ovf.getD i false then m.putBit F.DMR_PULSE_OVF true i else m) m
  let m := m.putWords (F.DMR_RUN_WIN.addr 0) (b.runIvl :: (List.range 16).map (b.run.getD · 0))
  let m := match old with
    | some o => fireIf (o.sealState != b.sealState || o.lidOpen != b.lidOpen) 7 m
    | none => m
  let m := fireIf (b.ovf.any id) 41 m
  let m := mirrorReplay b (mirrorNewest b (sealMirror b m))
  if b.reserveLeft = 0 ∧ !m.mir.spent then closeD { m with mir := { m.mir with spent := true } } else m

def stateRx (o : List Byte) (m : Main) : Main :=
  match linkFrame m o with
  | some f =>
    match f.body with
    | .state b => stateGood f b m
    | _ => frameFailed o m
  | none => frameFailed o m

/-! ### Reading the totals (R287, R288) -/

/-- A read of 0x0600 latches the totals, their legacy views and the step from the latest verified SNAPSHOT. -/
def totRead (m : Main) : Main :=
  match m.mir.snap with
  | none => m
  | some f =>
    match f.body with
    | .snapshot b =>
      let t (k : Nat) := b.totals.getD k 0
      let m := m.putWords (F.DMR_TOT_WIN.addr 0) ((List.range 32).flatMap fun k => [t k % 2 ^ 32, t k / 2 ^ 32])
      let m := m.putWords (F.DMR_LEGACY_WIN.addr 0) ((List.range 32).map fun k => t k / 1000000 % 2 ^ 32)
      (m.put F.DMR_TOT_STEP_STEP_LO f.stepNo).put F.DMR_TOT_STEP_HI_STEP_HI (f.stepNo / 2 ^ 32)
    | _ => m

end Sys2Proof.Machine
end

