-- ==== Sys2Proof/Machine/Purlin.lean ====
section
/-!
DEFINITION. The purlin engine at run time (chapter 07): initialisation, samples, freezing, the analogue and pulse inputs, and the
lamps-out estimate.
-/
namespace Sys2Proof.Machine

/-! ### Loops -/

def loopSt (m : Main) (l : Nat) : PLoop := vget m.pur.loops l PLoop.reset
def withLoop (l : Nat) (f : PLoop → PLoop) (m : Main) : Main := { m with pur := { m.pur with loops := vmod m.pur.loops l f } }

namespace Lp
def off : Nat := 0
def run : Nat := 1
def track : Nat := 2
def frozen : Nat := 3
def fallback : Nat := 4
end Lp

/-- STATE of a loop, with PUR_STATUS. -/
def setLoop (l st : Nat) (m : Main) : Main :=
  let m := m.put F.PUR_LOOP_STATUS_STATE st l
  (m.putBit F.PUR_STATUS_RUNNING (st == Lp.run || st == Lp.track) 0 l).putBit F.PUR_STATUS_FROZEN (st == Lp.frozen || st == Lp.fallback) 0 l

/-- A loop that the running bundle enables. -/
def loopOn (b : Img) (l : Nat) : Option Nat := (loopOff b l).bind fun o => if LoopC.enabled b o then some o else none

/-- The loop is to run in TRACK (R247). -/
def tracks (m : Main) (b : Img) (o : Nat) : Bool := standby m && LoopC.dest b o == 1

/-- The plan's own target of a loop's destination; 4,096 for a loop group (R243). -/
def openTarget (m : Main) (b : Img) (o : Nat) : Nat :=
  match LoopC.dest b o with
  | 1 => 4096
  | 2 => ((lumMap m).2.1 (LoopC.index b o)).getD 0
  | _ => (planGroup m (m.get F.GBL_LUM_GROUP)).level

/-- The value in force at a loop's destination (R249). -/
def destNow (m : Main) (b : Img) (o : Nat) : Nat :=
  match LoopC.dest b o with
  | 0 => 0
  | 1 => scaleOf m (LoopC.index b o)
  | 2 => m.get F.CH_STATUS_TARGET (LoopC.index b o)
  | _ => m.gbl.target

/-- The output of a loop, M0 of its last stage. -/
def loopOut (m : Main) (b : Img) (o l : Nat) : Bf := (vget (loopSt m l).stages (LoopC.stages b o - 1) PStage.reset).out

/-- The output as quantised for its destination (R235). -/
def quantised (b : Img) (o : Nat) (y : Bf) : Nat := min y.toInt.toNat (if LoopC.dest b o = 1 then 4096 else 4095)

/-- OUT and DEST_VAL. -/
def showOut (b : Img) (o l : Nat) (m : Main) : Main :=
  let y := loopOut m b o l
  let m := m.put F.PUR_OUT y.toWord l
  if LoopC.dest b o = 0 then m else m.put F.PUR_DEST_VAL (quantised b o y) l

/-- R249 on one loop, by its registers as well; `y` is the value in force at its destination. -/
def startLoop (b : Img) (o l y : Nat) (m : Main) : Main :=
  let m := (m.put F.PUR_LOOP_STATUS_CAUSE 0 l).putBit F.PUR_LOOP_STATUS_SP_FAST false l
  showOut b o l (setLoop l (if tracks m b o then Lp.track else Lp.run) (withLoop l (initLoop b o l (Bf.ofInt y)) m))

/-- Every loop stops (R250). -/
def stopLoops (m : Main) : Main :=
  (List.range 16).foldl (fun m l =>
    let clear (m : Main) (f : Field) : Main := m.putBit f false l
    setLoop l Lp.off ([F.PUR_LOOP_STATUS_SRC_FAULT, F.PUR_LOOP_STATUS_SP_FAST, F.PUR_LOOP_STATUS_CAP_UNREACH, F.PUR_LOOP_STATUS_FB_INVALID].foldl
      clear (m.put F.PUR_LOOP_STATUS_CAUSE 0 l))) m

/-- Every loop of the running plan is initialised, where loops run (R249, R250), from what was in force before. -/
def startLoops (m : Main) : Main :=
  let stopped := stopLoops m
  match runImg m with
  | some b =>
    if !m.bit F.PUR_CTRL_ENABLE then stopped
    else
      (List.range 16).foldl (fun s l =>
        match loopOn b l with
        | some o => startLoop b o l (destNow m b o) (withLoop l (fun p => { p with capRun := 0, capOff := 0 }) s)
        | none => s) stopped
  | none => stopped

/-- PUR_STG_WIN of the selected stage, as a read of its first word latches it (R253). -/
def stageWords (m : Main) : List Nat :=
  let l := m.get F.PUR_STG_SEL_LOOP
  let s := m.get F.PUR_STG_SEL_STAGE
  let p := vget (loopSt m l).stages s PStage.reset
  let cfg : Nat := match (runImg m).bind fun b => (loopOff b l).map fun o => (stageCfg b o s) with
    | some g => g.kind * 2 ^ 24 + (natOf g.antiwindup + 2 * natOf g.invert + 4 * natOf g.spWatch) * 2 ^ 16
    | none => 0
  [cfg + twos 8 p.x, twos 32 p.m0, twos 32 p.m1, twos 32 p.m2, twos 32 p.m3, p.dir * 2 ^ 30 + min p.fast 16383 * 2 ^ 16 + min p.rest 65535]

/-! ### Sources (R221, R226–R229) -/

/-- A quotient as a BF word of the finest exponent at which it fits, rounded (R215). -/
def bfRatio (num : Int) (den : Nat) : Bf :=
  if num % den = 0 then Bf.ofInt (num / den)
  else
    let at' (x : Nat) : Int := (2 * num * 2 ^ (60 - x) + den) / (2 * den)
    match (List.range 60).find? fun x => fits24 (at' x) with
    | some x => ⟨at' x, (x : Int) - 60⟩
    | none => Bf.ofInt (num / den)

/-- The raw value of a pulse input at `us` µs of TAI (R228). -/
def plsRaw (m : Main) (b : Img) (k us : Nat) : Nat :=
  let p := vget m.pur.pls k ⟨[], none, 0, none⟩
  match srcMode b (2 + k) with
  | 1 => (p.edges.filter fun e => decide (us < e + srcGate b (2 + k) ∧ e ≤ us)).length
  | 2 => p.width
  | _ => 0

/-- An analogue input's filtered code lies outside its range (R229). -/
def ainFault (m : Main) (b : Img) (k : Nat) : Bool :=
  let r := (vget m.pur.ain k Bf.zero).at' (-16)
  match srcMode b k with
  | 1 => decide (105 * 65536 * 65536 < 125 * r)
  | 2 => decide (250 * r < 36 * 65536 * 65536) || decide (210 * 65536 * 65536 < 250 * r)
  | _ => false

/-- A pulse input in width mode has completed no pulse in two gates (R229). -/
def plsFault (m : Main) (b : Img) (k us : Nat) : Bool :=
  srcMode b (2 + k) == 2 && (match (vget m.pur.pls k ⟨[], none, 0, none⟩).endAt with
    | some e => decide (e + 2 * srcGate b (2 + k) < us)
    | none => true)

/-- GAIN × raw + OFFSET of a source record. -/
def srcValue (b : Img) (n : Nat) (raw : Bf) : Bf := (Bf.sum [(srcGain b n).mul raw, srcOffset b n]).narrow

/-- The latest snapshot, and whether it makes a dormer source faulted. -/
def dormerFault (m : Main) : Bool :=
  !m.bit F.DMR_LINK_LINK_UP || m.mir.upRun == 0 || (match m.mir.snap with
    | some f => bitOf f.flags 0
    | none => true)

def latestSnap (m : Main) : Option SnapBody :=
  m.mir.snap.bind fun f => match f.body with
    | .snapshot b => some b
    | _ => none

/-- Power in mW: of a feeder (`p` = 3), or of a phase of it. -/
def dormerPower (m : Main) (f p : Nat) : Int :=
  match (latestSnap m).bind (·.feeders[f]?) with
  | some k => if p = 3 then k.pNet else k.p.getD p 0
  | none => 0

/-- The mean illuminance of a group in lx, with whether no context qualifies. -/
def luxMean (m : Main) (g tai : Nat) : Bf × Bool :=
  let cs := m.ctx.ctx.filter fun p => p.2.groups.contains g && p.2.lux != 0xFFFF && decide ((tai + 2 ^ 32 - p.2.lastHeard % 2 ^ 32) % 2 ^ 32 ≤ 60)
  if cs.isEmpty then (Bf.zero, true) else (bfRatio (cs.foldl (fun n p => n + p.2.lux) 0 : Nat) (10 * cs.length), false)

/-- The value of source `c` for the loop at offset `o`, at `t` × 100 µs of TAI, and whether it is faulted. -/
def source (m : Main) (b : Img) (o l c t : Nat) : Bf × Bool :=
  if c = 1 ∨ c = 2 then
    (if srcMode b (c - 1) = 0 then (Bf.zero, false) else (srcValue b (c - 1) (vget m.pur.ain (c - 1) Bf.zero), ainFault m b (c - 1)))
  else if c = 3 ∨ c = 4 then
    (if srcMode b (c - 1) = 0 then (Bf.zero, false)
     else (srcValue b (c - 1) (Bf.ofInt (plsRaw m b (c - 3) (100 * t))), plsFault m b (c - 3) (100 * t)))
  else if c = 5 then (Bf.ofWord (m.get F.PUR_HOST_SP l), false)
  else if c = 6 then
    (LoopC.planSp b o (if m.get F.YLM_PROFILE_PROFILE = LoopC.profile b o then m.get F.YLM_PROFILE_STEP else 0), false)
  else if 0x10 ≤ c ∧ c ≤ 0x13 then (bfRatio (dormerPower m (c - 0x10) 3) 1000, dormerFault m)
  else if c = 0x14 then (bfRatio ((List.range 4).foldl (fun v f => v + dormerPower m f 3) 0) 1000, dormerFault m)
  else if 0x20 ≤ c ∧ c ≤ 0x2E then (bfRatio (dormerPower m ((c - 0x20) / 4) ((c - 0x20) % 4)) 1000, dormerFault m)
  else if c = 0x40 then luxMean m (LoopC.luxGroup b o) (t / 10000)
  else (Bf.zero, false)

/-- PUR_SRC of the four inputs. -/
def showSources (t : Nat) (m : Main) : Main :=
  match runImg m with
  | none => m
  | some b =>
    (List.range 2).foldl (fun m k =>
      let m := (m.put F.PUR_SRC_RAW (min ((vget m.pur.ain k Bf.zero).toInt.toNat) 65535) k).putBit F.PUR_SRC_FAULT (ainFault m b k) k
      (m.put F.PUR_SRC_RAW (min (plsRaw m b k (100 * t)) 65535) (2 + k)).putBit F.PUR_SRC_FAULT (plsFault m b k (100 * t)) (2 + k)) m

/-! ### A sample (R218–R225, R230, R239–R244, R247) -/

/-- The slot updates visible at `t` × 100 µs: a slot's sums become visible 100 µs after its boundary (R221). -/
def visible (m : Main) (t : Nat) : List ModelEntry := m.pur.hist.filter fun e => decide (100 * e.slot + 1 ≤ t)

/-- A sum of the latest visible update (R224). -/
def modelSum (m : Main) (t q f : Nat) : Nat :=
  match (visible m t).head? with
  | none => 0
  | some e => (match q with | 0 => e.now | 1 => e.tgt | _ => e.lit).getD f 0

/-- History entry `d` of a feeder; before the history is full, its oldest filled entry (R225). -/
def delayedSum (es : List ModelEntry) (d f : Nat) : Nat :=
  let h := es.take 64
  match (h[min d (h.length - 1)]?) with
  | some e => e.now.getD f 0
  | none => 0

/-- What a stage input names (R220). -/
def stageInput (m : Main) (l : Nat) (sp fb : Bf) (c : Nat) : Bf :=
  let out (k s : Nat) : Bf := (vget (loopSt m k).stages s PStage.reset).out
  if c = 1 then sp
  else if c = 2 then fb
  else if 0x10 ≤ c ∧ c ≤ 0x17 then out l (c - 0x10)
  else if 0x80 ≤ c then out ((c - 0x80) / 8 % 16) (c % 8)
  else Bf.zero

/-- The last stage of a loop. -/
def lastStage (b : Img) (o : Nat) : Nat := LoopC.stages b o - 1
def isLimit (b : Img) (o : Nat) : Bool := (stageCfg b o (lastStage b o)).kind == 8

/-- SRC_FAULT with its record (R229). -/
def setSrcFault (l code : Nat) (on : Bool) (m : Main) : Main :=
  if m.bit F.PUR_LOOP_STATUS_SRC_FAULT l = on then m else record 0x0320 l code (natOf on) 0 (m.putBit F.PUR_LOOP_STATUS_SRC_FAULT on l)

/-- A stage whose output is put back to `y`, its other words kept (R243). -/
def PStage.putOut (s : PStage) (y : Bf) : PStage :=
  let w (v : Int) : Int := (writeBack ⟨v, s.x⟩ y.x).1
  ({ s with m0 := (writeBack y y.x).1, m1 := w s.m1, m2 := w s.m2, m3 := w s.m3, x := y.x } : PStage).renorm.1

/-- A loop freezes (R243): 1 RESIDUAL, after which the output is that of the last sample in the band; 2 FB_LOST. -/
def freeze (b : Img) (o l cause : Nat) (m : Main) : Main :=
  let m := withLoop l (fun p => { p with
    frozen := true, okRun := 0, stages := vmod p.stages (lastStage b o) fun s => if cause = 1 then s.putOut p.good else s }) m
  let m := showOut b o l (m.put F.PUR_LOOP_STATUS_CAUSE cause l)
  let m := setLoop l (if LoopC.fallback b o then Lp.fallback else Lp.frozen) m
  fire 33 (record 0x0321 l cause (loopOut m b o l).toWord 0 m)

/-- A frozen loop resumes (R244). -/
def resumeLoop (b : Img) (o l : Nat) (m : Main) : Main := startLoop b o l (destNow m b o) m

/-- A frozen loop whose final LIMIT goes on to the open-loop value (R243). -/
def falls (m : Main) (b : Img) (o l : Nat) : Bool := (loopSt m l).frozen && LoopC.fallback b o && isLimit b o

/-- The target of the final LIMIT, before its bounds. -/
def finalInput (m : Main) (b : Img) (o l : Nat) (sp fb : Bf) : Bf :=
  if falls m b o l then Bf.ofInt (openTarget m b o) else stageInput m l sp fb ((stageCfg b o (lastStage b o)).ins.getD 0 0)

/-- A stage that runs in a sample (R230, R243): a frozen loop runs MEAS_STAGE and MODEL_STAGE, and with FALLBACK its final LIMIT. -/
def stageRuns (m : Main) (b : Img) (o l k : Nat) (held : Bool) : Bool :=
  (falls m b o l && k == lastStage b o) ||
    (!held && (!(loopSt m l).frozen || k == LoopC.measStage b o || k == LoopC.modelStage b o))

/-- The stages of a sample run in order, before they are renormalised; with it, whether a word saturated, and whether SP_FAST of a
stage rose. -/
def runStages (b : Img) (o l t : Nat) (sp fb : Bf) (held track : Bool) (m : Main) : Main × Bool × Bool :=
  let last := lastStage b o
  let bound := (vget (loopSt m l).stages last PStage.reset).bound
  let cap := m.bit F.PUR_LOOP_STATUS_CAP_UNREACH l
  let s := Bf.ofInt (scaleOf m (LoopC.index b o))
  (List.range (LoopC.stages b o)).foldl (fun (x : Main × Bool × Bool) k =>
    let m := x.1
    if !stageRuns m b o l k held then x
    else
      let g := stageCfg b o k
      let forced := track && ((k == last && g.kind == 8) || ((g.kind == 2 || g.kind == 3) && k != last && feedsFinal b o l k))
      let es := visible m t
      let env : StageEnv := ⟨if track then 0 else bound, cap, modelSum m t, delayedSum es, LoopC.period b o, if forced then some s else none⟩
      let u (i : Nat) : Bf := if k == last && i == 0 then finalInput m b o l sp fb else stageInput m l sp fb (g.ins.getD i 0)
      let old := vget (loopSt m l).stages k PStage.reset
      let r := stageSample g env old u
      (withLoop l (fun p => { p with stages := vmod p.stages k fun _ => r.1 }) m, x.2.1 || r.2, x.2.2 || (r.1.spFast && !old.spFast)))
    (m, false, false)

/-- After the sample every vector that it changed is renormalised (R217); with it, whether one stayed out of range. -/
def renormStages (b : Img) (o l : Nat) (held : Bool) (m : Main) : Main × Bool :=
  (List.range (LoopC.stages b o)).foldl (fun (x : Main × Bool) k =>
    if !stageRuns x.1 b o l k held then x
    else
      let r := (vget (loopSt x.1 l).stages k PStage.reset).renorm
      (withLoop l (fun p => { p with stages := vmod p.stages k fun _ => r.1 }) x.1, x.2 || r.2)) (m, false)

/-- The cap condition of R239, on the vectors as the sample's stages left them. -/
def capCondition (m : Main) (b : Img) (o l : Nat) (sp fb : Bf) : Bool :=
  let g := stageCfg b o (lastStage b o)
  let st := vget (loopSt m l).stages (lastStage b o) PStage.reset
  let u := finalInput m b o l sp fb
  let lo := g.coef 0
  let hi := g.coef 1
  let tgt := if Bf.lt u lo then lo else if Bf.lt hi u then hi else u
  let i := LoopC.index b o
  let lit := m.get F.PUR_GROUP_LIT_G i
  (Bf.le u lo && st.m0 == lo.at' st.x) || (decide (0 < lit) && m.get F.PUR_GROUP_FLOOR_HELD i == lit && decide (tgt.at' st.x < st.m0))

/-- Samples in a row whose number times the period reaches 1 s. -/
def second (b : Img) (o n : Nat) : Bool := decide (10000 ≤ n * LoopC.period b o)

def capStep (b : Img) (o l : Nat) (c : Bool) (m : Main) : Main :=
  let m := withLoop l (fun p => { p with capRun := if c then p.capRun + 1 else 0, capOff := if c then 0 else p.capOff + 1 }) m
  let set := m.bit F.PUR_LOOP_STATUS_CAP_UNREACH l
  let p := loopSt m l
  if !set && second b o p.capRun then fire 35 (m.putBit F.PUR_LOOP_STATUS_CAP_UNREACH true l)
  else if set && second b o p.capOff then fire 35 (m.putBit F.PUR_LOOP_STATUS_CAP_UNREACH false l)
  else m

/-- SAT_NUM, SAT_COUNT and event 36 (R216, R240). -/
def satStep (l : Nat) (m : Main) : Main :=
  let rises := !m.bit F.PUR_LOOP_STATUS_SAT_NUM l
  let due := rises && (loopSt m l).evt36 != some m.course
  let m := (m.count F.PUR_SAT_COUNT l).putBit F.PUR_LOOP_STATUS_SAT_NUM true l
  if due then fire 36 (withLoop l (fun p => { p with evt36 := some m.course }) m) else m

/-- The residual of a sample, and whether it lies in the band; a loop without both stages forms none (R241). -/
def residual (m : Main) (b : Img) (o l : Nat) : Option (Bf × Bool) :=
  if LoopC.measStage b o = 0xFF then none
  else
    let out (s : Nat) : Bf := (vget (loopSt m l).stages s PStage.reset).out
    let r := Bf.sum [out (LoopC.measStage b o), (out (LoopC.modelStage b o)).neg]
    some (r, Bf.le (LoopC.bandLo b o) r && Bf.le r (LoopC.bandHi b o))

/-- After the stages of a sample that is not held: the residual, its count, freezing and resuming. A loop in TRACK forms the residual and
keeps the output of its samples in the band, and does not freeze (R241, R247). -/
def superviseLoop (b : Img) (o l : Nat) (track : Bool) (m : Main) : Main :=
  let r := residual m b o l
  let m := match r with
    | some (v, _) => m.put F.PUR_RESIDUAL v.narrow.toWord l
    | none => m
  let inBand := match r with
    | some (_, ok) => ok
    | none => true
  let p := loopSt m l
  if p.frozen then
    let ok := if m.get F.PUR_LOOP_STATUS_CAUSE l = 1 then inBand else true
    let m := withLoop l (fun p => { p with okRun := if ok then p.okRun + 1 else 0 }) m
    if LoopC.autoResume b o && decide (LoopC.bandN b o ≤ (loopSt m l).okRun) then resumeLoop b o l m else m
  else
    let y := loopOut m b o l
    let m := withLoop l (fun p => { p with
      outside := if inBand || track then 0 else p.outside + 1, good := if inBand then y else p.good }) m
    if !inBand && !track && decide (LoopC.bandN b o ≤ (loopSt m l).outside) then freeze b o l 1 m else m

/-- A held sample (R230): counted, and at 1 s of them in a row the loop freezes. -/
def heldSample (b : Img) (o l : Nat) (track : Bool) (m : Main) : Main :=
  let m := withLoop l (fun p => { p with
    heldRun := p.heldRun + 1, okRun := if m.get F.PUR_LOOP_STATUS_CAUSE l = 2 then 0 else p.okRun }) (m.count F.PUR_HELD_SAMPLES l)
  if !track && !(loopSt m l).frozen && second b o (loopSt m l).heldRun then freeze b o l 2 m else m

/-- What a sample shows of its sources: SP and FB, with their faults. -/
def sampleInputs (b : Img) (o l : Nat) (sp : Bf × Bool) (fb : Bf × Bool) (m : Main) : Main :=
  let m := setSrcFault l (LoopC.spSrc b o) sp.2 m
  let m := ((m.count F.PUR_SAMPLES l).put F.PUR_SP sp.1.toWord l).putBit F.PUR_LOOP_STATUS_FB_INVALID fb.2 l
  m.put F.PUR_FB fb.1.toWord l

/-- STATE at a sample. -/
def sampleState (b : Img) (o l : Nat) (track : Bool) (m : Main) : Main :=
  setLoop l (if track then Lp.track else if (loopSt m l).frozen then (if LoopC.fallback b o then Lp.fallback else Lp.frozen) else Lp.run) m

/-- One sample of one loop. -/
def sampleLoop (b : Img) (o l t : Nat) (m : Main) : Main :=
  let track := tracks m b o
  let m := if track then withLoop l (fun p => { p with frozen := false, outside := 0, heldRun := 0 }) (m.put F.PUR_LOOP_STATUS_CAUSE 0 l) else m
  let spv := source m b o l (LoopC.spSrc b o) t
  let fbv := source m b o l (LoopC.fbSrc b o) t
  let sp := if spv.2 then LoopC.spFail b o else spv.1
  let held := fbv.2
  let m := sampleState b o l track (sampleInputs b o l (sp, spv.2) fbv m)
  let x := runStages b o l t sp fbv.1 held track m
  let cap := capCondition x.1 b o l sp fbv.1
  let y := renormStages b o l held x.1
  let m := withLoop l (fun p => { p with sampled := true }) y.1
  let m := if x.2.1 || y.2 then satStep l m else m
  let fast := (loopSt m l).stages.toList.any (·.spFast)
  let m := fireIf (x.2.2 && !track) 34 (m.putBit F.PUR_LOOP_STATUS_SP_FAST fast l)
  let m := showOut b o l m
  let m := if held then heldSample b o l track m else superviseLoop b o l track (withLoop l (fun p => { p with heldRun := 0 }) m)
  let m := if !track && LoopC.dest b o == 1 && isLimit b o then capStep b o l cap m else m
  sky m 0x08 (l * 2 ^ 28 + m.get F.PUR_LOOP_STATUS_STATE l * 2 ^ 24 + m.get F.PUR_DEST_VAL l)

/-- Loops run while a plan runs, ENABLE is set and the engine is powered (R250). -/
def loopsRun (m : Main) : Bool := m.bit F.PUR_CTRL_ENABLE && m.exec != Ex.noPlan && m.exec != Ex.loading && awake m

/-- PURLIN_SAMPLE at `t` × 100 µs of TAI: every loop that is due, in ascending order (R218, R219). -/
def purlinSample (t : Nat) (m : Main) : Main :=
  match runImg m with
  | none => m
  | some b =>
    let m := showSources t m
    if !loopsRun m then m
    else
      (List.range 16).foldl (fun m l =>
        match loopOn b l with
        | some o => if LoopC.period b o = 0 ∨ t % LoopC.period b o ≠ 0 then m else sampleLoop b o l t m
        | none => m) m

/-- RELEASE (R244). -/
def releaseLoop (l : Nat) (m : Main) : Main :=
  match (runImg m).bind fun b => (loopOn b l).map fun o => (b, o) with
  | some (b, o) => if (loopSt m l).frozen then resumeLoop b o l m else m
  | none => m

/-! ### Inputs (R227, R228) -/

/-- One conversion: the 16-bit codes of AIN0 and AIN1. -/
def ainConversion (x0 x1 : Nat) (m : Main) : Main :=
  let n (k : Nat) : Nat := match runImg m with
    | some b => if purHas b then srcFilter b k else 0
    | none => 0
  let step (k x : Nat) (m : Main) : Main :=
    let r := vget m.pur.ain k Bf.zero
    let c := Bf.ofInt (min x 65535)
    let r := if n k = 0 then c
      else
        let d := (Bf.sum [c, r.neg]).narrow
        (Bf.sum [r, ⟨d.m, d.x - n k⟩]).stored
    let m : Main := { m with pur := { m.pur with ain := vmod m.pur.ain k fun _ => r } }
    let m := m.put F.PUR_SRC_RAW (min r.toInt.toNat 65535) k
    match runImg m with
    | some b => m.putBit F.PUR_SRC_FAULT (ainFault m b k) k
    | none => m
  if awake m then step 1 x1 (step 0 x0 m) else m

/-- An edge on PLS0 or PLS1 at `us` µs of TAI. -/
def pulseEdge (k : Nat) (rise : Bool) (us : Nat) (m : Main) : Main :=
  let f (p : Pls) : Pls :=
    if rise then { p with edges := us :: p.edges.filter fun e => decide (us < e + 10000000), high := some us }
    else match p.high with
      | some h => { p with high := none, width := us - h, endAt := some us }
      | none => p
  if awake m then { m with pur := { m.pur with pls := vmod m.pur.pls k f } } else m

/-! ### The lamps-out estimate (R245, R246) -/

/-- A valid snapshot adds to the course's residuals. -/
def residSample (m : Main) : Main :=
  match runImg m, latestSnap m with
  | some b, some _ =>
    if dormerFault m then m
    else
      (List.range 4).foldl (fun m f =>
        if !bitOf (lampsMask b) f then m
        else
          let v := dormerPower m f 3 - delayedSum m.pur.hist (lampsDelay b) f - feedOffset b f
          { m with pur := { m.pur with residSum := vmod m.pur.residSum f (· + v), residN := vmod m.pur.residN f (· + 1) } }) m
  | _, _ => m

/-- MEDIAN of a feeder in mW: the value of rank (n − 1) div 2, from 0, among the lit contexts' contributions. -/
def medianOf (m : Main) (f : Nat) : Nat :=
  let cs := (m.ctx.ctx.filter fun p => p.2.live && p.2.feeder == f && p.2.target != 0).map fun p => contribution p.2.curve (p.2.now / 256)
  let k := (cs.length - 1) / 2
  (cs.find? fun v => decide ((cs.filter (· < v)).length ≤ k ∧ k < (cs.filter (· ≤ v)).length)).getD 0

/-- The feeder residual and LAMPS_OUT from a course's sum over `n` valid snapshots, at least 50 of them (R245, R246). -/
def lampsEstimate (f : Nat) (sum : Int) (n med : Nat) (m : Main) : Main :=
  let out := if med = 0 then 0 else ((-2 * sum + n * med) / (2 * n * med)).toNat
  (m.put F.PUR_FEEDER0_RESID (twos 32 (roundAway sum n)) f).put F.PUR_FEEDER1_LAMPS_OUT (min out 8191) f

/-- At a course boundary: MEDIAN of every feeder, and the estimate of those in LAMPS_MASK. -/
def lampsOut (m : Main) : Main :=
  let mask := match runImg m with
    | some b => lampsMask b
    | none => 0
  let m := (List.range 4).foldl (fun m f =>
    let n := vget m.pur.residN f 0
    let med := medianOf m f
    let m := m.put F.PUR_FEEDER1_MEDIAN (min (med / 100) 65535) f
    if !bitOf mask f || decide (n < 50) then m else lampsEstimate f (vget m.pur.residSum f 0) n med m) m
  { m with pur := { m.pur with residSum := Vector.replicate 4 0, residN := Vector.replicate 4 0 } }

def execPurlinSample (t : Nat) (s : State) : Result := s.onMain (purlinSample t)
def execAinConversion (x0 x1 : Nat) (s : State) : Result := s.onMain (ainConversion x0 x1)
def execPulseInputEdge (k : Fin 2) (rise : Bool) (us : Nat) (s : State) : Result := s.onMain (pulseEdge k rise us)
def execRelease (l : Fin 16) (s : State) : Result := s.onMain (hostAccess 0x09 (releaseLoop l))
/-- SNAPSHOT_RX: a verified one also adds to the residuals. -/
def execSnapshotRx (o : List Byte) (s : State) : Result :=
  s.onMain fun m => match linkFrame m o with
    | some f => (match f.body with
      | .snapshot _ => residSample (snapshotRx o m)
      | _ => snapshotRx o m)
    | none => snapshotRx o m

end Sys2Proof.Machine
end

