-- ==== Sys2Proof/Machine/Epoch.lean ====
section
/-!
DEFINITION. A plan comes into force (R60–R66, R71–R76, R118, R210, R249, R536, R561–R563, R593): at power-up, at a switch and at a
rollback; and the executor's states.
-/
namespace Sys2Proof.Machine

/-! ### A bundle is put in force -/

/-- The contexts under a bundle (R64, R167, R169, R561). Where `keep` is set only the management fields change; JOINED stays where
the index still names the same lantern. -/
def loadCtxs (b : Img) (keep : Bool) (m : Main) : Main :=
  let n := Hdr.lanterns b
  let m : Main :=
    if keep then mapCtx (fun i c => if i < n then c else { c with inPlan := false }) m
    else { m with ctx := { m.ctx with ctx := [], euis := [] } }
  let m : Main := { m with ctx := { m.ctx with euis := m.ctx.euis.filter fun p => decide (p.1 < n) } }
  (List.range n).foldl (fun m i =>
    let same := sget (fun _ => 0) m.ctx.euis i == invEui b i
    let m := withCtx i (fun c => fillCtx b i { c with joined := c.joined && same }) m
    { m with ctx := { m.ctx with euis := sset (fun _ => 0) m.ctx.euis i (invEui b i) } }) m

/-- PAIRED, SEAT and PARTNER (R41, R412). A module without a partner is ACTIVE; a new partner has not been heard. -/
def loadPair (b : Img) (m : Main) : Main :=
  let two := Hdr.paired b
  let seat := natOf (two && Hdr.seat1 b == ownAddr m)
  let other := if two then (if seat = 1 then Hdr.pairId b % 4096 else Hdr.seat1 b % 4096) else 0xFFF
  let m := if other = pairPartner m then m
    else
      { (m.putBit F.RED_STATUS_PARTNER_UP false).putBit F.RED_STATUS_IN_SYNC false with
        red := { m.red with partner := none, syncSince := none, own := [], theirs := [], resync := none } }
  let m := ((m.putBit F.RED_STATUS_PAIRED two).put F.RED_STATUS_SEAT seat).put F.RED_STATUS_PARTNER other
  if two ∨ m.red.role = 0 then m
  else followRole (setRole 2 ((if m.red.role = 1 then keepSubmitted m else m).putBit F.RED_STATUS_MUTED false))

/-- A loop group that no enabled loop names has S = 4,096 (R236). -/
def loadScales (b : Img) (m : Main) : Main :=
  (List.range 16).foldl (fun m g =>
    let named := (List.range 16).any fun l => match loopOn b l with
      | some o => LoopC.dest b o == 1 && LoopC.index b o == g
      | none => false
    if named then m
    else ({ m with pur := { m.pur with submitted := vmod m.pur.submitted g fun _ => 4096 } } : Main).put F.PUR_SCALE_SCALE 4096 g) m

/-- YLM_COURSE.TEMPLATE of the present course under the running bundle (R77). -/
def showTemplate (m : Main) : Main :=
  m.put F.YLM_COURSE_TEMPLATE (match runImg m with
    | some b => templateAt b (m.course % 3600)
    | none => 0)

/-- What every change of the running bundle does, once `ylm.run` and the bank states show it. -/
def loadPlan (b : Img) (keep : Bool) (m : Main) : Main :=
  let m := loadPair b (loadCtxs b keep m)
  let m := m.put F.WAV_TABLE_ENTRIES (if (sect b 11).isSome then wavEntries b else 0)
  let m := recomputeProfile m.slotNow (utcOffset m.course m)
  recheckPorts (startLoops (loadScales b (showTemplate (showPlan m))))

/-- What a switch and a rollback do beside that: the waves, the chains and the accepted previous epoch, and event 24 with its
record. -/
def epochEdge (old : Option Nat) (bank how : Nat) (m : Main) : Main :=
  let m := discardWaves m
  let m : Main := { m with
    ctx := { m.ctx with prevEpoch := old, epochAt := m.course, push := none }
    upd := { m.upd with chains := [], sched := [] }
    ylm := { m.ylm with deferred := true } }
  fire 24 (record 0x0312 (old.getD 0) (bankEpoch m bank) bank how m)

/-! ### LISTEN (R62, R562, R563) -/

/-- LISTEN is entered at this course boundary. -/
def enterListen (m : Main) : Main :=
  let m := setExec Ex.listen { m with
    ylm := { m.ylm with listenAt := m.course, deferred := true }
    eav := { m.eav with started := true } }
  if lanesOn m then allLanes 1 m else m

/-- The executor has a plan loaded, and enters LISTEN while the local clock is not UNSET (R463, R563). -/
def listenStep (m : Main) : Main :=
  if m.exec = Ex.loading ∧ m.ylm.run.isSome ∧ servo m ≠ Sv.unset then enterListen m else m

/-- LISTEN_END. -/
def listenEnd (m : Main) : Main :=
  if m.exec ≠ Ex.listen ∨ m.course < m.ylm.listenAt + 2 then m
  else
    let m : Main := { m with
      ylm := { m.ylm with deferred := true, fresh := false }
      ctx := { m.ctx with quiet := 3, beaconed := false, rejoin := if m.ylm.fresh then 60 else 0 } }
    takeRole (setExec (if m.bit F.YLM_CTRL_RUN then Ex.running else Ex.halted) m)

/-- RUN is written (R77): 0 only in COMMISSION, where every cell is then IDLE. -/
def runWrite (on : Bool) (m : Main) : Main :=
  if !on && m.mode != Md.commission then m
  else
    let m := m.putBit F.YLM_CTRL_RUN on
    if !on ∧ (m.exec = Ex.running ∨ m.exec = Ex.listen) then
      let m : Main := { m with ylm := { m.ylm with next := Vector.replicate 8 none } }
      allLanes 1 (if m.exec = Ex.running then setExec Ex.halted m else m)
    else if on ∧ m.exec = Ex.halted then setExec Ex.running m
    else m

/-! ### EPOCH_SWITCH and ROLLBACK_BOUNDARY -/

/-- The epoch of the running bundle. -/
def runEpoch (m : Main) : Option Nat := m.ylm.run.map fun b => bankEpoch m b

/-- EPOCH_SWITCH, at the course boundary that reaches the armed instant, or the first after a jump past it. -/
def epochSwitch (m : Main) : Main :=
  match bankIn m Bk.armed with
  | none => m
  | some k =>
    if !switchDue m m.course then m
    else
      let b := (bankOf m k).img
      let old := m.ylm.run
      let oldEpoch := runEpoch m
      let first := m.exec == Ex.noPlan
      let m := if switchAt m < m.course then m.putBit F.YLM_ERR_SWITCH_JUMPED true else m
      let m := match old with
        | some r => if bankState m r = Bk.running ∨ bankState m r = Bk.probation then setBank r Bk.previous m else m
        | none => m
      let m := (setBank k Bk.probation m).put F.YLM_PROBATION_REMAIN (Hdr.probation b)
      let m : Main := { m with ylm := { m.ylm with
        run := some (bankFin k), idle := old.map fun r => (r, true), pairConf := false, armNoPlan := false,
        oldCourses := if old.isSome then m.ylm.sinceSwitch else 0, sinceSwitch := 0 } }
      let m := epochEdge oldEpoch k 0 (loadPlan b (old.isSome) m)
      if first then listenStep (setExec Ex.loading m) else m

/-- ROLLBACK_BOUNDARY of a pending rollback. -/
def rollbackBoundary (m : Main) : Main :=
  match m.ylm.rollback, m.ylm.run, bankIn m Bk.previous with
  | some (left, commanded), some r, some p =>
    if left ≠ 0 then m
    else
      let oldEpoch := runEpoch m
      let b := (bankOf m p).img
      let m := setBank p Bk.running (setBank r (if commanded then Bk.verified else Bk.failed) m)
      let m := (m.put F.YLM_PROBATION_REMAIN 0).putBit (if commanded then F.YLM_ERR_ROLLBACK_CMD else F.YLM_ERR_ROLLBACK_AUTO) true
      let m : Main := { m with ylm := { m.ylm with
        run := some (bankFin p), idle := none, rollback := none, sinceSwitch := 0, oldCourses := 0 } }
      epochEdge oldEpoch p (if commanded then 2 else 1) (loadPlan b true m)
  | _, _, _ => m

/-- A jump of the clock has passed the armed instant of a bank that is not ready to switch (R66): the bank returns to VERIFIED. -/
def jumpedArm (m : Main) : Main :=
  match bankIn m Bk.armed with
  | none => m
  | some k =>
    if m.course < switchAt m ∨ (armLoaded m k && confirmed m) then m
    else
      let late := !armLoaded m k
      let missing := !confirmed m
      let m := unarm k m
      let m := if late then m.putBit F.YLM_ERR_ARM_LATE true else m
      if missing then m.putBit F.YLM_ERR_PAIR_MISMATCH true else m

/-! ### Power-up (R75, R76) -/

/-- A bank is loaded at power-up; an FBR has kept the context store (R558). -/
def loadBank (k : Nat) (m : Main) : Main :=
  let keep := m.get F.PWR_RESET_KIND == 5
  loadPlan (bankOf m k).img keep { m with ylm := { m.ylm with run := some (bankFin k) } }

/-- No bank can be loaded. -/
def noPlan (m : Main) : Main := showPlan (setExec Ex.noPlan { m with ylm := { m.ylm with run := none } })

/-- PLAN_LOAD_COMPLETE. -/
def planLoadComplete (m : Main) : Main :=
  if m.exec ≠ Ex.loading ∨ m.ylm.run.isSome then m
  else
    match (match bankIn m Bk.probation with | some k => some k | none => bankIn m Bk.running) with
    | none => noPlan m
    | some k =>
      let code := refusalCode m (bankOf m k)
      if code = 0 then loadBank k m
      else
        let m := (refuseBank k code m).put F.YLM_PROBATION_REMAIN 0
        match bankIn m Bk.previous with
        | none => noPlan m
        | some p =>
          let code := refusalCode m (bankOf m p)
          if code = 0 then loadBank p (setBank p Bk.running m) else noPlan (refuseBank p code m)

def execEpochSwitch (s : State) : Result := s.onMain epochSwitch
def execRollbackBoundary (s : State) : Result := s.onMain rollbackBoundary
def execPlanLoadComplete (s : State) : Result := s.onMain planLoadComplete
def execListenEnd (s : State) : Result := s.onMain listenEnd
def execRun (on : Bool) (s : State) : Result := s.onMain (hostAccess 0x04 (runWrite on))

end Sys2Proof.Machine
end

