-- ==== Sys2Proof/Machine/Course.lean ====
section
/-!
DEFINITION. The course boundary (R26, R28, R46, R59, R66, R68, R104, R108, R129, R149, R166, R184, R245, R335, R340, R422, R445,
R495, R504, R508, R545, R563, R598).
-/
namespace Sys2Proof.Machine

/-! ### Metrics and probation (R68–R70, R75) -/

/-- The course just ended is counted, and a course of probation has gone by. -/
def courseMetrics (m : Main) : Main :=
  match m.ylm.run with
  | none => { m with ylm := { m.ylm with cur := Metrics.zero } }
  | some b =>
    if m.exec = Ex.loading then { m with ylm := { m.ylm with cur := Metrics.zero } }
    else
      let y := m.ylm
      let m : Main := { m with ylm := { y with hist := (y.cur :: y.hist).take 7200, sinceSwitch := y.sinceSwitch + 1, cur := Metrics.zero } }
      if bankState m b = Bk.probation then m.put F.YLM_PROBATION_REMAIN (m.get F.YLM_PROBATION_REMAIN - 1) else m

/-! ### Lanes (R104, R108) -/

/-- RX_BLOCKED and RX_NOISE; `loud` is the mask of lanes whose level, or noise, stayed above its limit in every receive cell. -/
def laneCourse (loud : Nat) (m : Main) (l : Nat) : Main :=
  let g := laneOf m l
  let bad := bitOf loud l && g.rxSeen && !(l < 4 && g.decoded)
  withLane l (fun g => { g with txSeen := false, rxSeen := false, decoded := false }) (setLaneFault l (if l < 4 then 5 else 3) bad m)

/-- AIRTIME_HOUR at course position 0, in whole ms: what is left of the hour's sum below 1 ms is dropped (DESIGN CHOICE, log entry 64). -/
def airtimeHour (m : Main) : Main :=
  let whole := m.ylm.hourWhole
  let m : Main := { m with ylm := { m.ylm with hourWhole := true } }
  (List.range 8).foldl (fun m l =>
    let air := (laneOf m l).air / 3000
    let m := withLane l (fun g => { g with air := 0 }) m
    if !whole then m else if l < 4 then m.put F.TLR_AIRTIME_HOUR air l else m.put F.TLP_AIRTIME_HOUR air (l - 4)) m

/-! ### Zones (R184) -/

/-- The running counters of interval `k` become the completed ones. -/
def zoneInterval (k : Nat) (m : Main) : Main :=
  let mine (p : Nat × Nat) : Bool := p.1 / 4 % 3 == k
  let done := (m.ctx.run.filter mine).foldl (fun d p => sset (fun _ => 0) d p.1 p.2) (m.ctx.done.filter fun p => !mine p)
  { m with ctx := { m.ctx with done := done, run := m.ctx.run.filter fun p => !mine p } }

/-- At UTC minutes, 5-minute boundaries and quarter hours. -/
def zoneIntervals (tai : Nat) (m : Main) : Main :=
  if leapCourse m tai then m
  else
    let u := utcOf m tai
    let m := if u % 60 = 0 then zoneInterval 0 m else m
    let m := if u % 300 = 0 then zoneInterval 1 m else m
    if u % 900 = 0 then zoneInterval 2 m else m

/-! ### Contexts (R149, R166) -/

/-- Lanterns answered in the last course are joined, and contexts lost to an ECC error are rewritten from the inventory. -/
def courseContexts (m : Main) : Main :=
  let m := m.ctx.joining.foldl (fun m i => withCtx i (fun c => { c with joined := true }) m) m
  let m : Main := { m with ctx := { m.ctx with joining := [] } }
  match runImg m with
  | some b => mapCtx (fun i c => if c.excluded && decide (i < Hdr.lanterns b) then fillCtx b i { Ctx.blank with joined := c.joined } else c) m
  | none => m

/-! ### DAYLIGHT (R545, R546) -/

/-- An almanac event gives some group a plan level that is not 0. -/
def lights (b : Img) (e : Nat × Nat × Nat × Nat) : Bool :=
  (List.range 256).any fun i =>
    let v := profileStep b e.2.2.1 e.2.2.2 i
    v != 0xFFFF && bits v 11 0 != 0

/-- The next almanac instant after UTC second `now` at which a group's plan level becomes non-zero, in UTC seconds since 1970; the
last day's events repeat. -/
def nextLight (b : Img) (now : Int) : Option Int :=
  let today := almDayOf b now
  (List.range 402).findSome? fun k =>
    let day := today + k
    if day < 0 then none
    else
      let start := (day + 10957 + Hdr.almanacStart b) * 86400
      ((almanacDay b (min day.toNat 399)).find? fun e => lights b e && decide (now < start + e.1)).map fun e => start + e.1

/-- WAKE_LEAD and MIN_SLEEP within their limits (R564). -/
def wakeLead (m : Main) : Nat := max 10 (min 3600 (m.get F.PWR_DAY_WAKE_LEAD))
def minSleep (m : Main) : Nat := max 60 (m.get F.PWR_DAY_MIN_SLEEP)

/-- The plan wake instant in UTC seconds; none where no almanac instant lights a group. -/
def planWake (m : Main) : Option Int :=
  (runImg m).bind fun b => (nextLight b (utcOf m m.course)).map (· - wakeLead m)

/-- Every group's plan level is 0, and stays so for MIN_SLEEP courses. -/
def darkAhead (m : Main) : Bool :=
  (m.ylm.groups.all fun p => p.2.level == 0) &&
  (match (runImg m).bind fun b => nextLight b (utcOf m m.course) with
    | some t => decide (utcOf m m.course + minSleep m ≤ t)
    | none => true)

/-- A command, a plan or image write, a chain or a key operation is in progress. -/
def atWork (m : Main) : Bool :=
  (List.range 8).any (fun r => (ringOf m r).cur.isSome) || (bankIn m Bk.writing).isSome || m.get F.UPD_STATUS_STATE == 1 ||
    !m.upd.chains.isEmpty || m.upd.fetch.any (·.isSome) || m.key.op.isSome

/-- DAY_BLOCK: bit n is set while condition n fails. -/
def dayBlock (m : Main) : Nat :=
  maskOf 8 fun n => !(match n with
    | 0 => m.bit F.PWR_CTRL_DAY_EN
    | 1 => m.ylm.run.isSome && !paired m
    | 2 => m.exec == Ex.running && (m.mode == Md.active || m.mode == Md.island)
    | 3 => darkAhead m
    | 4 => wavesBusy m == 0 && m.ctx.ctx.all fun p => p.2.ovr == 0
    | 5 => (List.range 16).all (fun n => m.get F.CH_STATUS_OUT n == 0) && (!m.bit F.GBL_CTRL_ENABLE || m.gbl.gov.out / 16 == 0)
    | 6 => !atWork m
    | _ => match planWake m with
      | some t => decide (utcOf m m.course + 60 ≤ t)
      | none => true)

/-- DAY_BLOCK, and the courses in a row in which every condition has held. -/
def dayStep (m : Main) : Main :=
  let d := dayBlock m
  { m.put F.PWR_MODE_DAY_BLOCK d with pwr := { m.pwr with dayRun := if d = 0 then m.pwr.dayRun + 1 else 0 } }

/-! ### The boundary -/

/-- The digest of the course just ended (R422). -/
def keepDigest (m : Main) : Main :=
  let m : Main :=
    match runImg m with
    | some b =>
      if paired m && m.exec == Ex.running then { m with red := { m.red with own := (ownDigest m b m.course :: m.red.own).take 4 } } else m
    | none => m
  { m with red := { m.red with inCount := 0 } }

/-- YLM_COURSE at the start of TAI second `tai`. -/
def showCourse (tai : Nat) (m : Main) : Main :=
  let m := (m.put F.YLM_COURSE_POSITION (tai % 3600)).put F.YLM_COURSE_SLOT 0
  showTemplate m

/-- What ends with a course. -/
def courseEnd (loud lines : Nat) (m : Main) : Main :=
  let m := fireIf m.ylm.underrun 26 m
  let m := lampsOut (courseMetrics (keepDigest m))
  let m : Main := { m with
    ylm := { m.ylm with underrun := false }
    wav := { m.wav with held := [], evt31 := false, evt32 := false }
    log := { m.log with evt59 := false } }
  signCourse lines ((List.range 8).foldl (laneCourse loud) m)

/-- A boundary of those to a pending rollback, and to a scheduled FBR, has come (R71, R72, R559). -/
def countBoundary (m : Main) : Main := { m with
  ylm := { m.ylm with rollback := m.ylm.rollback.map fun r => (r.1 - 1, r.2) }
  pwr := { m.pwr with fbr := m.pwr.fbr.map fun r => (r.1 - 1, r.2) } }

/-- What begins with the course of TAI second `tai`. -/
def courseBegin (tai : Nat) (m : Main) : Main :=
  let jump := 100 * tai != m.slotNow + 1
  let m := reachClock (1000000000 * tai) m
  let m : Main := { m with ylm := { m.ylm with
    slot := 100 * tai, built := m.ylm.built.filter fun x => decide (100 * tai ≤ x.1 + 200), hourWhole := m.ylm.hourWhole && !jump } }
  let m := utcStep tai jump (showCourse tai (countBoundary m))
  let m := if m.bit F.SKY_CTRL_TRACE_EN then skyQueue m 0xFF tai else m
  let m := zoneIntervals tai (almanacLow tai (quietStep (courseContexts m)))
  let m := if tai % 3600 = 0 then airtimeHour m else m
  let m := if !leapCourse m tai && decide (utcOf m tai % 900 = 0) && servo m != Sv.unset then timeAnchor m else m
  dayStep (listenStep (jumpedArm (discipline m)))

/-- COURSE_BOUNDARY of TAI second `tai`. `loud` is the mask of lanes whose received level, or noise, stayed above its limit in every
receive cell of the course just ended; `lines` is the mask of the gable lines whose retry finds them within limits. -/
def courseBoundary (tai loud lines : Nat) (m : Main) : Main :=
  if awake m then courseBegin tai (courseEnd loud lines m) else m

def execCourseBoundary (tai loud lines : Nat) (s : State) : Result := s.onMain (courseBoundary tai loud lines)

end Sys2Proof.Machine
end

