-- ==== Sys2Proof/Machine/CtxCmds.lean ====
section
/-!
DEFINITION. The commands of the context store and the composition unit: OVERRIDE, PUR_SETPOINT, CTX_READ (R159, R231, R356–R358),
the expiry of overrides (R160), and silent lanterns (R154).
-/
namespace Sys2Proof.Machine

/-- In NO_PLAN, OVERRIDE and PUR_SETPOINT are refused (R357). -/
def planNeeded (m : Main) : Option Reply := if m.exec = Ex.noPlan then some (.fail St.refused 1) else none

/-- Written back at acceptance with the input slot (R357). -/
def slotReply (m : Main) : Reply := ⟨St.ok, 0, inputSlot m % 2 ^ 32, []⟩

def overrideKind (d : Desc) : CmdKind :=
  let scope := bits d.param 17 16
  ⟨isOp 0x0201, true, fun d => d.length == 0, if scope = 3 then 0xFFFF else 0x3FFFF,
    if scope = 0 then 0x1FFFFFFFFFFF else if scope = 1 then 0xFFFFFFFFFF else 0xFFFFFFFF, gates [planNeeded, activeGate]⟩

def cmdOverride (r : Fin 8) (d : Desc) (m : Main) : Main :=
  if !inputRoom m then park r d (isOp 0x0201) m
  else
    cmdNow r d (overrideKind d) (fun _ m =>
      let scope := bits d.param 17 16
      let target := if scope = 2 then 0 else bits d.addr 44 32
      let room := match runImg m with
        | some b => Hdr.lanterns b
        | none => 8192
      if scope = 0 ∧ room ≤ target then (m, .fail St.badParam 32)
      else (acceptInput (.override (d.param % 65536) scope target (d.addr % 2 ^ 32)) m, slotReply m)) m

def cmdSetpoint (r : Fin 8) (d : Desc) (m : Main) : Main :=
  if !inputRoom m then park r d (isOp 0x0301) m
  else
    cmdNow r d ⟨isOp 0x0301, true, fun d => d.length == 0, 0xF, 0xFFFFFFFF, gates [planNeeded, activeGate]⟩ (fun _ m =>
      (acceptInput (.setpoint (d.param % 16) (d.addr % 2 ^ 32)) m, slotReply m)) m

/-- CTX_READ (R358). -/
def cmdCtxRead (r : Fin 8) (d : Desc) : Main → Main :=
  cmdNow r d ⟨isOp 0x0202, false, fun d => d.length != 0 && d.length % 96 == 0 && decide (d.param % 8192 + d.length / 96 ≤ 8192), 0x1FFF, 0, openGate⟩ fun _ m =>
    (m, ⟨St.ok, 0, d.length, (List.range (d.length / 96)).flatMap fun k => ctxBytes (d.param % 8192 + k) (ctxOf m (d.param % 8192 + k))⟩)

/-- A joined lantern has sent no MIC-valid uplink for SILENT_COURSES courses (R154); its silence is named once. A lantern never
heard counts from the first course that ran. -/
def lanternSilent (i : Nat) (m : Main) : Main :=
  let c := ctxOf m i
  let n := m.get F.TLP_PE_SILENT_SILENT_COURSES
  let since := max c.lastHeard (m.ylm.listenAt % 2 ^ 32)
  if c.live && c.joined && n != 0 && !m.ctx.silent.contains i && decide (n ≤ (m.course + 2 ^ 32 - since) % 2 ^ 32) then
    fire 28 (record 0x0401 i c.lastHeard 0 0 { m with ctx := { m.ctx with silent := i :: m.ctx.silent } })
  else m

def execOverride (r : Fin 8) (d : Desc) (s : State) : Result := s.onMain (cmdOverride r d)
def execPurSetpoint (r : Fin 8) (d : Desc) (s : State) : Result := s.onMain (cmdSetpoint r d)
def execCtxRead (r : Fin 8) (d : Desc) (s : State) : Result := s.onMain (cmdCtxRead r d)
def execOverrideExpiry (s : State) : Result := s.onMain fun m => expireOverrides m.course m
def execLanternSilent (i : Fin 8192) (s : State) : Result := s.onMain (lanternSilent i)

end Sys2Proof.Machine
end

