-- ==== Sys2Proof/Machine/DormerCmds.lean ====
section
/-!
DEFINITION. The commands of the dormer and of its main-side mirror (chapters 08 and 09).
-/
namespace Sys2Proof.Machine

/-- A session command that DMR_SESSION has passed on reaches the dormer (R310): the row of its CMD takes it, and one with a CMD that is
not assigned is any row's. The dormer takes session commands only while its gate is open (R309, R315). -/
def sealRow (cmd : Nat) (f : List Byte → Dormer → Dormer) (s : State) : Result :=
  match s.main.mir.link with
  | [] => .next s
  | c :: rest =>
    if Ses.cmd c = cmd ∨ Ses.cmd c = 0 ∨ 5 < Ses.cmd c then
      .next { s with
        main := { s.main with mir := { s.main.mir with link := rest } }
        dmr := if s.dmr.gateOpen then f c s.dmr else s.dmr }
    else .next s

def execDormerStepEnd (x : Meas) (s : State) : Result := s.onDormer (stepEnd x)
def execPulseStart (f : Fin 4) (t : Nat) (s : State) : Result := s.onDormer (pulseStart f t)
def execPulseEnd (f : Fin 4) (s : State) : Result := s.onDormer (pulseEnd f)
def execSealSwitchPress (s : State) : Result := s.onDormer sealPress
def execWitnessContactOpen (s : State) : Result := s.onDormer witnessOpen
def execWitnessContactClose (s : State) : Result := s.onDormer witnessClose
def execGateTimeout (s : State) : Result := s.onDormer gateShut
def execSealOpen (s : State) : Result := sealRow 1 sealOpen s
def execSealSetMeas (s : State) : Result := sealRow 2 sealSetMeas s
def execSealSetPulse (s : State) : Result := sealRow 3 sealSetPulse s
def execSealClose (s : State) : Result := sealRow 4 sealClose s
def execSealAbort (s : State) : Result := sealRow 5 sealAbort s
def execDormerSupplyWarning (x : Meas) (s : State) : Result := s.onDormer (supplyWarning x)
def execDormerHaltRecover (s : State) : Result := s.onDormer haltRecover
def execDormerPowerUp (xa xb : Nat) (s : State) : Result := s.onDormer (powerUp xa xb)
def execDormerClockLoss (s : State) : Result := s.onDormer clockLoss
def execDormerClockReturn (s : State) : Result := s.onDormer clockReturn

def execInfoRx (o : List Byte) (s : State) : Result := s.onMain (infoRx o)
def execIntervalRx (o : List Byte) (s : State) : Result := s.onMain (intervalRx o)
def execProfileRx (o : List Byte) (s : State) : Result := s.onMain (profileRx o)
def execStateRx (o : List Byte) (s : State) : Result := s.onMain (stateRx o)
def execDmrLinkTimeout (s : State) : Result := s.onMain linkTimeout
def execDmrTotRead (s : State) : Result := s.onMain (hostRead 0x0A0600 fun m => ((totRead m), (totRead m).word 0x0A0600))

/-- DMR_SESSION (R309, R310, R356): the bytes go through unchanged while the gate is open. -/
def cmdDmrSession (r : Fin 8) (d : Desc) : Main → Main :=
  cmdNow r d ⟨isOp 0x0401, false, fun d => 88 ≤ d.length && d.length ≤ 328, 0, 0, openGate⟩ fun data m =>
    if m.bit F.DMR_SEAL_GATE_OPEN then ({ m.emit (.toDormer data) with mir := { m.mir with link := m.mir.link ++ [data] } }, .done d.length) else (m, ⟨St.gateShut, 0, d.length, []⟩)
def execDmrSession (r : Fin 8) (d : Desc) (s : State) : Result := s.onMain (cmdDmrSession r d)

end Sys2Proof.Machine
end

