-- ==== Sys2Proof/Machine/Keys.lean ====
section
/-!
DEFINITION. The key store's commands (R466–R476, R482, R484).
-/
namespace Sys2Proof.Machine

namespace Ks
def empty : Nat := 0
def ready : Nat := 1
def locked : Nat := 2
end Ks

def keyState (m : Main) : Nat := m.get F.KEY_STATUS_STATE
def keyOf (m : Main) (k : Nat) : Option WKey := vget m.key.work k none
def genRoot (m : Main) : Nat := m.get F.KEY_GEN_ROOT
def genOwn (m : Main) : Nat := m.get F.KEY_GEN_OWN

/-- A counter that never wraps. -/
def bumpGen (f : Field) (m : Main) : Main := m.countSat f

/-- KEY_STATE of R154: 2 LOCKED, 1 READY with K_NET loaded, else 0 (R476). -/
def showKeyState (m : Main) : Main :=
  m.put F.TLP_PE_STATUS_KEY_STATE
    (if keyState m = Ks.locked then 2 else if keyState m = Ks.ready ∧ (keyOf m 0).isSome then 1 else 0)

def setKeyState (st : Nat) (m : Main) : Main := showKeyState (m.put F.KEY_STATUS_STATE st)

/-- A working key's register: the key, its LOADED bit and its KEY_ID. -/
def setKey (k : Nat) (v : Option WKey) (m : Main) : Main :=
  let m : Main := { m with key := { m.key with work := vmod m.key.work k fun _ => v } }
  let m := (m.putBit F.KEY_STATUS_LOADED v.isSome 0 k).put F.KEY_ID (match v with | some w => w.keyId | none => 0) k
  showKeyState m

/-- Every working-key register and K_OWN are cleared. -/
def clearKeys (m : Main) : Main :=
  let m := (List.range 4).foldl (fun m k => setKey k none m) m
  { m with key := { m.key with kOwn := none } }

/-- KEY_SLOT: the occupied NOR slots. -/
def showSlots (m : Main) : Main :=
  let v := maskOf 64 fun i => (vget m.key.slots i none).isSome
  (m.put F.KEY_SLOT (v % 2 ^ 32) 0).put F.KEY_SLOT (v / 2 ^ 32) 1

def storeBlob (slot : Nat) (b : List Byte) (auto : Bool) (m : Main) : Main :=
  showSlots { m with key := { m.key with slots := vmod m.key.slots slot fun _ => some ⟨b, auto⟩ } }

/-- KEY_NONCE, and its renewal after a use (R473). -/
def keyNonce (m : Main) : Nat := m.get F.KEY_NONCE 0 + 2 ^ 32 * m.get F.KEY_NONCE 1
def renewNonce (m : Main) : Main :=
  let v := Config.random m.free % 2 ^ 64
  (({ m with free := m.free + 1 } : Main).put F.KEY_NONCE (v % 2 ^ 32) 0).put F.KEY_NONCE (v / 2 ^ 32) 1

/-- The result of a KEY command: LAST_RESULT and the trace (R485, R508). -/
def keyResult (opcode : Nat) (rep : Reply) (m : Main) : Main × Reply :=
  (sky (m.put F.KEY_STATUS_LAST_RESULT rep.detail) 0x0F (opcode * 65536 + rep.detail % 256 * 256), rep)

/-- A command with the nonce at byte `o` of its buffer, whose signature or CMAC is `good`: the nonce is used, and the command goes
on where both hold. -/
def withNonce (d : Desc) (data : List Byte) (o : Nat) (good : Bool) (f : Main → Main × Reply) (m : Main) : Main × Reply :=
  let ok := good && lle data o 8 == keyNonce m
  let m := renewNonce m
  if ok then f m else (m, .refused d 0x12)

/-! ### Wrapping keys and blobs (R468–R471) -/

/-- KW_ROOT and KW_OWN of a generation, by their parent and label. -/
def wrapKey (parent : BitVec 256) (label : List Byte) (g : Nat) : List Byte :=
  let half (k : Nat) : List Byte := Cipher.aesEnc (beBytes 32 parent.toNat) (label ++ leBytes 4 g ++ zeros 7 ++ leBytes 1 k)
  half 0 ++ half 1
def kwRoot (m : Main) (g : Nat) : List Byte := wrapKey m.fuse.kRoot [0x4B, 0x57, 0x52, 0x54] g
def kwOwn (m : Main) (g : Nat) : Option (List Byte) := m.key.kOwn.map fun k => wrapKey k [0x4B, 0x57, 0x4F, 0x57] g

namespace Blob
def ktype (b : List Byte) : Nat := lle b 0 1
def gen (b : List Byte) : Nat := lle b 4 4
def keyId (b : List Byte) : Nat := lle b 8 4

/-- The 32 bytes of key in a blob, where its check value, its header and its generation hold (R471). -/
def opened (b kw : List Byte) (g : Nat) : Option (List Byte) :=
  let r := Cipher.unwrap kw (slice b 16 56)
  if b.length = 72 ∧ r.1 = Cipher.wrapIv ∧ r.2.take 16 = b.take 16 ∧ gen b = g then some (r.2.drop 16) else none

/-- The blob of a key of 32 bytes. -/
def made (ktype slot g keyId : Nat) (kw key : List Byte) : List Byte :=
  let h := leBytes 1 ktype ++ leBytes 1 slot ++ zeros 2 ++ leBytes 4 g ++ leBytes 4 keyId ++ zeros 4
  h ++ Cipher.wrap kw (h ++ key)
end Blob

/-- The working key of a blob that the key store accepts (R471): under the present KW_OWN, its 16 bytes of padding zero. -/
def workKey (m : Main) (b : List Byte) : Option WKey :=
  (kwOwn m (genOwn m)).bind fun kw => (Blob.opened b kw (genOwn m)).bind fun k =>
    if 0x10 ≤ Blob.ktype b ∧ Blob.ktype b ≤ 0x13 ∧ lbe k 16 16 = 0 then some ⟨BitVec.ofNat 128 (lbe k 0 16), Blob.keyId b⟩ else none

/-- K_OWN as its blob in NOR gives it, under the present KW_ROOT (R468, R474). -/
def ownKey (m : Main) : Option (BitVec 256) :=
  m.key.ownBlob.bind fun b => (Blob.opened b (kwRoot m (genRoot m)) (genRoot m)).map fun k => BitVec.ofNat 256 (lbe k 0 32)

/-! ### KEY_LOAD (R470–R473) -/

def loadKey (b : List Byte) (k : WKey) (m : Main) : Main := setKey (Blob.ktype b - 0x10) (some k) m

/-- KEY_LOAD. -/
def keyLoadData (d : Desc) (data : List Byte) (m : Main) : Main × Reply :=
  let slot := d.param % 64
  let single := m.get F.KEY_CFG_MODE == 0
  let fromNor := bitOf d.param 6
  let n := if fromNor then 0 else d.length
  let fail (detail : Nat) : Main × Reply := (m, ⟨St.refused, detail, n, []⟩)
  if keyState m ≠ Ks.ready then fail 0x14
  else if single ∧ 4 ≤ slot then fail 0x15
  else
    match if fromNor then (vget m.key.slots slot none).map (·.blob) else some data with
    | none => fail 0x15
    | some b =>
      match workKey m b with
      | none => fail 0x10
      | some k =>
        let m := loadKey b k m
        let m := if fromNor then m
          else if single then storeBlob (Blob.ktype b - 0x10) b true m
          else if bitOf d.param 7 then storeBlob slot b (bitOf d.param 8) m
          else m
        (m, .done n)

/-- A KEY command while another runs waits on its ring (R475). -/
def keyTurn (r : Fin 8) (d : Desc) (row : Desc → Bool) (f : Main → Main) (m : Main) : Main :=
  if m.key.op.isSome then park r d row m else f m

def cmdKeyLoad (r : Fin 8) (d : Desc) : Main → Main :=
  let nor := bitOf d.param 6
  keyTurn r d (isOp 0x0702)
    (cmdNow r d ⟨isOp 0x0702, nor, fun d => d.length == (if nor then 0 else 72), 0x1FF, 0, openGate⟩ fun data m =>
      let p := keyLoadData d data m
      keyResult 0x0702 p.2 p.1)

/-- At a start the module opens the K_OWN blob and loads its stored blobs (R472, R474), lowest slot first; where the store is not READY
it loads none. -/
def reloadKeys (m : Main) : Main :=
  if keyState m ≠ Ks.ready then m
  else
    let m : Main := { m with key := { m.key with kOwn := ownKey m } }
    let single := m.get F.KEY_CFG_MODE == 0
    (List.range (if single then 4 else 64)).foldl (fun m i =>
      match vget m.key.slots i none with
      | some s =>
        (match workKey m s.blob with
          | some k => if single || s.autoload then loadKey s.blob k m else m
          | none => m)
      | none => m) m

/-! ### KEY_BUMP and KEY_ZEROISE (R468, R469, R474) -/

/-- K_HST is ready. -/
def hstReady (m : Main) : Bool := keyState m == Ks.ready && (keyOf m 2).isSome

/-- The CMAC of a command under K_HST (R473). -/
def hstCmac (m : Main) (opcode param nonce : Nat) : List Byte :=
  match keyOf m 2 with
  | some k => Cipher.cmac k.key.bytes (leBytes 2 opcode ++ leBytes 4 param ++ leBytes 8 nonce)
  | none => []

/-- A command's buffer carries the CMAC that its opcode, its PARAM and its nonce call for. -/
def cmacGood (d : Desc) (opcode : Nat) (data : List Byte) (m : Main) : Bool :=
  slice data 8 16 == hstCmac m opcode d.param (lle data 0 8)

/-- A command under K_HST's CMAC: its row, its PARAM bits, its opcode. -/
def underHst (r : Fin 8) (d : Desc) (row : Desc → Bool) (param opcode : Nat) (f : Main → Main) : Main → Main :=
  keyTurn r d row
    (cmdNow r d ⟨row, false, fun d => d.length == 24, param, 0, openGate⟩ fun data m =>
      let good := cmacGood d opcode data m
      let p := if hstReady m then withNonce d data 0 good (fun m => (f m, .done d.length)) m else (m, .refused d 0x14)
      keyResult opcode p.2 p.1)

/-- GEN_ROOT is bumped: K_OWN is cleared and the store is EMPTY. The working keys are no longer ready; their registers still show
as loaded. -/
def bumpRoot (m : Main) : Main :=
  setKeyState Ks.empty { bumpGen F.KEY_GEN_ROOT m with key := { m.key with kOwn := none, work := Vector.replicate 4 none } }

/-- KEY_BUMP of GEN_OWN, and of GEN_ROOT, which has PARAM bit 0 set. -/
def bumpRow (root : Bool) (d : Desc) : Bool := isOp 0x0704 d && bitOf d.param 0 == root
def cmdKeyBump (r : Fin 8) (d : Desc) : Main → Main := underHst r d (bumpRow false) 1 0x0704 (bumpGen F.KEY_GEN_OWN)
def cmdKeyBumpRoot (r : Fin 8) (d : Desc) : Main → Main := underHst r d (bumpRow true) 1 0x0704 bumpRoot

/-- What KEY_ZEROISE does before its ZRS. -/
def zeroiseHost (m : Main) : Main :=
  let m := setKeyState Ks.empty (bumpGen F.KEY_GEN_ROOT (bumpGen F.KEY_GEN_OWN (clearKeys m)))
  record 0x0203 (genRoot m) (genOwn m) 0 0 m

/-! ### KEY_OWNER_INSTALL, KEY_ACK and ATTEST (R473–R475, R482, R484) -/

/-- An operation that is written back when complete is started. -/
def startOp (r : Fin 8) (d : Desc) (opcode length : Nat) (more : Bool) : Main → Main :=
  keyTurn r d (isOp opcode)
    (cmdRun r d ⟨isOp opcode, false, fun d => if more then decide (length ≤ d.length) else d.length == length, 0, 0, openGate⟩ fun data m =>
      ({ m.putBit F.KEY_STATUS_BUSY true with key := { m.key with op := some ⟨some r.val, opcode, data⟩ } }, none))

/-- The module's EUI as messages and key derivations hold it: 8 bytes, least significant first (R484; DESIGN CHOICE elsewhere, log entry
17). -/
def euiBytes (m : Main) : List Byte := leBytes 8 m.fuse.eui

/-- The K_OWN of an install, from its buffer (R473): unwrapped under SHA-256 of the shared secret, "UZOWN" and the EUI. -/
def installKey (data : List Byte) (m : Main) : Option (BitVec 256) :=
  let shared := Cipher.ecdhX m.fuse.kAgr.toNat (slice data 64 64)
  let kek := beBytes 32 (Cipher.sha256 (shared ++ [0x55, 0x5A, 0x4F, 0x57, 0x4E] ++ euiBytes m))
  let r := Cipher.unwrap kek (slice data 128 40)
  if Cipher.onCurve (lbe data 64 32) (lbe data 96 32) && r.1 == Cipher.wrapIv then some (BitVec.ofNat 256 (lbe r.2 0 32)) else none

/-- The signature of an install: under the OWNER_PUB held, or under the one supplied where none is. -/
def installSigned (data : List Byte) (m : Main) : Bool :=
  let pub := match m.key.ownerPub with
    | some p => beBytes 64 p.toNat
    | none => data.take 64
  Cipher.ecdsaOk pub (Cipher.sha256 (data.take 176)) (slice data 176 64)

/-- The steps of an accepted install (R474). -/
def installOwner (pub : List Byte) (k : BitVec 256) (m : Main) : Main :=
  let m := bumpGen F.KEY_GEN_OWN (clearKeys m)
  let blob := Blob.made 1 0xFF (genRoot m) 0 (kwRoot m (genRoot m)) (beBytes 32 k.toNat)
  let m := setKeyState Ks.ready { m with key := { m.key with
    ownerPub := some (BitVec.ofNat 512 (lbe pub 0 64)), kOwn := some k, ownBlob := some blob } }
  record 0x0204 (genOwn m) (Cipher.sha256 pub / 2 ^ 224) 0 0 m

/-- KEY_OWNER_INSTALL is complete. A K_OWN that does not unwrap is refused as a bad signature is (DESIGN CHOICE, log entry 17). -/
def ownerInstall (d : Desc) (data : List Byte) (m : Main) : Main × Reply :=
  if keyState m ≠ Ks.empty then (m, .refused d 0x11)
  else if m.key.ownerPub.isNone ∧ m.mode ≠ Md.commission then (m, .refused d 0x13)
  else
    withNonce d data 168 (installSigned data m) (fun m =>
      match installKey data m with
      | some k => (installOwner (data.take 64) k m, .done d.length)
      | none => (m, .refused d 0x12)) m

/-- A class 2 source is asserted (R478). -/
def class2Live (m : Main) : Bool :=
  m.bit F.TMP_STATUS_MESH_LIVE || (List.range 4).any fun k =>
    bitOf (m.get F.TMP_STATUS_TAMP_LIVE) k && m.bit F.TMP_IN_CFG_ENABLE k && m.bit F.TMP_IN_CFG_CLASS k

/-- What KEY_ACK's signature is over: "UZACK", the EUI and the nonce; it verifies under OWNER_PUB (R473). -/
def ackSigned (data : List Byte) (m : Main) : Bool :=
  m.key.ownerPub.any fun p =>
    Cipher.ecdsaOk (beBytes 64 p.toNat) (Cipher.sha256 ([0x55, 0x5A, 0x41, 0x43, 0x4B] ++ euiBytes m ++ data.take 8)) (slice data 8 64)

/-- KEY_ACK is complete. -/
def keyAck (d : Desc) (data : List Byte) (m : Main) : Main × Reply :=
  if keyState m ≠ Ks.locked then (m, .refused d 0x17)
  else if class2Live m then (m, .refused d 0x16)
  else
    withNonce d data 0 (ackSigned data m) (fun m =>
      let m := setKeyState Ks.empty m
      (record 0x0202 (genRoot m) (genOwn m) 0 0 m, .done d.length)) m

/-- The part of the statement that is signed, and the statement (R484). -/
def statementHead (nonce : List Byte) (m : Main) : List Byte :=
  let bank (b : Nat) : List Byte := beBytes 32 (if bankState m b = Bk.empty then 0 else bankSha m b)
  let info := m.bit F.DMR_ID_INFO_VALID
  let broken : Nat := match m.mir.state with
    | some s => s.sealState % 4
    | none => 0
  let keys := keyState m % 4 + 4 * m.get F.KEY_CFG_MODE + 8 * m.get F.KEY_STATUS_LOADED
  let dmr := if info then natOf (m.bit F.DMR_ID_APPROVED) + 2 * broken + 8 else 0
  let breaks := match info, m.mir.state with
    | true, some s => s.breaks
    | _, _ => 0
  leBytes 4 0x5441_5A55 ++ leBytes 2 1 ++ leBytes 1 m.fuse.variant ++ leBytes 1 m.fuse.silicon ++ leBytes 8 m.fuse.eui ++ nonce ++
    leBytes 6 m.time.sec ++ leBytes 1 (servo m) ++ leBytes 1 m.mode ++ leBytes 2 (ownAddr m) ++ zeros 2 ++ leBytes 4 m.upd.runVer ++
    beBytes 32 m.upd.runHash ++ bank 0 ++ bank 1 ++ leBytes 1 (bankEpoch m 0) ++ leBytes 1 (bankState m 0) ++ leBytes 1 (bankEpoch m 1) ++
    leBytes 1 (bankState m 1) ++ leBytes 1 (match m.ylm.run with | some b => b.val | none => 0xFF) ++ leBytes 1 keys ++ leBytes 1 dmr ++ zeros 1 ++
    leBytes 2 (if info then m.get F.DMR_ID_ROM_ID else 0) ++ zeros 2 ++ leBytes 4 breaks ++ (if info then slice m.mir.ident 16 32 else zeros 32) ++
    leBytes 4 (genRoot m) ++ leBytes 4 (genOwn m) ++ leBytes 4 (m.get F.CLASS1_COUNT) ++ leBytes 4 (m.get F.CLASS2_COUNT) ++
    leBytes 4 (m.get F.ZEROISES) ++ zeros 4

/-- The statement and the certificate (R484); the number of its signature is a free value. -/
def attest (data : List Byte) (m : Main) : Main × Reply :=
  let head := statementHead (data.take 16) m
  let sig := Cipher.ecdsaSign m.fuse.aDev.toNat (Cipher.sha256 head) (Config.random m.free % Cipher.n256)
  let out := head ++ sig ++ m.fuse.cert.take 1024
  ({ m with free := m.free + 1 }, ⟨St.ok, 0, out.length, out⟩)

/-- The operation in progress ends and is written back (R475); after an FLR or PFR its effects stay and nothing is written back (R379). -/
def finishOp (o : KeyOp) (rep : Desc → Main → Main × Reply) (m : Main) : Main :=
  let m := m.putBit F.KEY_STATUS_BUSY false
  let cur := o.ring.bind fun r => (ringOf m r).cur.map fun c => (r, c)
  let p := rep ((cur.map fun c => c.2.2).getD ⟨[], [], []⟩) { m with key := { m.key with op := none } }
  let q := keyResult o.opcode p.2 p.1
  match cur with
  | some (r, pos, d) => cmdLate r pos d q.2 q.1
  | none => q.1

/-- KEY_OP_DONE: the commands that wait for it may go on (R475). -/
def keyOpDone (m : Main) : Main :=
  match m.key.op with
  | none => m
  | some o =>
    unpark (fire 8 (finishOp o (fun d m =>
      if o.opcode = 0x0701 then ownerInstall d o.data m
      else if o.opcode = 0x0703 then keyAck d o.data m
      else attest o.data m) m))

def execKeyOwnerInstall (r : Fin 8) (d : Desc) (s : State) : Result := s.onMain (startOp r d 0x0701 240 false)
def execKeyLoad (r : Fin 8) (d : Desc) (s : State) : Result := s.onMain (cmdKeyLoad r d)
def execKeyAck (r : Fin 8) (d : Desc) (s : State) : Result := s.onMain (startOp r d 0x0703 72 false)
def execKeyBump (r : Fin 8) (d : Desc) (s : State) : Result := s.onMain (cmdKeyBump r d)
def execKeyBumpRoot (r : Fin 8) (d : Desc) (s : State) : Result := s.onMain (cmdKeyBumpRoot r d)
def execAttest (r : Fin 8) (d : Desc) (s : State) : Result := s.onMain (startOp r d 0x0706 1304 true)
def execKeyOpDone (s : State) : Result := s.onMain keyOpDone

end Sys2Proof.Machine
end

