-- ==== Sys2Proof/Machine/Image.lean ====
section
/-!
DEFINITION. The image region and the checks of a module image (R516–R518, R528).
-/
namespace Sys2Proof.Machine

/-- Octet of the image region; the image written at manufacture is not given (log entry 35). -/
def regionOctet (m : Main) (o : Nat) : Byte := if m.upd.factory then (Config.factoryImage o) else sget (fun _ => (0 : Byte)) m.upd.img o
def regionBytes (m : Main) (o n : Nat) : List Byte := (List.range n).map fun i => regionOctet m (o + i)
def regionLe (m : Main) (o n : Nat) : Nat := leVal (regionBytes m o n)

/-! The header (R516). -/
namespace Ih
def version (h : List Byte) : Nat := lle h 8 4
def total (h : List Byte) : Nat := lle h 12 4
def chunks (h : List Byte) : Nat := lle h 16 2
def security (h : List Byte) : Nat := lle h 20 4
def body0 (h : List Byte) : Nat := lbe h 32 32
/-- TOTAL_LENGTH and CHUNK_COUNT agree with R516. -/
def lengths (h : List Byte) : Bool :=
  decide (1024 ≤ total h ∧ total h ≤ 16777216) && total h % 1024 == 0 && chunks h == (total h + 65535) / 65536
/-- Bytes of chunk `k`. -/
def chunkLen (h : List Byte) (k : Nat) : Nat := min 65536 (total h - 65536 * k)
/-- SIGNATURE verifies over bytes 0–191 under Ryumel's firmware key. -/
def signed (h : List Byte) (m : Main) : Bool :=
  Cipher.ecdsaOk (beBytes 64 m.fuse.fwPub.toNat) (Cipher.sha256 (h.take 192)) (slice h 192 64)
end Ih

/-- The header that the region holds. -/
def regionHead (m : Main) : List Byte := regionBytes m 0 256

/-- Checks 0x01–0x06 of a header; 0 where all hold. -/
def headerCause (h : List Byte) (lengthOk : Bool) (m : Main) : Nat :=
  if lle h 0 4 ≠ 0x57465A55 ∨ lle h 4 2 ≠ 1 then 0x01
  else if !(Ih.lengths h && lengthOk) then 0x02
  else if !Ih.signed h m then 0x03
  else if !bitOf (lle h 6 2) m.fuse.variant then 0x04
  else if Ih.security h < m.get F.UPD_SEC_MIN then 0x05
  else if Config.loaderVersion < lle h 18 2 then 0x06
  else 0

/-- Chunk `k` has the hash that BODY0_HASH, or the NEXT_HASH before it in the region, names (R516). -/
def chunkHashed (k : Nat) (data : List Byte) (m : Main) : Bool :=
  if k = 0 then slice data 32 32 == beBytes 32 (Cipher.sha256 (data.drop 256))
  else regionBytes m (65536 * k - 32) 32 == beBytes 32 (Cipher.sha256 data)

/-- The image that the region holds is whole, passes R516 and R517, and has the FW_HASH recorded (R528); that of manufacture does (log
entry 35). -/
def imageGood (m : Main) : Bool :=
  m.upd.complete && (m.upd.factory ||
    (let h := regionHead m
     headerCause h true m == 0 && Cipher.sha256 (regionBytes m 0 (Ih.total h)) == m.upd.fwHash &&
      (List.range (Ih.chunks h)).all fun k => chunkHashed k (regionBytes m (65536 * k) (Ih.chunkLen h k)) m))

end Sys2Proof.Machine
end

