-- ==== Sys2Proof/Machine/Reset.lean ====
section
/-!
DEFINITION. Class 2 tamper (R479, R481), the resets of the main side (R557, R558, R560–R562), and the start that follows one (R75,
R388, R472, R480, R528, R540–R543, R563).
-/
namespace Sys2Proof.Machine

/-! ### Zeroisation (R479, R481) -/

/-- The key operation in progress is aborted; the answer says whether there was one. -/
def abortOp (m : Main) : Main × Bool :=
  match m.key.op with
  | none => (m, false)
  | some o => (fire 9 (finishOp o (fun d m => (m, .refused d 0x80)) m), true)

/-- Steps 1 to 4 of R479 with the record of a class 2 source (0–3 TAMP, 4 mesh). -/
def zeroiseTamper (src : Nat) (m : Main) : Main :=
  let a := abortOp m
  let m := setKeyState Ks.locked (bumpGen F.KEY_GEN_ROOT (bumpGen F.KEY_GEN_OWN (clearKeys a.1)))
  let m := (m.countSat F.ZEROISES).countSat F.CLASS2_COUNT
  recordPriv 0x0201 src (genRoot m) (genOwn m) (natOf a.2) m

/-- A source has raised its class, and raises nothing further until it is re-armed (R478). -/
def setRaised (src : Nat) (on : Bool) (m : Main) : Main := { m with key := { m.key with raised := vmod m.key.raised src fun _ => on } }
def raisedOf (m : Main) (src : Nat) : Bool := vget m.key.raised src false

/-! ### What a reset leaves -/

/-- Registers of the AON domain: RTC, the tamper monitor and the supply supervisor (R553). -/
def aonReg (a : Nat) : Bool :=
  a / 65536 == 0x0F || (0x111000 ≤ a && a < 0x112000) || a == F.PWR_SUPPLY_VIN.base || a == F.PWR_SUPPLY_B_VBAT.base ||
    a == F.PWR_HOLDUP_HOLDUP_OK.base

/-- Registers of the domains of an FBR, GLB, HST and DMA apart (R557). -/
def fbrReg (a : Nat) : Bool := [4, 5, 6, 7, 8, 9, 10, 13, 14, 16, 18, 19, 20].contains (a / 65536)

/-- What the resets of R557 but PFR and FLR do alike beside the registers: CORE, FAB, RADIO and PLC lose their V state. Class N, the
mirror's own memory and the privileged buffer stay (R560, R561). A bank that stays ARMED (R60) keeps its confirmation; its sections are
loaded again and its schedule push begins again (DESIGN CHOICE, log entry 134). -/
def coreReset (m : Main) : Main :=
  let armed := bankIn m Bk.armed
  let ctx : CtxSt := { CtxSt.reset with
    ctx := m.ctx.ctx, euis := m.ctx.euis, run := m.ctx.run, done := m.ctx.done, push := armed.map fun _ => (0, 0) }
  { dropWriting m with
    host := { m.host with latch := [] }
    log := { m.log with evt59 := false, replay := none, sky := [], skyDrops := 0 }
    time := { Time.reset with addendKept := m.time.addendKept, utcKept := m.time.utcKept, utcOff := m.time.utcOff }
    ylm := { Ylm.reset with
      banks := (dropWriting m).ylm.banks, idle := armed.map fun b => (bankFin b, false), pairConf := m.ylm.pairConf,
      armNoPlan := m.ylm.armNoPlan, rollback := m.ylm.rollback, fresh := false, evOrder := m.ylm.evOrder, slot := m.ylm.slot }
    lanes := Vector.replicate 8 Lane.reset
    ctx := ctx
    wav := Wav.reset
    pur := Pur.reset
    mir := { Mir.reset with spent := m.mir.spent }
    rdg := { m.rdg with ports := Vector.replicate 2 RPort.reset }
    red := Red.reset
    upd := { m.upd with held := if m.upd.complete then m.upd.held else 0, writing := none, actAt := none,
                        fetch := Vector.replicate 2 none, called := Vector.replicate 2 [], owner := none, uart := [], limgPos := none, chains := [], sched := [] } }

/-- A bank in ARMED returns to VERIFIED (R60). -/
def dropArmed (m : Main) : Main :=
  (List.range 2).foldl (fun m b => if bankState m b = Bk.armed then setBank b Bk.verified m else m) m

/-- The state of the main side after a POR or a BOR (0, 1), a WDR (2) or a ZRS (6). -/
def fullReset (kind : Nat) (m : Main) : Main :=
  let aon := kind == 2 || kind == 6
  let m := coreReset m
  let m := resetRegs (fun a => !(aon && aonReg a)) (fun r => r.n ||| r.p) m
  let m : Main := { m with
    host := HostSt.reset
    ylm := { m.ylm with rollback := none, fresh := true }
    ctx := CtxSt.reset
    rdg := Rdg.reset
    key := { m.key with kOwn := none, work := Vector.replicate 4 none, op := none, zrsPend := false, evtPend := [] }
    pwr := { Pwr.reset with mram := m.pwr.mram }
    log := if aon then m.log else { m.log with spent := [], cycles := m.log.cycles + 1 } }
  let m := (m.put F.GLB_ID_SILICON m.fuse.silicon).put F.GLB_ID_VARIANT m.fuse.variant
  dropArmed (m.put F.SOF_STATUS_PRIV_FILL m.log.priv.length)

/-- Kind and cause of the last reset. -/
def showReset (kind cause : Nat) (m : Main) : Main := (m.put F.PWR_RESET_KIND kind).put F.PWR_RESET_CAUSE cause

/-! ### The start -/

/-- A tamper input that is open, or closed, is asserted (R485); an over-voltage one always is (R577). -/
def tampAsserted (m : Main) (k : Nat) (isOpen : Bool) : Bool :=
  (m.bit F.TMP_IN_CFG_POL k != isOpen) || m.pwr.overV.any fun x => match x with
    | .tamp n => n.val == k
    | _ => false

/-- The AON domain samples the tamper inputs and the mesh; what of class 2 it finds is zeroised, the ZRS being absorbed (R480). -/
def sampleTamper (x : StartIn) (m : Main) : Main :=
  let on (k : Nat) : Bool := tampAsserted m k (bitOf x.tamp k) && m.bit F.TMP_IN_CFG_ENABLE k
  let m := m.put F.TMP_STATUS_TAMP_LIVE (maskOf 4 on)
  let m := (m.put F.TMP_STATUS_TAMP_LATCH (m.get F.TMP_STATUS_TAMP_LATCH ||| maskOf 4 on)).putBit F.TMP_STATUS_MESH_LIVE x.mesh
  let m := if x.mesh then m.putBit F.TMP_STATUS_MESH_LATCH true else m
  (List.range 5).foldl (fun m k =>
    let found := if k = 4 then x.mesh else on k && m.bit F.TMP_IN_CFG_CLASS k
    if found && !raisedOf m k then fire 6 (zeroiseTamper k (setRaised k true m)) else m) m

/-- COMMISSION is entered at a start (R542). -/
def wantsCommission (strap : Bool) (m : Main) : Bool := strap || m.key.ownerPub.isNone || decide (0xF00 ≤ m.get F.RDG_ADDR_ADDR)

/-- The mode that a start enters (R543): ROLE is not yet taken, and a module without a role is no standby. -/
def startMode (strap : Bool) (m : Main) : Nat :=
  if !imageGood m then Md.recovery else if wantsCommission strap m then Md.commission else Md.active

/-- ROM runs the whole image that the region holds, or shows that it holds none (R520, R528, R539). -/
def takeImage (m : Main) : Main :=
  if imageGood m then
    let m : Main := { m with upd := { m.upd with
      runVer := regionLe m 12 4, runBody0 := Ih.body0 (regionHead m), runHash := if m.upd.factory then Config.factoryHash else m.upd.fwHash } }
    m.put F.UPD_RUN_VER m.upd.runVer
  else m.putBit F.UPD_STATUS_NOR_VALID false

/-- The cause of the mode change that a start makes (R543): UPDATE after an activation and after RECOVERY, CMS_END, else START. -/
def startCause (kind cause : Nat) : Nat := if kind ≠ 2 then 1 else if cause = 3 ∨ cause = 4 then 8 else if cause = 5 then 7 else 1

/-- The restart of the firmware (R563): privileged records, START, the mode, keys, clock, ports and outputs. `old` is the mode that a
change through Start leaves; Start itself has no code, and MODE reads its reset value there. -/
def startMain (kind cause old : Nat) (x : StartIn) (m : Main) : Main :=
  let m := sampleTamper x (showReset kind cause m)
  let m := showSlots (showKeyState (liteStart (takeImage (m.putBit F.CLK_STATUS_LOCKED true))))
  let mode := startMode x.strap m
  let why := startCause kind cause
  let m := record 0x0301 kind mode m.upd.runVer (if why = 8 then 8 else 0) (privMoveAll m)
  let m := showMode (setMode mode why (m.put F.PWR_MODE_MODE old))
  let m := takeAddr (m.put F.RDG_BOOT_BOOT (m.get F.RDG_BOOT_BOOT + 1))
  let m := startClock x.sub (reloadKeys m)
  showRoutes (showProgress (setExec (if mode = Md.recovery then Ex.noPlan else Ex.loading) m))

/-- A POR, BOR, WDR or ZRS with a start. -/
def restart (kind cause : Nat) (x : StartIn) (m : Main) : Main :=
  startMain kind cause (if kind = 2 ∧ (cause = 4 ∨ cause = 5) then m.mode else 0) x (fullReset kind m)

/-- A WDR or a ZRS is taken where CORE runs: SHIP and DAYLIGHT have it off or stopped, and HOLD ends only in a BOR (R551, R553). -/
def canRestart (m : Main) : Bool := m.mode != Md.ship && m.mode != Md.daylight && m.mode != Md.hold

def warmReset (kind cause : Nat) (x : StartIn) (m : Main) : Main := if canRestart m then restart kind cause x m else m

/-! ### FBR (R557, R558) -/

def fbrReset (cause sub : Nat) (m : Main) : Main :=
  let m := resetRegs fbrReg (fun r => r.k ||| r.n ||| r.p) (coreReset (hostReset m))
  let m := mapCtx (fun _ c => { c with wave := 0, waveRamp := 0, waveEnd := 0, back := 0, waveOn := false }) m
  let m : Main := { m with eav := { m.eav with started := false }, pwr := { m.pwr with fbr := none, dayRun := 0 } }
  let m := showReset 5 cause (takeImage (m.put F.SOF_STATUS_PRIV_FILL m.log.priv.length))
  let m := record 0x0301 5 m.mode m.upd.runVer 0 m
  let m := startClock sub (takeAddr (showKeyState m))
  showRoutes (showProgress (setExec (if m.mode = Md.recovery then Ex.noPlan else Ex.loading) m))

/-- FBR: the one scheduled, once its second course boundary has come. -/
def fbr (sub : Nat) (m : Main) : Main :=
  match m.pwr.fbr with
  | some (left, cause) => if left == 0 && canRestart m then fbrReset cause sub m else m
  | none => m

def execFbr (sub : Nat) (s : State) : Result := s.onMain (fbr sub)

end Sys2Proof.Machine
end

