-- ==== Sys2Proof/Machine/Updates.lean ====
section
/-!
DEFINITION. Module images (R516–R529, R538): the checks of a chunk, the image region, the commands, chains between modules, and
recovery.
-/
namespace Sys2Proof.Machine

/-! UPD_STATUS.STATE (R539). -/
namespace Us
def idle : Nat := 0
def writing : Nat := 1
def staged : Nat := 2
def failed : Nat := 3
end Us

def updState (m : Main) : Nat := m.get F.UPD_STATUS_STATE
def setUpd (st : Nat) (m : Main) : Main := m.put F.UPD_STATUS_STATE st

/-! ### Chunks (R517) -/

/-- The first check of R517 that a chunk fails, its sender taking it for chunk `k` and for the last one or not; 0 where all hold. -/
def chunkCause (k : Nat) (last : Bool) (data : List Byte) (m : Main) : Nat :=
  if k = 0 then
    let h := headerCause data (data.length == Ih.chunkLen data 0) m
    if h ≠ 0 then h
    else if !chunkHashed 0 data m then 0x07
    else if updState m = Us.writing ∨ last ≠ (Ih.chunks data == 1) then 0x08
    else 0
  else if updState m ≠ Us.writing ∨ m.upd.held ≠ k then 0x08
  else if data.length ≠ Ih.chunkLen (regionHead m) k then 0x02
  else if !chunkHashed k data m then 0x07
  else if last ≠ (Ih.chunks (regionHead m) == k + 1) then 0x08
  else 0

/-! ### Progress and failure (R538) -/

/-- A progress record with its bytes from byte 4 on. -/
def progressData (kind : Nat) (body : List Byte) (m : Main) : Main :=
  fire 61 (uplPost 6 (leBytes 1 kind ++ zeros 3 ++ body ++ zeros (28 - body.length)) m)

def fetchOf (m : Main) (p : Nat) : Option ImgChain := vget m.upd.fetch p none
def setFetch (p : Nat) (k : Option ImgChain) (m : Main) : Main := { m with upd := { m.upd with fetch := vmod m.upd.fetch p fun _ => k } }

/-- A message of an image chain (R524): sealed while K_FAB is ready, and with OPEN set otherwise and from ROM. -/
def imgSend (dst : Nat) (payload : List Byte) (m : Main) : Main :=
  if m.mode = Md.recovery then
    let n := newFrame 3 dst payload true m
    (sendOn none n.1 n.2).1
  else (originateOpen 3 dst payload m).1

def imgDone (dst cause version : Nat) (m : Main) : Main := imgSend dst (beBytes 1 0x43 ++ beBytes 1 cause ++ zeros 2 ++ beBytes 4 version) m

/-- A failure's cause, record and events; the source is 0 host, 1 port A, 2 port B. -/
def failStep (cause src : Nat) (m : Main) : Main :=
  let m := progressData 0x04 (leBytes 4 cause ++ leBytes 4 src) (m.put F.UPD_STATUS_LAST_CAUSE cause)
  record 0x0370 cause 0 0 0 (fire 62 m)

/-- The fetch at a port ends with a cause, which the caller is told. -/
def endFetch (p cause : Nat) (m : Main) : Main :=
  match fetchOf m p with
  | some k => if k.header.isEmpty then setFetch p none m else imgDone k.caller cause (Ih.version k.header) (setFetch p none m)
  | none => m

/-- A check fails, or the write is aborted (R519): a region in WRITING becomes FAILED; otherwise nothing is touched (R520). -/
def failUpdate (cause src : Nat) (m : Main) : Main :=
  let m := failStep cause src m
  let m : Main := if updState m = Us.writing then setUpd Us.failed { m with upd := { m.upd with writing := none } } else m
  if src = 0 then m else endFetch (src - 1) cause m

/-! ### Writing (R519–R521) -/

/-- A chunk that passes its checks goes to the NOR; chunk 0 clears the COMPLETE mark first. `readOk` says whether it will read back equal. -/
def acceptChunk (k src : Nat) (last : Bool) (data : List Byte) (readOk : Bool) (ring : Option Nat) (m : Main) : Main :=
  let m : Main :=
    if k ≠ 0 then m
    else
      let m : Main := { m with upd := { m.upd with img := [], factory := false, complete := false, held := 0, actAt := none } }
      let m := ((setUpd Us.writing m).putBit F.UPD_STATUS_NOR_VALID false).put F.UPD_STATUS_CHUNKS_DONE 0
      (m.put F.UPD_STATUS_SOURCE src).put F.UPD_STAGED_VER 0
  { m with upd := { m.upd with img := appendImg m.upd.img (65536 * k) data, writing := some ⟨readOk, last, ring⟩ } }

/-- The write-back of the IMAGE_WRITE whose chunk has been read back (R522). -/
def writeBackImage (ring : Option Nat) (rep : Desc → Reply) (m : Main) : Main :=
  match ring with
  | none => m
  | some r =>
    match (ringOf m r).cur with
    | some (pos, d) => cmdLate r pos d (rep d) m
    | none => m

/-- The last chunk has been written and read back. -/
def stageImage (m : Main) : Main :=
  let h := regionHead m
  let hash := Cipher.sha256 (regionBytes m 0 (Ih.total h))
  let m : Main := { m with upd := { m.upd with complete := true, fwHash := hash, stagedSec := Ih.security h } }
  let m := ((setUpd Us.staged m).put F.UPD_STAGED_VER (Ih.version h)).putBit F.UPD_STATUS_NOR_VALID true
  progressData 0x02 (leBytes 4 (Ih.version h) ++ (beBytes 32 hash).take 16) m

/-- IMG_FETCH of the pieces of a fetch's chunk that have not come (R524, R525). -/
def askPieces (p : Nat) (m : Main) : Main :=
  match fetchOf m p with
  | none => m
  | some k =>
    let n := if k.header.isEmpty then 64 else Ih.chunkLen k.header k.chunk / 1024
    let mask := maskOf 64 fun i => decide (i < n) && !(k.pieces.any fun x => x.1 == i)
    imgSend k.caller (beBytes 1 0x41 ++ zeros 1 ++ beBytes 2 k.chunk ++ beBytes 8 mask) m

/-- The header of the image being fetched: the call's, or in RECOVERY the region's once chunk 0 is written. -/
def fetchHead (m : Main) (k : ImgChain) : List Byte := if k.header.isEmpty then regionHead m else k.header

/-- IMG_CALL goes to the neighbour on a port. -/
def callOn (p depth actAt : Nat) (m : Main) : Main :=
  let h := regionHead m
  let m : Main := { m with upd := { m.upd with called := vmod m.upd.called p fun _ => h, outcome := vmod m.upd.outcome p fun _ => none } }
  imgSend (m.get F.RDG_PORT_STATUS_HEARD p) (beBytes 1 0x40 ++ beBytes 1 depth ++ zeros 2 ++ beBytes 6 actAt ++ zeros 2 ++ h) m

/-- What a fetch does once its chunk is written (R525, R527). -/
def fetchOn (p : Nat) (last : Bool) (m : Main) : Main :=
  match fetchOf m p with
  | none => m
  | some k =>
    let q := 1 - p
    let m := if k.chunk = 0 ∧ 1 < k.depth ∧ portState m q = Ps.matched then callOn q (k.depth - 1) k.actAt m else m
    if last then
      let m := endFetch p 0 m
      if k.actAt = 0 then m
      else progressData 0x03 (leBytes 6 k.actAt) { m with upd := { m.upd with actAt := some (k.actAt, true) } }
    else askPieces p (setFetch p (some { k with chunk := k.chunk + 1, pieces := [], header := fetchHead m k }) m)

/-- The image is activated (R518, R521). -/
def activate (cause : Nat) (x : StartIn) (m : Main) : Main :=
  if canRestart m then restart 2 cause x (m.put F.UPD_SEC_MIN (max (m.get F.UPD_SEC_MIN) m.upd.stagedSec)) else m

/-- A chunk has been written and read back. -/
def chunkReadBack (x : StartIn) (m : Main) : Main :=
  match m.upd.writing with
  | none => m
  | some w =>
    let src := m.get F.UPD_STATUS_SOURCE
    if !w.readOk then writeBackImage w.ring (fun d => .refused d 0x09) (failUpdate 0x09 src m)
    else
      let k := m.upd.held
      let m : Main := { m with upd := { m.upd with held := k + 1, writing := none } }
      let m := m.put F.UPD_STATUS_CHUNKS_DONE (k + 1)
      let m := progressData 0x01 (leBytes 4 k ++ leBytes 4 (Ih.chunks (regionHead m))) m
      let m := if w.last then stageImage m else m
      let m := writeBackImage w.ring (fun d => .done d.length) m
      let m := if src = 0 then m else fetchOn (src - 1) w.last m
      if w.last ∧ m.mode = Md.recovery then activate 4 x m else m

/-- IMAGE_CHUNK_WRITTEN: an IMAGE_WRITE that waits for it may go on. -/
def chunkWritten (x : StartIn) (m : Main) : Main := if m.upd.writing.isSome then chunkReadBack x (unpark m) else m

/-! ### Commands (R522, R523) -/

/-- In RECOVERY another path owns the download (R529). -/
def otherOwner (path : Nat) (m : Main) : Bool := m.mode == Md.recovery && m.upd.owner.any (· != path)
def own (path : Nat) (m : Main) : Main := if m.mode = Md.recovery then { m with upd := { m.upd with owner := some path } } else m

/-- An abort of the write in progress: what was being written on another ring is written back too. -/
def abortWrite (m : Main) : Main :=
  if updState m ≠ Us.writing then m
  else
    let ring := m.upd.writing.bind (·.ring)
    writeBackImage ring (fun d => .refused d 0x0A) (failUpdate 0x0A (m.get F.UPD_STATUS_SOURCE) m)

/-- The row of the abort has PARAM bit 2 set. -/
def imageRow (abort : Bool) (d : Desc) : Bool := isOp 0x0801 d && bitOf d.param 2 == abort

def imageWriteData (r : Nat) (d : Desc) (readOk : Bool) (data : List Byte) (m : Main) : Main × Option Reply :=
  let k := if bitOf d.param 0 then 0 else m.upd.held
  let last := bitOf d.param 1
  let cause := if otherOwner 0 m ∨ (k = 0 ∧ !bitOf d.param 0) then 0x08 else chunkCause k last data m
  if cause ≠ 0 then (failUpdate cause 0 m, some (.refused d cause))
  else (own 0 (acceptChunk k 0 last data readOk (some r) m), none)

/-- In RECOVERY only CMD0 takes an IMAGE opcode (R529). -/
def imageCmd (r : Fin 8) (d : Desc) (k : CmdKind) (f : List Byte → Main → Main × Option Reply) (m : Main) : Main :=
  if m.mode = Md.recovery ∧ r ≠ 0 then cmdTake r d k.row (fun n => cmdEnd r n d (.fail St.badOpcode 0)) m else cmdRunAny r d k f m

/-- IMAGE_WRITE. One waits on its ring while another's chunk is being written. -/
def imageWrite (r : Fin 8) (d : Desc) (readOk : Bool) (m : Main) : Main :=
  if m.upd.writing.isSome then park r d (imageRow false) m
  else imageCmd r d ⟨imageRow false, false, fun d => decide (4 ≤ d.length), 7, 0, openGate⟩ (imageWriteData r d readOk) m

/-- IMAGE_WRITE with ABORT. -/
def imageWriteAbort (r : Fin 8) (d : Desc) : Main → Main :=
  imageCmd r d ⟨imageRow true, d.length == 0, fun d => d.length == 0, 7, 0, openGate⟩ fun _ m => (abortWrite m, some (.done 0))

/-- The ACTIVE module of a pair whose partner is up (R523, R527). -/
def activeWithPartner (m : Main) : Bool := paired m && m.bit F.RED_STATUS_ACTIVE && m.bit F.RED_STATUS_PARTNER_UP

/-- IMAGE_ACTIVATE. -/
def imageActivate (r : Fin 8) (d : Desc) : Main → Main :=
  cmdNow r d ⟨isOp 0x0802, true, fun d => d.length == 0, 1, 2 ^ 48 - 1, openGate⟩ fun _ m =>
    if updState m ≠ Us.staged then (m, .fail St.refused 0x20)
    else if activeWithPartner m ∧ !bitOf d.param 0 then (m, .fail St.refused 0x21)
    else (progressData 0x03 (leBytes 6 d.addr) { m with upd := { m.upd with actAt := some (d.addr % 2 ^ 48, false) } }, .done 0)

/-- An activation that is not made: the image stays STAGED (R527). -/
def deferActivation (m : Main) : Main := failStep 0x0C (m.get F.UPD_STATUS_SOURCE) { m with upd := { m.upd with actAt := none } }

/-- IMAGE_ACTIVATION, at the instant set. -/
def imageActivation (x : StartIn) (m : Main) : Main :=
  match m.upd.actAt with
  | none => m
  | some (t, byChain) =>
    if updState m ≠ Us.staged ∨ m.course < t then m
    else if !byChain ∨ !(paired m && m.bit F.RED_STATUS_ACTIVE) then activate 3 x m
    else if !m.bit F.RED_STATUS_PARTNER_UP then deferActivation m
    else if m.course < t + 600 then m
    else if m.red.partner.any (·.inSync) then activate 3 x m
    else deferActivation m

/-- IMAGE_CHAIN. -/
def imageChain (r : Fin 8) (d : Desc) : Main → Main :=
  cmdNow r d ⟨isOp 0x0803, true, fun d => d.length == 0, 0x7F, 2 ^ 48 - 1, fun _ => if bits d.param 6 1 = 0 then some (.fail St.badParam 1) else none⟩ fun _ m =>
    let p := d.param % 2
    if updState m ≠ Us.idle ∧ updState m ≠ Us.staged then (m, .fail St.refused 0x20)
    else if portState m p ≠ Ps.matched then (m, .fail St.refused 0x22)
    else (callOn p (bits d.param 6 1) (d.addr % 2 ^ 48) m, .done 0)

/-! ### Chains between modules (R524–R527) -/

/-- IMG_CALL at a port. -/
def imgCall (p : Nat) (f : RidgeFrame) (m : Main) : Main :=
  let h := slice f.payload 12 256
  let ver := Ih.version h
  if !m.bit F.UPD_CTRL_CHAIN_EN || m.mode == Md.recovery then m
  else if updState m = Us.writing then
    let v := m.freeVal
    imgDone f.src (v.1 % 256) ver v.2
  else
    let cause := headerCause h true m
    if cause ≠ 0 then imgDone f.src cause ver (failStep cause (p + 1) m)
    else if ver = m.upd.runVer ∧ Ih.body0 h = m.upd.runBody0 then imgDone f.src 0xFF ver m
    else askPieces p (setFetch p (some ⟨f.src, (f.payload.getD 1 0).toNat, lbe f.payload 4 6, h, 0, []⟩) m)

/-- Chunks of the region that are written and read back (R526). -/
def holdsChunk (m : Main) (k : Nat) : Bool := if m.upd.complete then decide (k < Ih.chunks (regionHead m)) else decide (k < m.upd.held)

/-- IMG_PIECE in answer to a fetch: 0 data, 1 not yet written, 2 the region no longer holds the image that was called for. -/
def sendPiece (dst p k i : Nat) (m : Main) : Main :=
  let call := vget m.upd.called p []
  let other := !call.isEmpty && call != regionHead m
  let have' := holdsChunk m k && decide (1024 * i < Ih.chunkLen (regionHead m) k)
  let status := if other then 2 else if have' then 0 else 1
  imgSend dst (beBytes 1 0x42 ++ beBytes 1 status ++ beBytes 2 k ++ beBytes 1 i ++ zeros 3 ++
    (if status = 0 then regionBytes m (65536 * k + 1024 * i) 1024 else [])) m

/-- IMG_FETCH at a port. -/
def imgFetch (p : Nat) (f : RidgeFrame) (m : Main) : Main :=
  let k := lbe f.payload 2 2
  let mask := lbe f.payload 4 8
  (List.range 64).foldl (fun m i => if bitOf mask i then sendPiece f.src p k i m else m) m

/-- Pieces in the chunk being fetched; chunk 0 of an image without a call tells its own length in its first piece. -/
def pieceCount (m : Main) (k : ImgChain) (pieces : List (Nat × List Byte)) : Nat :=
  if k.header.isEmpty ∧ k.chunk = 0 then
    match pieces.find? fun x => x.1 == 0 with
    | some x => if Ih.lengths x.2 then Ih.chunkLen x.2 0 / 1024 else 1
    | none => 64
  else Ih.chunkLen (fetchHead m k) k.chunk / 1024

/-- A chunk that has come whole over a path: 0 PCIe, 1 and 2 the ports, 3 the UART. -/
def pathChunk (path k : Nat) (data : List Byte) (readOk : Bool) (m : Main) : Main × Nat :=
  let src := if path = 3 then 0 else path
  let count := Ih.chunks (if k = 0 then data else regionHead m)
  let cause := if otherOwner path m then 0x08 else chunkCause k (count == k + 1) data m
  if cause ≠ 0 then (failUpdate cause src m, cause) else (own path (acceptChunk k src (count == k + 1) data readOk none m), 0)

/-- IMG_PIECE at a port. -/
def imgPiece (p : Nat) (f : RidgeFrame) (readOk : Bool) (m : Main) : Main :=
  match fetchOf m p with
  | none => m
  | some k =>
    let status := (f.payload.getD 1 0).toNat
    let i := (f.payload.getD 4 0).toNat
    if f.src ≠ k.caller ∨ lbe f.payload 2 2 ≠ k.chunk ∨ 64 ≤ i ∨ m.upd.writing.isSome then m
    else if status = 2 then failUpdate 0x0A (p + 1) m
    else if status ≠ 0 ∨ f.payload.length ≠ 1032 ∨ k.pieces.any (fun x => x.1 == i) then m
    else
      let pieces := k.pieces ++ [(i, f.payload.drop 8)]
      let n := pieceCount m k pieces
      let m := setFetch p (some { k with pieces := pieces }) m
      if (List.range n).all fun j => pieces.any fun (x : Nat × List Byte) => x.1 == j then
        let data := (List.range n).flatMap fun j => match pieces.find? (fun (x : Nat × List Byte) => x.1 == j) with | some x => x.2 | none => []
        (pathChunk (p + 1) k.chunk data readOk m).1
      else m

/-- IMG_DONE at a port: the outcome of the call made there. -/
def imgDoneRx (p : Nat) (f : RidgeFrame) (m : Main) : Main :=
  { m with upd := { m.upd with outcome := vmod m.upd.outcome p fun _ => some ((f.payload.getD 1 0).toNat, lbe f.payload 4 4) } }

/-- The neighbour that the last running route section names for a port (R529). -/
def lastNeighbour (m : Main) (p : Nat) : Option Nat :=
  ((match bankIn m Bk.probation with | some k => some k | none => bankIn m Bk.running).bind fun k => neighOf (bankOf m k).img p).map Prod.fst

/-- IMG_FETCH_RETRY: a fetch asks again; in RECOVERY, while no path owns the download, ROM asks its neighbour for chunk 0. -/
def fetchRetry (p : Nat) (m : Main) : Main :=
  match fetchOf m p with
  | some _ => if m.upd.writing.isSome then m else askPieces p m
  | none =>
    if m.mode ≠ Md.recovery ∨ m.upd.owner.isSome then m
    else
      match lastNeighbour m p with
      | some a => askPieces p (setFetch p (some ⟨a, 0, 0, [], 0, []⟩) m)
      | none => m

/-- IMG_CHAIN_TIMEOUT: 20 s without a new piece. -/
def chainTimeout (p : Nat) (m : Main) : Main := if (fetchOf m p).isSome then failUpdate 0x0B (p + 1) m else m

/-! ### Recovery (R529) -/

/-- The chunk whose pieces the UART is bringing. -/
def uartChunk (m : Main) : Nat :=
  if m.upd.owner = some 3 ∧ updState m = Us.writing then m.upd.held + natOf m.upd.writing.isSome else 0

/-- The piece number and the data of a UART frame; none where it is not one. The CRC is over what lies between the mark and itself, and
little-endian as in R489 (DESIGN CHOICE, log entry 35). -/
def uartPiece (o : List Byte) : Option (Nat × List Byte) :=
  if o.length = 1030 ∧ lle o 0 2 = 0xAA55 ∧ lle o 1028 2 = crc16 (slice o 2 1026) then some (lle o 2 2, slice o 4 1024) else none

/-- A frame on the service UART: 0x06 stored, 0x15 resend, 0x18 refused. -/
def uartFrame (o : List Byte) (readOk : Bool) (m : Main) : Main :=
  let answer (code : Nat) (m : Main) : Main := m.emit (.uart code (lle o 2 2))
  let k := uartChunk m
  if m.mode ≠ Md.recovery then m
  else if otherOwner 3 m then answer 0x18 m
  else
    match uartPiece o with
    | none => answer 0x15 m
    | some (number, bytes) =>
      if number ≠ 64 * k + m.upd.uart.length / 1024 then answer 0x15 m
      else
        let data := m.upd.uart ++ bytes
        let n := if k ≠ 0 then Ih.chunkLen (regionHead m) k else if Ih.lengths data then Ih.chunkLen data 0 else 1024
        if data.length < n then answer 0x06 { m with upd := { m.upd with uart := data } }
        else if m.upd.writing.isSome then answer 0x15 m
        else
          let r := pathChunk 3 k data readOk { m with upd := { m.upd with uart := [] } }
          answer (if r.2 = 0 then 0x06 else 0x18) r.1

/-- RECOVERY_TIMEOUT: 60 s without a chunk; the download that was under way has failed. -/
def recoveryTimeout (m : Main) : Main :=
  if m.mode ≠ Md.recovery ∨ m.upd.owner.isNone ∨ m.upd.writing.isSome then m
  else
    let m := if updState m = Us.writing then failUpdate 0x0B (m.get F.UPD_STATUS_SOURCE) m else m
    { m with upd := { m.upd with owner := none, uart := [], fetch := Vector.replicate 2 none } }

def execImageWrite (r : Fin 8) (d : Desc) (readOk : Bool) (s : State) : Result := s.onMain (imageWrite r d readOk)
def execImageWriteAbort (r : Fin 8) (d : Desc) (s : State) : Result := s.onMain (imageWriteAbort r d)
def execImageChunkWritten (x : StartIn) (s : State) : Result := s.onMain (chunkWritten x)
def execImageActivate (r : Fin 8) (d : Desc) (s : State) : Result := s.onMain (imageActivate r d)
def execImageActivation (x : StartIn) (s : State) : Result := s.onMain (imageActivation x)
def execImageChain (r : Fin 8) (d : Desc) (s : State) : Result := s.onMain (imageChain r d)
def execImgCall (p : Fin 2) (f : RidgeFrame) (s : State) : Result := s.onMain (imgCall p f)
def execImgFetch (p : Fin 2) (f : RidgeFrame) (s : State) : Result := s.onMain (imgFetch p f)
def execImgPiece (p : Fin 2) (f : RidgeFrame) (readOk : Bool) (s : State) : Result := s.onMain (imgPiece p f readOk)
def execImgDone (p : Fin 2) (f : RidgeFrame) (s : State) : Result := s.onMain (imgDoneRx p f)
def execImgFetchRetry (p : Fin 2) (s : State) : Result := s.onMain (fetchRetry p)
def execImgChainTimeout (p : Fin 2) (s : State) : Result := s.onMain (chainTimeout p)
def execUartFrame (octets : List Byte) (readOk : Bool) (s : State) : Result := s.onMain (uartFrame octets readOk)
def execRecoveryTimeout (s : State) : Result := s.onMain recoveryTimeout

end Sys2Proof.Machine
end

