-- ==== Sys2Proof/Machine/Tamper.lean ====
section
/-!
DEFINITION. The tamper monitor (R477–R481) and KEY_ZEROISE (R474).
-/
namespace Sys2Proof.Machine

/-- A land is over-voltage (R577). -/
def overVoltage (m : Main) (land : FieldLand) : Bool := m.pwr.overV.contains land

/-- A class 2 source (R479). In DAYLIGHT the event and the ZRS wait for the wake (R480); in SHIP and in HOLD there is none to take. -/
def tamper2 (src : Nat) (x : StartIn) (m : Main) : Main :=
  let m := zeroiseTamper src m
  if m.mode = Md.daylight then { m with key := { m.key with zrsPend := true, evtPend := m.key.evtPend ++ [6] } }
  else if m.mode = Md.ship then m
  else warmReset 6 1 x (fire 6 m)

/-- A class 1 source: an input (R478). -/
def tamper1 (k : Nat) (m : Main) : Main :=
  let m := recordPriv 0x0360 k 0 0 0 (m.countSat F.CLASS1_COUNT)
  if m.mode = Md.daylight then { m with key := { m.key with evtPend := m.key.evtPend ++ [5] } }
  else if m.mode = Md.ship then m
  else fire 5 m

/-- A source is asserted; it raises its class once until it is re-armed (R478). -/
def tamperRaise (src : Nat) (act : Main → Main) (m : Main) : Main := if raisedOf m src then m else act (setRaised src true m)

/-- TAMPER_INPUT: a watched input has stood open, or closed, for its DEB (R477); it raises its class where that is its asserted level. -/
def tamperInput (k : Nat) (isOpen : Bool) (x : StartIn) (m : Main) : Main :=
  if !m.bit F.TMP_IN_CFG_ENABLE k || !tampAsserted m k isOpen then m
  else
    let m := (m.putBit F.TMP_STATUS_TAMP_LIVE true 0 k).putBit F.TMP_STATUS_TAMP_LATCH true 0 k
    tamperRaise k (if m.bit F.TMP_IN_CFG_CLASS k then tamper2 k x else tamper1 k) m

/-- MESH_BREAK. -/
def meshBreak (x : StartIn) (m : Main) : Main :=
  tamperRaise 4 (tamper2 4 x) ((m.putBit F.TMP_STATUS_MESH_LIVE true).putBit F.TMP_STATUS_MESH_LATCH true)

/-- TAMPER_SOURCE_CLEAR: an input (0–3) or the mesh (4) has been clear long enough. An over-voltage input counts as asserted. -/
def tamperClear (src : Fin 5) (m : Main) : Main :=
  if h : src.val < 4 then
    if overVoltage m (.tamp ⟨src.val, h⟩) then m else setRaised src false (m.putBit F.TMP_STATUS_TAMP_LIVE false 0 src)
  else setRaised src false (m.putBit F.TMP_STATUS_MESH_LIVE false)

/-- KEY_ZEROISE (R473, R474): its write-back is the last act before a ZRS with cause HOST. -/
def keyZeroise (r : Fin 8) (d : Desc) (x : StartIn) : Main → Main :=
  keyTurn r d (isOp 0x0705) fun m =>
    if (ringOf m r).cur.isSome then m
    else
      let m := cmdRun r d ⟨isOp 0x0705, false, fun d => d.length == 24, 0, 0, openGate⟩ (fun data m =>
        let no (m : Main) (detail : Nat) : Main × Option Reply :=
          let p := keyResult 0x0705 (.refused d detail) m
          (p.1, some p.2)
        if !hstReady m then no m 0x14
        else
          let ok := cmacGood d 0x0705 data m && lle data 0 8 == keyNonce m
          let m := renewNonce m
          if ok then (zeroiseHost m, none) else no m 0x12) m
      match (ringOf m r).cur with
      | none => m
      | some (n, d) =>
        let p := keyResult 0x0705 (.done d.length) (withRing m r fun g => { g with cur := none })
        warmReset 6 2 x (cmdEnd r n d p.2 p.1)

def execTamperInput (k : Fin 4) (isOpen : Bool) (x : StartIn) (s : State) : Result := s.onMain (tamperInput k isOpen x)
def execMeshBreak (x : StartIn) (s : State) : Result := s.onMain (meshBreak x)
def execTamperSourceClear (src : Fin 5) (s : State) : Result := s.onMain (tamperClear src)
def execKeyZeroise (r : Fin 8) (d : Desc) (x : StartIn) (s : State) : Result := s.onMain (keyZeroise r d x)

end Sys2Proof.Machine
end

