-- ==== Sys2Proof/Machine/Power.lean ====
section
/-!
DEFINITION. Power, modes, clocks and field lands (R540–R559, R564, R569–R578, R588).
-/
namespace Sys2Proof.Machine

/-! ### POR, BOR, WDR (R551, R557, R573) -/

/-- The class N items that a flush takes to MRAM (R550), and their return where the flush did not reach them (R573). -/
def nAddrs : List Nat := (List.range 8).map (fun i => F.SOF_RECNO_LO.addr 0 + 4 * i)
def saveMram (m : Main) : Main :=
  { m with pwr := { m.pwr with mram :=
    ⟨nAddrs.map m.word, m.get F.RDG_BOOT_BOOT, m.get F.YLM_PROBATION_REMAIN, m.time.addendKept, m.time.utcKept⟩ } }
def loadMram (m : Main) : Main :=
  let k := m.pwr.mram
  let m : Main := { m with time := { m.time with addendKept := k.addend, utcKept := k.utc } }
  ((m.putWords (F.SOF_RECNO_LO.addr 0) k.recno).put F.RDG_BOOT_BOOT k.boot).put F.YLM_PROBATION_REMAIN k.probation

def por (x : StartIn) (m : Main) : Main := restart 0 0 x m

/-- A BOR. `vin` says whether VIN is there to start from: without it the main side stays off until a POR. `lost` says that a HOLD
entered with HOLDUP_OK clear ran out of energy before the flush of the class N items (R573). -/
def bor (x : StartIn) (vin lost : Bool) (m : Main) : Main :=
  if m.mode = Md.ship then m
  else
    let m := if lost && m.mode == Md.hold && m.pwr.weak && !m.bit F.PWR_SUPPLY_B_FLUSH_DONE then loadMram m else m
    if vin then restart 1 0 x m
    else
      let m := fullReset 1 m
      showReset 1 0 (m.put F.RDG_BOOT_BOOT (m.get F.RDG_BOOT_BOOT + 1))

/-! ### HOLD (R549, R550) -/

/-- VIN_WARNING. The record's domain is not given a coding: a free value (log entry 4). -/
def vinWarning (vin : Nat) (m : Main) : Main :=
  if m.mode = Md.ship then m
  else
    let v := (m.put F.PWR_SUPPLY_VIN vin).freeVal
    fire 2 (recordPriv 0x0303 vin (v.1 % 2 ^ 32) 0 0 v.2)

/-- HOLD_ENTRY: transmission, heartbeats and originated frames stop at once. -/
def holdEntry (vin vhold : Nat) (m : Main) : Main :=
  if m.mode = Md.ship ∨ m.mode = Md.daylight ∨ m.mode = Md.hold then m
  else
    let m : Main := { (m.put F.PWR_SUPPLY_VIN vin).put F.PWR_SUPPLY_VHOLD vhold with
      pwr := { m.pwr with weak := !m.bit F.PWR_HOLDUP_HOLDUP_OK } }
    let m := setMode Md.hold 9 (fire 3 (recordPriv 0x0304 vin vhold 0 0 m))
    let own := ownAddr m
    let m := (List.range 2).foldl (fun m p => showQueue p (withPort m p fun g => { g with queue := g.queue.filter fun f => f.src != own })) m
    allLanes 0 m

/-- FLUSH_DONE. -/
def flushDone (m : Main) : Main :=
  if m.mode = Md.hold then (saveMram (privMoveAll m)).putBit F.PWR_SUPPLY_B_FLUSH_DONE true else m

/-! ### Root PLL (R556) -/

def pllUnlock (m : Main) : Main :=
  if m.pwr.unlocked || m.mode == Md.ship then m
  else
    let m : Main := { m with pwr := { m.pwr with unlocked := true } }
    fire 4 (((m.putBit F.CLK_STATUS_LOCKED false).putBit F.CLK_STATUS_UNLOCKED true).count F.CLK_UNLOCKS)

/-- The time lost is known, in µs. -/
def pllRecord (us : Nat) (m : Main) : Main := record 0x0305 us 0 0 0 (m.put F.CLK_STATUS_LAST_LOSS (min us 65535))

def pllRelock (us : Nat) (m : Main) : Main :=
  if m.pwr.unlocked then pllRecord us ({ m with pwr := { m.pwr with unlocked := false } }.putBit F.CLK_STATUS_LOCKED true) else m

/-- PLL_UNLOCK_TIMEOUT: 1 ms without lock. -/
def pllTimeout (x : StartIn) (m : Main) : Main := if m.pwr.unlocked then warmReset 2 2 x (pllRecord 1000 m) else m

/-! ### ISLAND (R541, R543) -/

/-- The host is there while the link is in L0 or L1 and Bus Master Enable is set. -/
def hostThere (link : Bool) (m : Main) : Bool := link && m.host.busMaster
def anyMatched (m : Main) : Bool := portState m 0 == Ps.matched || portState m 1 == Ps.matched

/-- ISLAND_ENTRY: host and fabric have been lost for ISLAND_S seconds. A paired module has lost its partner, so its role is ACTIVE. -/
def islandEntry (link : Bool) (m : Main) : Main :=
  if !runningMode m || hostThere link m || anyMatched m then m
  else
    let m := if paired m && m.red.role == 1 && keysReady m then changeRole 2 2 m else m
    setMode Md.island 3 m

def islandExit (link : Bool) (m : Main) : Main :=
  if m.mode = Md.island ∧ (hostThere link m ∨ anyMatched m) then setMode (roleMode m) 3 m else m

/-! ### SHIP and the end of commissioning (R543, R544) -/

/-- A write of PWR_REQ acts: its KEY, in COMMISSION. -/
def reqActs (value bit : Nat) (m : Main) : Bool := m.mode == Md.commission && bits value 31 16 == 0x5A5A && bitOf value bit

/-- SHIP: everything but AON is powered down. -/
def ship (value : Nat) (m : Main) : Main :=
  if reqActs value 1 m then
    let m := setMode Md.ship 6 m
    (fullReset 2 m).setWord F.PWR_MODE_MODE.base (m.word F.PWR_MODE_MODE.base)
  else m

def cmsEnd (value : Nat) (x : StartIn) (m : Main) : Main :=
  if reqActs value 0 m && !wantsCommission x.strap m then restart 2 5 x m else m

/-! ### DAYLIGHT (R545–R548) -/

/-- The lanes' own state, which a wake retrains (R560). -/
def laneReg (a : Nat) : Bool := (0x050000 ≤ a && a < 0x061000) || (0x070100 ≤ a && a < 0x070180)

/-- DAYLIGHT_ENTRY. -/
def daylightEntry (m : Main) : Main :=
  if (m.mode ≠ Md.active ∧ m.mode ≠ Md.island) ∨ m.pwr.dayRun < 60 then m
  else
    let wake := (planWake m).map Int.toNat
    let m := saveMram (setMode Md.daylight 4 m)
    let m := (List.range 2).foldl (fun m p => setPort p Ps.down m) m
    let m : Main := { m with
      pwr := { m.pwr with dayRun := 0, wakeAt := wake }
      ylm := { m.ylm with cells := Vector.replicate 8 none, next := Vector.replicate 8 none, deferred := false }
      rdg := { m.rdg with ports := Vector.replicate 2 RPort.reset } }
    allLanes 0 (setExec Ex.loading (m.putBit F.GLB_STATUS_READY false))

/-- The running mode after a sleep: the clock from the calendar, the lanes retrained, and LISTEN at the next course boundary. -/
def daylightWakeUp (sub : Nat) (m : Main) : Main :=
  let evs := m.key.evtPend
  let m := resetRegs laneReg (fun r => r.k ||| r.n ||| r.p) m
  let m : Main := { m with
    lanes := Vector.replicate 8 Lane.reset
    ctx := { m.ctx with gutters := Vector.replicate 8 Gutter.empty }
    key := { m.key with evtPend := [] }
    pwr := { m.pwr with wakeAt := none } }
  let m := startClock sub (privMoveAll (setMode (roleMode m) 5 m))
  evs.foldl (fun m n => fire n m) m

/-- DAYLIGHT_WAKE by a source of R546. The plan's instant and a pending tamper are checked; a pending ZRS is the wake's start. -/
def daylightWake (src : Fin 7) (x : StartIn) (m : Main) : Main :=
  let due := match src.val with
    | 0 => false
    | 1 => m.pwr.wakeAt.any fun t => decide ((t : Int) ≤ calNow m)
    | 5 => m.key.zrsPend || !m.key.evtPend.isEmpty
    | _ => true
  if m.mode ≠ Md.daylight ∨ !due then m
  else
    let evs := m.key.evtPend
    let m := if m.key.zrsPend then evs.foldl (fun m n => fire n m) (restart 6 1 x m) else daylightWakeUp x.sub m
    m.put F.PWR_WAKE_SRC src

/-! ### RESET messages (R559) -/

/-- A write of PWR_FBR_TGT with GO set. No register holds the CAUSE that the message carries: a free value (log entry 4). -/
def fbrGo (value : Nat) (m : Main) : Main :=
  let m := m.put F.PWR_FBR_TGT_ADDR value
  let v := m.freeVal
  let eui := m.get64 F.PWR_FBR_EUI_LO F.PWR_FBR_EUI_HI
  (originate 1 (m.get F.PWR_FBR_TGT_ADDR) (beBytes 1 0x2F ++ beBytes 1 (v.1 % 256) ++ zeros 2 ++ beBytes 8 eui) v.2).1

/-- A delivered RESET message. One delivered while an FBR is scheduled leaves the earlier one as it stands (log entry 134). -/
def resetRx (f : RidgeFrame) (m : Main) : Main :=
  if !f.isOpen && f.dst == ownAddr m && lbe f.payload 4 8 == m.fuse.eui && m.bit F.PWR_CTRL_FBR_EN then
    { m with pwr := { m.pwr with fbr := some (m.pwr.fbr.getD (2, (f.payload.getD 1 0).toNat)) } }
  else m.count F.FBR_REFUSED

/-! ### Hold-up and the back-up cell (R571, R574) -/

def holdupTimeout (m : Main) : Main := if m.bit F.PWR_HOLDUP_HOLDUP_OK then m else m.putBit F.PWR_HOLDUP_HOLDUP_FAULT true

/-- VHOLD crosses a threshold of R571, in mV. -/
def holdupLevel (vhold : Nat) (m : Main) : Main :=
  let m := (m.put F.PWR_SUPPLY_VHOLD vhold).putBit F.PWR_HOLDUP_HOLDUP_OK (decide (24000 ≤ vhold))
  if vhold < 22000 ∧ m.mode ≠ Md.hold then m.putBit F.PWR_HOLDUP_HOLDUP_FAULT true else m

/-- VBAT crosses 2.2 V, in mV; 0 where it is absent. -/
def vbatLevel (vbat : Nat) (m : Main) : Main :=
  (m.put F.PWR_SUPPLY_B_VBAT vbat).putBit F.PWR_HOLDUP_VBAT_LOW (decide (vbat < 2200))

/-! ### Field lands (R577) -/

/-- The bit of PWR_FIO for a land (R588). -/
def fioBit : FieldLand → Option Nat
  | .ain n => some n
  | .pls n => some (2 + n)
  | .tamp n => some (4 + n)
  | _ => none

def isGbl : FieldLand → Bool
  | .gbl _ => true
  | _ => false

/-- What a land's report and protection are once `overV` shows whether it is over-voltage: a channel's output is high-impedance, and
every line of the gable port dark, at once. -/
def landReport (land : FieldLand) (m : Main) : Main :=
  let on := overVoltage m land
  match land with
  | .eav n => (chSync n (setChFault n 5 (on || overVoltage m (.flt n)) m)).emit (.guarded (.eav n) (on || overVoltage m (.flt n)))
  | .flt n => (chSync n (setChFault n 5 (on || overVoltage m (.eav n)) m)).emit (.guarded (.eav n) (on || overVoltage m (.eav n)))
  | .gbl n => (setGblFault 5 (m.pwr.overV.any isGbl) (if on then gableDark m else m)).emit (.guarded (.gbl n) on)
  | .ntc k =>
    if on && !m.bit F.NTC_TEMP_FAULT k then fire 42 (m.putBit F.NTC_TEMP_FAULT true k) else m
  | land =>
    match fioBit land with
    | none => m
    | some k =>
      let m := m.putBit F.PWR_FIO_LIVE on 0 k
      let m := if on then m.putBit F.PWR_FIO_LATCH true 0 k else m
      match land, runImg m with
      | .ain n, some b => if srcMode b n = 2 then m.emit (.guarded land on) else m
      | _, _ => m

def landOver (land : FieldLand) (m : Main) : Main :=
  if overVoltage m land || m.mode == Md.ship then m else landReport land { m with pwr := { m.pwr with overV := land :: m.pwr.overV } }

def landBack (land : FieldLand) (m : Main) : Main :=
  if overVoltage m land then landReport land { m with pwr := { m.pwr with overV := m.pwr.overV.filter (· != land) } } else m

def execPor (x : StartIn) (s : State) : Result := s.onMain (por x)
def execBor (x : StartIn) (vin lost : Bool) (s : State) : Result := s.onMain (bor x vin lost)
def execWatchdogExpiry (x : StartIn) (s : State) : Result := s.onMain (warmReset 2 1 x)
def execVinWarning (vin : Nat) (s : State) : Result := s.onMain (vinWarning vin)
def execHoldEntry (vin vhold : Nat) (s : State) : Result := s.onMain (holdEntry vin vhold)
def execFlushDone (s : State) : Result := s.onMain flushDone
def execPllUnlock (s : State) : Result := s.onMain pllUnlock
def execPllRelock (us : Nat) (s : State) : Result := s.onMain (pllRelock us)
def execPllUnlockTimeout (x : StartIn) (s : State) : Result := s.onMain (pllTimeout x)
def execIslandEntry (link : Bool) (s : State) : Result := s.onMain (islandEntry link)
def execIslandExit (link : Bool) (s : State) : Result := s.onMain (islandExit link)
def execShip (value : Nat) (s : State) : Result := s.onMain (hostAccess 1 (ship value))
def execCmsEnd (value : Nat) (x : StartIn) (s : State) : Result := s.onMain (hostAccess 1 (cmsEnd value x))
def execDaylightEntry (s : State) : Result := s.onMain daylightEntry
def execDaylightWake (src : Fin 7) (x : StartIn) (s : State) : Result := s.onMain (daylightWake src x)
def execGo (value : Nat) (s : State) : Result := s.onMain (hostAccess 1 (fbrGo value))
def execReset (f : RidgeFrame) (s : State) : Result := s.onMain (resetRx f)
def execHoldupTimeout (s : State) : Result := s.onMain holdupTimeout
def execHoldupOk (vhold : Nat) (s : State) : Result := s.onMain (holdupLevel vhold)
def execVbatLow (vbat : Nat) (s : State) : Result := s.onMain (vbatLevel vbat)
def execFieldOvervoltage (land : FieldLand) (s : State) : Result := s.onMain (landOver land)
def execOvervoltageClear (land : FieldLand) (s : State) : Result := s.onMain (landBack land)

end Sys2Proof.Machine
end

