-- ==== Sys2Proof/Machine/RegRead.lean ====
section
/-!
DEFINITION. The read of a register (R6, R7, R346, R548), the groups that a read of their first word latches, and the read of
configuration space (R343, R345).
-/
namespace Sys2Proof.Machine

/-- The groups of type RL that hold more than one word: the first word's address, the stride and count of their instances, and the words of
each (R185, R212, R253, R283, R321, R341, R342, R381, R411, R436, R464, R465, R485, R514, R564). DMR_TOT and PTP_TSQ have rows of their
own. -/
def rlGroups : List (Nat × Nat × Nat × Nat) :=
  [(0x010020, 4, 1, 2), (0x030104, 32, 16, 5), (0x071100, 16, 4, 4), (0x072000, 4, 1, 24), (0x072100, 4, 1, 12), (0x080100, 4, 1, 8),
   (0x090040, 16, 4, 2), (0x090080, 4, 1, 6), (0x090108, 64, 16, 5), (0x0A0100, 4, 1, 142), (0x0A0400, 4, 1, 92), (0x0A0800, 4, 1, 17),
   (0x0A0880, 4, 1, 17), (0x0A0908, 4, 1, 2), (0x0B0114, 32, 16, 2), (0x0C0100, 4, 1, 16), (0x0D0108, 64, 2, 2), (0x0E0014, 4, 1, 2),
   (0x0F0004, 4, 1, 3), (0x100010, 4, 1, 3), (0x110008, 4, 1, 2), (0x120080, 4, 1, 8)]

/-- The group whose first word is at `a`: how many words it has. -/
def groupFirst (a : Nat) : Option Nat :=
  (rlGroups.find? fun g => g.1 ≤ a && (a - g.1) % g.2.1 == 0 && (a - g.1) / g.2.1 < g.2.2.1).map (·.2.2.2)

/-- The address is one of a group's other words. -/
def groupOther (a : Nat) : Bool :=
  rlGroups.any fun g => g.1 ≤ a && (a - g.1) / g.2.1 < g.2.2.1 + (if g.2.2.1 = 1 then g.2.2.2 - 1 else 0) &&
    (if g.2.2.1 = 1 then g.1 != a else 0 < (a - g.1) % g.2.1 && (a - g.1) % g.2.1 < 4 * g.2.2.2)

/-- The record that SOF_WIN_SEL selects (R514); an empty position shows zeros (log entry 37). -/
def recordWords (m : Main) : List Nat :=
  let area := m.get F.SOF_WIN_SEL_AREA
  match recAt m (m.get F.SOF_WIN_SEL_STORE) area (m.get F.SOF_WIN_SEL_POS % areaSize area) with
  | some r => wordsOf (recBytes r false) 8
  | none => List.replicate 8 0

/-- The words of the group of `n` words at `a` as they stand: the windows by their selections, any other by its registers. -/
def groupNow (a n : Nat) (m : Main) : List Nat :=
  match a with
  | 0x072000 => ctxWords m
  | 0x072100 => zoneWords m
  | 0x080100 => waveCtxWords m
  | 0x090080 => stageWords m
  | 0x0C0100 => faultWords m
  | 0x120080 => recordWords m
  | _ => (List.range n).map fun k => m.word (a + 4 * k)

def latchGet (m : Main) (a : Nat) : Nat := sget (fun _ => 0) m.host.latch a

/-- Hold `ws` as what reads of the words from `a` on answer. -/
def latchPut (a : Nat) (ws : List Nat) (l : Sparse Nat) : Sparse Nat :=
  (ws.zipIdx).foldl (fun l w => sset (fun _ => 0) l (a + 4 * w.2) (w.1 + 1)) l

/-- A read that latches a group. -/
def groupRead (a n : Nat) (m : Main) : Main × Nat :=
  let ws := groupNow a n m
  ({ m with host := { m.host with latch := latchPut a ws m.host.latch } }, ws.headD 0)

/-- A read of the word at `a` by its access type (R7): the first word of a group latches the group, its other words answer what was
latched, and any other word its register. Words that no read has latched yet answer their registers (DESIGN CHOICE, log entry 9). How many
cycles of the slot have gone by at a read of the local clock is a free value (log entry 5). -/
def wordRead (a : Nat) (m : Main) : Main × Nat :=
  match a with
  | 0x0A0600 => let m := totRead m; (m, m.word a)
  | 0x100040 => let m := tsqRead m; (m, m.word a)
  | 0x100010 =>
    let v := m.freeVal
    groupRead a 3 (runClock (v.1 % (cyclesTo (10000000 * (m.slotNow + 1)) m + 1)) v.2)
  | _ =>
    match groupFirst a with
    | some n => groupRead a n m
    | none => (m, if groupOther a && latchGet m a != 0 then latchGet m a - 1 else m.word a)

/-- A read of the BAR0 word at `a` (R6, R7, R346, R548). -/
def bar0Read (a : Nat) : Main → Main := hostRead a (wordRead a)

/-- The value of an item of configuration space (R343, R345): a capability is 1 where the function has it; power states are a mask of D0 to
D3hot; link power is 2 for L1 alone; a BAR is its size in bytes, 0 where it is not implemented. -/
def configValue (m : Main) : ConfigItem → Nat
  | .vendorId => 0x1F3A
  | .deviceId => 0x8192
  | .classCode => 0x118000
  | .subsystemId => 0x8190 + m.fuse.variant
  | .maxPayload => 256
  | .tags => 32
  | .msixVectors => 64
  | .aer | .flr => 1
  | .ecrc | .ctoRanges | .ctoDisable => 0
  | .aspm => 2
  | .powerStates => 9
  | .bar n => if n.val = 0 then 2 ^ 22 else if n.val = 2 then 2 ^ 16 else 0

end Sys2Proof.Machine
end

