-- ==== Sys2Proof/Machine/SignCmds.lean ====
section
/-!
DEFINITION. The commands of the eave channels and the gable port (chapter 10).
-/
namespace Sys2Proof.Machine

def execEavTick (ntc : List Nat) (s : State) : Result := s.onMain (eavTick ntc)
def execEavFault (n : Fin 16) (kind : Fin 4) (on : Bool) (s : State) : Result := s.onMain (eavFault n kind on)
def execEavShortProbe (n : Fin 16) (good : Bool) (s : State) : Result := s.onMain (eavProbe n good)
def execGableLinePeriod (sdi : List Byte) (s : State) : Result := s.onMain (gableLine sdi)
def execLineShort (line : Fin 48) (s : State) : Result := s.onMain (lineShort line)
def execRearm (s : State) : Result := s.onMain (hostAccess 0x0C rearm)
def execGammaDefault (s : State) : Result := s.onMain (hostAccess 0x0B gammaRestore)
def execGblGeomWrite (value : Nat) (s : State) : Result := s.onMain (hostAccess 0x0C (geomWrite value))
def execGblShowWrite (value : Nat) (s : State) : Result := s.onMain (hostAccess 0x0C (showWrite value))

/-- GBL_LEGEND (R334, R356): 16 bytes and the pixels of at most 48 lines and 16 drivers. -/
def cmdGblLegend (r : Fin 8) (d : Desc) : Main → Main :=
  cmdNow r d ⟨isOp 0x0501, false, fun d => 4 ≤ d.length && d.length ≤ 16777216, 0, 0, openGate⟩ fun data m =>
    let p := legendStore data m
    (p.1, if p.2 then .done d.length else ⟨St.legendRefused, 0, d.length, []⟩)
def execGblLegend (r : Fin 8) (d : Desc) (s : State) : Result := s.onMain (cmdGblLegend r d)

end Sys2Proof.Machine
end

