-- ==== Sys2Proof/Machine/TimeCmds.lean ====
section
/-!
DEFINITION. The commands of the calendar and of network time (chapter 14).
-/
namespace Sys2Proof.Machine

def execPtpMessageRx (x : PtpMsg) (s : State) : Result := s.onMain (ptpRx x)
def execAnnounceTimeout (s : State) : Result := s.onMain announceTimeout
def execPtpMessageTx (p : Fin 2) (typ seq sec ns : Nat) (s : State) : Result := s.onMain (ptpTx p typ seq sec ns)
def execTtoEdge (n : Fin 4) (s : State) : Result := s.onMain (ttoEdge n)
def execTtoWidthEnd (n : Fin 4) (s : State) : Result := s.onMain (ttoWidthEnd n)
def execCalendarSecond (s : State) : Result := s.onMain calTick
def execTrimWindowEnd (sub cyc : Nat) (s : State) : Result := s.onMain (trimWindowEnd sub cyc)
def execSyncStep (sub : Nat) (s : State) : Result := s.onMain (syncStep sub)
def execPeriodicWake (s : State) : Result := s.onMain periodicWake
def execCountdownTick (s : State) : Result := s.onMain countdownTick
def execAonSupplyLoss (s : State) : Result := s.onMain aonLoss
def execCommit (sub : Nat) (s : State) : Result := s.onMain (hostAccess 0x0F (commit sub))
def execAlmCfgWrite (n : Fin 4) (value : Nat) (s : State) : Result := s.onMain (hostAccess 0x0F (almCfgWrite n value))
def execRtcWakeWrite (value : Nat) (s : State) : Result := s.onMain (hostAccess 0x0F (wakeWrite value))
def execCountdownRun (value : Nat) (s : State) : Result := s.onMain (hostAccess 0x0F (countdownRun value))
def execForce (s : State) : Result := s.onMain (hostAccess 0x10 forceWrite)
def execPtpTsqRead (s : State) : Result := s.onMain (hostRead 0x100040 fun m => ((tsqRead m), (tsqRead m).word 0x100040))

end Sys2Proof.Machine
end

