-- ==== Sys2Proof/Machine/RegWrite.lean ====
section
/-!
DEFINITION. REGISTER_WRITE: the write of a register (R6–R8, R346, R548) by its address: the access types of R7, the writes that a rule
turns away, and the behaviour of the registers that have one of their own, by the same operations that their own commands run; the read
of one; and configuration space (R343, R345, R371).
-/
namespace Sys2Proof.Machine

/-- The access types of R7: RW bits take the written value, a written 1 clears a W1C bit, and every other bit stays. -/
def writtenWord (rw w1c old v : Nat) : Nat := (old ^^^ (old &&& (rw ||| (w1c &&& v)))) ||| (v &&& rw)

/-- The RW bits of a register that a write may set now: all of its row's, but for the writes that a rule ignores. HST_RING_BASE
and HST_RING_CFG while the ring is not DISABLED, and the field that its kind of ring does not have (R381); RDG_ADDR, KEY_CFG
and TMP_IN_CFG outside COMMISSION (R392, R472, R478); TRIM while AUTO is set (R445). -/
def openBits (r : RegRow) (a : Nat) (m : Main) : Nat :=
  if r.base = 0x020100 ∨ r.base = 0x020104 ∨ r.base = 0x020108 then
    let n := (a - 0x020100) / 32
    if ringState m n ≠ Rs.disabled then 0
    else if r.base = 0x020108 then (if n < 8 then 0xFFFF001F else 0x00FFFF1F)
    else r.rw
  else if r.base = 0x0D0004 ∨ r.base = 0x110018 ∨ r.base = 0x111010 then (if m.mode = Md.commission then r.rw else 0)
  else if r.base = 0x0F001C then (if m.bit F.RTC_TRIM_AUTO then 0 else r.rw)
  else r.rw

/-- A write of a register without behaviour of its own (R7). -/
def plainWrite (r : RegRow) (a v : Nat) (m : Main) : Main := m.setWord a (writtenWord (openBits r a m) r.w1c (m.word a) v)

/-! ### Registers with behaviour of their own -/

/-- HST_RING_CTRL (R349, R378, R381). -/
def ringCtrlWrite (n v : Nat) (reads : List Desc) (m : Main) : Main :=
  if bitOf v 0 then
    let m := ringEnable n reads m
    if bitOf v 1 then ringRearm n reads m else m
  else ringDisable n m

/-- PAUSE_ALL of DMA_CTRL (R377). -/
def dmaCtrlWrite (v : Nat) (reads : List (Nat × List Desc)) (m : Main) : Main :=
  let was := m.bit F.DMA_CTRL_PAUSE_ALL
  let m := ((m.putBit F.DMA_CTRL_EVT12_EN (bitOf v 0)).putBit F.DMA_CTRL_EVT13_EN (bitOf v 1)).putBit F.DMA_CTRL_EVT14_EN (bitOf v 2)
  if bitOf v 31 then (if was then m else pauseAll m) else if was then dmaResume none reads m else m

/-- PAUSE of DMA_CH_CTRL (R377). -/
def channelCtrlWrite (c : Fin 16) (v : Nat) (reads : List (Nat × List Desc)) (m : Main) : Main :=
  let was := m.bit F.DMA_CH_CTRL_PAUSE c
  let m := m.put F.DMA_CH_CTRL_PRIO v c
  if bitOf v 31 then (if was then m else pauseChannel c m) else if was then dmaResume (some c) reads m else m

/-- ENABLE of PUR_CTRL (R250). -/
def purCtrlWrite (r : RegRow) (v : Nat) (m : Main) : Main :=
  let was := m.bit F.PUR_CTRL_ENABLE
  let m := plainWrite r 0x090000 v m
  if bitOf v 0 = was then m else if bitOf v 0 then startLoops m else stopLoops m

/-- ARM of TTO_CFG (R461): an edge is pending from the write that sets it to the write that clears it. -/
def ttoCfgWrite (r : RegRow) (a n v : Nat) (m : Main) : Main :=
  let was := m.bit F.TTO_CFG_ARM n
  let m := plainWrite r a v m
  if bitOf v 31 then (if was then m else ttoArm n m) else withTto m n fun t => { t with edge := none }

/-- A vector's control word (R369): clearing its mask lets its pending message out. -/
def vectorWrite (n v : Nat) (m : Main) : Main :=
  if bitOf v 0 then m.putBit F.MSIX_CTRL_MASK true n else msixUnmask n m

/-- PWR_REQ (R543). -/
def powerRequest (v : Nat) (x : StartIn) (m : Main) : Main := if bitOf v 1 then ship v m else if bitOf v 0 then cmsEnd v x m else m

/-- A write of an action bit beside other fields: the fields first. -/
def thenIf (c : Bool) (f : Main → Main) (m : Main) : Main := if c then f m else m

/-- The write of the register of row `r` at `a`. `reads` is what a ring that may move data again reads, and `x` what a
start finds, with the sub-second count that the calendar holds. -/
def rowWrite (r : RegRow) (a v : Nat) (reads : List (Nat × List Desc)) (x : StartIn) (m : Main) : Main :=
  let k := (a - r.base) / r.stride
  let plain := plainWrite r a v
  match r.base with
  | 0x010008 => powerRequest v x m
  | 0x010030 => if bitOf v 31 then fbrGo v m else plain m
  | 0x02010C => ringCtrlWrite k v (readsFor reads k) m
  | 0x030000 => dmaCtrlWrite v reads m
  | 0x030100 => channelCtrlWrite (Fin.ofNat 16 k) v reads m
  | 0x040004 => runWrite (bitOf v 0) (m.putBit F.YLM_CTRL_EVT26_EN (bitOf v 1))
  | 0x08000C => thenIf (bitOf v 31) latencyClear m
  | 0x090000 => purCtrlWrite r v m
  | 0x090100 => thenIf (bitOf v 0) (releaseLoop k) m
  | 0x0B0000 => (List.range 16).foldl (fun m n => chSync n m) (thenIf (bitOf v 3) gammaRestore (plain m))
  | 0x0B0100 | 0x0B0104 | 0x0B0108 | 0x0B010C | 0x0B0110 => chSync k (plain m)
  | 0x0C0000 => gableEnable (thenIf (bitOf v 0) rearm (plain m))
  | 0x0C0004 => geomWrite v m
  | 0x0C0008 => showWrite v m
  | 0x0D0004 => if m.mode = Md.commission then addrWritten (plain m) else m
  | 0x0D0010 => showRoutes (plain m)
  | 0x0D0100 => portRefresh k (plain m)
  | 0x0F0000 => thenIf (bitOf v 7) (commit x.sub) (undiscipline (plain m))
  | 0x0F0024 => wakeWrite v m
  | 0x0F0028 => if bitOf v 31 then countdownRun v m else plain m
  | 0x0F0100 => almCfgWrite k v m
  | 0x100000 => thenIf (bitOf v 31) forceWrite (plain m)
  | 0x100100 => ttoCfgWrite r a k v m
  | 0x120040 => if bitOf v 31 then replayStart v m else plain m
  | 0x13100C => thenIf (bitOf v 0) (skyCntClear k) m
  | 0x140028 => showProgress (plain m)
  | 0x3F000C => vectorWrite k v m
  | _ => plain m

/-- A word written to BAR0 (R346, R548); an address that holds no register ignores it. -/
def bar0Write (a v : Nat) (reads : List (Nat × List Desc)) (x : StartIn) (m : Main) : Main :=
  hostAccess (a / 0x10000) (fun m =>
    match rowAt a with
    | some r => rowWrite r a (v % 2 ^ 32) reads x m
    | none => m) m

/-- REGISTER_WRITE (R6, R7, R343, R346, R369, R371, R541). Max Payload Size above the 256 bytes supported acts as 256 (PRESUMED, log entry
36). -/
def registerWrite (t : RegTarget) (reads : List (Nat × List Desc)) (x : StartIn) (m : Main) : Main :=
  match t with
  | .bar0 a v => bar0Write a v reads x m
  | .narrow | .bar2Bad => { m with host := { m.host with unsupported := true } }
  | .msix on mask => sendPending { m with host := { m.host with msixEnable := on, funcMask := mask } }
  | .command on => { m with host := { m.host with busMaster := on } }
  | .read a => bar0Read a (if a / 0x10000 = 0x0F then m.put F.RTC_SUBSEC_CYCLES x.sub else m)
  | .deviceControl p r => { m with host := { m.host with maxPayload := min 256 (128 * 2 ^ p.val), maxRead := 128 * 2 ^ r.val } }
  | .config i => m.emit (.configData i (configValue m i))

def execRegisterWrite (t : RegTarget) (reads : List (Nat × List Desc)) (x : StartIn) (s : State) : Result :=
  s.onMain (registerWrite t reads x)

end Sys2Proof.Machine
end

