-- ==== Sys2Proof/Machine/RidgeCmds.lean ====
section
/-!
DEFINITION. The commands of the ridge fabric (chapter 12).
-/
namespace Sys2Proof.Machine

def execRidgeFrameRx (p : Fin 2) (e : EthFrame) (s : State) : Result := s.onMain (ridgeRx p e)
def execPortEgress (p : Fin 2) (s : State) : Result := s.onMain (portEgress p)
def execPortLinkChange (p : Fin 2) (up fast los : Bool) (s : State) : Result := s.onMain (linkChange p up fast los)
def execHelloTx (p : Fin 2) (s : State) : Result := s.onMain (helloTx p)
def execHello (p : Fin 2) (f : RidgeFrame) (s : State) : Result := s.onMain (helloRx p f)
def execHelloTimeout (p : Fin 2) (s : State) : Result := s.onMain (helloTimeout p)
def execTunnel (f : RidgeFrame) (s : State) : Result := s.onMain (tunnelRx f)

/-- FAB_SEND (R408). -/
def cmdFabSend (r : Fin 8) (d : Desc) : Main → Main :=
  cmdNow r d ⟨isOp 0x0601, false, fun d => 4 ≤ d.length && d.length ≤ 1472, 2 ^ 18 - 1, 0, fun _ =>
      if 17 < bits d.param 16 12 then some (.fail St.badParam (12 + lowBit (bits d.param 16 12))) else none⟩
    fun data m =>
      let res := originate (if bitOf d.param 17 then 3 else 2) (bits d.param 11 0) (beBytes 1 0x30 ++ beBytes 1 (bits d.param 16 12) ++ zeros 2 ++ data) m
      (res.1, if res.2 = 0 then .done d.length else .refused d res.2)
def execFabSend (r : Fin 8) (d : Desc) (s : State) : Result := s.onMain (cmdFabSend r d)

end Sys2Proof.Machine
end

