-- ==== Sys2Proof/Machine/Dispatch.lean ====
section
/-!
DEFINITION. What each command does: one arm a constructor, each one call of its meaning.
-/
namespace Sys2Proof.Machine

def exec (i : Instr) (s : State) : Host.Outcome State Fault Refusal :=
  match i with
  | .courseBoundary tai loud lines => Sys2Proof.Machine.execCourseBoundary tai loud lines s
  | .slotFetch => Sys2Proof.Machine.execSlotFetch s
  | .fillDeadline late => Sys2Proof.Machine.execFillDeadline late s
  | .bindCutoff => Sys2Proof.Machine.execBindCutoff s
  | .laneRetune l locked => Sys2Proof.Machine.execLaneRetune l locked s
  | .cellStart l => Sys2Proof.Machine.execCellStart l s
  | .txFrameDone l x => Sys2Proof.Machine.execTxFrameDone l x s
  | .rxFrame l x => Sys2Proof.Machine.execRxFrame l x s
  | .packetRelease upset ecc us => Sys2Proof.Machine.execPacketRelease upset ecc us s
  | .slotBoundary abs => Sys2Proof.Machine.execSlotBoundary abs s
  | .overrideExpiry => Sys2Proof.Machine.execOverrideExpiry s
  | .lanternSilent lantern => Sys2Proof.Machine.execLanternSilent lantern s
  | .epochSwitch => Sys2Proof.Machine.execEpochSwitch s
  | .armLoadComplete => Sys2Proof.Machine.execArmLoadComplete s
  | .armLate => Sys2Proof.Machine.execArmLate s
  | .pairMismatch => Sys2Proof.Machine.execPairMismatch s
  | .probationWindowEnd told => Sys2Proof.Machine.execProbationWindowEnd told s
  | .rollbackBoundary => Sys2Proof.Machine.execRollbackBoundary s
  | .planLoadComplete => Sys2Proof.Machine.execPlanLoadComplete s
  | .listenEnd => Sys2Proof.Machine.execListenEnd s
  | .eavTick ntc => Sys2Proof.Machine.execEavTick ntc s
  | .eavFault n kind on => Sys2Proof.Machine.execEavFault n kind on s
  | .eavShortProbe n good => Sys2Proof.Machine.execEavShortProbe n good s
  | .gableLinePeriod sdi => Sys2Proof.Machine.execGableLinePeriod sdi s
  | .lineShort line => Sys2Proof.Machine.execLineShort line s
  | .purlinSample t => Sys2Proof.Machine.execPurlinSample t s
  | .ainConversion x0 x1 => Sys2Proof.Machine.execAinConversion x0 x1 s
  | .heartbeatTx => Sys2Proof.Machine.execHeartbeatTx s
  | .heartbeatRx f => Sys2Proof.Machine.execHeartbeatRx f s
  | .roleChange => Sys2Proof.Machine.execRoleChange s
  | .partnerLost => Sys2Proof.Machine.execPartnerLost s
  | .startRoleTimeout => Sys2Proof.Machine.execStartRoleTimeout s
  | .digestTx => Sys2Proof.Machine.execDigestTx s
  | .digestRx f => Sys2Proof.Machine.execDigestRx f s
  | .digestMissing => Sys2Proof.Machine.execDigestMissing s
  | .resyncSnapshot => Sys2Proof.Machine.execResyncSnapshot s
  | .resyncRx f => Sys2Proof.Machine.execResyncRx f s
  | .resyncApply missing => Sys2Proof.Machine.execResyncApply missing s
  | .swapAnnounce => Sys2Proof.Machine.execSwapAnnounce s
  | .revertHoldoff => Sys2Proof.Machine.execRevertHoldoff s
  | .swapWithdraw => Sys2Proof.Machine.execSwapWithdraw s
  | .swapBoundary => Sys2Proof.Machine.execSwapBoundary s
  | .waveDecisionRx f us => Sys2Proof.Machine.execWaveDecisionRx f us s
  | .detectFwdRx f us => Sys2Proof.Machine.execDetectFwdRx f us s
  | .waveHandoffRx f us => Sys2Proof.Machine.execWaveHandoffRx f us s
  | .ridgeFrameRx p e => Sys2Proof.Machine.execRidgeFrameRx p e s
  | .portEgress p => Sys2Proof.Machine.execPortEgress p s
  | .portLinkChange p up fast los => Sys2Proof.Machine.execPortLinkChange p up fast los s
  | .helloTx p => Sys2Proof.Machine.execHelloTx p s
  | .hello p f => Sys2Proof.Machine.execHello p f s
  | .helloTimeout p => Sys2Proof.Machine.execHelloTimeout p s
  | .tunnel f => Sys2Proof.Machine.execTunnel f s
  | .ligger f => Sys2Proof.Machine.execLigger f s
  | .liggerBoundary => Sys2Proof.Machine.execLiggerBoundary s
  | .liggerResume c => Sys2Proof.Machine.execLiggerResume c s
  | .reset f => Sys2Proof.Machine.execReset f s
  | .fbr sub => Sys2Proof.Machine.execFbr sub s
  | .imgCall p f => Sys2Proof.Machine.execImgCall p f s
  | .imgFetch p f => Sys2Proof.Machine.execImgFetch p f s
  | .imgPiece p f readOk => Sys2Proof.Machine.execImgPiece p f readOk s
  | .imgDone p f => Sys2Proof.Machine.execImgDone p f s
  | .imgFetchRetry p => Sys2Proof.Machine.execImgFetchRetry p s
  | .imgChainTimeout p => Sys2Proof.Machine.execImgChainTimeout p s
  | .imageChunkWritten x => Sys2Proof.Machine.execImageChunkWritten x s
  | .imageActivation x => Sys2Proof.Machine.execImageActivation x s
  | .uartFrame octets readOk => Sys2Proof.Machine.execUartFrame octets readOk s
  | .recoveryTimeout => Sys2Proof.Machine.execRecoveryTimeout s
  | .ptpMessageRx x => Sys2Proof.Machine.execPtpMessageRx x s
  | .announceTimeout => Sys2Proof.Machine.execAnnounceTimeout s
  | .ptpMessageTx p typ seq sec ns => Sys2Proof.Machine.execPtpMessageTx p typ seq sec ns s
  | .ttoEdge n => Sys2Proof.Machine.execTtoEdge n s
  | .ttoWidthEnd n => Sys2Proof.Machine.execTtoWidthEnd n s
  | .calendarSecond => Sys2Proof.Machine.execCalendarSecond s
  | .trimWindowEnd sub cyc => Sys2Proof.Machine.execTrimWindowEnd sub cyc s
  | .syncStep sub => Sys2Proof.Machine.execSyncStep sub s
  | .periodicWake => Sys2Proof.Machine.execPeriodicWake s
  | .countdownTick => Sys2Proof.Machine.execCountdownTick s
  | .aonSupplyLoss => Sys2Proof.Machine.execAonSupplyLoss s
  | .dormerStepEnd x => Sys2Proof.Machine.execDormerStepEnd x s
  | .pulseStart f t => Sys2Proof.Machine.execPulseStart f t s
  | .pulseEnd f => Sys2Proof.Machine.execPulseEnd f s
  | .snapshotRx o => Sys2Proof.Machine.execSnapshotRx o s
  | .infoRx o => Sys2Proof.Machine.execInfoRx o s
  | .intervalRx o => Sys2Proof.Machine.execIntervalRx o s
  | .profileRx o => Sys2Proof.Machine.execProfileRx o s
  | .stateRx o => Sys2Proof.Machine.execStateRx o s
  | .dmrLinkTimeout => Sys2Proof.Machine.execDmrLinkTimeout s
  | .sealSwitchPress => Sys2Proof.Machine.execSealSwitchPress s
  | .witnessContactOpen => Sys2Proof.Machine.execWitnessContactOpen s
  | .gateTimeout => Sys2Proof.Machine.execGateTimeout s
  | .sealOpen => Sys2Proof.Machine.execSealOpen s
  | .sealSetMeas => Sys2Proof.Machine.execSealSetMeas s
  | .sealSetPulse => Sys2Proof.Machine.execSealSetPulse s
  | .sealClose => Sys2Proof.Machine.execSealClose s
  | .sealAbort => Sys2Proof.Machine.execSealAbort s
  | .dormerSupplyWarning x => Sys2Proof.Machine.execDormerSupplyWarning x s
  | .dormerHaltRecover => Sys2Proof.Machine.execDormerHaltRecover s
  | .dormerPowerUp xa xb => Sys2Proof.Machine.execDormerPowerUp xa xb s
  | .dormerClockLoss => Sys2Proof.Machine.execDormerClockLoss s
  | .dormerClockReturn => Sys2Proof.Machine.execDormerClockReturn s
  | .doorbell r value reads => Sys2Proof.Machine.execDoorbell r value reads s
  | .descriptorRetry r reads => Sys2Proof.Machine.execDescriptorRetry r reads s
  | .uplFlush u => Sys2Proof.Machine.execUplFlush u s
  | .holdoffExpiry r => Sys2Proof.Machine.execHoldoffExpiry r s
  | .ringEnable r reads => Sys2Proof.Machine.execRingEnable r reads s
  | .ringDisable r => Sys2Proof.Machine.execRingDisable r s
  | .ringRearm r reads => Sys2Proof.Machine.execRingRearm r reads s
  | .pause c => Sys2Proof.Machine.execPause c s
  | .dmaResume c reads => Sys2Proof.Machine.execDmaResume c reads s
  | .pauseAll => Sys2Proof.Machine.execPauseAll s
  | .completionTimeout r rd => Sys2Proof.Machine.execCompletionTimeout r rd s
  | .hostNoresp r ca rd => Sys2Proof.Machine.execHostNoresp r ca rd s
  | .poison r rd => Sys2Proof.Machine.execPoison r rd s
  | .msixUnmask vector => Sys2Proof.Machine.execMsixUnmask vector s
  | .flr => Sys2Proof.Machine.execFlr s
  | .pfr => Sys2Proof.Machine.execPfr s
  | .d3hotEntry => Sys2Proof.Machine.execD3hotEntry s
  | .ready reads => Sys2Proof.Machine.execReady reads s
  | .nop r d => Sys2Proof.Machine.execNop r d s
  | .badOpcode r d => Sys2Proof.Machine.execBadOpcode r d s
  | .planWrite r d => Sys2Proof.Machine.execPlanWrite r d s
  | .planWriteAbort r d => Sys2Proof.Machine.execPlanWriteAbort r d s
  | .planArm arm => Sys2Proof.Machine.execPlanArm arm s
  | .planDisarm via => Sys2Proof.Machine.execPlanDisarm via s
  | .planAccept via => Sys2Proof.Machine.execPlanAccept via s
  | .planRollback via => Sys2Proof.Machine.execPlanRollback via s
  | .override r d => Sys2Proof.Machine.execOverride r d s
  | .ctxRead r d => Sys2Proof.Machine.execCtxRead r d s
  | .purSetpoint r d => Sys2Proof.Machine.execPurSetpoint r d s
  | .dmrSession r d => Sys2Proof.Machine.execDmrSession r d s
  | .gblLegend r d => Sys2Proof.Machine.execGblLegend r d s
  | .fabSend r d => Sys2Proof.Machine.execFabSend r d s
  | .keyOwnerInstall r d => Sys2Proof.Machine.execKeyOwnerInstall r d s
  | .keyLoad r d => Sys2Proof.Machine.execKeyLoad r d s
  | .keyAck r d => Sys2Proof.Machine.execKeyAck r d s
  | .keyBump r d => Sys2Proof.Machine.execKeyBump r d s
  | .keyBumpRoot r d => Sys2Proof.Machine.execKeyBumpRoot r d s
  | .keyZeroise r d x => Sys2Proof.Machine.execKeyZeroise r d x s
  | .attest r d => Sys2Proof.Machine.execAttest r d s
  | .keyOpDone => Sys2Proof.Machine.execKeyOpDone s
  | .imageWrite r d readOk => Sys2Proof.Machine.execImageWrite r d readOk s
  | .imageWriteAbort r d => Sys2Proof.Machine.execImageWriteAbort r d s
  | .imageActivate r d => Sys2Proof.Machine.execImageActivate r d s
  | .imageChain r d => Sys2Proof.Machine.execImageChain r d s
  | .limgWrite r d => Sys2Proof.Machine.execLimgWrite r d s
  | .limgStart r d => Sys2Proof.Machine.execLimgStart r d s
  | .limgStop r d => Sys2Proof.Machine.execLimgStop r d s
  | .redSwap r d => Sys2Proof.Machine.execRedSwap r d s
  | .redResync via => Sys2Proof.Machine.execRedResync via s
  | .commit sub => Sys2Proof.Machine.execCommit sub s
  | .almCfgWrite n value => Sys2Proof.Machine.execAlmCfgWrite n value s
  | .rtcWakeWrite value => Sys2Proof.Machine.execRtcWakeWrite value s
  | .countdownRun value => Sys2Proof.Machine.execCountdownRun value s
  | .force => Sys2Proof.Machine.execForce s
  | .ptpTsqRead => Sys2Proof.Machine.execPtpTsqRead s
  | .dmrTotRead => Sys2Proof.Machine.execDmrTotRead s
  | .release l => Sys2Proof.Machine.execRelease l s
  | .rearm => Sys2Proof.Machine.execRearm s
  | .gammaDefault => Sys2Proof.Machine.execGammaDefault s
  | .gblGeomWrite value => Sys2Proof.Machine.execGblGeomWrite value s
  | .gblShowWrite value => Sys2Proof.Machine.execGblShowWrite value s
  | .run on => Sys2Proof.Machine.execRun on s
  | .latencyClear => Sys2Proof.Machine.execLatencyClear s
  | .replayStart value => Sys2Proof.Machine.execReplayStart value s
  | .replayRecord => Sys2Proof.Machine.execReplayRecord s
  | .skyCntClear n => Sys2Proof.Machine.execSkyCntClear n s
  | .skyPacket => Sys2Proof.Machine.execSkyPacket s
  | .ship value => Sys2Proof.Machine.execShip value s
  | .cmsEnd value x => Sys2Proof.Machine.execCmsEnd value x s
  | .go value => Sys2Proof.Machine.execGo value s
  | .registerWrite t reads x => Sys2Proof.Machine.execRegisterWrite t reads x s
  | .privBufferMove => Sys2Proof.Machine.execPrivBufferMove s
  | .bucketRefill code => Sys2Proof.Machine.execBucketRefill code s
  | .tamperInput k isOpen x => Sys2Proof.Machine.execTamperInput k isOpen x s
  | .meshBreak x => Sys2Proof.Machine.execMeshBreak x s
  | .vinWarning vin => Sys2Proof.Machine.execVinWarning vin s
  | .holdEntry vin vhold => Sys2Proof.Machine.execHoldEntry vin vhold s
  | .flushDone => Sys2Proof.Machine.execFlushDone s
  | .bor x vin lost => Sys2Proof.Machine.execBor x vin lost s
  | .por x => Sys2Proof.Machine.execPor x s
  | .watchdogExpiry x => Sys2Proof.Machine.execWatchdogExpiry x s
  | .pllUnlock => Sys2Proof.Machine.execPllUnlock s
  | .pllRelock us => Sys2Proof.Machine.execPllRelock us s
  | .pllUnlockTimeout x => Sys2Proof.Machine.execPllUnlockTimeout x s
  | .islandEntry link => Sys2Proof.Machine.execIslandEntry link s
  | .islandExit link => Sys2Proof.Machine.execIslandExit link s
  | .daylightEntry => Sys2Proof.Machine.execDaylightEntry s
  | .daylightWake src x => Sys2Proof.Machine.execDaylightWake src x s
  | .holdupTimeout => Sys2Proof.Machine.execHoldupTimeout s
  | .fieldOvervoltage land => Sys2Proof.Machine.execFieldOvervoltage land s
  | .overvoltageClear land => Sys2Proof.Machine.execOvervoltageClear land s
  | .laneThermal l t => Sys2Proof.Machine.execLaneThermal l t s
  | .witnessContactClose => Sys2Proof.Machine.execWitnessContactClose s
  | .tamperSourceClear src => Sys2Proof.Machine.execTamperSourceClear src s
  | .d3hotExit reads => Sys2Proof.Machine.execD3hotExit reads s
  | .holdupOk vhold => Sys2Proof.Machine.execHoldupOk vhold s
  | .vbatLow vbat => Sys2Proof.Machine.execVbatLow vbat s
  | .pulseInputEdge k rise us => Sys2Proof.Machine.execPulseInputEdge k rise us s

end Sys2Proof.Machine
end

