-- ==== Sys2Proof/Safety.lean ====
section
/-!
DEFINITION. The terms in which statements speak of a run: what a command answers, what it leaves as it was, when the engine
takes a command from its ring, and what a sound dormer is.
-/
namespace Sys2Proof.Machine

/-! ### What a command answers -/

/-- A command completes at `s` in a state that satisfies `P`. -/
def Answers (c : Instr) (s : State) (P : State → Prop) : Prop := ∃ t : State, exec c s = .next t ∧ P t

/-- The same for a command of the main side: the dormer and the queue stay as they were. -/
def AnswersMain (c : Instr) (s : State) (P : Main → Prop) : Prop :=
  ∃ m : Main, exec c s = .next { s with main := m } ∧ P m

/-- The same for a command of the dormer: the main side and the queue stay as they were. -/
def AnswersDormer (c : Instr) (s : State) (P : Dormer → Prop) : Prop :=
  ∃ d : Dormer, exec c s = .next { s with dmr := d } ∧ P d

/-! ### Frames -/

/-- The parts of the main side beside its registers. -/
inductive Part where
  | fuse | host | log | time | ylm | lanes | ctx | wav | pur | mir | eav | gbl | rdg | red | key | upd | pwr
  deriving DecidableEq, Repr

/-- A part is the same in both. -/
def Part.same (m m' : Main) : Part → Prop
  | .fuse => m'.fuse = m.fuse
  | .host => m'.host = m.host
  | .log => m'.log = m.log
  | .time => m'.time = m.time
  | .ylm => m'.ylm = m.ylm
  | .lanes => m'.lanes = m.lanes
  | .ctx => m'.ctx = m.ctx
  | .wav => m'.wav = m.wav
  | .pur => m'.pur = m.pur
  | .mir => m'.mir = m.mir
  | .eav => m'.eav = m.eav
  | .gbl => m'.gbl = m.gbl
  | .rdg => m'.rdg = m.rdg
  | .red => m'.red = m.red
  | .key => m'.key = m.key
  | .upd => m'.upd = m.upd
  | .pwr => m'.pwr = m.pwr

/-- `m'` is `m` but for registers at the addresses that `regs` allows, the parts listed, new outputs and the counter of free
values: every other register and every other part is unchanged. -/
def Frame (regs : Nat → Prop) (parts : List Part) (m m' : Main) : Prop :=
  (∀ a, ¬ regs a → m'.word a = m.word a) ∧ (∀ p, p ∉ parts → p.same m m') ∧ m.out <:+ m'.out

/-- The registers that an event, a trace, a log record, an upload or a write-back changes beside what causes it: GLB_EVT, those of
the blocks HST, DMA, SOF and SKY, and the pending bits of MSI-X. -/
def reporting (a : Nat) : Prop :=
  a = 0x10 ∨ a = 0x14 ∨ a / 65536 = 2 ∨ a / 65536 = 3 ∨ a / 65536 = 0x12 ∨ a / 65536 = 0x13 ∨ a / 65536 = 0x3F

/-- A frame in which reports may be made as well. -/
def Reports (regs : Nat → Prop) (parts : List Part) (m m' : Main) : Prop :=
  Frame (fun a => regs a ∨ reporting a) (.host :: .log :: parts) m m'

/-- The registers of a block of BAR0. -/
def inBlock (b a : Nat) : Prop := a / 65536 = b

/-- A host access reaches the registers of a block (R347, R548). -/
def hostReaches (b : Nat) (m : Main) : Prop := m.host.d3hot = false ∧ blockOpen b m = true

/-! ### Commands on a ring -/

/-- The engine takes descriptor `d` from CMD ring `r` now, and it is of the row (R355, R360, R378): outside RECOVERY, it is the ring's
turn, which asks that the ring be RUNNING, may move data, has no command under way or waiting, and that its limit makes a descriptor
available; and OWN is set. -/
def takes (row : Desc → Bool) (m : Main) (r : Fin 8) (d : Desc) : Prop :=
  m.mode ≠ 1 ∧ cmdTurn m r = true ∧ d.own = true ∧ row d = true

/-- The descriptor at the ring's position has been read and taken, and the ring is the one last served. -/
def tookOne (m : Main) (r : Nat) : Main :=
  let t := takeOne r (readDesc r (ringPos m r (ringOf m r).taken) m)
  { t with host := { t.host with served := r } }

/-- The state in which a command's checks are made: its descriptor has been taken, and the list of a buffer has been read. -/
def atCheck (k : CmdKind) (m : Main) (r : Fin 8) (d : Desc) : Main :=
  if k.imm then tookOne m r else readList r d (descWalk m d) (tookOne m r)

/-- What the reading of a descriptor's list has found; an immediate has none. -/
def walkOf (k : CmdKind) (m : Main) (d : Desc) : SgWalk :=
  if k.imm then { SgWalk.start with whole := true, bytes := d.length } else descWalk m d

/-- The engine takes `d` from ring `r` now, and `d` passes every check that its opcode makes before it acts (R356), with a list,
where it has one, that ends within DMA_CHAIN_MAX (R372). -/
def accepts (k : CmdKind) (m : Main) (r : Fin 8) (d : Desc) : Prop :=
  takes k.row m r d ∧ cmdCheck k d (walkOf k m d) (atCheck k m r d) = none ∧ (walkOf k m d).looped = false

/-- The posted writes of a write-back to the descriptor at host address `a`, in their order (R365): the data with its completion
pulse, then bytes 24–31 of the descriptor, then its bytes 0–3 with OWN clear. `most` is the longest burst, and `records` counts an upload
buffer's records. -/
def backWrites (most a r : Nat) (d : Desc) (rep : Reply) (records : Nat := 0) : List Output :=
  let wr (c : Nat) (segs : List (Nat × Nat)) (data : List Byte) : List Output :=
    (segBursts most segs data).map fun b => Output.hostWrite c b.1 b.2 Attr.plain
  (if rep.data.isEmpty then [] else wr (channelOf r) (segments d) rep.data ++ [.dmaDone (channelOf r)]) ++
    wr 11 [(a + 24, 8)] (leBytes 4 rep.doneLen ++ leBytes 2 rep.status ++ leBytes 1 rep.detail ++ leBytes 1 records) ++
    wr 11 [(a, 4)] (leBytes 1 (d.flags - d.flags % 2) ++ slice d.raw 1 3) ++ [.dmaDone 11]

/-- The command taken from ring `r` has been written back with a status, a detail, DONE_LEN and returned data, already under SWAP
(R365): its posted writes stand among the outputs, the newest first, with nothing between them. -/
def writtenBack (m : Main) (r : Nat) (d : Desc) (st det doneLen : Nat) (data : List Byte) (m' : Main) : Prop :=
  (backWrites (payloadMost m) (descAddr m r (ringPos m r (ringOf m r).taken)) r d ⟨st, det, doneLen, data⟩).reverse <:+: m'.out

/-- Registers whose write does more than R7, or is turned away by a rule of its own, by the base address of their row. -/
def ownWrites : List Nat :=
  [0x010008, 0x010030, 0x020100, 0x020104, 0x020108, 0x02010C, 0x030000, 0x030100, 0x040004, 0x08000C, 0x090000, 0x090100, 0x0B0000,
   0x0B0100, 0x0B0104, 0x0B0108, 0x0B010C, 0x0B0110, 0x0C0000, 0x0C0004, 0x0C0008, 0x0D0004, 0x0D0010, 0x0D0100, 0x0F0000, 0x0F001C,
   0x0F0024, 0x0F0028, 0x0F0100, 0x100000, 0x100100, 0x110018, 0x111010, 0x120040, 0x13100C, 0x140028, 0x3F000C]

/-- Rings other than `r` stand as they did. -/
def otherRings (m : Main) (r : Nat) (m' : Main) : Prop := ∀ q, q < 32 → q ≠ r → ringOf m' q = ringOf m q

/-! ### The dormer -/

/-- The dormer's stores are canonical and its codes are legal. -/
def Dormer.sound (d : Dormer) : Bool :=
  swf profileDefault d.profile && swf (fun _ => none) d.log && decide (d.sealState ≤ 2) && decide (d.session ≤ 2)

/-- The sums of a step that ends now (R263). -/
def stepSums (x : Meas) (short : Bool) (d : Dormer) : Sums := sumsOf (stepEnter x short d) x (stepSamples x short)

/-- What the dormer measures, counts and sends: nothing of it moves. -/
def Dormer.sameMeter (d' d : Dormer) : Prop :=
  d'.halted = d.halted ∧ d'.meterFault = d.meterFault ∧ d'.ident = d.ident ∧ d'.meas = d.meas ∧ d'.pulse = d.pulse ∧
  d'.stepNo = d.stepNo ∧ d'.stepStored = d.stepStored ∧ d'.seq = d.seq ∧ d'.tag = d.tag ∧ d'.utc = d.utc ∧
  d'.clkInternal = d.clkInternal ∧ d'.load = d.load ∧ d'.totals = d.totals ∧ d'.resid = d.resid ∧ d'.ivl = d.ivl ∧
  d'.bases = d.bases ∧ d'.ivlFlags = d.ivlFlags ∧ d'.profile = d.profile ∧ d'.newest = d.newest ∧ d'.copies = d.copies ∧
  d'.pulses = d.pulses ∧ d'.sent = d.sent

/-- The seal, its counters and the blocks in force or waiting (R307, R308). -/
def Dormer.sameSeal (d' d : Dormer) : Prop :=
  d'.sealState = d.sealState ∧ d'.breaks = d.breaks ∧ d'.sessions = d.sessions ∧ d'.lidOpen = d.lidOpen ∧ d'.apply = d.apply ∧
  d'.prevMeas = d.prevMeas ∧ d'.prevPulse = d.prevPulse

/-- The LEGAL log. -/
def Dormer.sameLog (d' d : Dormer) : Prop :=
  d'.log = d.log ∧ d'.logCount = d.logCount ∧ d'.firstUsed = d.firstUsed ∧ d'.reserveUsed = d.reserveUsed

end Sys2Proof.Machine

namespace Sys2Proof

/-- The commands of the dormer: a step, its pulses, its seal, its supply and its clock. -/
def Instr.ofDormer : Instr → Bool
  | .dormerStepEnd _ | .pulseStart _ _ | .pulseEnd _ | .sealSwitchPress | .witnessContactOpen | .witnessContactClose | .gateTimeout
  | .sealOpen | .sealSetMeas | .sealSetPulse | .sealClose | .sealAbort | .dormerSupplyWarning _ | .dormerHaltRecover
  | .dormerPowerUp _ _ | .dormerClockLoss | .dormerClockReturn => true
  | _ => false

end Sys2Proof
end

