-- ==== Sys2Proof/WellFormed.lean ====
section
/-!
DEFINITION. What an operand must be for the command to be one that the block's inputs can carry: numbers that fit their
field, register, mask or slot, and frames that their formats can hold. `exec` gives every command a meaning, well-formed or
not; the checks name the terms that no bus, land or measurement brings.
-/
namespace Sys2Proof

open Machine

/-- A number that fits `w` bits. -/
def fitsIn (w n : Nat) : Bool := decide (n < 2 ^ w)

/-- Microseconds within a slot of 10 ms (R2). -/
def usOk (us : Nat) : Bool := decide (us < 10000)

/-- Nanoseconds within a second. -/
def nsOk (ns : Nat) : Bool := decide (ns < 1000000000)

/-- The calendar's sub-second count, of 32,768 cycles (R437). -/
def subOk (sub : Nat) : Bool := decide (sub < 32768)

/-- A descriptor is 32 bytes, each entry of its list 16, and its buffer no longer than LENGTH (R350–R352). -/
def Desc.wellFormed (d : Desc) : Bool :=
  d.raw.length == 32 && d.list.all (fun e => e.raw.length == 16) && decide (d.data.length ≤ d.length)

/-- The reads that one command brings are of rings that exist, each with well-formed descriptors. -/
def readsOk (reads : List (Nat × List Desc)) : Bool := reads.all fun p => decide (p.1 < 32) && p.2.all Desc.wellFormed

def StartIn.wellFormed (x : StartIn) : Bool := subOk x.sub && fitsIn 4 x.tamp

/-- A ridge frame's fields fit the header of R386, and its payload has 1 to 1,476 bytes. -/
def RidgeFrame.wellFormed (f : RidgeFrame) : Bool :=
  fitsIn 8 f.ttl && fitsIn 12 f.dst && fitsIn 12 f.src && fitsIn 16 f.boot && fitsIn 32 f.seq &&
    decide (1 ≤ f.payload.length ∧ f.payload.length ≤ 1476)

/-- A frame of 64 to 1,518 bytes, whose last four are the FCS (R384). -/
def EthFrame.wellFormed : EthFrame → Bool
  | .badFcs => true
  | .good octets => decide (60 ≤ octets.length ∧ octets.length ≤ 1514)

def PlanVia.wellFormed : PlanVia → Bool
  | .host _ d => d.wellFormed
  | .pair param imm => fitsIn 32 param && fitsIn 64 imm

def ArmBy.wellFormed : ArmBy → Bool
  | .host _ d report => d.wellFormed && report.all (fitsIn 256)
  | .pair param imm sha => fitsIn 32 param && fitsIn 64 imm && fitsIn 256 sha
  | .confirm sha => fitsIn 256 sha

/-- A received frame's octets, slot and link level (R98, R173). -/
def RxFrame.wellFormed (x : RxFrame) : Bool := decide (x.octets.length ≤ 511) && decide (x.slot / 100 < 2 ^ 48) && fitsIn 8 x.link

/-- A signed code of 24 bits (R259). -/
def codeOk (c : Int) : Bool := decide (-2 ^ 23 ≤ c ∧ c < 2 ^ 23)

/-- A step has at most 88 samples of 20 codes each, and a mark within a course (R259, R261). -/
def Meas.wellFormed (x : Meas) : Bool :=
  decide (x.codes.length ≤ 88) && x.codes.all (fun l => l.length == 20 && l.all codeOk) &&
    x.mark.all fun p => fitsIn 48 p.1 && decide (p.2 < 100)

/-- The fields of a PTP message fit their widths (R452, R455). -/
def PtpMsg.wellFormed : PtpMsg → Bool
  | .announce _ domain _ dataset utcOffset _ _ _ => fitsIn 8 domain && dataset.length == 6 && fitsIn 16 utcOffset
  | .sync _ domain source seq _ _ _ _ | .followUp _ domain source seq _ _ | .delayReq _ domain source seq _ =>
    fitsIn 8 domain && fitsIn 64 source && fitsIn 16 seq
  | .delayResp _ domain source seq _ _ requester => fitsIn 8 domain && fitsIn 64 source && fitsIn 16 seq && fitsIn 64 requester

/-- A word of BAR0 is at an aligned address inside the BAR of 4 MiB (R345). -/
def Machine.RegTarget.wellFormed : RegTarget → Bool
  | .bar0 a v => a % 4 == 0 && decide (a < 0x400000) && fitsIn 32 v
  | .read a => a % 4 == 0 && decide (a < 0x400000)
  | .narrow | .bar2Bad | .msix _ _ | .command _ | .deviceControl _ _ | .config _ => true

/-- What a command's operands must be. -/
def Instr.wellFormed : Instr → Bool
  | .courseBoundary tai loud lines => fitsIn 48 tai && fitsIn 8 loud && fitsIn 48 lines
  | .fillDeadline late => fitsIn 8 late
  | .packetRelease upset _ us => usOk us && upset.all fun p => fitsIn 40 p.2
  | .waveDecisionRx f us | .detectFwdRx f us | .waveHandoffRx f us => f.wellFormed && usOk us
  | .rxFrame _ x => x.wellFormed
  | .dormerStepEnd x | .dormerSupplyWarning x => x.wellFormed
  | .dormerPowerUp xa xb => fitsIn 32 xa && fitsIn 32 xb
  | .ptpMessageRx x => x.wellFormed
  | .completionTimeout _ rd | .hostNoresp _ _ rd | .poison _ rd => rd.all Desc.wellFormed
  | .slotBoundary abs => decide (abs / 100 < 2 ^ 48)
  | .eavTick ntc => decide (ntc.length ≤ 8)
  | .ainConversion x0 x1 => fitsIn 16 x0 && fitsIn 16 x1
  | .ridgeFrameRx _ e => e.wellFormed
  | .tunnel f | .reset f | .imgCall _ f | .imgFetch _ f | .imgPiece _ f _ | .imgDone _ f | .ligger f | .heartbeatRx f | .digestRx f
  | .resyncRx f | .hello _ f => f.wellFormed
  | .fbr sub | .syncStep sub | .commit sub => subOk sub
  | .imageChunkWritten x | .imageActivation x | .tamperInput _ _ x | .meshBreak x | .por x | .bor x _ _ | .watchdogExpiry x
  | .pllUnlockTimeout x | .daylightWake _ x => x.wellFormed
  | .ptpMessageTx _ typ seq sec ns => fitsIn 4 typ && fitsIn 16 seq && fitsIn 48 sec && nsOk ns
  | .doorbell _ v reads => fitsIn 32 v && reads.all Desc.wellFormed
  | .descriptorRetry _ reads | .ringEnable _ reads | .ringRearm _ reads => reads.all Desc.wellFormed
  | .dmaResume _ reads | .ready reads | .d3hotExit reads => readsOk reads
  | .nop _ d | .badOpcode _ d | .planWrite _ d | .planWriteAbort _ d | .override _ d | .ctxRead _ d | .purSetpoint _ d
  | .dmrSession _ d | .gblLegend _ d | .fabSend _ d | .keyOwnerInstall _ d | .keyLoad _ d | .keyAck _ d
  | .keyBump _ d | .keyBumpRoot _ d | .attest _ d | .imageWrite _ d _ | .imageWriteAbort _ d | .imageActivate _ d
  | .imageChain _ d | .limgWrite _ d | .limgStart _ d | .limgStop _ d | .redSwap _ d => d.wellFormed
  | .keyZeroise _ d x => d.wellFormed && x.wellFormed
  | .planArm by' => by'.wellFormed
  | .planDisarm via | .planAccept via | .planRollback via | .redResync via => via.wellFormed
  | .almCfgWrite _ v | .rtcWakeWrite v | .countdownRun v | .gblGeomWrite v | .gblShowWrite v | .replayStart v | .ship v
  | .go v => fitsIn 32 v
  | .cmsEnd v x => fitsIn 32 v && x.wellFormed
  | .registerWrite t reads x => t.wellFormed && readsOk reads && x.wellFormed
  | .bucketRefill code => fitsIn 16 code
  | .trimWindowEnd sub _ => subOk sub
  | .slotFetch | .bindCutoff | .laneRetune _ _ | .cellStart _ | .txFrameDone _ _ | .overrideExpiry
  | .lanternSilent _ | .epochSwitch | .armLoadComplete | .armLate | .pairMismatch | .probationWindowEnd _ | .rollbackBoundary
  | .planLoadComplete | .listenEnd | .eavFault _ _ _ | .eavShortProbe _ _ | .lineShort _ | .purlinSample _ | .heartbeatTx
  | .roleChange | .partnerLost | .startRoleTimeout | .digestTx | .digestMissing
  | .resyncSnapshot | .resyncApply _ | .swapAnnounce | .revertHoldoff | .swapWithdraw | .swapBoundary | .portEgress _
  | .portLinkChange _ _ _ _ | .helloTx _ | .helloTimeout _ | .liggerBoundary | .liggerResume _
  | .imgFetchRetry _ | .imgChainTimeout _ | .recoveryTimeout | .announceTimeout | .ttoEdge _
  | .ttoWidthEnd _ | .calendarSecond | .periodicWake | .gableLinePeriod _ | .uartFrame _ _ | .countdownTick | .aonSupplyLoss
  | .sealOpen | .sealSetMeas | .sealSetPulse | .sealClose | .sealAbort | .pulseStart _ _ | .pulseEnd _ | .snapshotRx _ | .infoRx _ | .intervalRx _ | .profileRx _
  | .stateRx _ | .dmrLinkTimeout | .sealSwitchPress | .witnessContactOpen | .gateTimeout
  | .dormerHaltRecover | .dormerClockLoss | .dormerClockReturn | .uplFlush _ | .holdoffExpiry _
  | .ringDisable _ | .pause _ | .pauseAll | .msixUnmask _
  | .flr | .pfr | .d3hotEntry | .keyOpDone | .force | .ptpTsqRead | .dmrTotRead | .release _ | .rearm | .gammaDefault
  | .run _ | .latencyClear | .replayRecord | .skyCntClear _ | .skyPacket | .privBufferMove | .vinWarning _ | .holdEntry _ _
  | .flushDone | .pllUnlock | .pllRelock _ | .islandEntry _ | .islandExit _ | .daylightEntry | .holdupTimeout
  | .fieldOvervoltage _ | .overvoltageClear _ | .laneThermal _ _ | .witnessContactClose | .tamperSourceClear _ | .holdupOk _
  | .vbatLow _ | .pulseInputEdge _ _ _ => true

end Sys2Proof
end

