-- ==== Sys2Proof/Certificates/Slice0/Obligations.lean ====
section
/-!
DEFINITION. The statements for the provers, by family of commands.
-/

open Sys2Proof Sys2Proof.Machine

/-- A step is the effect of the command in front, on the machine with the queue's rest; the empty queue idles (log entry 2). -/
def Obligations.StepRunsFront : Prop :=
  (∀ (c : Instr) (s : State), step (s.push c) = exec c s) ∧ ∀ s : State, s.pending = [] → step s = .next s

/-- R274, R310, R315: the two sides meet only through the frames and the bytes that commands carry. -/
def Obligations.MainLeavesDormer : Prop :=
  ∀ (c : Instr) (s : State), Answers c s fun t =>
    t.pending = s.pending ∧
    (if c.ofDormer then
      (t.main = s.main ∨ ((c = .sealOpen ∨ c = .sealSetMeas ∨ c = .sealSetPulse ∨ c = .sealClose ∨ c = .sealAbort) ∧
        ∃ b rest, s.main.mir.link = b :: rest ∧ t.main = { s.main with mir := { s.main.mir with link := rest } }))
     else t.dmr = s.dmr)

/-- R26, R27, R46, R49: COURSE_BOUNDARY. -/
def Obligations.CourseBegins : Prop :=
  ∀ (s : State) (tai loud lines : Nat),
    (awake s.main = false → AnswersMain (.courseBoundary tai loud lines) s fun m => m = s.main) ∧
    (awake s.main = true → AnswersMain (.courseBoundary tai loud lines) s fun m =>
      m.slotNow = 100 * tai ∧ m.get F.YLM_COURSE_POSITION = tai % 3600 ∧ m.get F.YLM_COURSE_SLOT = 0 ∧
      (∀ b, runImg s.main = some b → m.get F.YLM_COURSE_TEMPLATE = templateAt b (tai % 3600) % 64) ∧
      (s.main.ylm.underrun = true → s.main.bit F.YLM_CTRL_EVT26_EN = true → pends m 26 = true) ∧ m.ylm.underrun = false ∧
      Reports (fun a => a = F.PWR_MODE_DAY_BLOCK.addr 0 ∨ inBlock 4 a ∨ inBlock 5 a ∨ inBlock 6 a ∨ inBlock 9 a ∨ inBlock 0x0C a ∨
        inBlock 0x0F a ∨ inBlock 0x10 a) [.time, .ylm, .lanes, .ctx, .wav, .pur, .eav, .gbl, .red, .pwr] s.main m)

/-- R29, R39, R41, R562: SLOT_FETCH. -/
def Obligations.FetchReadsTheNextSlot : Prop :=
  ∀ s : State,
    let abs := s.main.slotNow + 1
    (runImg s.main = none ∨ cellsRun s.main = false → AnswersMain .slotFetch s fun m =>
      (∀ l : Fin 8, m.ylm.next[l] = none) ∧ Reports (fun _ => False) [.ylm] s.main m) ∧
    (∀ b, runImg s.main = some b → cellsRun s.main = true →
      (abs % 100 = 0 → switchDue s.main (abs / 100) = false ∧ rollbackDue s.main = false) →
      AnswersMain .slotFetch s fun m =>
        (∀ l : Fin 8,
          let w := wordAt b abs l
          if CellW.action w = 10 then m.ylm.next[l] = none
          else if isTx w = false then m.ylm.next[l] = some ⟨w, abs, false, none, [], false, false⟩
          else if s.main.exec = Ex.running then
            ∃ f es, m.ylm.next[l] = some ⟨w, abs, CellW.seat w != s.main.get F.RED_STATUS_SEAT, f, es, false, false⟩
          else if CellW.seat w = s.main.get F.RED_STATUS_SEAT then m.ylm.next[l] = none
          else m.ylm.next[l] = some ⟨w, abs, true, none, [], false, false⟩) ∧
        m.ylm.cells = s.main.ylm.cells ∧ m.ylm.slot = s.main.ylm.slot ∧ m.ylm.deferred = false ∧
        Reports (fun a => inBlock 6 a ∨ inBlock 8 a ∨ inBlock 9 a) [.ylm, .ctx, .wav, .upd] s.main m)

/-- R43–R45: FILL_DEADLINE and BIND_CUTOFF. -/
def Obligations.DeadlinesCountCells : Prop :=
  ∀ s : State,
    (runImg s.main = none → (∀ late : Nat, exec (.fillDeadline late) s = .next s) ∧ exec .bindCutoff s = .next s) ∧
    ∀ b : Img, runImg s.main = some b →
    let up (v n : Nat) := (v + n) % 2 ^ 32
    let silent := s.main.bit F.RED_STATUS_MUTED = true ∨ s.main.key.work[0] = none
    let counted (m : Main) (l : Fin 8) (un ov nu : Nat) : Prop :=
      m.get F.YLM_UNDERRUNS l = up (s.main.get F.YLM_UNDERRUNS l) un ∧ m.get F.YLM_OVERLENGTH l = up (s.main.get F.YLM_OVERLENGTH l) ov ∧
      m.get F.YLM_UNUSED l = up (s.main.get F.YLM_UNUSED l) nu ∧ (0 < un → m.bit F.YLM_ERR_UNDERRUN = true ∧ m.ylm.underrun = true)
    let idled (m : Main) (l : Fin 8) (c : Cell) (un ov nu : Nat) : Prop :=
      m.ylm.next[l] = some { c with idle := true } ∧ counted m l un ov nu
    (∀ late : Nat, ∃ m : Main, exec (.fillDeadline late) s = .next { s with main := m } ∧
      Reports (inBlock 4) [.ylm] s.main m ∧
      ∀ l : Fin 8,
        (∀ c, ownCell s.main l = some c → CellW.action c.word ≠ 8 →
          let content := CellW.action c.word = 1 ∨ CellW.action c.word = 4
          (silent → idled m l c 0 0 1) ∧
          (¬ silent → ∀ f, c.frame = some f →
            if content ∧ bitOf late l = true then idled m l c 1 0 0
            else if fits b l c.word f = false then idled m l c 1 1 0
            else m.ylm.next[l] = some c ∧ counted m l 0 0 0) ∧
          (¬ silent → c.frame = none →
            if content ∧ (sourceCell b c.start l c.word).isSome then idled m l c 1 0 0 else idled m l c 0 0 1)) ∧
        ((ownCell s.main l = none ∨ ∃ c, ownCell s.main l = some c ∧ CellW.action c.word = 8) →
          m.ylm.next[l] = s.main.ylm.next[l] ∧ counted m l 0 0 0)) ∧
    ∃ m : Main, exec .bindCutoff s = .next { s with main := m } ∧
      Reports (inBlock 4) [.ylm] s.main m ∧
      ∀ l : Fin 8,
        (∀ c, ownCell s.main l = some c → CellW.action c.word = 8 →
          match sourceCell b c.start l c.word with
          | none => idled m l c 0 0 1
          | some a =>
            if boundLate s.main a l = true then idled m l c 0 0 0
            else if silent then idled m l c 0 0 1
            else match frameOf s.main a l with
              | none => idled m l c 0 0 1
              | some f => if fits b l c.word f = true then m.ylm.next[l] = some { c with frame := some f } ∧ counted m l 0 0 0
                  else m.ylm.next[l] = some { c with frame := some f, idle := true } ∧ counted m l 1 1 0) ∧
        ((ownCell s.main l = none ∨ ∃ c, ownCell s.main l = some c ∧ CellW.action c.word ≠ 8) →
          m.ylm.next[l] = s.main.ylm.next[l] ∧ counted m l 0 0 0)

/-- R39, R41, R97, R99: CELL_START. -/
def Obligations.CellsBeginAsFetched : Prop :=
  ∀ (s : State) (l : Fin 8),
    let up (v : Nat) := (v + 1) % 2 ^ 32
    let begun (c : Cell) : Main := { s.main with ylm := { s.main.ylm with
      next := s.main.ylm.next.set l none, cells := s.main.ylm.cells.set l (some c) } }
    ((s.main.ylm.next[l] = none ∨ ∃ c, s.main.ylm.next[l] = some c ∧ c.start ≠ s.main.slotNow) →
      AnswersMain (.cellStart l) s fun m => m = s.main) ∧
    (∀ (c : Cell) (b : Img), s.main.ylm.next[l] = some c → c.start = s.main.slotNow → runImg s.main = some b →
      AnswersMain (.cellStart l) s fun m =>
        m.ylm.next[l] = none ∧ (∃ k, m.ylm.cells[l] = some k ∧ k.word = c.word ∧ k.start = c.start ∧ k.shadow = c.shadow) ∧
        (∀ k : Fin 8, k ≠ l → m.ylm.cells[k] = s.main.ylm.cells[k] ∧ m.ylm.next[k] = s.main.ylm.next[k] ∧
          (laneState m k = laneState s.main k ∨ (l < k ∧ k.val < 4 ∧ laneState s.main k = 3 ∧ laneState m k = 1))) ∧
        (lanesOn s.main = true → (laneOf s.main l).skip = false →
          (isTx c.word = true → c.shadow = false → c.idle = true →
            laneState m l = 1 ∧ m.get F.YLM_TX_CELLS l = s.main.get F.YLM_TX_CELLS l ∧ Output.laneIdle l c.start ∈ m.out) ∧
          (∀ f, isTx c.word = true → c.shadow = false → c.idle = false → c.frame = some f → s.main.bit F.RED_STATUS_MUTED = false →
            let e := chanAt b l (CellW.chan c.word)
            collides (begun c) b l c (airtime e (psduLen l (16 + f.body.length))) = false →
            (txPlan (begun c) b e l (!(laneOf s.main l).txSeen)).isSome →
            laneState m l = 3 ∧ m.get F.YLM_TX_CELLS l = up (s.main.get F.YLM_TX_CELLS l) ∧
            Output.laneTx l c.start (CellW.chan c.word) ({ f with copy := CellW.seat c.word } : TlpFrame).octets ∈ m.out) ∧
          (isRx c.word = true → c.shadow = false → laneState m l = 4) ∧
          (c.shadow = true → laneState m l = 5)) ∧
        (∀ f, cellsRun s.main = true → s.main.mode = Md.hold → isTx c.word = true → c.shadow = false → c.idle = false → c.frame = some f →
          m.get F.HOLD_SKIPPED = up (s.main.get F.HOLD_SKIPPED) ∧ laneState m l = laneState s.main l ∧ Output.laneIdle l c.start ∈ m.out) ∧
        Reports (fun a => a = F.HOLD_SKIPPED.addr 0 ∨ inBlock 4 a ∨ inBlock 5 a ∨ inBlock 6 a ∨ inBlock 8 a) [.ylm, .lanes, .ctx, .wav] s.main m)

/-- R39, R41, R165, R202: SLOT_BOUNDARY. -/
def Obligations.SlotBoundaryEndsCells : Prop :=
  ∀ (s : State) (abs : Nat),
    (awake s.main = false → AnswersMain (.slotBoundary abs) s fun m => m = s.main) ∧
    (awake s.main = true → AnswersMain (.slotBoundary abs) s fun m =>
      m.slotNow = abs ∧ m.get F.YLM_COURSE_SLOT = abs % 100 ∧
      (∀ (l : Fin 8) (c : Cell), s.main.ylm.cells[l] = some c →
        if abs < c.start + CellW.len c.word then
          m.ylm.cells[l] = some c ∧ m.get F.YLM_SHADOW_MISSED l = s.main.get F.YLM_SHADOW_MISSED l
        else m.ylm.cells[l] = none ∧ m.get F.YLM_SHADOW_MISSED l =
          (s.main.get F.YLM_SHADOW_MISSED l + if c.shadow ∧ partnerFrame s.main l c = true ∧ c.heard = false ∧ c.idle = false then 1 else 0) % 2 ^ 32) ∧
      m.bit F.RED_STATUS_MUTED = (s.main.red.mutePend || (s.main.bit F.RED_STATUS_MUTED && !s.main.red.clearPend)) ∧
      (s.main.ylm.deferred = false →
        (∀ w : Fin 256, s.main.wav.ctxs[w].state = 3 → s.main.wav.ctxs[w].endSlot ≤ abs → m.wav.ctxs[w] = WaveCtx.free) ∧
        (Ex.listen ≤ s.main.exec → (∀ x ∈ s.main.ctx.inputs, abs < x.slot) →
          m.ctx.ctx = smap (fun _ => Ctx.blank) (fun i c => if c.live then
            slotStep abs ((s.main.ctx.baseCmds.filter fun e => decide (e.at' ≤ abs)).filter fun e => e.lantern == i)
              ((s.main.wav.store.filter fun e => decide (e.1.at' ≤ abs)).filter fun e => e.1.lantern == i) c else c) s.main.ctx.ctx)) ∧
      Reports (fun a => inBlock 4 a ∨ inBlock 5 a ∨ inBlock 6 a ∨ inBlock 7 a ∨ inBlock 8 a ∨ inBlock 9 a ∨ inBlock 0x0E a ∨ inBlock 0x10 a)
        [.time, .ylm, .ctx, .wav, .pur, .red, .upd] s.main m)

/-- R99, R101–R107: LANE_RETUNE, TX_FRAME_DONE and LANE_THERMAL. -/
def Obligations.LaneFaultsFollowTheFrames : Prop :=
  ∀ (s : State) (l : Fin 8),
    let skipped (m : Main) : Nat := if l.val < 4 then m.get F.TLR_FAULT_SKIPPED l else m.get F.TLP_FAULT_SKIPPED (l - 4)
    let latched (m : Main) (k : Nat) : Bool := if l.val < 4 then m.bit F.TLR_FAULT_FAULT_LATCH l k else m.bit F.TLP_FAULT_FAULT_LATCH (l - 4) k
    let evtOn : Bool := if l.val < 4 then s.main.bit F.TLR_CTRL_EVT_EN else s.main.bit F.TLP_LANE_CTRL_EVT_EN
    let own (a : Nat) : Prop := (l.val < 4 ∧ 0x050100 + 64 * l ≤ a ∧ a < 0x050140 + 64 * l) ∨
      (4 ≤ l.val ∧ 0x060100 + 64 * (l - 4) ≤ a ∧ a < 0x060140 + 64 * (l - 4))
    let framed (m : Main) : Prop := Reports own [.lanes] s.main m ∧ ∀ k : Fin 8, k ≠ l → m.lanes[k] = s.main.lanes[k]
    let risen (m : Main) (k : Nat) : Prop := laneFault m l k = true ∧
      (laneFault s.main l k = false → latched m k = true ∧ (evtOn = true → pends m (if l.val < 4 then 29 else 30) = true))
    (∀ locked : Bool,
      (s.main.ylm.next[l] = none → AnswersMain (.laneRetune l locked) s fun m => m = s.main) ∧
      (s.main.ylm.next[l].isSome → lanesOn s.main = true → AnswersMain (.laneRetune l locked) s fun m =>
        framed m ∧ laneState m l = 2 ∧
        (l.val < 4 → locked = false → risen m 0 ∧ m.lanes[l].skip = true ∧ skipped m = (skipped s.main + 1) % 2 ^ 32) ∧
        (l.val < 4 → locked = true → laneFault m l 0 = false ∧ m.lanes[l].skip = false ∧ skipped m = skipped s.main))) ∧
    (∀ x : TxMeas, laneState s.main l ≠ 3 → AnswersMain (.txFrameDone l x) s fun m => m = s.main) ∧
    (∀ (fwd : Int) (rloss : Nat) (short : Bool), l.val < 4 → laneState s.main l = 3 → AnswersMain (.txFrameDone l (.radio fwd rloss short)) s fun m =>
      framed m ∧ laneState m l = 1 ∧ m.get F.TLR_RFMEAS_FWD l = min fwd.toNat 255 ∧ m.get F.TLR_RFMEAS_RLOSS l = min rloss 255 ∧
      m.get F.TLR_RFMEAS_CLASS l = (if rloss < 4 then (if short then 3 else 2) else if rloss < 24 then 1 else 0) ∧
      (∀ ant : Fin 2, s.main.get F.TLR_LANE_STATUS_ANT_TX l = ant →
        (24 ≤ rloss → m.lanes[l].notOk[ant] = 0) ∧
        (rloss < 24 → m.lanes[l].notOk[ant] = s.main.lanes[l].notOk[ant] + 1 ∧ m.lanes[l].reduced[ant] = true ∧
          m.bit F.TLR_LANE_STATUS_TX_REDUCED l = true ∧
          (2 ≤ s.main.lanes[l].notOk[ant] → risen m (if rloss < 4 then (if short then 2 else 1) else 3)))) ∧
      (s.main.lanes[l].wasProbe = true → 40 ≤ rloss → 2 ≤ s.main.lanes[l].goodProbes → ∀ k, 1 ≤ k → k ≤ 3 → laneFault m l k = false) ∧
      (24 ≤ rloss → if fwd + 6 < s.main.lanes[l].setPower then 2 ≤ s.main.lanes[l].lowRun → risen m 4 else laneFault m l 4 = false)) ∧
    (∀ peak pct anyLimit, 4 ≤ l.val → laneState s.main l = 3 → AnswersMain (.txFrameDone l (.line peak pct anyLimit)) s fun m =>
      framed m ∧ laneState m l = 1 ∧ m.get F.TLP_DRVMEAS_PEAK_MA (l - 4) = min peak 65535 ∧ m.get F.TLP_DRVMEAS_LIMIT_PCT (l - 4) = min pct 255 ∧
      (s.main.lanes[l].wasProbe = false → 20 < pct → 2 ≤ s.main.lanes[l].limitRun → risen m 0) ∧
      (s.main.lanes[l].wasProbe = true → anyLimit = false → pct ≤ 20 → 2 ≤ s.main.lanes[l].goodProbes → laneFault m l 0 = false) ∧
      (peak < 20 → 2 ≤ s.main.lanes[l].lowRun → risen m 1) ∧ (20 ≤ peak → laneFault m l 1 = false)) ∧
    (∀ t : Int, AnswersMain (.laneThermal l t) s fun m =>
      framed m ∧ (t < 115 → laneFault m l (if l.val < 4 then 6 else 2) = false) ∧
      (125 < t → risen m (if l.val < 4 then 6 else 2)) ∧ (4 ≤ l.val → 140 < t → m.lanes[l].thermal = 2))

/-- R98, R172–R174: RX_FRAME. -/
def Obligations.ReceivedFramesReachTheGutter : Prop :=
  ∀ (s : State) (l : Fin 8) (x : RxFrame),
    (runImg s.main = none ∨ lanesOn s.main = false → AnswersMain (.rxFrame l x) s fun m => m = s.main) ∧
    ∀ b, runImg s.main = some b → lanesOn s.main = true →
      let c := cellAt b x.slot l
      let shadow := isTx c.2 = true ∧ CellW.seat c.2 ≠ s.main.get F.RED_STATUS_SEAT
      let up (v : Nat) := (v + 1) % 2 ^ 32
      let g := s.main.ctx.gutters[l]
      let words := packetStages (decide (4 ≤ l.val)) x.octets (x.slot % 100) (x.slot / 100) x.link
      (¬ (isRx c.2 = true ∨ shadow) → AnswersMain (.rxFrame l x) s fun m => m = s.main) ∧
      ((isRx c.2 = true ∨ shadow) → (∀ k, s.main.ylm.cells[l] = some k → k.start = c.1 → k.idle = false) →
        AnswersMain (.rxFrame l x) s fun m =>
          Reports (fun a => inBlock 4 a ∨ inBlock 5 a ∨ inBlock 6 a ∨ inBlock 7 a) [.ylm, .lanes, .ctx] s.main m ∧
          (∀ k : Fin 8, k ≠ l → m.ctx.gutters[k] = s.main.ctx.gutters[k]) ∧
          (if x.pastEnd = true ∧ goesOn b l c = false then
            m.ctx = s.main.ctx ∧ (l.val < 4 → m.get F.TLR_RX_TRUNCATED l = up (s.main.get F.TLR_RX_TRUNCATED l)) ∧
            (4 ≤ l.val → m.get F.TLP_RX_TRUNCATED (l - 4) = up (s.main.get F.TLP_RX_TRUNCATED (l - 4)))
          else if x.good = false then
            m.ctx = s.main.ctx ∧ (l.val < 4 → m.get F.TLR_RX_FCS_FAIL l = up (s.main.get F.TLR_RX_FCS_FAIL l)) ∧
            (4 ≤ l.val → m.get F.TLP_RX_RS_FAIL (l - 4) = up (s.main.get F.TLP_RX_RS_FAIL (l - 4)))
          else m.get F.YLM_RX_FRAMES l = up (s.main.get F.YLM_RX_FRAMES l) ∧
            (l.val < 4 → m.bit F.TLR_LANE_STATUS_DIV_RX l =
              ((chanAt b l (CellW.chan c.2)).rxDiv && x.div && !(laneOf s.main (partnerLane l)).sentIn x.slot)) ∧
            (if g.stages.length + packetWords x.octets.length ≤ 128 then
              m.ctx.gutters[l] = { g with stages := g.stages ++ words } ∧
              m.get F.GUT_PACKETS_IN l = up (s.main.get F.GUT_PACKETS_IN l)
             else m.ctx.gutters[l] = s.main.ctx.gutters[l] ∧ m.get F.GUT_OVERFLOW l = up (s.main.get F.GUT_OVERFLOW l))))

/-- R35, R60, R356: PLAN_WRITE and PLAN_WRITE_ABORT. -/
def Obligations.PlanWriteFillsABank : Prop :=
  ∀ (s : State) (r : Fin 8) (d : Desc),
    let b := d.param % 2
    let framed (m : Main) : Prop := Reports (inBlock 4) [.ylm] s.main m ∧
      bankState m (1 - b) = bankState s.main (1 - b) ∧ bankOf m (1 - b) = bankOf s.main (1 - b) ∧ m.ylm.run = s.main.ylm.run
    (accepts ⟨planWriteRow true, d.length == 0, fun d => d.length == 0, 0xF, 0, gates [rollbackGate, planWriteGate d]⟩ s.main r d →
      (AnswersMain (.planWriteAbort r d) s fun m =>
        framed m ∧ bankState m b = Bk.empty ∧ bankOf m b = Bank.empty ∧ writtenBack s.main r d St.ok 0 0 [] m) ∧
      AnswersMain (.planWrite r d) s (· = s.main)) ∧
    (accepts ⟨planWriteRow false, false, fun d => 4 ≤ d.length && d.length ≤ 1048576, 0xF, 0, gates [rollbackGate, planWriteGate d]⟩ s.main r d →
      AnswersMain (.planWrite r d) s fun m =>
      let k := if bitOf d.param 1 then Bank.empty else bankOf s.main b
      let data := swapData d.swap (d.data.take d.length)
      let n := k.written + data.length
      let img := appendImg k.img k.written data
      let whole : Bank := ⟨img, n⟩
      framed m ∧
      (if 16777216 < n ∨ (44 ≤ n ∧ Hdr.total img < n) then
        bankState m b = Bk.refused ∧ m.get F.YLM_BANK_STATE_REFUSE_CODE b = 2 ∧ writtenBack s.main r d St.refused 2 d.length [] m
       else if bitOf d.param 2 = false then
        bankState m b = Bk.writing ∧ bankOf m b = whole ∧ writtenBack s.main r d St.ok 0 d.length [] m
       else if refusalCode s.main whole = 0 then
        bankState m b = Bk.verified ∧ bankOf m b = whole ∧ m.get F.YLM_BANK_STATE_EPOCH b = Hdr.epoch img ∧
        writtenBack s.main r d St.ok 0 d.length [] m
       else bankState m b = Bk.refused ∧ m.get F.YLM_BANK_STATE_REFUSE_CODE b = refusalCode s.main whole ∧
        writtenBack s.main r d St.refused (refusalCode s.main whole) d.length [] m))

/-- R60, R61, R63, R65: PLAN_ARM. -/
def Obligations.PlanArmIsChecked : Prop :=
  ∀ s : State,
    let ok (b instant : Nat) : Prop :=
      bankState s.main b = Bk.verified ∧ s.main.slotNow + 1000 ≤ 100 * instant ∧ Hdr.validFrom (bankOf s.main b).img ≤ instant ∧
      (s.main.ylm.run.isSome → bankEpoch s.main b ≠ s.main.get F.YLM_STATUS_RUN_EPOCH) ∧
      (∀ k : Fin 2, bankState s.main k ≠ Bk.probation) ∧ bankState s.main (1 - b) ≠ Bk.armed
    let armed (m : Main) (b instant : Nat) : Prop :=
      bankState m b = Bk.armed ∧ switchAt m = instant ∧ m.ylm.idle = some (bankFin b, false) ∧
      bankState m (1 - b) = bankState s.main (1 - b) ∧ m.ylm.banks = s.main.ylm.banks ∧ m.ylm.run = s.main.ylm.run ∧
      m.ctx.push = some (0, 0) ∧ Reports (inBlock 4) [.ylm, .ctx] s.main m
    (∀ (r : Fin 8) (d : Desc) (report : Option Nat), accepts ⟨isOp 0x0102, true, fun d => d.length == 0, 1, 2 ^ 48 - 1, planGate⟩ s.main r d →
      let b := d.param % 2
      let instant := d.addr % 2 ^ 64
      let told := s.main.bit F.RED_STATUS_PAIRED = true → s.main.exec ≠ Ex.noPlan → report = some (bankSha s.main b)
      (ok b instant → told → AnswersMain (.planArm (.host r d report)) s fun m =>
        armed m b instant ∧ m.ylm.pairConf = false ∧ writtenBack s.main r d St.ok 0 0 [] m) ∧
      (¬ (ok b instant ∧ told) → AnswersMain (.planArm (.host r d report)) s fun m =>
        (∃ det, 0 < det ∧ writtenBack s.main r d St.refused det 0 [] m) ∧ Reports (fun _ => False) [] s.main m)) ∧
    (∀ param imm sha : Nat,
      let may := s.main.ylm.rollback = none ∧ ok (param % 2) (imm % 2 ^ 48) ∧ sha = bankSha s.main (param % 2)
      (may → AnswersMain (.planArm (.pair param imm sha)) s fun m => armed m (param % 2) (imm % 2 ^ 48) ∧ m.ylm.pairConf = true) ∧
      (¬ may → AnswersMain (.planArm (.pair param imm sha)) s fun m => m = s.main)) ∧
    ∀ sha : Nat,
      let same := ∃ b, bankIn s.main Bk.armed = some b ∧ sha = bankSha s.main b
      (same → AnswersMain (.planArm (.confirm sha)) s fun m => m = { s.main with ylm := { s.main.ylm with pairConf := true } }) ∧
      (¬ same → AnswersMain (.planArm (.confirm sha)) s fun m => m = s.main)

/-- R60, R72, R73, R593: PLAN_DISARM, PLAN_ACCEPT, PLAN_ROLLBACK, and every plan command while a rollback is pending. -/
def Obligations.PlanCommandsMoveTheBanks : Prop :=
  ∀ (s : State) (r : Fin 8) (d : Desc),
    let still (m : Main) : Prop := Reports (fun _ => False) [] s.main m
    (accepts (.plain 0x0103 1 planGate) s.main r d →
      (bankState s.main (d.param % 2) = Bk.armed → AnswersMain (.planDisarm (.host r d)) s fun m =>
        bankState m (d.param % 2) = Bk.verified ∧ bankState m (1 - d.param % 2) = bankState s.main (1 - d.param % 2) ∧
        m.ylm.idle = none ∧ writtenBack s.main r d St.ok 0 0 [] m ∧ Reports (inBlock 4) [.ylm, .ctx] s.main m) ∧
      (bankState s.main (d.param % 2) ≠ Bk.armed → AnswersMain (.planDisarm (.host r d)) s fun m =>
        still m ∧ writtenBack s.main r d St.bankBusy 0 0 [] m)) ∧
    (accepts (.plain 0x0104 0 planGate) s.main r d →
      (∀ b, bankIn s.main Bk.probation = some b → AnswersMain (.planAccept (.host r d)) s fun m =>
        bankState m b = Bk.running ∧ bankState m (1 - b) = bankState s.main (1 - b) ∧ m.get F.YLM_PROBATION_REMAIN = 0 ∧
        writtenBack s.main r d St.ok 0 0 [] m ∧ Reports (inBlock 4) [] s.main m) ∧
      (bankIn s.main Bk.probation = none → AnswersMain (.planAccept (.host r d)) s fun m =>
        still m ∧ writtenBack s.main r d St.bankBusy 0 0 [] m)) ∧
    (accepts (.plain 0x0105 0 planGate) s.main r d →
      (∀ p, bankIn s.main Bk.previous = some p → s.main.ylm.run.isSome → AnswersMain (.planRollback (.host r d)) s fun m =>
        m.ylm = { s.main.ylm with rollback := some (if s.main.ylm.idle = some (bankFin p, true) then 2 else 6, true) } ∧
        pends m 25 = true ∧ writtenBack s.main r d St.ok 0 0 [] m ∧ Reports (fun _ => False) [.ylm] s.main m) ∧
      (bankIn s.main Bk.previous = none → AnswersMain (.planRollback (.host r d)) s fun m =>
        still m ∧ writtenBack s.main r d St.refused 5 0 [] m)) ∧
    (s.main.ylm.rollback.isSome → ∀ (c : Instr) (kind : CmdKind) (role : Bool),
      (c = .planWrite r d ∧ role = false ∧
        kind = ⟨planWriteRow false, false, fun d => 4 ≤ d.length && d.length ≤ 1048576, 0xF, 0, openGate⟩) ∨
      (c = .planWriteAbort r d ∧ kind = ⟨planWriteRow true, d.length == 0, fun d => d.length == 0, 0xF, 0, openGate⟩ ∧ role = false) ∨
      ((∃ rep, c = .planArm (.host r d rep)) ∧ kind = ⟨isOp 0x0102, true, fun d => d.length == 0, 1, 2 ^ 48 - 1, openGate⟩ ∧ role = true) ∨
      (c = .planDisarm (.host r d) ∧ kind = .plain 0x0103 1 openGate ∧ role = true) ∨
      (c = .planAccept (.host r d) ∧ kind = .plain 0x0104 0 openGate ∧ role = true) ∨
      (c = .planRollback (.host r d) ∧ kind = .plain 0x0105 0 openGate ∧ role = true) →
      (role = true → activeGate s.main = none) → takes kind.row s.main r d →
      cmdCheck kind d (walkOf kind s.main d) (atCheck kind s.main r d) = none →
      AnswersMain c s fun m => still m ∧ writtenBack s.main r d St.bankBusy 0 0 [] m)

/-- R63, R65, R69, R71, R73, R593: ARM_LOAD_COMPLETE, ARM_LATE, PAIR_MISMATCH and PROBATION_WINDOW_END. -/
def Obligations.ArmDeadlinesAndProbation : Prop :=
  ∀ s : State,
    let returned (m : Main) (b : Nat) (f : Field) : Prop :=
      bankState m b = Bk.verified ∧ bankState m (1 - b) = bankState s.main (1 - b) ∧ m.bit f = true ∧ m.ylm.idle = none ∧
      m.ylm.banks = s.main.ylm.banks ∧ Frame (inBlock 4) [.ylm, .ctx] s.main m
    (∀ b : Fin 2, s.main.ylm.idle = some (b, false) → bankState s.main b = Bk.armed → AnswersMain .armLoadComplete s fun m =>
      m = { s.main with ylm := { s.main.ylm with idle := some (b, true) } }) ∧
    ((∀ b : Fin 2, s.main.ylm.idle = some (b, false) → bankState s.main b ≠ Bk.armed) → AnswersMain .armLoadComplete s fun m => m = s.main) ∧
    (bankIn s.main Bk.armed = none → AnswersMain .armLate s (fun m => m = s.main) ∧ AnswersMain .pairMismatch s fun m => m = s.main) ∧
    (∀ b, bankIn s.main Bk.armed = some b →
      (if s.main.ylm.idle ≠ some (bankFin b, true) ∧ 100 * switchAt s.main ≤ s.main.slotNow + 100
       then AnswersMain .armLate s fun m => returned m b F.YLM_ERR_ARM_LATE
       else AnswersMain .armLate s fun m => m = s.main) ∧
      (if s.main.bit F.RED_STATUS_PAIRED = true ∧ s.main.ylm.armNoPlan = false ∧ 100 * switchAt s.main ≤ s.main.slotNow + 200 ∧
          (standby s.main = true ∨ s.main.ylm.pairConf = false)
       then AnswersMain .pairMismatch s fun m => returned m b F.YLM_ERR_PAIR_MISMATCH
       else AnswersMain .pairMismatch s fun m => m = s.main)) ∧
    (∀ told : Option Nat,
      ((s.main.ylm.rollback.isSome ∨ ∀ b, s.main.ylm.run = some b → bankState s.main b ≠ Bk.probation) →
        AnswersMain (.probationWindowEnd told) s fun m => m = s.main) ∧
      (∀ b : Fin 2, s.main.ylm.run = some b → bankState s.main b = Bk.probation → s.main.ylm.rollback = none →
        (∀ i c n t, firstFailing s.main (bankOf s.main b).img told = some (i, c, n, t) → AnswersMain (.probationWindowEnd told) s fun m =>
          m.bit F.YLM_PROBATION_FAIL_VALID = true ∧ m.get F.YLM_PROBATION_FAIL_CRIT = i % 16 ∧
          (standby s.main = false ∨ bankIn s.main Bk.previous = none → pends m 25 = true) ∧ Reports (inBlock 4) [.ylm] s.main m ∧
          (if (bankIn s.main Bk.previous).isSome then m.ylm = { s.main.ylm with rollback := some (2, false) } ∧
            ∀ k : Fin 2, bankState m k = bankState s.main k
           else m.ylm = s.main.ylm ∧ bankState m b = Bk.running ∧ bankState m (1 - b) = bankState s.main (1 - b) ∧
            m.get F.YLM_PROBATION_REMAIN = 0 ∧ m.bit F.YLM_ERR_ROLLBACK_NONE = true)) ∧
        (firstFailing s.main (bankOf s.main b).img told = none → AnswersMain (.probationWindowEnd told) s fun m =>
          if s.main.get F.YLM_PROBATION_REMAIN = 0 then
            bankState m b = Bk.running ∧ bankState m (1 - b) = bankState s.main (1 - b) ∧ Frame (inBlock 4) [] s.main m
          else m = s.main)))

/-- R60, R62, R66, R71, R72, R74: EPOCH_SWITCH and ROLLBACK_BOUNDARY. -/
def Obligations.SwitchAndRollback : Prop :=
  ∀ s : State,
    let framed (m : Main) : Prop := m.ylm.banks = s.main.ylm.banks ∧ m.key = s.main.key ∧
      Reports (fun a => inBlock 0 a ∨ inBlock 1 a ∨ inBlock 4 a ∨ inBlock 5 a ∨ inBlock 6 a ∨ inBlock 8 a ∨ inBlock 9 a ∨ inBlock 0x0D a ∨
        inBlock 0x0E a) [.time, .ylm, .ctx, .wav, .pur, .eav, .rdg, .red, .upd] s.main m
    ((∀ k, bankIn s.main Bk.armed = some k → switchDue s.main s.main.course = false) → AnswersMain .epochSwitch s fun m => m = s.main) ∧
    (∀ k, bankIn s.main Bk.armed = some k → switchDue s.main s.main.course = true → AnswersMain .epochSwitch s fun m =>
      framed m ∧ bankState m k = Bk.probation ∧ m.ylm.run = some (bankFin k) ∧
      m.get F.YLM_PROBATION_REMAIN = Hdr.probation (bankOf s.main k).img % 4096 ∧
      m.get F.YLM_STATUS_RUN_EPOCH = bankEpoch s.main k ∧ m.get F.YLM_STATUS_RUN_BANK = k ∧ m.bit F.YLM_STATUS_PROBATION = true ∧
      (∀ r : Fin 2, s.main.ylm.run = some r → bankState s.main r = Bk.running ∨ bankState s.main r = Bk.probation →
        bankState m r = Bk.previous) ∧
      m.ctx.prevEpoch = s.main.ylm.run.map (bankEpoch s.main ·) ∧ pends m 24 = true ∧
      (switchAt s.main < s.main.course → m.bit F.YLM_ERR_SWITCH_JUMPED = true)) ∧
    (s.main.ylm.rollback = none → AnswersMain .rollbackBoundary s fun m => m = s.main) ∧
    (∀ left commanded, s.main.ylm.rollback = some (left, commanded) →
      (left ≠ 0 → AnswersMain .rollbackBoundary s fun m => m = s.main) ∧
      (∀ (r : Fin 2) (p : Nat), left = 0 → s.main.ylm.run = some r → bankIn s.main Bk.previous = some p → r.val ≠ p →
        AnswersMain .rollbackBoundary s fun m =>
          framed m ∧ bankState m p = Bk.running ∧ bankState m r = (if commanded then Bk.verified else Bk.failed) ∧
          m.ylm.run = some (bankFin p) ∧ m.ylm.rollback = none ∧ m.get F.YLM_PROBATION_REMAIN = 0 ∧
          m.bit (if commanded then F.YLM_ERR_ROLLBACK_CMD else F.YLM_ERR_ROLLBACK_AUTO) = true ∧
          m.get F.YLM_STATUS_RUN_EPOCH = bankEpoch s.main p ∧ m.get F.YLM_STATUS_RUN_BANK = p ∧
          m.ctx.prevEpoch = some (bankEpoch s.main r) ∧ pends m 24 = true))

/-- R75–R77, R129, R562, R563: PLAN_LOAD_COMPLETE, LISTEN_END and RUN. -/
def Obligations.ExecutorLoadsAndListens : Prop :=
  ∀ s : State,
    let first := match bankIn s.main Bk.probation with | some k => some k | none => bankIn s.main Bk.running
    let bad (k : Nat) : Nat := refusalCode s.main (bankOf s.main k)
    (s.main.exec ≠ Ex.loading ∨ s.main.ylm.run.isSome → AnswersMain .planLoadComplete s fun m => m = s.main) ∧
    (s.main.exec = Ex.loading → s.main.ylm.run = none → AnswersMain .planLoadComplete s fun m =>
      m.ylm.banks = s.main.ylm.banks ∧
      Reports (fun a => inBlock 0 a ∨ inBlock 1 a ∨ inBlock 4 a ∨ inBlock 8 a ∨ inBlock 9 a ∨ inBlock 0x0D a ∨ inBlock 0x0E a)
        [.time, .ylm, .ctx, .pur, .rdg, .red] s.main m ∧
      (first = none → m.exec = Ex.noPlan ∧ m.ylm.run = none) ∧
      (∀ k, first = some k →
        if bad k = 0 then m.exec = Ex.loading ∧ m.ylm.run = some (bankFin k) ∧ m.get F.YLM_STATUS_RUN_EPOCH = bankEpoch s.main k ∧
          ∀ j : Fin 2, bankState m j = bankState s.main j
        else bankState m k = Bk.refused ∧ m.get F.YLM_BANK_STATE_REFUSE_CODE k = bad k ∧
          (bankIn s.main Bk.previous = none → m.exec = Ex.noPlan ∧ m.ylm.run = none) ∧
          (∀ p, bankIn s.main Bk.previous = some p →
            if bad p = 0 then bankState m p = Bk.running ∧ m.ylm.run = some (bankFin p) ∧ m.exec = Ex.loading
            else bankState m p = Bk.refused ∧ m.exec = Ex.noPlan ∧ m.ylm.run = none))) ∧
    (s.main.exec ≠ Ex.listen ∨ s.main.course < s.main.ylm.listenAt + 2 → AnswersMain .listenEnd s fun m => m = s.main) ∧
    (s.main.exec = Ex.listen → s.main.ylm.listenAt + 2 ≤ s.main.course → AnswersMain .listenEnd s fun m =>
      m.exec = (if s.main.bit F.YLM_CTRL_RUN then Ex.running else Ex.halted) ∧ m.ylm.banks = s.main.ylm.banks ∧ m.ylm.run = s.main.ylm.run ∧
      (paired s.main = false → m.ctx.quiet = 3 ∧ m.ctx.rejoin = (if s.main.ylm.fresh then 60 else 0)) ∧
      Reports (fun a => inBlock 0 a ∨ inBlock 1 a ∨ inBlock 4 a ∨ inBlock 0x0E a) [.ylm, .ctx, .pur, .red] s.main m) ∧
    (∀ on : Bool, hostReaches 4 s.main → AnswersMain (.run on) s fun m =>
      Frame (fun a => inBlock 4 a ∨ inBlock 5 a ∨ inBlock 6 a) [.host, .ylm] s.main m ∧
      (on = false → s.main.mode ≠ Md.commission → m.bit F.YLM_CTRL_RUN = s.main.bit F.YLM_CTRL_RUN ∧ m.exec = s.main.exec) ∧
      (on = true ∨ s.main.mode = Md.commission → m.bit F.YLM_CTRL_RUN = on ∧
        m.exec = (if on = false ∧ s.main.exec = Ex.running then Ex.halted else if on = true ∧ s.main.exec = Ex.halted then Ex.running
          else s.main.exec) ∧
        (on = false → s.main.exec = Ex.running ∨ s.main.exec = Ex.listen → ∀ l : Fin 8, m.ylm.next[l] = none ∧ laneState m l = 1)))

/-- R23, R118, R124–R126, R148, R166, R175, R177–R179, R184: PACKET_RELEASE (log entry 68 for the 65th input). -/
def Obligations.PacketsAreCheckedInOrder : Prop :=
  ∀ (s : State) (upset : Option (Nat × Nat)) (ecc : Option (Fin 8192)) (us : Nat),
    let up (v : Nat) := (v + 1) % 2 ^ 32
    (pickGutter s.main = none → AnswersMain (.packetRelease upset ecc us) s fun m => m = s.main) ∧
    (∀ l : Fin 8, pickGutter s.main = some l.val → AnswersMain (.packetRelease upset ecc us) s fun m =>
      let g := match upset with
        | some (k, mask) => (gutter s.main l).upset k mask
        | none => gutter s.main l
      let r := g.setMark.readPacket 76
      let p := packetOf r.1 s.main.course
      let bad := r.1.any Stage.poison
      let f := rxFields p
      let i := f.sender % 8192
      let s1 := match ecc with
        | some j => withCtx j (fun c => { c with excluded := true }) s.main
        | none => s.main
      let counted (n : Nat) : Prop := m.get F.PE_CNT n = up (s.main.get F.PE_CNT n) ∧ m.ctx.joinQ = s.main.ctx.joinQ ∧ m.wav = s.main.wav
      gutter m l = r.2.release ∧ (∀ k : Fin 8, k ≠ l → gutter m k = gutter s.main k) ∧ m.ctx.served = l ∧
      (bad = true → m.get F.GUT_POISON l = up (s.main.get F.GUT_POISON l) ∧ (s.main.bit F.GUT_CTRL_EVT15_EN = true → pends m 15 = true)) ∧
      Reports (fun a => inBlock 6 a ∨ inBlock 7 a ∨ inBlock 8 a ∨ inBlock 0x0D a ∨ inBlock 0x14 a) [.ylm, .ctx, .wav, .rdg, .red, .upd] s.main m ∧
      (s.main.exec ≠ Ex.running ∨ runImg s.main = none → counted 10 ∧ m.ctx.ctx = s.main.ctx.ctx) ∧
      (∀ b, s.main.exec = Ex.running → runImg s.main = some b →
        if bad = true then counted 0 ∧ m.ctx.ctx = s.main.ctx.ctx
        else
          (∀ j, ecc = some j → (ctxOf m j).excluded = true) ∧
          match intakeFail s1 b p f with
          | some n => counted n ∧ m.ctx.ctx = s1.ctx.ctx
          | none =>
            let again := packetOf (r.2.rewind.readPacket 76).1 s.main.course
            let run := openRx s.main p (Hdr.epoch b)
            let prev := if epochKind s.main b f p.rxCourse = 2 then openRx s.main again f.epoch else none
            match run <|> prev with
            | none => counted 6 ∧ m.ctx.ctx = s1.ctx.ctx
            | some x =>
              (run = none → m.get F.PE_CNT 11 = up (s.main.get F.PE_CNT 11)) ∧
              (if x.typ = 0xB then
                let eui := joinEui x
                let slot := s.main.slotNow + 2
                if standby s.main = true then m.ctx.joinQ = s.main.ctx.joinQ
                else if 256 ≤ s.main.ctx.joinQ.length ∨ inputRoom s.main = false then counted 14
                else
                  let a := match lanternOf b eui with
                    | none => JoinAns.refuse 1
                    | some k =>
                      if lbe x.body 10 4 = schedHash b k then (if lle x.body 8 2 = k then .confirm k else .accept k true) else .accept k false
                  m.ctx.joinQ = (s.main.ctx.joinQ.filter fun q => !(q.eui == eui && q.slot == slot)) ++ [⟨eui, a, slot⟩] ∧
                  ∃ k, m.ctx.inputs = s.main.ctx.inputs ++ [⟨slot, k⟩]
              else
                let t := sparTest (ctxOf s.main i).lastSpar x.spar
                (ctxOf m i).lastHeard = p.rxCourse % 2 ^ 32 ∧ i ∉ m.ctx.silent ∧
                (if t ≠ 0 then counted t ∧ (ctxOf m i).lastSpar = (ctxOf s.main i).lastSpar ∧ ∀ j, j ≠ i → ctxOf m j = ctxOf s1 j
                else (ctxOf m i).lastSpar = x.spar % 65536 ∧
                  (x.typ = 0x8 → (ctxOf m i).status = lle x.body 0 2 ∧ (ctxOf m i).faults = lle x.body 2 2 ∧ (ctxOf m i).energy = lle x.body 6 4 ∧
                    (ctxOf m i).lux = lle x.body 10 2 ∧ (ctxOf m i).temp = lle x.body 12 1 ∧ (ctxOf m i).link = lle x.body 13 1 ∧
                    (ctxOf m i).fw = lle x.body 14 4) ∧
                  (x.typ = 0x9 → lle x.body 0 2 ≤ 511 → ∀ k, k < 12 →
                    utcOf s.main s.main.course / zoneSpan (k / 4) = utcOf s.main p.rxCourse / zoneSpan (k / 4) →
                    sget (fun _ => 0) m.ctx.run (12 * lle x.body 0 2 + k) =
                      min (sget (fun _ => 0) s.main.ctx.run (12 * lle x.body 0 2 + k) + lle x.body (4 + 2 * (k % 4)) 2) (2 ^ 32 - 1))))))

/-- R192, R194, R199, R202, R205–R207, R209, R211, R421: DETECT_FWD_RX, WAVE_HANDOFF_RX and WAVE_DECISION_RX. -/
def Obligations.DetectionsStartWaves : Prop :=
  ∀ (s : State) (f : RidgeFrame) (us : Nat),
    let cnt (m : Main) (n : Nat) := m.get F.WAV_CNT n
    let up (v n : Nat) := (v + n) % 2 ^ 32
    let more (m : Main) (n k : Nat) : Prop := cnt m n = up (cnt s.main n) k
    let lowestFree (w : Fin 256) : Prop := s.main.wav.ctxs[w].state = 0 ∧ ∀ v : Fin 256, v < w → s.main.wav.ctxs[v].state ≠ 0
    let staged (m : Main) (b : Img) (w : Fin 256) (slot lane lead : Nat) (x : WaveRef) : Prop :=
      more m 1 1 ∧ m.wav.ctxs[w].state = 1 ∧ m.wav.ctxs[w].entry = x.entry ∧ m.wav.ctxs[w].zone = x.zone ∧
      m.wav.ctxs[w].source = x.source ∧ m.wav.ctxs[w].dSlot = x.dSlot ∧ m.wav.ctxs[w].exec = execAt b slot lane lead ∧
      m.wav.ctxs[w].lantern = x.lantern ∧ (∀ v : Fin 256, v ≠ w → m.wav.ctxs[v] = s.main.wav.ctxs[v]) ∧
      ∃ y, m.wav.bound = s.main.wav.bound ++ [y] ∧ y.lane = lane ∧ y.slot = slot ∧ y.first = true ∧ y.noSend = false ∧
        y.placed = false ∧ y.wave = some w.val
    (detectFwdOf f.payload = none → AnswersMain (.detectFwdRx f us) s fun m => m = s.main) ∧
    (handoffOf f.payload = none → AnswersMain (.waveHandoffRx f us) s fun m => m = s.main) ∧
    (decisionOf f.payload = none → AnswersMain (.waveDecisionRx f us) s fun m => m = s.main) ∧
    (∀ x : DetectFwd, detectFwdOf f.payload = some x → AnswersMain (.detectFwdRx f us) s fun m =>
      let t := sparTest (ctxOf s.main x.lantern).lastSpar x.spar
      if s.main.red.role = 1 then m.get F.RED_CNT 11 = up (s.main.get F.RED_CNT 11) 1 ∧ Frame (· = F.RED_CNT.addr 11) [] s.main m
      else if t ≠ 0 then m.get F.PE_CNT t = up (s.main.get F.PE_CNT t) 1 ∧ Frame (· = F.PE_CNT.addr t) [] s.main m
      else
        (ctxOf m x.lantern).lastSpar = x.spar % 65536 ∧ (∀ j, j ≠ x.lantern → ctxOf m j = ctxOf s.main j) ∧ more m 0 1 ∧
        Reports (fun a => inBlock 8 a ∨ inBlock 0x0D a) [.ylm, .ctx, .wav, .rdg] s.main m ∧
        (wavesEnabled s.main = false → more m 2 1 ∧ m.wav = s.main.wav) ∧
        (∀ b, runImg s.main = some b → wavesEnabled s.main = true →
          let rx := s.main.course - (s.main.course + 2 ^ 32 - x.rxCourse % 2 ^ 32) % 2 ^ 32
          let stamp := lle x.body 2 4
          let d := 100 * originCourse rx (bits stamp 31 24) + bits stamp 23 0 / 10000
          let motion := lle x.body 0 1
          if lle x.body 1 1 < min 100 (s.main.get F.WAV_CTRL_CONF_MIN) then more m 3 1 ∧ m.wav = s.main.wav
          else if s.main.slotNow < d ∨ d + max 1 (s.main.get F.WAV_CTRL_MAX_AGE) < s.main.slotNow then more m 4 1 ∧ m.wav = s.main.wav
          else match wavLookup b x.lantern (bits motion 2 0) (bits motion 5 4) with
            | none => more m 5 1 ∧ m.wav = s.main.wav
            | some e =>
              ∀ w : Fin 256, lowestFree w → ownSteps b e d ≠ [] → storeRoom s.main (ownSteps b e d).length = true →
                match bindCell s.main b (WEnt.lanes b e) us with
                | none => more m 10 1 ∧ m.wav = s.main.wav
                | some (slot, lane) => staged m b w slot lane (WEnt.lead b e) ⟨e, WEnt.zone b e, 1, d, x.lantern⟩)) ∧
    (∀ steps : List WStep, handoffOf f.payload = some steps → AnswersMain (.waveHandoffRx f us) s fun m =>
      if s.main.red.role = 1 then m = s.main
      else
        more m 14 1 ∧ Reports (fun a => inBlock 8 a ∨ inBlock 0x0D a) [.ylm, .wav, .rdg] s.main m ∧
        (runImg s.main = none → more m 2 1 ∧ m.wav = s.main.wav) ∧
        (∀ b, runImg s.main = some b →
          let good := steps.filter fun x => decide (x.lantern < Hdr.lanterns b) && (ctxOf s.main x.lantern).live && decide (s.main.slotNow < x.stop)
          more m 15 (steps.length - good.length) ∧
          match good with
          | [] => m.wav = s.main.wav
          | x :: _ =>
            if wavesEnabled s.main = false then more m 2 1 ∧ m.wav = s.main.wav
            else
              let c := ctxOf s.main x.lantern
              ∀ w : Fin 256, lowestFree w → storeRoom s.main good.length = true →
                match bindCell s.main b (mediaMask c) us with
                | none => more m 10 1 ∧ m.wav = s.main.wav
                | some (slot, lane) => staged m b w slot lane (handoffLead b c.zone x.lantern) ⟨0xFFFF, c.zone, 2, 0, 0xFFFF⟩)) ∧
    (∀ x : WaveDec, decisionOf f.payload = some x →
      let kept := (s.main.red.decLog.filter fun d => decide (s.main.slotNow ≤ d.1 + 200)) ++ [(s.main.slotNow, us, x)]
      AnswersMain (.waveDecisionRx f us) s fun m =>
        let late := 10000 * x.bindSlot < 10000 * s.main.slotNow + us + 60
        m.red = { s.main.red with decLog := kept } ∧ Frame (inBlock 8) [.ylm, .wav, .red] s.main m ∧
        (runImg s.main = none → m.wav = s.main.wav) ∧
        (∀ b, runImg s.main = some b →
          if x.decSlot + 1 < s.main.slotNow then more m 17 1 ∧ m.wav = s.main.wav
          else if sparTest s.main.wav.seq x.seq ≠ 0 then m.wav = s.main.wav
          else m.wav.seq = x.seq % 65536 ∧ more m 16 (if late then 1 else 0) ∧
            (s.main.slotNow < x.bindSlot → ∃ y, m.wav.bound = s.main.wav.bound ++ [y] ∧ y.lane = x.lane ∧ y.slot = x.bindSlot ∧
              y.first = true ∧ y.noSend = decide late ∧ y.placed = false ∧ y.wave = (if x.dkind = 2 then none else some x.waveId)) ∧
            (x.dkind = 0 → s.main.slotNow < x.bindSlot → (waveOf s.main x.waveId).state ≠ 3 →
              (waveOf m x.waveId).state = 1 ∧ (waveOf m x.waveId).entry = x.ref ∧ (waveOf m x.waveId).lantern = x.lantern)))

/-- R20, R21, R154, R159, R160, R212, R231, R357, R358, R417: OVERRIDE, PUR_SETPOINT, CTX_READ, OVERRIDE_EXPIRY, LANTERN_SILENT, LATENCY_CLEAR
(log entry 60 for the direct queue). -/
def Obligations.ContextCommands : Prop :=
  ∀ s : State,
    let slot := s.main.slotNow + 2
    let pair := s.main.bit F.RED_STATUS_PAIRED
    let input (m : Main) (r : Fin 8) (d : Desc) (k : InputKind) (direct : Vector (List Direct) 8) : Prop :=
      m.ctx = { s.main.ctx with inputs := s.main.ctx.inputs ++ [⟨slot, k⟩], direct := direct } ∧
      m.red.toSend = (if pair then s.main.red.toSend ++ [inputRec ⟨slot, k⟩] else s.main.red.toSend) ∧
      writtenBack s.main r d St.ok 0 (slot % 2 ^ 32) [] m
    (∀ (r : Fin 8) (d : Desc),
      (inputRoom s.main = false →
        AnswersMain (.override r d) s (fun m => m = if cmdTurn s.main r && d.own && isOp 0x0201 d then withRing s.main r fun g => { g with parked := true } else s.main) ∧
        AnswersMain (.purSetpoint r d) s fun m => m = if cmdTurn s.main r && d.own && isOp 0x0301 d then withRing s.main r fun g => { g with parked := true } else s.main) ∧
      (inputRoom s.main = true →
        (accepts ⟨isOp 0x0301, true, fun d => d.length == 0, 0xF, 0xFFFFFFFF, gates [planNeeded, activeGate]⟩ s.main r d →
          AnswersMain (.purSetpoint r d) s fun m =>
            input m r d (.setpoint (d.param % 16) (d.addr % 2 ^ 32)) s.main.ctx.direct ∧ Reports (fun _ => False) [.ctx, .red] s.main m) ∧
        (accepts (overrideKind d) s.main r d →
          let scope := bits d.param 17 16
          let target := if scope = 2 then 0 else bits d.addr 44 32
          let room := match runImg s.main with | some b => Hdr.lanterns b | none => 8192
          let k := InputKind.override (d.param % 65536) scope target (d.addr % 2 ^ 32)
          if scope = 0 ∧ room ≤ target then AnswersMain (.override r d) s fun m =>
            writtenBack s.main r d St.badParam 32 0 [] m ∧ Reports (fun _ => False) [] s.main m
          else AnswersMain (.override r d) s fun m => input m r d k (directLevel ⟨slot, k⟩ s.main).ctx.direct ∧
            Reports (fun _ => False) [.ctx, .red] s.main m))) ∧
    (∀ (r : Fin 8) (d : Desc),
      accepts ⟨isOp 0x0202, false, fun d => d.length != 0 && d.length % 96 == 0 && decide (d.param % 8192 + d.length / 96 ≤ 8192), 0x1FFF, 0, openGate⟩
        s.main r d →
      AnswersMain (.ctxRead r d) s fun m =>
        let first := d.param % 8192
        writtenBack s.main r d St.ok 0 d.length (swapData d.swap ((List.range (d.length / 96)).flatMap fun k =>
          ctxBytes (first + k) (ctxOf s.main (first + k)))) m ∧ Reports (fun _ => False) [] s.main m) ∧
    AnswersMain .overrideExpiry s (fun m =>
      m.ctx.ctx = smap (fun _ => Ctx.blank) (fun _ c =>
        if c.ovr ≠ 0 ∧ c.ovrUntil ≠ 0xFFFFFFFF ∧ (s.main.course + 2 ^ 32 - c.ovrUntil % 2 ^ 32) % 2 ^ 32 < 2 ^ 31
        then { c with ovr := 0, ovrUntil := 0 } else c) s.main.ctx.ctx ∧ Frame (fun _ => False) [.ctx] s.main m) ∧
    (∀ i : Fin 8192,
      let c := ctxOf s.main i
      let n := s.main.get F.TLP_PE_SILENT_SILENT_COURSES
      let unheard := (s.main.course + 2 ^ 32 - max c.lastHeard (s.main.ylm.listenAt % 2 ^ 32)) % 2 ^ 32
      if c.live = true ∧ c.joined = true ∧ n ≠ 0 ∧ i.val ∉ s.main.ctx.silent ∧ n ≤ unheard then
        AnswersMain (.lanternSilent i) s fun m => m.ctx = { s.main.ctx with silent := i.val :: s.main.ctx.silent } ∧
          (s.main.bit F.TLP_PE_CTRL_EVT28_EN = true → pends m 28 = true) ∧ Reports (fun _ => False) [.ctx] s.main m
      else AnswersMain (.lanternSilent i) s fun m => m = s.main) ∧
    (hostReaches 8 s.main → AnswersMain .latencyClear s fun m =>
      m.get F.WAV_LATENCY_MAX = 0 ∧ m.get F.WAV_LATENCY_LAST = s.main.get F.WAV_LATENCY_LAST ∧
      Frame (· = F.WAV_LATENCY_MAX.addr 0) [.host] s.main m)

/-- R216–R220, R222, R226, R229, R230, R247, R250: PURLIN_SAMPLE. -/
def Obligations.PurlinSamplesDueLoops : Prop :=
  ∀ (s : State) (t : Nat) (b : Img), runImg s.main = some b →
    let up (v n : Nat) := (v + n) % 2 ^ 32
    let src (a : Nat) : Prop := 0x090010 ≤ a ∧ a < 0x090020
    let legal (p : PStage) : Prop :=
      fits24 p.m0 = true ∧ fits24 p.m1 = true ∧ fits24 p.m2 = true ∧ fits24 p.m3 = true ∧ -128 ≤ p.x ∧ p.x ≤ 127
    let legalLoop (p : PLoop) : Prop := (∀ k : Fin 8, legal p.stages[k]) ∧ -128 ≤ p.good.x ∧ p.good.x ≤ 127
    (loopsRun s.main = false → AnswersMain (.purlinSample t) s fun m => Frame src [] s.main m) ∧
    (loopsRun s.main = true → AnswersMain (.purlinSample t) s fun m =>
      m.pur = { s.main.pur with loops := m.pur.loops } ∧
      Reports (fun a => src a ∨ a = 0x090004 ∨ 0x090100 ≤ a ∧ a < 0x090500) [.pur] s.main m ∧
      ∀ l : Fin 16,
        ((loopOn b l = none ∨ ∃ o, loopOn b l = some o ∧ (LoopC.period b o = 0 ∨ t % LoopC.period b o ≠ 0)) →
          loopSt m l = loopSt s.main l ∧ ∀ a, 0x090100 + 64 * l.val ≤ a → a < 0x090140 + 64 * l.val → m.word a = s.main.word a) ∧
        (∀ o, loopOn b l = some o → 0 < LoopC.period b o → t % LoopC.period b o = 0 →
          let sp := source s.main b o l (LoopC.spSrc b o) t
          let fb := source s.main b o l (LoopC.fbSrc b o) t
          let old := loopSt s.main l
          let track := tracks s.main b o
          let target := if sp.2 then LoopC.spFail b o else sp.1
          m.get F.PUR_SAMPLES l = up (s.main.get F.PUR_SAMPLES l) 1 ∧ m.get F.PUR_SP l = target.toWord ∧ m.get F.PUR_FB l = fb.1.toWord ∧
          m.bit F.PUR_LOOP_STATUS_SRC_FAULT l = sp.2 ∧ m.bit F.PUR_LOOP_STATUS_FB_INVALID l = fb.2 ∧
          m.get F.PUR_HELD_SAMPLES l = up (s.main.get F.PUR_HELD_SAMPLES l) (natOf fb.2) ∧
          (fb.2 = true → ¬ (old.frozen = true ∧ track = false ∧ LoopC.fallback b o = true) → (loopSt m l).stages = old.stages) ∧
          (fb.2 = true → track = false → old.frozen = false → second b o (old.heldRun + 1) = true →
            (loopSt m l).frozen = true ∧ m.get F.PUR_LOOP_STATUS_CAUSE l = 2 ∧
            (s.main.bit F.PUR_CTRL_EVT33_EN = true → pends m 33 = true)) ∧
          (fb.2 = false → old.frozen = false → track = false → 1 < LoopC.stages b o → (∀ c ∈ (stageCfg b o 0).ins, c < 0x80) →
            (loopSt m l).stages[0] = (stageSample (stageCfg b o 0)
              ⟨(vget old.stages (lastStage b o) PStage.reset).bound, s.main.bit F.PUR_LOOP_STATUS_CAP_UNREACH l, modelSum s.main t,
                delayedSum (visible s.main t), LoopC.period b o, none⟩ old.stages[0]
              fun i => stageInput s.main l target fb.1 ((stageCfg b o 0).ins.getD i 0)).1.renorm.1) ∧
          (old.frozen = false → (loopSt m l).sampled = true) ∧
          (old.frozen = false → legalLoop old → legalLoop (loopSt m l) ∧
            (fb.2 = false → ∀ k : Fin 8, k.val < LoopC.stages b o →
              let p := (loopSt m l).stages[k]
              p.largest = 0 ∨ (2097152 ≤ p.largest ∧ p.largest ≤ 4194303) ∨ p.x = -128 ∨ p.x = 127))))

/-- R227, R228, R244, R249: AIN_CONVERSION, PULSE_INPUT_EDGE and RELEASE. -/
def Obligations.PurlinInputsAndRelease : Prop :=
  ∀ s : State,
    (∀ x0 x1 : Nat,
      (awake s.main = false → AnswersMain (.ainConversion x0 x1) s fun m => m = s.main) ∧
      (awake s.main = true → AnswersMain (.ainConversion x0 x1) s fun m =>
        (∀ k : Fin 2,
          let x := Bf.ofInt (min (if k.val = 0 then x0 else x1) 65535 : Nat)
          let r := s.main.pur.ain[k]
          let n := match runImg s.main with
            | some b => if purHas b then srcFilter b k else 0
            | none => 0
          let d := (Bf.sum [x, r.neg]).narrow
          m.pur.ain[k] = if n = 0 then x else (Bf.sum [r, ⟨d.m, d.x - n⟩]).stored) ∧
        m.pur = { s.main.pur with ain := m.pur.ain } ∧ Frame (fun a => a = 0x090010 ∨ a = 0x090014) [.pur] s.main m)) ∧
    (∀ (k : Fin 2) (us : Nat),
      let p := s.main.pur.pls[k]
      (∀ rise, awake s.main = false → AnswersMain (.pulseInputEdge k rise us) s fun m => m = s.main) ∧
      (awake s.main = true → AnswersMain (.pulseInputEdge k true us) s fun m =>
        (m.pur.pls[k]).high = some us ∧ us ∈ (m.pur.pls[k]).edges ∧ (∀ e ∈ p.edges, us < e + 10000000 → e ∈ (m.pur.pls[k]).edges) ∧
        (m.pur.pls[k]).width = p.width ∧ (m.pur.pls[k]).endAt = p.endAt ∧
        m = { s.main with pur := { s.main.pur with pls := s.main.pur.pls.set k m.pur.pls[k] } }) ∧
      (∀ h, awake s.main = true → p.high = some h → AnswersMain (.pulseInputEdge k false us) s fun m =>
        m = { s.main with pur := { s.main.pur with
          pls := s.main.pur.pls.set k { p with high := none, width := us - h, endAt := some us } } }) ∧
      (awake s.main = true → p.high = none → AnswersMain (.pulseInputEdge k false us) s fun m => m = s.main)) ∧
    ∀ (l : Fin 16), hostReaches 9 s.main →
      ((loopSt s.main l).frozen = false ∨ runImg s.main = none ∨ (∃ b, runImg s.main = some b ∧ loopOn b l = none) →
        AnswersMain (.release l) s fun m => Frame (fun _ => False) [.host] s.main m) ∧
      (∀ b o, runImg s.main = some b → loopOn b l = some o → (loopSt s.main l).frozen = true → AnswersMain (.release l) s fun m =>
        (loopSt m l).frozen = false ∧ (loopSt m l).sampled = false ∧ m.get F.PUR_LOOP_STATUS_CAUSE l = 0 ∧
        m.get F.PUR_LOOP_STATUS_STATE l = (if tracks s.main b o then 2 else 1) ∧
        (∀ k : Fin 8, let p := (loopSt m l).stages[k]
          p.dir = 0 ∧ p.rest = 0 ∧ p.atRest = true ∧ p.fast = 0 ∧ p.spFast = false) ∧
        (∀ k : Fin 8, k.val + 1 = LoopC.stages b o → (stageCfg b o k).kind = 8 → destNow s.main b o < 2 ^ 22 →
          (loopSt m l).stages[k].m0 * 2 ^ ((loopSt m l).stages[k].x + 128).toNat = destNow s.main b o * 2 ^ 128) ∧
        (∀ j : Fin 16, j ≠ l → loopSt m j = loopSt s.main j) ∧
        Frame (fun a => a = 0x090004 ∨ 0x090100 + 64 * l.val ≤ a ∧ a < 0x090140 + 64 * l.val) [.host, .pur] s.main m)

/-- R330: EAV_FAULT and EAV_SHORT_PROBE. -/
def Obligations.EaveFaultsLatch : Prop :=
  ∀ (s : State) (n : Fin 16),
    let kept (m : Main) : Prop :=
      (eavCh m n).gov = (eavCh s.main n).gov ∧ m.get F.CH_STATUS_TARGET n = s.main.get F.CH_STATUS_TARGET n ∧
      (∀ k : Fin 16, k ≠ n → eavCh m k = eavCh s.main k) ∧ Reports (· = F.CH_FAULT_LIVE.addr n) [.eav] s.main m
    let driven (m : Main) : Prop := (eavCh m n).drive = chDrive m n ∧ (chDrive m n ≠ .pwm → (eavCh m n).count = 0)
    (∀ kind : Fin 4, AnswersMain (.eavFault n kind true) s fun m =>
      (if kind = 0 ∧ s.main.get F.CH_DUTY_DUTY n < 655 then m.word (F.CH_FAULT_LIVE.addr n) = s.main.word (F.CH_FAULT_LIVE.addr n)
       else m.bit F.CH_FAULT_LIVE n kind = true ∧ m.bit F.CH_FAULT_LATCH n kind = true ∧
         (s.main.bit F.CH_FAULT_LATCH n kind = false → s.main.bit F.EAV_CTRL_EVT42_EN = true → pends m 42 = true)) ∧
      driven m ∧ kept m) ∧
    (∀ kind : Fin 4, AnswersMain (.eavFault n kind false) s fun m =>
      (∀ k : Fin 6, m.bit F.CH_FAULT_LIVE n k = (if k.val = kind.val ∧ (kind = 0 ∨ kind = 3) then false else s.main.bit F.CH_FAULT_LIVE n k) ∧
        m.bit F.CH_FAULT_LATCH n k = s.main.bit F.CH_FAULT_LATCH n k) ∧
      driven m ∧ kept m) ∧
    (∀ good : Bool, AnswersMain (.eavShortProbe n good) s fun m =>
      if chLive s.main n 1 = true ∨ chLive s.main n 2 = true then
        (if good = true ∧ 2 ≤ (eavCh s.main n).good then chLive m n 1 = false ∧ chLive m n 2 = false ∧ driven m
         else chLive m n 1 = chLive s.main n 1 ∧ chLive m n 2 = chLive s.main n 2 ∧
           (eavCh m n).good = if good then (eavCh s.main n).good + 1 else 0) ∧ kept m
      else m = s.main)

/-- R326, R327, R329, R336: EAV_TICK. -/
def Obligations.SafeConditionTargets : Prop :=
  ∀ (s : State) (ntc : List Nat),
    (s.main.mode = 0 ∨ s.main.mode = 6 → AnswersMain (.eavTick ntc) s fun m => m = s.main) ∧
    (s.main.mode ≠ 0 → s.main.mode ≠ 6 → AnswersMain (.eavTick ntc) s fun m =>
      (∀ n : Fin 16,
        let t := chTarget s.main (lumMap s.main).2.1 n
        m.get F.CH_STATUS_SRC n = t.1 ∧ m.get F.CH_STATUS_TARGET n = t.2 % 4096 ∧ m.bit F.EAV_STATUS_SAFE 0 n = (t.1 == 0) ∧
        (eavCh m n).gov = (eavCh s.main n).gov.tick t.2 (s.main.get F.CH_GOV_RISE n) (s.main.get F.CH_GOV_FALL n) (s.main.get F.CH_DWELL_DWELL n) ∧
        (safeCond s.main true = true → t = (0, s.main.get F.CH_CFG_SAFE n))) ∧
      m.gbl.target = (gblTarget s.main).2 ∧ m.get F.GBL_STATUS_SRC = (gblTarget s.main).1 ∧
      Reports (fun a => inBlock 0x0B a ∨ inBlock 0x0C a) [.eav, .gbl] s.main m)

/-- R332, R333, R337, R338, R340: GABLE_LINE_PERIOD and LINE_SHORT. -/
def Obligations.GableScanAdvances : Prop :=
  ∀ (s : State),
    (∀ sdi : List Byte, AnswersMain (.gableLinePeriod sdi) s fun m =>
      if s.main.mode = 0 ∨ s.main.mode = 6 ∨ s.main.bit F.GBL_CTRL_ENABLE = false then m = s.main
      else
        let prev := s.main.gbl.line
        let k := if prev + 1 < s.main.get F.GBL_GEOM_LINES then prev + 1 else 0
        let drivers := s.main.get F.GBL_GEOM_DRIVERS_M1 + 1
        m.gbl.line = k ∧ Reports (inBlock 0x0C) [.gbl] s.main m ∧
        (blanked m = false → m.gbl.lit = if gableHeld s.main || lineFault s.main k then none else some k) ∧
        (blanked m = true → m.gbl.lit = none ∧ m.gbl.oe = false) ∧
        (∀ (kind : Fin 2) (col i : Nat) (g : Legend), s.main.gbl.shown = some (i, g) → s.main.gbl.lit = some prev → pixelLit g prev col = true →
          col ∈ sdiColumns sdi drivers kind → s.main.bit F.GBL_POLICY_REPORT_ONLY 0 i = false →
          blanked m = true ∧ (blanked s.main = false → s.main.bit F.GBL_CTRL_EVT44_EN = true → pends m 44 = true))) ∧
    (∀ line : Fin 48, AnswersMain (.lineShort line) s fun m =>
      lineFault m line = true ∧ m.bit F.GBL_FAULT_LIVE 0 2 = true ∧ m.bit F.GBL_FAULT_LATCH 0 2 = true ∧ m.gbl.lit ≠ some line.val ∧
      (∀ k : Fin 48, k ≠ line → lineFault m k = lineFault s.main k) ∧
      (s.main.bit F.GBL_FAULT_LIVE 0 2 = false → s.main.bit F.GBL_CTRL_EVT45_EN = true → pends m 45 = true) ∧
      (∀ i g, s.main.gbl.shown = some (i, g) → lineLit g line = true → s.main.bit F.GBL_POLICY_REPORT_ONLY 0 i = false → blanked m = true) ∧
      Reports (inBlock 0x0C) [.gbl] s.main m)

/-- R328, R331, R335, R339: REARM, GBL_GEOM_WRITE, GBL_SHOW_WRITE and GAMMA_DEFAULT. -/
def Obligations.SignRegisterWrites : Prop :=
  ∀ (s : State) (v : Nat), hostReaches 0x0C s.main → hostReaches 0x0B s.main →
    AnswersMain .rearm s (fun m =>
      blanked m = false ∧ m.word (F.GBL_FIRST_KIND.addr 0) = 0 ∧ m.gbl.fmap = [] ∧
      Frame (fun a => a = F.GBL_STATUS_INTEGRITY_BLANK.addr 0 ∨ a = F.GBL_FIRST_KIND.addr 0) [.host, .gbl] s.main m) ∧
    AnswersMain (.gblGeomWrite v) s (fun m =>
      (if geomBad (bits v 24 16) (bits v 13 8) (bits v 7 4 + 1) (bits v 3 0)
       then m.bit F.GBL_STATUS_GEOM_REFUSED = true ∧ gblGeom m = gblGeom s.main
       else gblGeom m = (bits v 24 16, bits v 13 8, bits v 7 4 + 1, bits v 3 0)) ∧
      Frame (fun a => a = F.GBL_STATUS_GEOM_REFUSED.addr 0 ∨ a = F.GBL_GEOM_RATE.addr 0) [.host, .gbl] s.main m) ∧
    AnswersMain (.gblShowWrite v) s (fun m =>
      m.bit F.GBL_SHOW_SHOW = bitOf v 31 ∧ m.get F.GBL_SHOW_LEGEND = bits v 3 0 ∧
      Frame (· = F.GBL_SHOW_SHOW.addr 0) [.host, .gbl] s.main m) ∧
    AnswersMain .gammaDefault s (fun m =>
      (∀ i, i < 1024 → gammaEntry m i = gammaDefault i) ∧
      Frame (fun a => 0x0B1000 ≤ a ∧ a < 0x0B1800) [.host] s.main m)

/-- R334: GBL_LEGEND. -/
def Obligations.LegendIsCheckedAndStored : Prop :=
  ∀ (s : State) (r : Fin 8) (d : Desc), accepts ⟨isOp 0x0501, false, fun d => 4 ≤ d.length && d.length ≤ 16777216, 0, 0, openGate⟩ s.main r d →
    AnswersMain (.gblLegend r d) s fun m =>
      match legendOf (swapData d.swap (d.data.take d.length)) (s.main.get F.GBL_GEOM_LINES) (s.main.get F.GBL_GEOM_DRIVERS_M1 + 1) with
      | some (i, g) => m.gbl.legends = vmod s.main.gbl.legends i (fun _ => some g) ∧ writtenBack s.main r d St.ok 0 d.length [] m ∧
          Reports (inBlock 0x0C) [.gbl] s.main m
      | none => m.gbl = s.main.gbl ∧ writtenBack s.main r d St.legendRefused 0 d.length [] m ∧ Reports (fun _ => False) [] s.main m

/-- R384–R387, R389–R391, R401, R404, R405, R407, R409: RIDGE_FRAME_RX, PORT_EGRESS and TUNNEL (log entry 27 for the frame sizes). -/
def Obligations.RidgeFramesAreHandledInOrder : Prop :=
  ∀ (s : State) (p : Fin 2),
    let cnt (m : Main) (n : Nat) : Prop := m.get F.RDG_CNT n = (s.main.get F.RDG_CNT n + 1) % 2 ^ 32
    let heardFrames (m : Main) : Prop := m.get F.RDG_RX_FRAMES p = (s.main.get F.RDG_RX_FRAMES p + 1) % 2 ^ 32
    let framed (m : Main) : Prop := Reports (inBlock 0x0D) [.rdg] s.main m
    let same (m : Main) : Prop := m.rdg = s.main.rdg ∧ framed m ∧ heardFrames m
    let matched (q : Nat) : Prop := portState s.main q = Ps.matched
    (portState s.main p = Ps.down → (∀ e, AnswersMain (.ridgeFrameRx p e) s (· = s.main)) ∧ AnswersMain (.portEgress p) s (· = s.main)) ∧
    (portState s.main p ≠ Ps.down →
      (AnswersMain (.ridgeFrameRx p .badFcs) s fun m => m.get F.RDG_RX_FCS_FAIL p = (s.main.get F.RDG_RX_FCS_FAIL p + 1) % 2 ^ 32 ∧
        Frame (· = F.RDG_RX_FCS_FAIL.addr p) [] s.main m) ∧
      (∀ o : List Byte, o.length < 60 ∨ 1514 < o.length → AnswersMain (.ridgeFrameRx p (.good o)) s (· = s.main)) ∧
      (∀ o : List Byte, 60 ≤ o.length → o.length ≤ 1514 →
        let rx (P : Main → Prop) : Prop := AnswersMain (.ridgeFrameRx p (.good o)) s P
        let mac := o.take 6
        let etype := lbe o 12 2
        (etype = 0x88F7 → rx fun m => heardFrames m ∧ Frame (· = F.RDG_RX_FRAMES.addr p) [] s.main m) ∧
        (etype ≠ 0x88F7 → etype ≠ 0x88B5 → rx fun m => cnt m 7 ∧ same m) ∧
        (etype = 0x88B5 → (mac ≠ broadcastMac ∧ mac ≠ macOf (ownAddr s.main) p) ∨ ridgeParse (o.drop 14) = none → rx fun m => cnt m 6 ∧ same m) ∧
        (∀ f, etype = 0x88B5 → mac = broadcastMac ∨ mac = macOf (ownAddr s.main) p → ridgeParse (o.drop 14) = some f →
          let own := f.dst = ownAddr s.main ∨ f.dst = 0xFFF
          let g : RidgeFrame := { f with ttl := f.ttl - 1 }
          let fits (h : RidgeFrame) : Prop :=
            (h.kind ∈ [1, 2, 3, 0x10] ∨ h.kind / 16 = 2) ∧ h.cls = 1 ∨ h.kind = 0x30 ∧ (h.cls = 2 ∨ h.cls = 3) ∨ h.kind / 16 = 4 ∧ h.cls = 3
          let seen := seenOf s.main f.src
          let given (h : RidgeFrame) (m : Main) : Prop := cnt m 0 ∧ Output.deliver p h ∈ m.out
          (f.src = 0xFFF → rx fun m => cnt m 6 ∧ same m) ∧
          (f.src ≠ 0xFFF →
            (own → f.isOpen = true → rx fun m => same m ∧
              if ¬ fits g then cnt m 6 else if g.kind = 0x10 ∨ g.kind / 16 = 4 then given g m else cnt m 2) ∧
            (own → f.isOpen = false → fabReady s.main = false → rx fun m => cnt m 10 ∧ same m) ∧
            (∀ k, own → f.isOpen = false → s.main.key.work[1] = some k → rx fun m =>
              match g.unseal k.key with
              | none => cnt m 2 ∧ same m
              | some h =>
                if isReplay seen f.boot f.seq = true then cnt m 3 ∧ same m
                else (if fits h then given h m else cnt m 6) ∧ seenOf m f.src = some (seenAfter seen f.boot f.seq) ∧
                  (∀ a, a ≠ f.src → seenOf m a = seenOf s.main a) ∧ m.rdg.ports = s.main.rdg.ports ∧ framed m ∧ heardFrames m) ∧
            (¬ own → f.ttl ≤ 1 → rx fun m => cnt m 4 ∧ same m) ∧
            (¬ own → 1 < f.ttl →
              let o := 1 - p.val
              let near := s.main.get F.RDG_PORT_STATUS_HEARD o = f.dst ∧ portState s.main o ∈ [Ps.matched, Ps.mismatch, Ps.unplanned]
              let lost := rx fun m => cnt m 5 ∧ same m
              let queue (m : Main) (q : Nat) := (portOf m q).queue
              let goes (q : Nat) (turned : Bool) : Prop := (queue s.main q).length < 256 → (f.cls = 3 → countClass 3 (queue s.main q) < bulkMax s.main) →
                rx fun m => cnt m 1 ∧ queue m q = queue s.main q ++ [{ g with turned := turned }] ∧
                  queue m (1 - q) = queue s.main (1 - q) ∧ m.rdg.seen = s.main.rdg.seen ∧ framed m ∧ heardFrames m ∧ (turned = true → f.turned = false → cnt m 9)
              if near then goes o f.turned
              else if 0xF00 ≤ f.dst then lost
              else if f.turned = true then (matched o → goes o true) ∧ (¬ matched o → lost)
              else match (runImg s.main).bind (fun b => if (sect b 14).isSome ∧ Rt.valid (routeEntry b f.dst) = true then some (routeEntry b f.dst) else none) with
                | none => lost
                | some e =>
                  let ok (q : Nat) : Prop := q < 2 ∧ matched q
                  (ok (Rt.primary e) → goes (Rt.primary e) (decide (Rt.primary e = p))) ∧
                  (¬ ok (Rt.primary e) → ok (Rt.alternate e) → goes (Rt.alternate e) (decide (Rt.alternate e = p))) ∧
                  (¬ ok (Rt.primary e) → ¬ ok (Rt.alternate e) → lost))))) ∧
      let q := (s.main.rdg.ports[p]).queue
      (q = [] → AnswersMain (.portEgress p) s (· = s.main)) ∧
      (q ≠ [] → (∀ f ∈ q, f.payload.length ≤ 1484) → AnswersMain (.portEgress p) s fun m => ∃ f ∈ q,
        (∀ g ∈ q, g.cls = 0 → f.cls = 0) ∧ ((∃ g ∈ q, g.cls = 1) → f.cls ≤ 1) ∧ q.find? (classOfFrame f.cls) = some f ∧
        (m.rdg.ports[p]).queue = q.eraseP (classOfFrame f.cls) ∧ Output.ridgeTx p (ethOctets s.main p f) ∈ m.out ∧
        m.get F.RDG_TX_FRAMES p = (s.main.get F.RDG_TX_FRAMES p + 1) % 2 ^ 32 ∧
        m.bit F.RDG_PORT_STATUS_DROPPING p = (s.main.bit F.RDG_PORT_STATUS_DROPPING p && decide (65 < q.length)) ∧
        m.rdg.seen = s.main.rdg.seen ∧ m.rdg.seq = s.main.rdg.seq ∧ Frame (inBlock 0x0D) [.rdg] s.main m)) ∧
    ∀ f : RidgeFrame,
      let ch := (f.payload.getD 1 0).toNat
      let detour := match runImg s.main with
        | some b => (sect b 14).isSome && Rt.valid (routeEntry b f.src) && decide (Rt.hops (routeEntry b f.src) < 32 - f.ttl)
        | none => false
      let data := f.payload.drop 4
      (f.kind ≠ 0x30 ∨ 17 < ch → AnswersMain (.tunnel f) s (· = s.main)) ∧
      (f.kind = 0x30 → ch ≤ 17 → AnswersMain (.tunnel f) s (· = uplPost (if ch ≠ 0 ∧ ringState s.main (14 + ch) = Rs.running then 6 + ch else 5)
        (leBytes 2 (16 + data.length) ++ leBytes 1 ch ++ leBytes 1 (natOf (f.cls == 3) + 2 * natOf detour + 4 * natOf f.turned) ++ leBytes 2 f.src ++
          leBytes 1 (32 - f.ttl) ++ [0] ++ leBytes 4 (s.main.course % 2 ^ 32) ++ leBytes 1 (s.main.slotNow % 100) ++ zeros 3 ++ data) s.main))

/-- R383, R392–R398, R407, R408: PORT_LINK_CHANGE, HELLO_TX, HELLO, HELLO_TIMEOUT and FAB_SEND. -/
def Obligations.PortsMatchByHello : Prop :=
  ∀ s : State,
    let cnt (m : Main) (n k : Nat) : Prop := m.get F.RDG_CNT n = (s.main.get F.RDG_CNT n + k) % 2 ^ 32
    (∀ p : Fin 2,
      let st := portState s.main p
      let own (a : Nat) : Prop := F.RDG_PORT_CFG_MODE.addr p ≤ a ∧ a < F.RDG_PORT_CFG_MODE.addr p + 64
      let framed (m : Main) : Prop := Reports own [.rdg] s.main m ∧ m.rdg.seen = s.main.rdg.seen ∧ portState m (1 - p.val) = portState s.main (1 - p.val)
      let enters (m : Main) (t : Nat) : Prop := portState m p = t ∧
        (st ≠ t → (st = Ps.down ∨ t = Ps.down ∨ st = Ps.matched ∨ t = Ps.matched) → s.main.bit F.RDG_CTRL_EVT46_EN = true → pends m 46 = true) ∧
        (st ≠ t → t = Ps.mismatch → s.main.bit F.RDG_CTRL_EVT47_EN = true → pends m 47 = true)
      (∀ up fast los : Bool,
        let mode := s.main.get F.RDG_PORT_CFG_MODE p
        let refused := up && mode == 1 && !fast
        let on := up = true ∧ (mode = 1 ∨ mode = 2) ∧ refused = false ∧ ¬ (los = true ∧ s.main.bit F.RDG_PORT_CFG_LOS_EN p = true)
        AnswersMain (.portLinkChange p up fast los) s fun m =>
          m.bit F.RDG_PORT_STATUS_LINK p = up ∧ m.bit F.RDG_PORT_STATUS_SPEED_REFUSED p = refused ∧ framed m ∧
          (if on then enters m (if st = Ps.down then Ps.training else st) ∧ m.get F.RDG_PORT_STATUS_HEARD p = s.main.get F.RDG_PORT_STATUS_HEARD p
           else enters m Ps.down ∧ m.get F.RDG_PORT_STATUS_HEARD p = 0xFFF ∧ m.get F.RDG_PORT_STATUS_HEARD_PORT p = 3)) ∧
      (st = Ps.down ∨ s.main.mode = Md.hold ∨ helloSpent s.main p = true → AnswersMain (.helloTx p) s (· = s.main)) ∧
      (st ≠ Ps.down → s.main.mode ≠ Md.hold → helloSpent s.main p = false → AnswersMain (.helloTx p) s fun m =>
        let heard := s.main.get F.RDG_PORT_STATUS_HEARD p
        let hp := s.main.get F.RDG_PORT_STATUS_HEARD_PORT p
        let planned := match runImg s.main with | some b => (sect b 14).isSome | none => false
        let body := beBytes 1 0x10 ++ beBytes 1 p ++ beBytes 1 st ++
          beBytes 1 (natOf (s.main.bit F.RDG_ADDR_PROVISIONAL) + 2 * natOf planned + 4 * natOf (fabReady s.main)) ++ beBytes 8 s.main.fuse.eui ++
          beBytes 2 (ownAddr s.main) ++ beBytes 2 (if heard = 0xFFF then 0xFFFF else heard) ++ beBytes 1 (if hp = 3 then 0xFF else hp) ++
          beBytes 1 (if (runImg s.main).isSome then s.main.get F.YLM_STATUS_RUN_EPOCH else 0) ++ beBytes 2 (if st = Ps.matched then 1000 else 100)
        m.get F.RDG_HELLO_TX p = (s.main.get F.RDG_HELLO_TX p + 1) % 2 ^ 32 ∧ portState m p = st ∧
        ((s.main.rdg.ports[p]).queue.length < 256 → ∃ f : RidgeFrame, (m.rdg.ports[p]).queue = (s.main.rdg.ports[p]).queue ++ [onWire s.main f] ∧
          f.cls = 1 ∧ f.ttl = 32 ∧ f.dst = 0xFFF ∧ f.src = ownAddr s.main ∧ f.isOpen = (!fabReady s.main) ∧ f.payload = body ∧ body.length = 20) ∧
        Reports (fun a => own a ∨ a = F.RDG_BOOT_BOOT.addr 0) [.rdg] s.main m) ∧
      (∀ f : RidgeFrame, helloOf f = none ∨ st = Ps.down → AnswersMain (.hello p f) s (· = s.main)) ∧
      (∀ (f : RidgeFrame) (h : HelloMsg), helloOf f = some h → st ≠ Ps.down →
        let conflict := s.main.bit F.RDG_ADDR_PROVISIONAL = true ∧ h.addr = ownAddr s.main ∧ h.eui < s.main.fuse.eui
        let shown (m : Main) : Prop := m.get F.RDG_HELLO_RX p = (s.main.get F.RDG_HELLO_RX p + 1) % 2 ^ 32 ∧ m.get F.RDG_PORT_STATUS_HEARD p = h.addr ∧
          m.get F.RDG_PORT_STATUS_HEARD_PORT p = h.port ∧ m.get64 F.RDG_PORT_EUI_LO F.RDG_PORT_EUI_HI p = h.eui
        (conflict → AnswersMain (.hello p f) s fun m => shown m ∧
          ownAddr m = (if ownAddr s.main = 0xFFE then 0xF00 else (ownAddr s.main + 1) % 4096) ∧
          (s.main.bit F.RDG_CTRL_EVT47_EN = true → pends m 47 = true) ∧
          Reports (fun a => own a ∨ a = F.RDG_ADDR_IN_USE.addr 0) [.rdg] s.main m) ∧
        (¬ conflict → AnswersMain (.hello p f) s fun m => shown m ∧ framed m ∧
          let neigh := (runImg s.main).bind (fun b => neighOf b p)
          let names := h.heardAddr = ownAddr s.main ∧ h.heardPort = p
          if h.isOpen = false ∧ neigh = some (h.addr, h.port) ∧ names then enters m Ps.matched
          else if st = Ps.matched then enters m Ps.mismatch
          else if st = Ps.training then
            if neigh = none ∨ h.isOpen = true then enters m Ps.unplanned
            else if names then
              if 1 ≤ (s.main.rdg.ports[p]).wrong then enters m Ps.mismatch else enters m Ps.training ∧ (m.rdg.ports[p]).wrong = 1
            else enters m Ps.training ∧ (m.rdg.ports[p]).wrong = 0
          else enters m st)) ∧
      (AnswersMain (.helloTimeout p) s fun m => if st ∈ [Ps.matched, Ps.mismatch, Ps.unplanned] then enters m Ps.training ∧ framed m else m = s.main)) ∧
    ∀ (r : Fin 8) (d : Desc),
      let dst := bits d.param 11 0
      let cls : Fin 4 := if bitOf d.param 17 then 3 else 2
      let body := beBytes 1 0x30 ++ beBytes 1 (bits d.param 16 12) ++ zeros 2 ++ swapData d.swap (d.data.take d.length)
      let f : RidgeFrame := ⟨cls, 32, dst, ownAddr s.main, false, false, s.main.get F.RDG_BOOT_BOOT, s.main.rdg.seq, body⟩
      let framed (m : Main) : Prop := Reports (inBlock 0x0D) [.rdg] s.main m
      accepts ⟨isOp 0x0601, false, fun d => 4 ≤ d.length && d.length ≤ 1472, 2 ^ 18 - 1, 0, fun _ =>
        if 17 < bits d.param 16 12 then some (.fail St.badParam (12 + lowBit (bits d.param 16 12))) else none⟩ s.main r d →
      (s.main.mode = Md.hold → AnswersMain (.fabSend r d) s fun m => writtenBack s.main r d St.refused 2 d.length [] m ∧ Reports (fun _ => False) [] s.main m) ∧
      (s.main.mode ≠ Md.hold → fabReady s.main = false → AnswersMain (.fabSend r d) s fun m =>
        writtenBack s.main r d St.refused 3 d.length [] m ∧ Reports (fun _ => False) [] s.main m) ∧
      (s.main.mode ≠ Md.hold → fabReady s.main = true →
        (dst = ownAddr s.main ∨ dst = 0xFFF → AnswersMain (.fabSend r d) s fun m =>
          writtenBack s.main r d St.ok 0 d.length [] m ∧ cnt m 0 1 ∧ Output.deliver 2 f ∈ m.out ∧ m.rdg.ports = s.main.rdg.ports ∧ framed m) ∧
        (dst ≠ ownAddr s.main → dst ≠ 0xFFF → route s.main none f = none → AnswersMain (.fabSend r d) s fun m =>
          writtenBack s.main r d St.refused 1 d.length [] m ∧ cnt m 5 1 ∧ m.rdg.ports = s.main.rdg.ports ∧ framed m) ∧
        (∀ q t u, dst ≠ ownAddr s.main → dst ≠ 0xFFF → route s.main none f = some (q, t, u) → (portOf s.main q).queue.length < 256 →
          AnswersMain (.fabSend r d) s fun m => framed m ∧
            if cls = 3 ∧ bulkMax s.main ≤ countClass 3 (portOf s.main q).queue then
              writtenBack s.main r d St.refused 2 d.length [] m ∧ m.rdg.ports.map RPort.queue = s.main.rdg.ports.map RPort.queue
            else writtenBack s.main r d St.ok 0 d.length [] m ∧ (portOf m q).queue = (portOf s.main q).queue ++ [{ onWire s.main f with turned := t }]))

/-- R412, R414–R420, R432, R433: HEARTBEAT_TX, HEARTBEAT_RX, ROLE_CHANGE, PARTNER_LOST and START_ROLE_TIMEOUT. -/
def Obligations.HeartbeatsAndRoles : Prop :=
  ∀ s : State,
    let up (v : Nat) := (v + 1) % 2 ^ 32
    let r := s.main.red
    let cnt (m : Main) (n : Nat) : Prop := m.get F.RED_CNT n = up (s.main.get F.RED_CNT n)
    let seat := s.main.get F.RED_STATUS_SEAT
    (paired s.main = false →
      AnswersMain .roleChange s (· = s.main) ∧ AnswersMain .partnerLost s (· = s.main) ∧ AnswersMain .startRoleTimeout s (· = s.main)) ∧
    (paired s.main = false ∨ fabReady s.main = false ∨ s.main.mode = Md.hold → AnswersMain .heartbeatTx s (· = s.main)) ∧
    (∀ f : RidgeFrame, hbOf f.payload = none ∨ fromPartner s.main f = false ∨ fabReady s.main = false →
      AnswersMain (.heartbeatRx f) s (· = s.main)) ∧
    (paired s.main = true → fabReady s.main = true →
      (s.main.mode ≠ Md.hold → AnswersMain .heartbeatTx s fun m =>
        let ins := if r.role = 2 then r.toSend.take 64 else []
        let flags := natOf (r.role == 2) + 2 * seat + 4 * natOf (muted s.main) + 8 * natOf (s.main.bit F.RED_STATUS_IN_SYNC) +
          16 * natOf (keysReady s.main) + 32 * natOf (s.main.exec == Ex.running)
        let body := beBytes 1 0x20 ++ beBytes 1 flags ++ beBytes 1 (s.main.get F.YLM_STATUS_RUN_EPOCH) ++ beBytes 1 ins.length ++
          beBytes 2 r.hbSeq ++ beBytes 6 (swapAt s.main) ++ beBytes 1 r.swapCause ++ zeros 3 ++
          ins.flatMap fun i => beBytes 1 i.kind ++ beBytes 1 i.sub ++ beBytes 6 i.slot ++ (i.arg ++ zeros 8).take 8
        cnt m 0 ∧ m.red = { r with hbSeq := (r.hbSeq + 1) % 65536, toSend := r.toSend.drop ins.length } ∧
        (∀ q : Fin 32, (m.host.rings[q]).parked = false) ∧
        (∀ p : Fin 2, pairPartner s.main < 0xFFF → pairPartner s.main ≠ ownAddr s.main → s.main.get F.RDG_PORT_STATUS_HEARD p = pairPartner s.main →
          2 ≤ portState s.main p → portState s.main p ≤ 4 → (p = 0 ∨ s.main.get F.RDG_PORT_STATUS_HEARD 0 ≠ pairPartner s.main) →
          (s.main.rdg.ports[p]).queue.length < 256 → ∃ f : RidgeFrame, (m.rdg.ports[p]).queue = (s.main.rdg.ports[p]).queue ++ [onWire s.main f] ∧
            f.cls = 1 ∧ f.ttl = 32 ∧ f.dst = pairPartner s.main ∧ f.src = ownAddr s.main ∧ f.isOpen = false ∧ f.turned = false ∧
            f.boot = s.main.get F.RDG_BOOT_BOOT ∧ f.seq = s.main.rdg.seq ∧ f.payload = body) ∧
        Reports (fun a => a = F.RED_CNT.addr 0 ∨ inBlock 0x0D a) [.rdg, .red] s.main m) ∧
      ∀ (f : RidgeFrame) (h : HbMsg), hbOf f.payload = some h → fromPartner s.main f = true → AnswersMain (.heartbeatRx f) s fun m =>
        m.bit F.RED_STATUS_PARTNER_UP = true ∧ cnt m 1 ∧ m.red.partner = some h ∧ m.red.role = r.role ∧
        m.bit F.RED_STATUS_ACTIVE = s.main.bit F.RED_STATUS_ACTIVE ∧ muted m = muted s.main ∧
        m.bit F.RED_STATUS_IN_SYNC = s.main.bit F.RED_STATUS_IN_SYNC ∧
        (r.role = 2 → m.ctx = s.main.ctx ∧ (h.active = false → m.red.actRun = 0) ∧
          (h.active = true → r.actRun = 2 → m.bit F.RED_STATUS_SPLIT = true ∧ cnt m 10 ∧
            (s.main.fuse.eui < partnerEui s.main → m.red.pendRole = some (1, 6)))) ∧
        (r.role ≠ 2 → m.ctx.inputs = s.main.ctx.inputs ++ h.inputs.filterMap recInput ∧ m.get F.RED_CNT 10 = s.main.get F.RED_CNT 10) ∧
        (r.role = 1 → seat = 0 → h.active = false → r.sbyRun = 2 → keysReady s.main = true → m.red.pendRole = some (2, 7)) ∧
        (r.role = 0 → s.main.exec = Ex.running → keysReady s.main = true →
          m.red.pendRole = some (if h.active = true ∨ seat = 1 then 1 else 2, 1)) ∧
        Reports (fun a => a = F.TLP_PE_STATUS_JOIN_QUEUE.addr 0 ∨ inBlock 0x0E a) [.ctx, .red] s.main m) ∧
    (paired s.main = true →
      (AnswersMain .partnerLost s fun m =>
        m.bit F.RED_STATUS_PARTNER_UP = false ∧ m.red.role = r.role ∧
        (s.main.bit F.RED_STATUS_PARTNER_UP = true → m.bit F.RED_STATUS_IN_SYNC = false ∧ cnt m 2 ∧
          (s.main.bit F.RED_CTRL_EVT50_EN = true → pends m 50 = true)) ∧
        m.red.pendRole = (if r.role = 1 ∧ keysReady s.main = true then some (2, 2) else r.pendRole) ∧
        Reports (inBlock 0x0E) [.red] s.main m) ∧
      (let due := s.main.exec = Ex.running ∧ r.role = 0 ∧ r.partner = none ∧ keysReady s.main = true
       AnswersMain .startRoleTimeout s fun m =>
         m = { s.main with red := { r with pendRole := if due then some (2, 1) else r.pendRole } }) ∧
      (s.main.exec ≠ Ex.running ∨ (keysReady s.main = true ∧ r.pendRole = none) ∨ (keysReady s.main = false ∧ r.role = 1 ∧ muted s.main = true) →
        AnswersMain .roleChange s (· = s.main)) ∧
      ∀ (role cause : Nat), (role = 1 ∨ role = 2) → cause < 16 → s.main.exec = Ex.running →
        (if keysReady s.main = true then r.pendRole = some (role, cause) else role = 1 ∧ cause = 8 ∧ ¬ (r.role = 1 ∧ muted s.main = true)) →
        AnswersMain .roleChange s fun m =>
          m.red.role = role ∧ m.bit F.RED_STATUS_ACTIVE = (role == 2) ∧ m.red.pendRole = none ∧
          muted m = (if role = 2 then false else if cause = 1 ∨ cause = 6 ∨ cause = 8 then true else muted s.main) ∧
          (if r.role = role then m.get F.RED_STATUS_CAUSE = s.main.get F.RED_STATUS_CAUSE ∧ m.mode = s.main.mode
           else m.get F.RED_STATUS_CAUSE = cause ∧ (s.main.bit F.RED_CTRL_EVT49_EN = true → pends m 49 = true) ∧
             m.mode = (if s.main.mode = Md.active ∨ s.main.mode = Md.standby then (if role = 2 then Md.active else Md.standby) else s.main.mode)) ∧
          Reports (fun a => a = F.GLB_STATUS_MODE.addr 0 ∨ a = F.PWR_MODE_MODE.addr 0 ∨ a = F.RED_STATUS_ACTIVE.addr 0) [.ctx, .pur, .red] s.main m)

/-- R422–R427, R430: DIGEST_TX, DIGEST_RX, DIGEST_MISSING, RESYNC_SNAPSHOT, RESYNC_RX, RESYNC_APPLY and RED_RESYNC. -/
def Obligations.DigestsAndResync : Prop :=
  ∀ s : State, paired s.main = true →
    let r := s.main.red
    let cnt (m : Main) (n k : Nat) : Prop := m.get F.RED_CNT n = (s.main.get F.RED_CNT n + k) % 2 ^ 32
    let sync (m : Main) := m.bit F.RED_STATUS_IN_SYNC
    let compared (a e : Digest) (m : Main) : Prop :=
      if a = e then
        cnt m 3 1 ∧ cnt m 4 0 ∧ m.red.missRun = 0 ∧ m.red.fails = 0 ∧ sync m = (!muted s.main || sync s.main) ∧
        m.red.clearPend = (r.clearPend || (muted s.main && (r.applied.any fun t => decide (t < e.course))))
      else
        cnt m 3 0 ∧ cnt m 4 1 ∧ m.get F.RED_DIFF_DIFF = digestDiff a e ∧ sync m = false ∧ m.red.mutePend = (r.mutePend || r.role == 1) ∧
        m.ylm.cur.mismatches = s.main.ylm.cur.mismatches + 1
    (∀ f : RidgeFrame, digestOf f.payload = none ∨ fromPartner s.main f = false ∨ fabReady s.main = false →
      AnswersMain (.digestRx f) s (· = s.main)) ∧
    (∀ (f : RidgeFrame) (e : Digest), digestOf f.payload = some e → fromPartner s.main f = true → fabReady s.main = true →
      AnswersMain (.digestRx f) s fun m =>
        m.red.theirs = (e :: r.theirs).take 4 ∧
        (∀ a, r.own.find? (fun d => d.course == e.course) = some a → e.course ∉ r.compared →
          compared a e m ∧ m.red.compared = [a.course] ∧ Reports (inBlock 0x0E) [.ylm, .red] s.main m) ∧
        (r.own.find? (fun d => d.course == e.course) = none ∨ e.course ∈ r.compared →
          m.red = { r with theirs := (e :: r.theirs).take 4 } ∧ Reports (fun _ => False) [.red] s.main m)) ∧
    (r.own.find? (fun d => d.course + 1 == s.main.course) = none → AnswersMain .digestTx s (· = s.main)) ∧
    (∀ a, r.own.find? (fun d => d.course + 1 == s.main.course) = some a →
      (∀ e, r.theirs.find? (fun e => e.course == a.course && decide (a.course ∉ r.compared)) = some e → AnswersMain .digestTx s fun m =>
        compared a e m ∧ m.red.compared = [a.course] ∧ Reports (fun a => inBlock 0x0D a ∨ inBlock 0x0E a) [.ylm, .rdg, .red] s.main m) ∧
      (r.theirs.find? (fun e => e.course == a.course && decide (a.course ∉ r.compared)) = none → AnswersMain .digestTx s fun m =>
        m.red = r ∧ Reports (inBlock 0x0D) [.rdg] s.main m)) ∧
    (let due := (r.own.any fun d => d.course + 1 == s.main.course) = true ∧ (r.theirs.any fun d => d.course + 1 == s.main.course) = false
     AnswersMain .digestMissing s fun m => if due then
       cnt m 5 1 ∧ m.red.missRun = r.missRun + 1 ∧ sync m = (sync s.main && decide (r.missRun = 0)) ∧ Frame (inBlock 0x0E) [.red] s.main m else m = s.main) ∧
    (let due := r.role = 2 ∧ s.main.bit F.RED_STATUS_PARTNER_UP = true ∧ (r.partner.any (·.muted)) = true ∧ r.resync = none ∧ r.nextTry ≤ s.main.course ∧
       fabReady s.main = true
     AnswersMain .resyncSnapshot s fun m => if due then
       m.red = { r with resync := some s.main.course } ∧
       (∀ p : Fin 2, s.main.get F.RDG_PORT_STATUS_HEARD p = pairPartner s.main → portState s.main p ≠ Ps.down →
         (p = 0 ∨ s.main.get F.RDG_PORT_STATUS_HEARD 0 ≠ pairPartner s.main) →
         m.get F.RDG_TX_FRAMES p = (s.main.get F.RDG_TX_FRAMES p + ((snapBytes (takeSnapshot s.main)).length + 1455) / 1456) % 2 ^ 32) ∧
       Frame (inBlock 0x0D) [.rdg, .red] s.main m else m = s.main) ∧
    (∀ f : RidgeFrame, resyncOf f.payload = none ∨ fromPartner s.main f = false ∨ fabReady s.main = false ∨ r.role ≠ 1 →
      AnswersMain (.resyncRx f) s (· = s.main)) ∧
    (∀ (f : RidgeFrame) (x : ResyncMsg), resyncOf f.payload = some x → fromPartner s.main f = true → fabReady s.main = true → r.role = 1 →
      AnswersMain (.resyncRx f) s fun m =>
        let held := if r.snap = some x.course then r.chunks else []
        m.red = { r with
          chunks := if held.any fun c => c.1 == x.chunk then held else (x.chunk, x.data) :: held, chunkCount := x.chunks, snap := some x.course } ∧
        Reports (fun _ => False) [.red] s.main m) ∧
    (∀ missing : Bool,
      (r.role = 2 → missing = true → r.resync.isSome → AnswersMain (.resyncApply missing) s fun m =>
        m.red.resync = none ∧ m.red.fails = r.fails + 1 ∧ m.red.nextTry = s.main.course + (if 3 ≤ r.fails + 1 then 60 else 1) ∧
        m.bit F.RED_STATUS_RESYNC_FAIL = (s.main.bit F.RED_STATUS_RESYNC_FAIL || decide (3 ≤ r.fails + 1)) ∧
        Frame (· = F.RED_STATUS_RESYNC_FAIL.addr 0) [.red] s.main m) ∧
      (r.role = 2 → ¬ (missing = true ∧ r.resync.isSome) → AnswersMain (.resyncApply missing) s (· = s.main)) ∧
      (r.role ≠ 2 → r.snap = none ∨ runImg s.main = none → AnswersMain (.resyncApply missing) s (· = s.main)) ∧
      (∀ (c : Nat) (b : Img), r.role ≠ 2 → r.snap = some c → runImg s.main = some b → AnswersMain (.resyncApply missing) s fun m =>
        m.red.snap = none ∧ m.red.chunks = [] ∧ m.red.chunkCount = 0 ∧
        (if r.chunks.length = r.chunkCount ∧ r.chunkCount ≠ 0 ∧ c + 1 = s.main.course then
          cnt m 6 1 ∧ m.red.applied = some s.main.course ∧ Frame (fun a => inBlock 6 a ∨ inBlock 7 a ∨ inBlock 8 a ∨ inBlock 9 a ∨
            inBlock 0x0E a) [.ctx, .wav, .pur, .red] s.main m
         else Frame (fun _ => False) [.red] s.main m))) ∧
    (∀ (k : Fin 8) (d : Desc), accepts (CmdKind.plain 0x0902 0 activeGate) s.main k d → AnswersMain (.redResync (.host k d)) s fun m =>
      m.red = { r with resync := none, nextTry := s.main.course } ∧ writtenBack s.main k d St.ok 0 0 [] m ∧ Reports (fun _ => False) [.red] s.main m) ∧
    ∀ param imm : Nat, AnswersMain (.redResync (.pair param imm)) s fun m =>
      m = { s.main with red := { r with mutePend := r.mutePend || r.role == 1 } }

/-- R428, R429, R431: SWAP_ANNOUNCE, REVERT_HOLDOFF, RED_SWAP, SWAP_WITHDRAW and SWAP_BOUNDARY. -/
def Obligations.SwapsNeedBothSides : Prop :=
  ∀ s : State, paired s.main = true → s.main.course < 2 ^ 47 →
    let r := s.main.red
    let cnt (m : Main) (n k : Nat) : Prop := m.get F.RED_CNT n = (s.main.get F.RED_CNT n + k) % 2 ^ 32
    let seatOne := s.main.get F.RED_STATUS_SEAT = 1
    let ready := r.role = 2 ∧ s.main.bit F.RED_STATUS_PARTNER_UP = true ∧ (∃ h, r.partner = some h ∧ h.inSync = true ∧ h.keyReady = true) ∧
      muted s.main = false
    let announced (at' cause : Nat) (m : Main) : Prop :=
      swapAt m = at' ∧ m.red = { r with swapCause := cause, announced := true } ∧
      (s.main.bit F.RED_CTRL_EVT51_EN = true → pends m 51 = true) ∧
      Reports (fun a => a = F.RED_SWAP_AT_LO.addr 0 ∨ a = F.RED_SWAP_AT_HI.addr 0) [.red] s.main m
    let skipped (m : Main) : Prop := cnt m 9 1 ∧ Frame (fun a => a = F.RED_CNT.addr 9 ∨ a = F.RED_SWAP_AT_LO.addr 0 ∨ a = F.RED_SWAP_AT_HI.addr 0) [.red] s.main m
    let hours := max 1 (min 720 (s.main.get F.RED_CFG_SWAP_PERIOD))
    let secs := max 60 (min 3600 (s.main.get F.RED_HOLDOFF_HOLDOFF))
    let agreed := ∃ h, r.partner = some h ∧ h.swapAt = swapAt s.main
    (AnswersMain .swapAnnounce s fun m =>
      if r.role = 2 ∧ s.main.bit F.RED_CTRL_SWAP_EN = true ∧ (s.main.course + 60) % (3600 * hours) = 0 then
        if ready ∧ swapAt s.main = 0 then announced (s.main.course + 60) 1 m else skipped m ∧ swapAt m = swapAt s.main ∧ m.red = r
      else m = s.main) ∧
    (AnswersMain .revertHoldoff s fun m =>
      if ready ∧ swapAt s.main = 0 ∧ s.main.bit F.RED_CTRL_REVERT_EN = true ∧ seatOne ∧
          (s.main.get F.RED_STATUS_CAUSE = 1 ∨ s.main.get F.RED_STATUS_CAUSE = 2) ∧ (∃ t, r.syncSince = some t ∧ t + secs ≤ s.main.course)
      then announced (s.main.course + 2) 3 m else m = s.main) ∧
    (∀ (k : Fin 8) (d : Desc), accepts (CmdKind.plain 0x0901 0 activeGate) s.main k d → AnswersMain (.redSwap k d) s fun m =>
      if ready then announced (s.main.course + 2) 2 m ∧ writtenBack s.main k d St.ok 0 0 [] m
      else writtenBack s.main k d St.refused 1 0 [] m ∧ Reports (fun _ => False) [] s.main m) ∧
    (AnswersMain .swapWithdraw s fun m =>
      if r.announced = true ∧ swapAt s.main ≠ 0 ∧ 100 * swapAt s.main ≤ s.main.slotNow + 40 ∧ ¬ agreed then
        skipped m ∧ swapAt m = 0 ∧ m.red = { r with swapCause := 0, announced := false }
      else m = s.main) ∧
    ((swapAt s.main = 0 ∨ s.main.course < swapAt s.main) → AnswersMain .swapBoundary s (· = s.main)) ∧
    (swapAt s.main ≠ 0 → swapAt s.main ≤ s.main.course → AnswersMain .swapBoundary s fun m =>
      swapAt m = 0 ∧ m.red.announced = false ∧
      ((r.role = 1 ∨ r.role = 2) → agreed → m.red.role = 3 - r.role ∧ m.bit F.RED_STATUS_ACTIVE = (r.role == 1) ∧
        (r.swapCause ≤ 3 → m.get F.RED_STATUS_CAUSE = r.swapCause + 2) ∧ cnt m 8 1 ∧ cnt m 9 0 ∧
        (s.main.bit F.RED_CTRL_EVT49_EN = true → pends m 49 = true) ∧
        Reports (fun a => a = F.GLB_STATUS_MODE.addr 0 ∨ a = F.PWR_MODE_MODE.addr 0 ∨ inBlock 0x0E a) [.ctx, .pur, .red] s.main m) ∧
      (¬ agreed ∨ r.role = 0 → m.red.role = r.role ∧ m.bit F.RED_STATUS_ACTIVE = s.main.bit F.RED_STATUS_ACTIVE ∧ cnt m 8 0 ∧
        cnt m 9 (natOf r.announced) ∧ Frame (inBlock 0x0E) [.red] s.main m))

/-- R452–R461, R463, R465: PTP_MESSAGE_RX, ANNOUNCE_TIMEOUT, FORCE, PTP_MESSAGE_TX, PTP_TSQ_READ, TTO_EDGE and TTO_WIDTH_END. The rate of a
slew is a free value within its bounds. -/
def Obligations.ClockFollowsItsMaster : Prop :=
  ∀ s : State,
    let st := servo s.main
    let follows := st = Sv.locking ∨ st = Sv.locked
    let addend (m : Main) := m.get F.PTP_ADDEND_ADDEND
    let kept (m : Main) : Prop := m.time.sec = s.main.time.sec ∧ m.time.ns = s.main.time.ns ∧ m.time.tsq = s.main.time.tsq ∧ m.time.tto = s.main.time.tto
    let ruled (m : Main) : Prop := m.bit F.RTC_TRIM_AUTO = (s.main.bit F.RTC_TRIM_AUTO && disciplined m)
    let regs (a : Nat) : Prop := inBlock 0x10 a ∨ a = F.RTC_TRIM_AUTO.addr 0
    /- the clocks are as given, but for what the end of the discipline clears, and no register but RTC_TRIM.AUTO changes -/
    let only (v : Time) (m : Main) : Prop := ruled m ∧ Frame (· = F.RTC_TRIM_AUTO.addr 0) [.time] s.main m ∧
      ({ m.time with syncStep := v.syncStep, trimPhase := v.trimPhase } : Time) = v
    let takes (p : Fin 2) : Prop := ptpRole s.main ≠ 0 ∧ portState s.main p ≠ Ps.down
    let asym (p : Fin 2) : Int := signed 16 (s.main.get F.PTP_ASYM p)
    let same := s.main.time
    let offset (o : Int) (m : Main) : Prop :=
      let jump := same.force = true ∨ st = Sv.unset ∨ (st = Sv.free ∧ s.main.bit F.PTP_CTRL_JUMP_FREE = true)
      let limit := 1000 * max 1 (min 1000000 (s.main.get F.PTP_JUMP_LIMIT))
      m.get F.PTP_OFFSET = twos 32 (max (-(2 ^ 31)) (min (2 ^ 31 - 1) o)) ∧ ruled m ∧ m.time.master = same.master ∧
      (jump →
        let t := ((same.sec * 1000000000 + same.ns : Nat) - o).toNat
        m.time.sec = t / 1000000000 % 2 ^ 48 ∧ m.time.ns = t % 1000000000 ∧ addend m = addend s.main ∧ m.time.force = false ∧
          m.bit F.PTP_STATUS_REFUSING = false ∧ servo m = (if st = Sv.locked then Sv.locked else Sv.locking) ∧
          Reports (fun a => regs a ∨ inBlock 4 a) [.time, .ylm] s.main m) ∧
      (¬ jump → limit < o.natAbs → kept m ∧ Reports regs [.time] s.main m ∧
          addend m = (if follows then same.addendKept % 2 ^ 32 else addend s.main) ∧
          m.bit F.PTP_STATUS_REFUSING = true ∧ m.bit F.PTP_STATUS_JUMP_REFUSED = true ∧ servo m = (if follows then Sv.holdover else st) ∧
          (s.main.bit F.PTP_STATUS_REFUSING = false → s.main.bit F.PTP_CTRL_EVT56_EN = true → pends m 56 = true)) ∧
      (¬ jump → o.natAbs ≤ limit → kept m ∧ Reports regs [.time] s.main m ∧ m.bit F.PTP_STATUS_REFUSING = false ∧
          (0x50000000 - 0x50000000 / 5000 ≤ addend s.main → addend s.main ≤ 0x50000000 + 0x50000000 / 5000 →
            0x50000000 - 0x50000000 / 5000 ≤ addend m ∧ addend m ≤ 0x50000000 + 0x50000000 / 5000 ∧
            addend s.main - addend s.main / 10000 ≤ addend m ∧ addend m ≤ addend s.main + addend s.main / 10000) ∧
          (if st = Sv.locking then
            if o.natAbs ≤ 1000 then (if same.inRun < 15 then servo m = Sv.locking ∧ m.time.inRun = same.inRun + 1 else servo m = Sv.locked)
            else servo m = Sv.locking ∧ m.time.inRun = 0
          else if st = Sv.locked then
            if o.natAbs ≤ 1000 then servo m = Sv.locked ∧ m.time.outRun = 0
            else if same.outRun < 3 then servo m = Sv.locked ∧ m.time.outRun = same.outRun + 1 else servo m = Sv.locking
          else servo m = Sv.locking) ∧
          (servo m = Sv.locked → m.time.addendKept = addend m))
    (∀ x : PtpMsg, ptpRole s.main = 0 ∨ portState s.main (ptpPort x) = Ps.down → AnswersMain (.ptpMessageRx x) s (· = s.main)) ∧
    (∀ (p : Fin 2) (dom source seq : Nat) (two : Bool) (origin : Nat) (corr : Int) (stamp : Nat), takes p →
      let c : Instr := .ptpMessageRx (.sync p dom source seq two origin corr stamp)
      let got : Int := stamp - corr - asym p
      if fromMaster s.main dom source = false then AnswersMain c s (only same)
      else if two = true then AnswersMain c s (only { same with syncWait := some (p, seq, got) })
      else match same.pathDelay with
        | none => AnswersMain c s (only { same with syncWait := none, syncDiff := some (got - origin) })
        | some d => AnswersMain c s (offset (got - origin - d))) ∧
    (∀ (p : Fin 2) (dom source seq origin : Nat) (corr : Int), takes p →
      let c : Instr := .ptpMessageRx (.followUp p dom source seq origin corr)
      match same.syncWait with
      | none => AnswersMain c s (only same)
      | some (q, n, got) =>
        if ¬ (fromMaster s.main dom source = true ∧ q = p.val ∧ n = seq) then AnswersMain c s (only same)
        else match same.pathDelay with
          | none => AnswersMain c s (only { same with syncWait := none, syncDiff := some (got - corr - origin) })
          | some d => AnswersMain c s (offset (got - corr - origin - d))) ∧
    (∀ (p : Fin 2) (dom source seq stamp : Nat), takes p → AnswersMain (.ptpMessageRx (.delayReq p dom source seq stamp)) s fun m =>
      only same m ∧ (ptpRole s.main = 1 → dom = s.main.get F.PTP_CFG_DOMAIN → Output.ptpTx p 9 seq ∈ m.out)) ∧
    (∀ (p : Fin 2) (dom source seq receive : Nat) (corr : Int) (req : Nat), takes p →
      let c : Instr := .ptpMessageRx (.delayResp p dom source seq receive corr req)
      match same.delayReq, same.syncDiff with
      | some (q, n, sent), some diff =>
        if fromMaster s.main dom source = true ∧ q = p.val ∧ n = seq ∧ req = s.main.fuse.eui then
          AnswersMain c s (only { same with delayReq := none, pathDelay := some ((diff + ((receive : Int) - corr - sent + asym p)) / 2) })
        else AnswersMain c s (only same)
      | _, _ => AnswersMain c s (only same)) ∧
    (∀ x : PtpMsg, ptpRole s.main = 2 → portState s.main (ptpPort x) ≠ Ps.down → portState s.main (1 - (ptpPort x).val) ≠ Ps.down →
      AnswersMain (.ptpMessageRx x) s fun m => Output.ptpTx (1 - (ptpPort x).val) (ptpTypeSeq x).1 (ptpTypeSeq x).2 ∈ m.out) ∧
    (∀ (p : Fin 2) (dom : Nat) (ptp valid l61 l59 : Bool) (ds : List Nat) (off : Nat), takes p →
      let id := ds.getD 5 0
      let better := match same.master with | none => True | some d => dsLess d ds = false ∨ d.getD 5 0 = id
      let taken := dom = s.main.get F.PTP_CFG_DOMAIN ∧ ptp = true ∧ better ∧
        (ptpRole s.main = 1 → dsLess ds [s.main.get F.PTP_CFG_PRIORITY1, 248, 0xFE, 0xFFFF, s.main.get F.PTP_CFG_PRIORITY2, s.main.fuse.eui] = true)
      let c : Instr := .ptpMessageRx (.announce p dom ptp ds off valid l61 l59)
      (¬ taken → AnswersMain c s (only same)) ∧
      (taken → AnswersMain c s fun m => kept m ∧ ruled m ∧ Frame regs [.time] s.main m ∧ servo m = st ∧ m.time.master = some ds ∧
        m.bit F.PTP_STATUS_GM_LOCAL = false ∧ m.bit F.PTP_STATUS_UTC_VALID = valid ∧ m.get F.PTP_STATUS_UTC_OFFSET = off % 256 ∧
        m.bit F.PTP_STATUS_LEAP61 = l61 ∧ m.bit F.PTP_STATUS_LEAP59 = l59 ∧ m.get64 F.PTP_GM_LO F.PTP_GM_HI = id % 2 ^ 64)) ∧
    (AnswersMain .announceTimeout s fun m => kept m ∧ ruled m ∧ Frame regs [.time] s.main m ∧ m.time.master = none ∧
      m.bit F.PTP_STATUS_GM_LOCAL = decide (ptpRole s.main = 1) ∧ m.bit F.PTP_STATUS_UTC_VALID = false ∧
      m.bit F.PTP_STATUS_LEAP61 = false ∧ m.bit F.PTP_STATUS_LEAP59 = false ∧ servo m = (if follows then Sv.holdover else st) ∧
      addend m = (if follows then same.addendKept % 2 ^ 32 else addend s.main)) ∧
    (hostReaches 0x10 s.main → AnswersMain .force s fun m => m.time = { s.main.time with force := true } ∧
      m.bit F.PTP_STATUS_REFUSING = false ∧ servo m = st ∧ Frame (· = F.PTP_STATUS_REFUSING.addr 0) [.time, .host] s.main m) ∧
    (∀ (p : Fin 2) (typ seq sec ns : Nat),
      let stamped := typ ≤ 1 ∧ s.main.bit F.PTP_CTRL_TSQ_EN = true
      let sent : Time := if typ = 1 then { s.main.time with delayReq := some (p, seq, sec * 1000000000 + ns) } else s.main.time
      let c : Instr := .ptpMessageTx p typ seq sec ns
      (ptpRole s.main = 0 ∨ portState s.main p = Ps.down → AnswersMain c s (· = s.main)) ∧
      (ptpRole s.main ≠ 0 → portState s.main p ≠ Ps.down → AnswersMain c s fun m => Output.ptpTx p typ seq ∈ m.out ∧
        (typ = 0 → s.main.bit F.PTP_CTRL_TWO_STEP = true → Output.ptpTx p 8 seq ∈ m.out) ∧
        Reports (· = F.PTP_TSQ_STAT_FILL.addr 0) [.time] s.main m ∧
        (¬ stamped → m.time = sent) ∧
        (stamped → s.main.time.tsq.length < 16 → m.time = { sent with tsq := s.main.time.tsq ++ [⟨p, typ, seq, sec, ns⟩] } ∧
          m.get F.PTP_TSQ_STAT_FILL = s.main.time.tsq.length + 1 ∧
          (s.main.time.tsq = [] → s.main.bit F.PTP_CTRL_EVT22_EN = true → pends m 22 = true)) ∧
        (stamped → 16 ≤ s.main.time.tsq.length → m.time = sent ∧
          m.get F.PTP_TSQ_STAT_OVERFLOWS = (s.main.get F.PTP_TSQ_STAT_OVERFLOWS + 1) % 2 ^ 16 ∧
          (s.main.bit F.PTP_CTRL_EVT57_EN = true → pends m 57 = true)))) ∧
    (hostReaches 0x10 s.main → AnswersMain .ptpTsqRead s fun m => Output.readData 0x100040 (m.word 0x100040) ∈ m.out ∧ m.time = { s.main.time with tsq := s.main.time.tsq.drop 1 } ∧
      Frame (fun a => 0x100040 ≤ a ∧ a ≤ 0x10004C) [.time, .host] s.main m ∧
      match s.main.time.tsq with
      | [] => m.bit F.PTP_TSQ_VALID = false
      | e :: rest => m.bit F.PTP_TSQ_VALID = true ∧ m.get F.PTP_TSQ_PORT = e.port % 2 ∧ m.get F.PTP_TSQ_MSGTYPE = e.typ % 16 ∧
          m.get F.PTP_TSQ_SEQ_ID = e.seq % 2 ^ 16 ∧ m.get F.PTP_TSQ_NS = e.ns % 2 ^ 30 ∧ m.get F.PTP_TSQ_SEC = e.sec % 2 ^ 32 ∧
          m.get F.PTP_TSQ_STAT_FILL = rest.length % 32) ∧
    ∀ n : Fin 4,
      let out (m : Main) := m.time.tto[n]
      (s.main.bit F.TTO_CFG_ARM n = false ∨ (out s.main).edge = none → AnswersMain (.ttoEdge n) s (· = s.main)) ∧
      (∀ e, s.main.bit F.TTO_CFG_ARM n = true → (out s.main).edge = some e → AnswersMain (.ttoEdge n) s fun m =>
        let per := s.main.bit F.TTO_CFG_PERIODIC n
        Output.tto n true ∈ m.out ∧ m.bit F.TTO_CFG_ARM n = per ∧
        m.time = { s.main.time with tto := s.main.time.tto.set n ⟨true, if per then some (e + s.main.get F.TTO_PERIOD n) else none, false⟩ } ∧
        (per = false → m.bit F.TTO_CFG_FIRED n = true) ∧
        (per = false ∨ (out s.main).first = true → s.main.bit F.PTP_CTRL_EVT58_EN = true → pends m 58 = true) ∧
        Reports (· = F.TTO_CFG_ARM.addr n) [.time] s.main m) ∧
      ((out s.main).active = false → AnswersMain (.ttoWidthEnd n) s (· = s.main)) ∧
      ((out s.main).active = true → AnswersMain (.ttoWidthEnd n) s fun m => Output.tto n false ∈ m.out ∧
        m.time = { s.main.time with tto := s.main.time.tto.set n { out s.main with active := false } } ∧ Frame (fun _ => False) [.time] s.main m)

/-- R437–R443, R445–R447, R449–R451: CALENDAR_SECOND, COMMIT, ALM_CFG_WRITE, RTC_WAKE_WRITE, COUNTDOWN_RUN, COUNTDOWN_TICK, PERIODIC_WAKE,
AON_SUPPLY_LOSS, TRIM_WINDOW_END and SYNC_STEP. -/
def Obligations.CalendarCountsAndAlarms : Prop :=
  ∀ s : State,
    let rtc := inBlock 0x0F
    let almRegs (n a : Nat) : Prop := 0x0F0100 + 32 * n ≤ a ∧ a < 0x0F0120 + 32 * n
    let sameAlarm (n : Nat) (m : Main) : Prop := (∀ a, almRegs n a → m.word a = s.main.word a) ∧
      m.bit F.RTC_STATUS_ALM_PEND 0 n = s.main.bit F.RTC_STATUS_ALM_PEND 0 n
    let y := unbcd (s.main.get F.RTC_DATE_YEAR)
    let mo := unbcd (s.main.get F.RTC_DATE_MONTH)
    let d := unbcd (s.main.get F.RTC_DATE_DAY)
    let days (y mo : Nat) : Nat := if mo = 2 then (if y % 4 = 0 ∧ (y % 100 ≠ 0 ∨ y % 400 = 0) then 29 else 28) else if mo ∈ [4, 6, 9, 11] then 30 else 31
    let decimal := isBcd (s.main.get F.RTC_DATE_YEAR) = true ∧ isBcd (s.main.get F.RTC_DATE_MONTH) = true ∧ isBcd (s.main.get F.RTC_DATE_DAY) = true
    let shows (m : Main) (y mo d : Nat) : Prop := unbcd (m.get F.RTC_DATE_YEAR) = y ∧ unbcd (m.get F.RTC_DATE_MONTH) = mo ∧
      unbcd (m.get F.RTC_DATE_DAY) = d ∧ m.get F.RTC_DATE_WEEKDAY = weekday (daysOf y mo d)
    (decimal → 2000 ≤ y → y ≤ 2199 → 1 ≤ mo → mo ≤ 12 → 1 ≤ d → d ≤ days y mo → calSecond s.main ≤ 86400 → AnswersMain .calendarSecond s fun m =>
      let auto := s.main.bit F.RTC_TRIM_AUTO = true
      let t := calSecond s.main
      let ends := t = 86400 ∨ (t = 86399 ∧ ¬ (auto ∧ s.main.bit F.PTP_STATUS_LEAP61 = true)) ∨
        (t = 86398 ∧ auto ∧ s.main.bit F.PTP_STATUS_LEAP59 = true)
      Reports rtc [] s.main m ∧ m.log.opSec = s.main.log.opSec + 1 ∧
      (¬ ends → calSecond m = t + 1 ∧ m.word (F.RTC_DATE_DAY.addr 0) = s.main.word (F.RTC_DATE_DAY.addr 0)) ∧
      (ends → calSecond m = 0 ∧
        if y = 2199 ∧ mo = 12 ∧ d = 31 then shows m 2000 1 1 ∧ m.bit F.RTC_STATUS_CENTURY_WRAP = true
        else if d < days y mo then shows m y mo (d + 1) else if mo < 12 then shows m y (mo + 1) 1 else shows m (y + 1) 1 1) ∧
      ∀ n : Fin 4,
        let due := s.main.bit F.ALM_CFG_ENABLE n = true ∧ almSecond s.main n = calSecond m ∧
          (s.main.bit F.ALM_CFG_DAILY n = true ∨ almDate s.main n = calDate m) ∧ ∀ f, almFired s.main n = some f → f < calDate m
        (¬ due → sameAlarm n m) ∧
        (due → m.bit F.RTC_STATUS_ALM_PEND 0 n = true ∧ m.bit F.ALM_STATE_SKIPPED n = false ∧ m.get F.ALM_STATE_SKIPS n = 0 ∧
          m.bit F.ALM_CFG_ENABLE n = s.main.bit F.ALM_CFG_DAILY n ∧ m.get F.ALM_FIRED_YEAR n = m.get F.RTC_DATE_YEAR ∧
          m.get F.ALM_FIRED_MONTH n = m.get F.RTC_DATE_MONTH ∧ m.get F.ALM_FIRED_DAY n = m.get F.RTC_DATE_DAY ∧
          (s.main.bit F.RTC_CTRL_EVT52_EN = true → pends m 52 = true))) ∧
    (hostReaches 0x0F s.main → ∀ sub : Nat, AnswersMain (.commit sub) s fun m =>
      let sy := s.main.get F.RTC_SET_DATE_YEAR
      let sm := s.main.get F.RTC_SET_DATE_MONTH
      let sd := s.main.get F.RTC_SET_DATE_DAY
      let sh := s.main.get F.RTC_SET_TIME_HOUR
      let si := s.main.get F.RTC_SET_TIME_MINUTE
      let ss := s.main.get F.RTC_SET_TIME_SECOND
      let cause :=
        if ¬ (isBcd sy = true ∧ isBcd sm = true ∧ isBcd sd = true ∧ isBcd sh = true ∧ isBcd si = true ∧ isBcd ss = true) then 1
        else if unbcd sy < 2000 ∨ 2199 < unbcd sy then 2 else if unbcd sm < 1 ∨ 12 < unbcd sm then 3
        else if unbcd sd < 1 ∨ days (unbcd sy) (unbcd sm) < unbcd sd then 4
        else if 23 < unbcd sh then 5 else if 59 < unbcd si then 6 else if 59 < unbcd ss then 7
        else if s.main.bit F.RTC_CTRL_SYNC_EN = true ∧ servo s.main = Sv.locked then 8 else 0
      (cause ≠ 0 → m.bit F.RTC_STATUS_DATE_REJECT = true ∧ m.get F.RTC_STATUS_REJECT_CAUSE = cause ∧
        (s.main.bit F.RTC_CTRL_EVT55_EN = true → pends m 55 = true) ∧ Reports (· = F.RTC_STATUS_VALID.addr 0) [] s.main m) ∧
      (cause = 0 →
        Reports (fun a => rtc a ∨ inBlock 0x10 a ∨ inBlock 4 a) [.time, .ylm] s.main m ∧ m.get F.RTC_DATE_YEAR = sy ∧ m.get F.RTC_DATE_MONTH = sm ∧
        m.get F.RTC_DATE_DAY = sd ∧ m.get F.RTC_DATE_WEEKDAY = weekday (calDate m) ∧ m.get F.RTC_TIME_HOUR = sh ∧ m.get F.RTC_TIME_MINUTE = si ∧
        m.get F.RTC_TIME_SECOND = ss ∧ m.get F.RTC_SUBSEC_CYCLES = 0 ∧ m.bit F.RTC_STATUS_VALID = true ∧ m.bit F.RTC_STATUS_CENTURY_WRAP = false ∧
        servo m = (if servo s.main = Sv.unset then Sv.free else servo s.main) ∧
        (if servo s.main = Sv.unset ∨ servo s.main = Sv.free then m.time.sec = (calNow m + utcShown s.main).toNat % 2 ^ 48 ∧ m.time.ns = 0
         else m.time = s.main.time) ∧
        ∀ n : Fin 4,
          let at' := 86400 * almDate s.main n + almSecond s.main n
          let day (i : Int) : Int := (i - almSecond s.main n) / 86400
          let passed : Nat := if s.main.bit F.ALM_CFG_ENABLE n = false ∨ calNow m ≤ calNow s.main then 0
            else if s.main.bit F.ALM_CFG_DAILY n = true then (day (calNow m) - day (calNow s.main)).toNat
            else if calNow s.main < at' ∧ at' ≤ calNow m then 1 else 0
          almFired s.main n = none →
            (passed = 0 → sameAlarm n m) ∧
            (passed ≠ 0 → m.bit F.RTC_STATUS_ALM_PEND 0 n = true ∧ m.bit F.ALM_STATE_SKIPPED n = true ∧ m.get F.ALM_STATE_SKIPS n = min passed 65535 ∧
              m.bit F.ALM_CFG_ENABLE n = s.main.bit F.ALM_CFG_DAILY n ∧ (s.main.bit F.RTC_CTRL_EVT52_EN = true → pends m 52 = true)))) ∧
    (hostReaches 0x0F s.main → ∀ (n : Fin 4) (v : Nat), AnswersMain (.almCfgWrite n v) s fun m =>
      let daily := v.testBit 30
      let ay := s.main.get F.ALM_DATE_YEAR n
      let am := s.main.get F.ALM_DATE_MONTH n
      let ad := s.main.get F.ALM_DATE_DAY n
      let ah := s.main.get F.ALM_TIME_HOUR n
      let ai := s.main.get F.ALM_TIME_MINUTE n
      let az := s.main.get F.ALM_TIME_SECOND n
      let dated (p : Prop) : Prop := daily = false ∧ p
      let cause :=
        if ¬ (isBcd ah = true ∧ isBcd ai = true ∧ isBcd az = true) ∨ dated ¬ (isBcd ay = true ∧ isBcd am = true ∧ isBcd ad = true) then 1
        else if dated (unbcd ay < 2000 ∨ 2199 < unbcd ay) then 2 else if dated (unbcd am < 1 ∨ 12 < unbcd am) then 3
        else if dated (unbcd ad < 1 ∨ days (unbcd ay) (unbcd am) < unbcd ad) then 4
        else if 23 < unbcd ah then 5 else if 59 < unbcd ai then 6 else if 59 < unbcd az then 7
        else if dated (86400 * almDate s.main n + almSecond s.main n ≤ calNow s.main) then 9 else 0
      m.bit F.ALM_CFG_DAILY n = daily ∧ almFired m n = none ∧ m.bit F.ALM_STATE_SKIPPED n = false ∧ m.get F.ALM_STATE_SKIPS n = 0 ∧
      m.bit F.ALM_CFG_ENABLE n = (v.testBit 31 && decide (cause = 0)) ∧
      (v.testBit 31 = true → cause ≠ 0 → m.bit F.RTC_STATUS_DATE_REJECT = true ∧ m.get F.RTC_STATUS_REJECT_CAUSE = cause ∧
        (s.main.bit F.RTC_CTRL_EVT55_EN = true → pends m 55 = true)) ∧
      (v.testBit 31 = false ∨ cause = 0 → m.word (F.RTC_STATUS_VALID.addr 0) = s.main.word (F.RTC_STATUS_VALID.addr 0)) ∧
      Reports (fun a => almRegs n a ∨ a = F.RTC_STATUS_VALID.addr 0) [] s.main m) ∧
    (hostReaches 0x0F s.main → ∀ v : Nat, AnswersMain (.rtcWakeWrite v) s fun m => m.bit F.RTC_WAKE_ENABLE = v.testBit 31 ∧
      m.get F.RTC_WAKE_PERIOD = v % 2 ^ 25 ∧ Frame (· = F.RTC_WAKE_ENABLE.addr 0) [.host] s.main m) ∧
    AnswersMain .periodicWake s (fun m => Reports (fun _ => False) [] s.main m ∧
      (s.main.bit F.RTC_WAKE_ENABLE = true → s.main.bit F.RTC_CTRL_EVT53_EN = true → pends m 53 = true) ∧
      (s.main.bit F.RTC_WAKE_ENABLE = false → m = s.main)) ∧
    (hostReaches 0x0F s.main → ∀ v : Nat, AnswersMain (.countdownRun v) s fun m => m.bit F.RTC_CNTDN_RUN = true ∧
      m.bit F.RTC_CNTDN_RELOAD = v.testBit 30 ∧ m.get F.RTC_CNTDN_UNIT = v / 2 ^ 28 % 4 ∧ m.get F.RTC_CNTDN_PRESET = v % 2 ^ 16 ∧
      m.get F.RTC_CNTDN_NOW_COUNT = v % 2 ^ 16 ∧
      Frame (fun a => a = F.RTC_CNTDN_RUN.addr 0 ∨ a = F.RTC_CNTDN_NOW_COUNT.addr 0) [.host] s.main m) ∧
    AnswersMain .countdownTick s (fun m =>
      let c := s.main.get F.RTC_CNTDN_NOW_COUNT
      (s.main.bit F.RTC_CNTDN_RUN = false → m = s.main) ∧
      (s.main.bit F.RTC_CNTDN_RUN = true →
        Reports (fun a => a = F.RTC_CNTDN_RUN.addr 0 ∨ a = F.RTC_CNTDN_NOW_COUNT.addr 0) [] s.main m ∧
        (1 < c → m.get F.RTC_CNTDN_NOW_COUNT = c - 1 ∧ m.bit F.RTC_CNTDN_RUN = true) ∧
        (c ≤ 1 → (s.main.bit F.RTC_CTRL_EVT54_EN = true → pends m 54 = true) ∧
          m.bit F.RTC_CNTDN_RUN = s.main.bit F.RTC_CNTDN_RELOAD ∧
          m.get F.RTC_CNTDN_NOW_COUNT = (if s.main.bit F.RTC_CNTDN_RELOAD then s.main.get F.RTC_CNTDN_PRESET else 0)))) ∧
    AnswersMain .aonSupplyLoss s (fun m => shows m 2000 1 1 ∧ calSecond m = 0 ∧ m.get F.RTC_SUBSEC_CYCLES = 0 ∧
      m.bit F.RTC_STATUS_VALID = false ∧ Frame rtc [] s.main m ∧
      ∀ n : Fin 4, m.bit F.ALM_CFG_ENABLE n = s.main.bit F.ALM_CFG_ENABLE n ∧ m.bit F.ALM_CFG_DAILY n = s.main.bit F.ALM_CFG_DAILY n ∧
        almSecond m n = almSecond s.main n ∧ almDate m n = almDate s.main n) ∧
    (∀ sub cyc : Nat,
      (s.main.bit F.RTC_TRIM_AUTO = false → AnswersMain (.trimWindowEnd sub cyc) s (· = s.main)) ∧
      (s.main.bit F.RTC_TRIM_AUTO = true → AnswersMain (.trimWindowEnd sub cyc) s fun m =>
        let p := calPhase sub (runClock cyc s.main)
        let rate := max (-8191) (signed 14 (s.main.get F.RTC_TRIM_TRIM)) + (match s.main.time.trimPhase with | some q => p - q | none => 0)
        m.get F.RTC_TRIM_TRIM = twos 14 (max (-8191) (min 8191 (if 3277 < p.natAbs then rate else rate + p))) ∧
        m.time = { s.main.time with syncStep := s.main.time.syncStep || decide (3277 < p.natAbs), trimPhase := some p } ∧
        Frame (· = F.RTC_TRIM_TRIM.addr 0) [.time] s.main m)) ∧
    ∀ sub : Nat,
      let goal := (s.main.time.sec : Int) + (if 500000000 ≤ s.main.time.ns then 1 else 0) - utcShown s.main
      (s.main.time.syncStep = false → AnswersMain (.syncStep sub) s (· = s.main)) ∧
      (s.main.time.syncStep = true → 86400 * daysOf 2000 1 1 ≤ goal → goal < 86400 * daysOf 2200 1 1 → AnswersMain (.syncStep sub) s fun m =>
        calNow m = goal ∧ m.get F.RTC_SUBSEC_CYCLES = 0 ∧ m.bit F.RTC_STATUS_VALID = true ∧ m.bit F.RTC_STATUS_SYNC_STEP = true ∧
        m.time = { s.main.time with syncStep := false, trimPhase := some 0 } ∧ Reports rtc [.time] s.main m)

/-- R280, R282, R283, R287, R288, R316, R319, R320, R499, R500: SNAPSHOT_RX, INFO_RX, INTERVAL_RX, PROFILE_RX, STATE_RX,
DMR_LINK_TIMEOUT and DMR_TOT_READ. -/
def Obligations.MirrorShowsVerifiedFrames : Prop :=
  ∀ (s : State) (o : List Byte),
    let cnt (m : Main) (k n : Nat) : Prop := m.get F.DMR_CNT k = (s.main.get F.DMR_CNT k + n) % 2 ^ 32
    let rows : List (Nat × Instr) := [(1, .snapshotRx o), (2, .infoRx o), (3, .intervalRx o), (4, .profileRx o), (5, .stateRx o)]
    let failed (m : Main) : Prop := cnt m 1 1 ∧ Reports (· = F.DMR_CNT.addr 1) [.mir] s.main m ∧
      ({ m.mir with upRun := s.main.mir.upRun } : Mir) = s.main.mir
    let verified (f : DmrFrame) (m : Main) : Prop := cnt m 0 1 ∧
      (∀ q n, s.main.mir.lastSeq = some (q, n) →
        cnt m 2 (min (f.seq - (q + 1)) (f.stepNo - n - (if frameKind f.body = 1 then 1 else 0)))) ∧
      (s.main.mir.lastSeq = none → cnt m 2 0) ∧
      m.mir.lastSeq = some (f.seq, f.stepNo) ∧ m.get F.DMR_LINK_LAST_SEQ = f.seq % 2 ^ 16 ∧ Reports (inBlock 0x0A) [.mir, .pur] s.main m
    let posted (m : Main) : Prop := (ringOf s.main 11).waiting ≠ [] → (ringOf s.main 11).waiting.length < 64 →
      (ringOf m 11).waiting = (ringOf s.main 11).waiting ++ [o]
    let ev (m : Main) (n : Nat) (c : Prop) : Prop := pends m n = true ↔ pends s.main n = true ∨ c
    (linkFrame s.main o = none → ∀ p ∈ rows, AnswersMain p.2 s failed) ∧
    (∀ f, linkFrame s.main o = some f →
      (∀ p ∈ rows, p.1 ≠ frameKind f.body → AnswersMain p.2 s failed) ∧
      (∀ b, f.body = .snapshot b → AnswersMain (.snapshotRx o) s fun m =>
        let was := s.main.mir.alarmSeen
        let up := m.bit F.DMR_LINK_LINK_UP
        verified f m ∧ m.mir.snap = some f ∧ up = (s.main.bit F.DMR_LINK_LINK_UP || decide (2 ≤ s.main.mir.upRun)) ∧
        (∀ k : Fin 142, m.word (0x0A0100 + 4 * k) = lle o (4 * k) 4) ∧
        m.get F.DMR_ALARM_OPEN_CT = f.openCt % 2 ^ 16 ∧ m.get F.DMR_PHASE_NOLOAD = f.noload % 2 ^ 16 ∧ m.get F.DMR_PHASE_REVERSE = f.reverse % 2 ^ 16 ∧
        m.get F.DMR_ALARM_AT_REST = f.feeders / 16 % 16 ∧ m.bit F.DMR_ALARM_MISSING_N = f.vstate.testBit 2 ∧
        m.bit F.DMR_ALARM_PSEQ_WRONG = (if f.vstate % 4 = 2 then s.main.bit F.DMR_ALARM_PSEQ_WRONG else decide (f.vstate % 4 = 1)) ∧
        m.mir.alarmSeen = (if up then (m.word 0x0A000C) else was) ∧
        ev m 37 (up = true ∧ s.main.bit F.DMR_EVT_EN_EVT37_EN = true ∧ was.testBit 10 ≠ m.bit F.DMR_ALARM_PSEQ_WRONG) ∧
        ev m 38 (up = true ∧ s.main.bit F.DMR_EVT_EN_EVT38_EN = true ∧ was.testBit 11 ≠ m.bit F.DMR_ALARM_MISSING_N) ∧
        ev m 39 (up = true ∧ s.main.bit F.DMR_EVT_EN_EVT39_EN = true ∧
          ((∃ i, 16 ≤ i ∧ i < 32 ∧ was.testBit i = false ∧ (m.word 0x0A000C).testBit i = true) ∨ (65536 ≤ was ∧ m.get F.DMR_ALARM_OPEN_CT = 0))) ∧
        ev m 40 (up = true ∧ s.main.bit F.DMR_EVT_EN_EVT40_EN = true ∧ was / 4096 % 16 ≠ m.get F.DMR_ALARM_AT_REST)) ∧
      (∀ ident meas, f.body = .info ident meas → AnswersMain (.infoRx o) s fun m => verified f m ∧ cnt m 3 1 ∧
        (∀ k : Fin 92, m.word (0x0A0400 + 4 * k) = lle (ident ++ meas) (4 * k) 4) ∧
        m.get F.DMR_ID_ROM_ID = lle ident 8 2 ∧ m.bit F.DMR_ID_INFO_VALID = true ∧ m.bit F.DMR_ID_APPROVED = decide (lle ident 96 1 = 1) ∧
        m.mir = { s.main.mir with ident := ident, meas := meas, lastSeq := some (f.seq, f.stepNo) }) ∧
      (∀ n w, f.body = .interval n w → AnswersMain (.intervalRx o) s fun m => verified f m ∧ m.word 0x0A0800 = n % 2 ^ 32 ∧
        (∀ k : Fin 16, m.word (0x0A0804 + 4 * k) = w.getD k 0 % 2 ^ 32) ∧ pends m 19 = true ∧ posted m ∧
        m.mir = { s.main.mir with lastSeq := some (f.seq, f.stepNo) }) ∧
      (∀ n k w, f.body = .profile n k w → AnswersMain (.profileRx o) s fun m => verified f m ∧ posted m ∧
        m.mir = { s.main.mir with lastSeq := some (f.seq, f.stepNo) }) ∧
      (∀ b, f.body = .state b → AnswersMain (.stateRx o) s fun m =>
        cnt m 0 1 ∧ m.mir.state = some b ∧ m.mir.snap = s.main.mir.snap ∧
        m.get F.DMR_SEAL_SEAL_STATE = b.sealState % 4 ∧ m.get F.DMR_SEAL_SESSION = b.session % 4 ∧ m.get F.DMR_SEAL_RESULT = b.result % 256 ∧
        m.get F.DMR_SEAL_NEXT_SEQ = b.nextSeq % 2 ^ 16 ∧ m.bit F.DMR_SEAL_GATE_OPEN = b.gateOpen ∧ m.bit F.DMR_SEAL_LID_OPEN = b.lidOpen ∧
        m.bit F.DMR_SEAL_METER_FAULT = b.meterFault ∧ m.get F.DMR_SEAL_CNT 0 = b.breaks % 2 ^ 32 ∧ m.get F.DMR_SEAL_CNT 1 = b.sessions % 2 ^ 32 ∧
        m.bit F.TMP_STATUS_SEAL_LIVE = decide (b.sealState = 1) ∧
        m.bit F.TMP_STATUS_SEAL_LATCH = (s.main.bit F.TMP_STATUS_SEAL_LATCH || decide (b.sealState = 1)) ∧
        ev m 7 (s.main.bit F.DMR_SEAL_EVT_EVT7_EN = true ∧ ∃ p, s.main.mir.state = some p ∧ (p.sealState ≠ b.sealState ∨ p.lidOpen ≠ b.lidOpen)) ∧
        ev m 41 (s.main.bit F.DMR_SEAL_EVT_EVT41_EN = true ∧ true ∈ b.ovf) ∧
        recNo m 0 = b.logCount % 2 ^ 48 ∧
        (∀ k : Fin 4, b.replayPos + k.val < 9216 →
          let p := b.replayPos + k.val
          recAt m 0 (if p < 1024 then 0 else 1) (if p < 1024 then p else p - 1024) = (b.replay[k.val]?).getD none) ∧
        Reports (fun a => inBlock 0x0A a ∨ a = F.TMP_STATUS_SEAL_LIVE.addr 0) [.mir] s.main m)) ∧
    AnswersMain .dmrLinkTimeout s (fun m => m.bit F.DMR_LINK_LINK_UP = false ∧ m.mir = { s.main.mir with upRun := 0 } ∧
      Frame (· = F.DMR_LINK_LINK_UP.addr 0) [.mir] s.main m) ∧
    (s.main.host.d3hot = true → AnswersMain .dmrTotRead s fun m => m = { s.main with host := { s.main.host with unsupported := true } }) ∧
    (s.main.host.d3hot = false → s.main.mode = 0 → AnswersMain .dmrTotRead s fun m => m = s.main) ∧
    (s.main.host.d3hot = false → s.main.mode = 6 → AnswersMain .dmrTotRead s fun m =>
      m.out = .readData 0x0A0600 0 :: s.main.out ∧ Frame (fun _ => False) [.host] s.main m) ∧
    (hostReaches 0x0A s.main →
      ((∀ g b, s.main.mir.snap = some g → g.body ≠ .snapshot b) → AnswersMain .dmrTotRead s fun m =>
        m.out = .readData 0x0A0600 (s.main.word 0x0A0600) :: s.main.out ∧ Frame (fun _ => False) [.host] s.main m) ∧
      (∀ g b, s.main.mir.snap = some g → g.body = .snapshot b → AnswersMain .dmrTotRead s fun m =>
        m.out = .readData 0x0A0600 (m.word 0x0A0600) :: s.main.out ∧
        (∀ k : Fin 32,
          let total := b.totals.getD k 0
          m.word (0x0A0600 + 8 * k) = total % 2 ^ 32 ∧ m.word (0x0A0604 + 8 * k) = total / 2 ^ 32 % 2 ^ 32 ∧
          m.word (0x0A0700 + 4 * k) = total / 1000000 % 2 ^ 32) ∧
        m.word 0x0A0780 = g.stepNo % 2 ^ 32 ∧ m.get F.DMR_TOT_STEP_HI_STEP_HI = g.stepNo / 2 ^ 32 % 2 ^ 16 ∧
        Frame (fun a => 0x0A0600 ≤ a ∧ a ≤ 0x0A0784) [.host] s.main m))

/-- R286 over every command, with R301's restore at power-up. -/
def Obligations.TotalsOnlyRise : Prop :=
  ∀ (c : Instr) (s t : State), (∀ k : Fin 32, s.dmr.resid[k] < 1000) → exec c s = .next t →
    match c with
    | .dormerPowerUp xa xb =>
      (match s.dmr.copies[0].filter (fun c => c.valid xa), s.dmr.copies[1].filter (fun c => c.valid xb) with
       | none, none => t.dmr.totals = s.dmr.totals ∧ t.dmr.resid = s.dmr.resid
       | some a, none => t.dmr.totals = a.totals ∧ t.dmr.resid = a.resid
       | none, some b => t.dmr.totals = b.totals ∧ t.dmr.resid = b.resid
       | some a, some b => (a.seq < b.seq → t.dmr.totals = b.totals ∧ t.dmr.resid = b.resid) ∧
          (b.seq < a.seq → t.dmr.totals = a.totals ∧ t.dmr.resid = a.resid))
    | _ => ∀ k : Fin 32, t.dmr.resid[k] < 1000 ∧
        1000 * s.dmr.totals[k] + s.dmr.resid[k] ≤ 1000 * t.dmr.totals[k] + t.dmr.resid[k]

/-- The stores of R296 and R297 keep their canonical form and the codes of R308 and R319 stay legal, at every step. -/
def Obligations.DormerSoundKept : Prop :=
  ∀ s t : State, s.dmr.sound = true → step s = .next t → t.dmr.sound = true

/-- The dormer at reset. -/
def Obligations.ResetDormerSound : Prop :=
  State.reset.dmr.sound = true ∧ State.reset.dmr.sealState = 0 ∧ State.reset.dmr.session = 0 ∧ State.reset.pending = [] ∧
  ∀ k : Fin 32, State.reset.dmr.totals[k] = 0 ∧ State.reset.dmr.resid[k] = 0

/-- R263, R285, R299, R300: DORMER_STEP_END and DORMER_SUPPLY_WARNING. -/
def Obligations.StepRegistersEnergy : Prop :=
  ∀ (s : State) (x : Meas) (short : Bool),
    let c : Instr := if short then .dormerSupplyWarning x else .dormerStepEnd x
    (s.dmr.halted = true → AnswersDormer c s fun d => d = s.dmr) ∧
    (s.dmr.halted = false → AnswersDormer c s fun d =>
      d.halted = short ∧ d.stepNo = s.dmr.stepNo + 1 ∧ d.tag = stepTag x s.dmr ∧
      (∃ (f : DmrFrame) (b : SnapBody), f.octets s.dmr.kDl ∈ d.sent ∧ f.body = .snapshot b ∧ f.stepNo = (s.dmr.stepNo + 1) % 2 ^ 48 ∧
        f.samples = stepSamples x short) ∧
      (∀ k : Fin 32, if s.dmr.meterFault then d.totals[k] = s.dmr.totals[k] ∧ d.resid[k] = s.dmr.resid[k]
        else d.resid[k] < 1000 ∧ 1000 * d.totals[k] + d.resid[k] = 1000 * s.dmr.totals[k] + s.dmr.resid[k] +
          (feederAdds s.dmr (stepSums x short s.dmr) (stepSamples x short) (k / 8)).getD (k % 8) 0) ∧
      d.sealState = s.dmr.sealState ∧ d.breaks = s.dmr.breaks ∧ d.sessions = s.dmr.sessions ∧ d.lidOpen = s.dmr.lidOpen ∧
      d.gateOpen = s.dmr.gateOpen ∧ d.session = s.dmr.session ∧ d.nonce = s.dmr.nonce ∧ d.nextSeq = s.dmr.nextSeq ∧
      d.staged = s.dmr.staged ∧ d.ident = s.dmr.ident ∧ d.meterFault = s.dmr.meterFault)

/-- R305: PULSE_START and PULSE_END. -/
def Obligations.PulseOutputs : Prop :=
  ∀ (s : State) (f : Fin 4) (t : Nat),
    let o := s.dmr.pulses[f]
    let may := s.dmr.halted = false ∧ s.dmr.meterFault = false ∧ o.on = false ∧ 0 < o.pending ∧
      ∀ l, o.last = some l → l + 2 * pulseWidth o ≤ t
    (may → AnswersDormer (.pulseStart f t) s fun d =>
      d = { s.dmr with pulses := s.dmr.pulses.set f { o with pending := o.pending - 1, on := true, last := some t } }) ∧
    (¬ may → AnswersDormer (.pulseStart f t) s fun d => d = s.dmr) ∧
    AnswersDormer (.pulseEnd f) s fun d => d = { s.dmr with pulses := s.dmr.pulses.set f { o with on := false } }

/-- R309: SEAL_SWITCH_PRESS, GATE_TIMEOUT, DMR_SESSION, and the rows of session commands at a shut gate. -/
def Obligations.GateOpensAndShuts : Prop :=
  ∀ s : State,
    AnswersDormer .sealSwitchPress s (fun d =>
      d.gateOpen = true ∧ d.gateLeft = 60000 ∧ d.switch = true ∧
      (s.dmr.session = 0 → d.session = 1 ∧ d.nonce = Config.dormerRandom s.dmr.free % 2 ^ 64 ∧ d.nextSeq = 0 ∧ d.free = s.dmr.free + 1) ∧
      (s.dmr.session ≠ 0 → d.session = s.dmr.session ∧ d.nonce = s.dmr.nonce ∧ d.nextSeq = s.dmr.nextSeq) ∧
      d.sameLog s.dmr ∧ d.sameMeter s.dmr ∧ d.sameSeal s.dmr) ∧
    (∀ x : Meas, s.dmr.halted = false → AnswersDormer (.dormerStepEnd x) s fun d =>
      d.gateLeft = s.dmr.gateLeft - 1 ∧ d.gateOpen = s.dmr.gateOpen) ∧
    AnswersDormer .gateTimeout s (fun d =>
      d.gateOpen = false ∧ d.gateLeft = 0 ∧ d.sameMeter s.dmr ∧ d.sameSeal s.dmr ∧
      (s.dmr.session = 0 → d.session = 0 ∧ d.sameLog s.dmr) ∧
      (s.dmr.session = 1 → d.session = 0 ∧ d.nonce = 0 ∧ d.sameLog s.dmr) ∧
      (s.dmr.session = 2 → d.session = 0 ∧ d.nonce = 0 ∧ d.staged = (none, none) ∧ d.result = 0x0A ∧
        ∃ r, newestLegal d 0 = some r ∧ r.code = 0x0105 ∧ r.p0 = 0x0A ∧ d.logCount = s.dmr.logCount + 1)) ∧
    (∀ (r : Fin 8) (d : Desc), accepts ⟨isOp 0x0401, false, fun d => 88 ≤ d.length && d.length ≤ 328, 0, 0, openGate⟩ s.main r d →
      let bytes := swapData d.swap (d.data.take d.length)
      AnswersMain (.dmrSession r d) s fun m =>
        Reports (fun _ => False) [.mir] s.main m ∧
        (if s.main.bit F.DMR_SEAL_GATE_OPEN
         then writtenBack s.main r d St.ok 0 d.length [] m ∧ Output.toDormer bytes ∈ m.out ∧
           m.mir = { s.main.mir with link := s.main.mir.link ++ [bytes] }
         else writtenBack s.main r d St.gateShut 0 d.length [] m ∧ m.mir = s.main.mir)) ∧
    ∀ c ∈ [Instr.sealOpen, .sealSetMeas, .sealSetPulse, .sealClose, .sealAbort],
      s.dmr.gateOpen = false → Answers c s fun t => t.dmr = s.dmr

/-- R310, R311: what the five rows take, and their common checks. -/
def Obligations.SessionCommandsCheckInOrder : Prop :=
  ∀ (s : State) (k : Fin 5),
    let i : Instr := match k.val with | 0 => .sealOpen | 1 => .sealSetMeas | 2 => .sealSetPulse | 3 => .sealClose | _ => .sealAbort
    (s.main.mir.link = [] → Answers i s fun t => t = s) ∧
    ∀ (c : List Byte) (rest : List (List Byte)), s.main.mir.link = c :: rest →
      let cmd := lle c 2 1
      let len := match cmd with | 2 => 240 | 3 => 24 | _ => 0
      let formed := lle c 0 2 = 88 + len ∧ c.length = 88 + len ∧ 1 ≤ cmd ∧ cmd ≤ 5 ∧ (lle c 3 1 = 0 ∨ (cmd = 4 ∧ lle c 3 1 = 1))
      let r := if ¬ formed then 1
        else if lle c 4 8 ≠ lle s.dmr.ident 0 8 then 2
        else if ¬ (lle c 12 8 = s.dmr.nonce ∧ s.dmr.session ≠ 0) then 3
        else if Ses.sigOk s.dmr.metroPub c = false then 4
        else if lle c 20 2 ≠ s.dmr.nextSeq then 5
        else if s.dmr.session ≠ (if cmd = 1 then 1 else 2) then 6
        else 0
      (1 ≤ cmd → cmd ≤ 5 → cmd ≠ k.val + 1 → Answers i s fun t => t = s) ∧
      (cmd = k.val + 1 ∨ cmd = 0 ∨ 5 < cmd → s.dmr.gateOpen = true → r ≠ 0 → Answers i s fun t =>
        t = { s with main := { s.main with mir := { s.main.mir with link := rest } }, dmr := { s.dmr with result := r } })

/-- R311, R312: SEAL_OPEN, SEAL_SET_MEAS, SEAL_SET_PULSE, SEAL_CLOSE and SEAL_ABORT past the common checks. -/
def Obligations.SessionCommandsAct : Prop :=
  ∀ (s : State) (c : List Byte) (rest : List (List Byte)), s.main.mir.link = c :: rest → s.dmr.gateOpen = true →
    lle c 4 8 = lle s.dmr.ident 0 8 → lle c 12 8 = s.dmr.nonce → Ses.sigOk s.dmr.metroPub c = true → lle c 20 2 = s.dmr.nextSeq →
    let formed (cmd len : Nat) := lle c 2 1 = cmd ∧ lle c 0 2 = 88 + len ∧ c.length = 88 + len
    let flags := lle c 3 1
    let answers (i : Instr) (P : Dormer → Prop) := Answers i s fun t =>
      t.main = { s.main with mir := { s.main.mir with link := rest } } ∧ t.dmr.sameMeter s.dmr ∧ P t.dmr
    let now := s.dmr.apply.getD (s.dmr.meas, s.dmr.pulse)
    let count := MeasCfg.count now.1
    (formed 1 0 → flags = 0 → s.dmr.session = 1 → answers .sealOpen fun d =>
      d.sameSeal s.dmr ∧
      (if s.dmr.reserveUsed ≤ 251 then d.session = 2 ∧ d.nextSeq = 1 ∧ d.result = 0 ∧ d.nonce = s.dmr.nonce ∧
          ∃ r, newestLegal d 0 = some r ∧ r.code = 0x0103 ∧ r.p0 = s.dmr.nonce % 2 ^ 32 ∧ r.p1 = s.dmr.nonce / 2 ^ 32 % 2 ^ 32
        else d = { s.dmr with result := 7 })) ∧
    (formed 2 240 → flags = 0 → s.dmr.session = 2 → answers .sealSetMeas fun d =>
      let b := slice c 24 240
      d.sameSeal s.dmr ∧ d.session = 2 ∧
      (if measOk b then d.staged = (some b, s.dmr.staged.2) ∧ d.nextSeq = s.dmr.nextSeq + 1 ∧ d.result = 0 ∧ d.sameLog s.dmr
        else d.staged = s.dmr.staged ∧ d.nextSeq = s.dmr.nextSeq ∧ d.result = 8 ∧ ∃ r, newestLegal d 0 = some r ∧ r.code = 0x0106 ∧
          r.p0 = s.dmr.nextSeq % 2 ^ 32)) ∧
    (formed 3 24 → flags = 0 → s.dmr.session = 2 → answers .sealSetPulse fun d =>
      let b := slice c 24 24
      d.sameSeal s.dmr ∧ d.session = 2 ∧
      (if pulseOk (s.dmr.staged.1.getD now.1) b
        then d.staged = (s.dmr.staged.1, some b) ∧ d.nextSeq = s.dmr.nextSeq + 1 ∧ d.result = 0 ∧ d.sameLog s.dmr
        else d.staged = s.dmr.staged ∧ d.nextSeq = s.dmr.nextSeq ∧ d.result = 8 ∧ ∃ r, newestLegal d 0 = some r ∧ r.code = 0x0106 ∧
          r.p0 = s.dmr.nextSeq % 2 ^ 32)) ∧
    (formed 4 0 → flags ≤ 1 → s.dmr.session = 2 → answers .sealClose fun d =>
      (if flags = 1 ∧ s.dmr.lidOpen = true then d = { s.dmr with result := 9 }
       else d.session = 0 ∧ d.nonce = 0 ∧ d.staged = (none, none) ∧ d.result = 0 ∧ d.breaks = s.dmr.breaks ∧
        d.lidOpen = s.dmr.lidOpen ∧ d.prevMeas = s.dmr.prevMeas ∧ d.prevPulse = s.dmr.prevPulse ∧
        d.sealState = (if flags = 1 ∧ s.dmr.sealState = 1 then 2 else s.dmr.sealState) ∧
        (∃ r, newestLegal d 0 = some r ∧ r.code = (if flags = 1 ∧ s.dmr.sealState = 1 then 0x0102 else 0x0105)) ∧
        (s.dmr.staged = (none, none) → withCount now.1 count = now.1 → d.sessions = s.dmr.sessions ∧ d.apply = s.dmr.apply) ∧
        (∀ b, s.dmr.staged.1 = some b → withCount b count ≠ now.1 → d.sessions = s.dmr.sessions + 1 ∧
          d.apply = some (withCount (withCount b count) (count + 1), s.dmr.staged.2.getD now.2)) ∧
        (∀ p, s.dmr.staged.2 = some p → p ≠ now.2 → d.sessions = s.dmr.sessions + 1 ∧
          d.apply = some (withCount (withCount (s.dmr.staged.1.getD now.1) count) (count + 1), p)))) ∧
    (formed 5 0 → flags = 0 → s.dmr.session = 2 → answers .sealAbort fun d =>
      d.sameSeal s.dmr ∧ d.session = 0 ∧ d.nonce = 0 ∧ d.staged = (none, none) ∧ d.result = 0 ∧
      ∃ r, newestLegal d 0 = some r ∧ r.code = 0x0105 ∧ r.p0 = 0)

/-- WITNESS_CONTACT_OPEN and _CLOSE, DORMER_CLOCK_LOSS and _RETURN, DORMER_HALT_RECOVER, DORMER_POWER_UP. -/
def Obligations.WitnessClockAndPower : Prop :=
  ∀ s : State,
    AnswersDormer .witnessContactOpen s (fun d =>
      d.sealState = 1 ∧ d.breaks = s.dmr.breaks + 1 ∧ d.lidOpen = true ∧ d.sessions = s.dmr.sessions ∧ d.sameMeter s.dmr ∧
      d.logCount = s.dmr.logCount + 1 ∧ ∃ r, newestLegal d 0 = some r ∧ r.code = 0x0101 ∧ r.p0 = d.breaks % 2 ^ 32 ∧
        r.p1 = s.dmr.stepNo % 2 ^ 32) ∧
    AnswersDormer .witnessContactClose s (fun d => d = { s.dmr with lidOpen := false }) ∧
    AnswersDormer .dormerClockLoss s (fun d => d = { s.dmr with clkInternal := true }) ∧
    AnswersDormer .dormerClockReturn s (fun d => d = { s.dmr with clkInternal := false }) ∧
    AnswersDormer .dormerHaltRecover s (fun d => d = { s.dmr with halted := false }) ∧
    ∀ xa xb : Nat, AnswersDormer (.dormerPowerUp xa xb) s fun d =>
      let a := s.dmr.copies[0].filter fun c => c.valid xa
      let b := s.dmr.copies[1].filter fun c => c.valid xb
      d.halted = false ∧ d.stepNo = s.dmr.stepStored + 200 ∧ d.seq = 0 ∧ d.settle = 20 ∧ d.session = 0 ∧ d.gateOpen = false ∧
      (∀ c : Fin 16, d.load[c].on = true) ∧ d.sealState = s.dmr.sealState ∧ d.breaks = s.dmr.breaks ∧
      d.sessions = s.dmr.sessions ∧ d.profile = s.dmr.profile ∧ d.ident = s.dmr.ident ∧ (∀ f : Fin 4, d.pulses[f].on = false) ∧
      (a = none → b = none → d.meterFault = true ∧ ∃ r, newestLegal d 0 = some r ∧ r.code = 0x0109) ∧
      (∀ x, a = some x → b = none → d.meterFault = s.dmr.meterFault ∧
        ∃ r, newestLegal d 0 = some r ∧ r.code = 0x0108 ∧ r.p0 = x.seq % 2 ^ 32) ∧
      (∀ x, b = some x → a = none → d.meterFault = s.dmr.meterFault ∧
        ∃ r, newestLegal d 0 = some r ∧ r.code = 0x0108 ∧ r.p0 = x.seq % 2 ^ 32) ∧
      (a.isSome = true → b.isSome = true → d.meterFault = s.dmr.meterFault ∧ d.sameLog s.dmr)

/-- R356: NOP and the opcodes that are not assigned. -/
def Obligations.NopAndUnassigned : Prop :=
  ∀ (s : State) (r : Fin 8) (d : Desc),
    let ended (st det : Nat) (m : Main) : Prop := writtenBack s.main r d st det 0 [] m ∧
      (ringOf m r).taken = (ringOf s.main r).taken + 1 ∧ Reports (fun _ => False) [] s.main m
    (takes (isOp 0x0000) s.main r d → AnswersMain (.nop r d) s fun m =>
      if descForm d true = false ∨ d.sg = true then ended St.badFormat 0 m
      else if d.length ≠ 0 then ended St.badLength 0 m
      else if d.param ≠ 0 then ∃ b, bitOf d.param b = true ∧ (∀ c, c < b → bitOf d.param c = false) ∧ ended St.badParam b m
      else ended St.ok 0 m) ∧
    (s.main.mode = 1 → cmdTurn s.main r = true → d.own = true → isOp 0x0000 d = true → AnswersMain (.nop r d) s (ended St.badOpcode 0)) ∧
    (cmdTurn s.main r = true → d.own = true → d.opcode ∉ assignedOps → AnswersMain (.badOpcode r d) s (ended St.badOpcode 0)) ∧
    (cmdTurn s.main r = false → ∀ c ∈ [Instr.nop r d, .badOpcode r d], AnswersMain c s fun m => m = s.main)

/-- R349, R378: RING_ENABLE, RING_DISABLE and RING_REARM. -/
def Obligations.RingsStartAndStop : Prop :=
  ∀ (s : State) (r : Fin 32) (reads : List Desc), hostReaches 2 s.main →
    AnswersMain (.ringEnable r reads) s (fun m =>
      (ringState s.main r ≠ Rs.disabled → m = { s.main with host := { s.main.host with unsupported := false } }) ∧
      (ringState s.main r = Rs.disabled → r.val < 8 ∨ (ringOf s.main r).latched = none →
        ringState m r = Rs.running ∧ m.get F.HST_RING_STATUS_CAUSE r = 0 ∧ (ringOf m r).taken = 0 ∧ (ringOf m r).cur = none ∧
        m.get F.HST_RING_DB_LIMIT r =
          (match (ringOf s.main r).latched with
           | some v => if ready s.main && channelOpen s.main (channelOf r) && channelOpen s.main 11 then v % 131072 else 0
           | none => 0)) ∧
      Reports (inBlock 7) [.ctx] s.main m) ∧
    AnswersMain (.ringDisable r) s (fun m =>
      (ringState m r = if ringState s.main r ≠ Rs.disabled ∧ r.val < 8 ∧ (ringOf s.main r).cur.isSome = true then Rs.stopping else Rs.disabled) ∧
      (8 ≤ r.val → ringState s.main r ≠ Rs.disabled → (ringOf m r).free = [] ∧ (ringOf m r).fill = []) ∧
      Reports (fun _ => False) [] s.main m) ∧
    AnswersMain (.ringRearm r reads) s (fun m =>
      (ringState s.main r ≠ Rs.halted → m = { s.main with host := { s.main.host with unsupported := false } }) ∧
      (ringState s.main r = Rs.halted → r.val < 8 → ringState m r = Rs.running) ∧
      (ringState s.main r = Rs.halted → 8 ≤ r.val → ringState m r = Rs.running ∨ ringState m r = Rs.halted) ∧
      Reports (inBlock 7) [.ctx] s.main m)

/-- R359–R362: DOORBELL and DESCRIPTOR_RETRY. -/
def Obligations.DoorbellsAreActedOnOrLatched : Prop :=
  ∀ (s : State) (r : Fin 32),
    (∀ (v : Nat) (reads : List Desc), AnswersMain (.doorbell r v reads) s fun m =>
      Reports (inBlock 7) [.ctx] s.main m ∧ m.host.unsupported = s.main.host.d3hot ∧
      (s.main.host.d3hot = true ∨ s.main.mode = 0 → m = { s.main with host := { s.main.host with unsupported := s.main.host.d3hot } }) ∧
      (s.main.host.d3hot = false → s.main.mode ≠ 0 →
        (ready s.main && ringMoves s.main r) = true → r.val < 8 ∨ reads = [] ∧ (ringOf s.main r).waiting = [] ∧ 11 ≤ r.val →
          m.get F.HST_RING_DB_LIMIT r = v % 131072 ∧ (ringOf m r).stalled = false ∧ (ringOf m r).lastDb = v % 2 ^ 32 ∧ otherRings s.main r m) ∧
      (s.main.host.d3hot = false → s.main.mode ≠ 0 → (ready s.main && ringMoves s.main r) = false →
        (ringOf m r).latched = some v ∧ (ringOf m r).lastDb = v % 2 ^ 32 ∧ m.bit F.HST_RING_STATUS_DB_LATCHED r = true ∧
        m.get F.HST_RING_DB_LIMIT r = s.main.get F.HST_RING_DB_LIMIT r ∧ otherRings s.main r m)) ∧
    let due := if r.val < 8 then (ringOf s.main r).early ≠ 0 ∧ ringMoves s.main r = true
      else ringMoves s.main r = true ∧ (ringOf s.main r).stalled = false ∧ ringAvail s.main r ≠ 0
    (∀ reads : List Desc, ¬ due ∨ reads = [] → AnswersMain (.descriptorRetry r reads) s fun m => m = s.main) ∧
    (∀ (d : Desc) (ds : List Desc), due →
      AnswersMain (.descriptorRetry r (d :: ds)) s fun m =>
        Reports (inBlock 7) [.ctx] s.main m ∧
        (d.own = true → r.val < 8 → m = s.main) ∧
        (d.own = true → 8 ≤ r.val → ds = [] → (ringOf m r).taken = (ringOf s.main r).taken + 1) ∧
        (d.own = false → (ringOf s.main r).early < 3 → (ringOf m r).early = (ringOf s.main r).early + 1 ∧ (ringOf m r).stalled = (ringOf s.main r).stalled) ∧
        (d.own = false → 3 ≤ (ringOf s.main r).early → (ringOf m r).early = 0 ∧ (ringOf m r).stalled = true ∧
          m.get F.DOORBELL_EARLY r = (s.main.get F.DOORBELL_EARLY r + 1) % 2 ^ 32 ∧
          (s.main.bit F.HST_CTRL_EVT10_EN = true → pends m 10 = true)))

/-- R366, R368: UPL_FLUSH and HOLDOFF_EXPIRY. -/
def Obligations.UploadTimers : Prop :=
  ∀ s : State,
    (∀ u : Fin 24, AnswersMain (.uplFlush u) s fun m =>
      let g := ringOf s.main (8 + u)
      let data := packRecs g.fill
      Reports (inBlock 7) [.ctx] s.main m ∧ (3 ≤ u.val → Reports (fun _ => False) [] s.main m) ∧
      (g.fill = [] ∨ ringMoves s.main (8 + u) = false → m = s.main) ∧
      (∀ n d rest, g.fill ≠ [] → ringMoves s.main (8 + u) = true → g.free = (n, d) :: rest →
        (backWrites (payloadMost s.main) (descAddr s.main (8 + u) (ringPos s.main (8 + u) n)) (8 + u) d
          ⟨St.ok, 0, data.length, swapData d.swap data⟩ g.fill.length).reverse <:+: m.out ∧
        (3 ≤ u.val → (ringOf m (8 + u)).fill = [] ∧ (ringOf m (8 + u)).free = rest ∧ (ringOf m (8 + u)).wb = g.wb + 1))) ∧
    (∀ r : Fin 32, AnswersMain (.holdoffExpiry r) s fun m =>
      Reports (fun _ => False) [] s.main m ∧ (ringOf m r).held = none ∧
      ((ringOf s.main r).held = none → (ringOf m r).holding = false ∧ m.out = s.main.out) ∧
      (∀ n, (ringOf s.main r).held = some n → n < 64 → (ringOf m r).holding = (ringOf s.main r).holding ∧
        (eventEnabled s.main n = true → pends m n = true)))

/-- R377: PAUSE, PAUSE_ALL and DMA_RESUME. -/
def Obligations.PausesHoldChannels : Prop :=
  ∀ s : State, hostReaches 3 s.main →
    (∀ c : Fin 16, AnswersMain (.pause c) s fun m =>
      m.bit F.DMA_CH_CTRL_PAUSE c = true ∧ m.bit F.DMA_CH_STATE_PAUSED c = true ∧
      (∀ r, r < 32 → channelOf r = c.val ∨ c.val = 11 → ringMoves m r = false) ∧ Reports (fun _ => False) [] s.main m) ∧
    AnswersMain .pauseAll s (fun m =>
      m.bit F.DMA_CTRL_PAUSE_ALL = true ∧ (∀ c, c < 16 → m.bit F.DMA_CH_STATE_PAUSED c = true) ∧
      (∀ r, r < 32 → ringMoves m r = false) ∧ Reports (fun _ => False) [] s.main m) ∧
    (∀ (c : Option (Fin 16)) (reads : List (Nat × List Desc)), AnswersMain (.dmaResume c reads) s fun m =>
      (match c with
       | some c => m.bit F.DMA_CH_CTRL_PAUSE c = false
       | none => m.bit F.DMA_CTRL_PAUSE_ALL = false) ∧
      (∀ k, k < 16 → channelOpen m k = true → m.bit F.DMA_CH_STATE_PAUSED k = false) ∧ Reports (inBlock 7) [.ctx] s.main m)

/-- R374, with R373: COMPLETION_TIMEOUT, HOST_NORESP and POISON. -/
def Obligations.FailedReads : Prop :=
  ∀ (s : State) (r : Fin 32) (rd : Option Desc),
    let g := ringOf s.main r
    let at' (n : Nat) := descAddr s.main r (ringPos s.main r n)
    let back (st det : Nat) (m : Main) : Prop :=
      match rd, g.free with
      | none, _ => ((segBursts (payloadMost s.main) [(at' g.taken + 24, 8)] (leBytes 4 0 ++ leBytes 2 st ++ leBytes 1 det ++ leBytes 1 0)).map
          fun b => Output.hostWrite 11 b.1 b.2 Attr.plain).reverse <:+: m.out ∧ (ringOf m r).taken = g.taken + 1
      | some d, free =>
        if r.val < 8 then (backWrites (payloadMost s.main) (at' g.taken) r d ⟨st, det, 0, []⟩).reverse <:+: m.out ∧ (ringOf m r).taken = g.taken + 1
        else match free with
          | (n, b) :: _ => (backWrites (payloadMost s.main) (at' n) r b
              ⟨st, det, (packRecs g.fill).length, swapData b.swap (packRecs g.fill)⟩ g.fill.length).reverse <:+: m.out
          | [] => True
    let frame (m : Main) : Prop := Reports (inBlock 7) [.ctx] s.main m ∧ (r.val < 8 → Reports (fun _ => False) [] s.main m)
    (∀ k : Fin 3,
      let c : Instr := if k.val = 0 then .completionTimeout r rd else .hostNoresp r (k.val == 2) rd
      (readUnder r rd s.main = false → AnswersMain c s fun m => m = s.main) ∧
      (readUnder r rd s.main = true → AnswersMain c s fun m =>
        ringState m r = Rs.halted ∧ m.get F.HST_RING_STATUS_CAUSE r = 2 ∧ back St.hostNoresp (k.val + 1) m ∧ frame m ∧
        (pends m 13 = true ↔ pends s.main 13 = true ∨ s.main.bit F.DMA_CTRL_EVT13_EN = true))) ∧
    (readUnder r rd s.main = false → AnswersMain (.poison r rd) s fun m => m = s.main) ∧
    (readUnder r rd s.main = true → AnswersMain (.poison r rd) s fun m =>
      (ringState m r = Rs.running ∨ (8 ≤ r.val ∧ r.val < 11 ∧ ringState m r = Rs.halted ∧ m.get F.HST_RING_STATUS_CAUSE r = 1)) ∧
      back St.poison 0 m ∧ frame m ∧ (pends m 14 = true ↔ pends s.main 14 = true ∨ s.main.bit F.DMA_CTRL_EVT14_EN = true))

/-- R347, R369, R379, R380: FLR, PFR, D3HOT_ENTRY, D3HOT_EXIT, READY and MSIX_UNMASK. -/
def Obligations.HostResetsReachOnlyTheHost : Prop :=
  ∀ s : State,
    (∀ k : Bool, AnswersMain (if k then .flr else .pfr) s fun m =>
      (∀ r, r < 32 → ringState m r = Rs.disabled ∧ (ringOf m r).latched = none ∧ (ringOf m r).cur = none) ∧
      m.host.d3hot = false ∧ ready m = false ∧ m.mode = s.main.mode ∧
      (∀ b, b < 2 → m.get F.YLM_BANK_STATE_STATE b ≠ 1 ∧
        (s.main.get F.YLM_BANK_STATE_STATE b ≠ 1 → m.word (F.YLM_BANK_STATE_STATE.addr b) = s.main.word (F.YLM_BANK_STATE_STATE.addr b))) ∧
      Frame (fun a => inBlock 0 a ∨ inBlock 2 a ∨ inBlock 3 a ∨ a = F.YLM_BANK_STATE_STATE.addr 0 ∨ a = F.YLM_BANK_STATE_STATE.addr 1)
        [.host, .ylm, .key, .upd] s.main m ∧
      m.key = { s.main.key with op := s.main.key.op.map fun o => { o with ring := none } } ∧
      m.upd = { s.main.upd with writing := s.main.upd.writing.map fun c => { c with ring := none } }) ∧
    AnswersMain .d3hotEntry s (fun m =>
      m.host.d3hot = true ∧ (∀ r, r < 32 → ringMoves m r = false) ∧ Frame (fun _ => False) [.host] s.main m) ∧
    (∀ reads : List (Nat × List Desc), AnswersMain (.d3hotExit reads) s fun m =>
      m.host.d3hot = false ∧ Reports (inBlock 7) [.ctx] s.main m) ∧
    (∀ reads : List (Nat × List Desc), AnswersMain (.ready reads) s fun m =>
      ready m = true ∧ (ready s.main = false → pends m 1 = true) ∧ Reports (fun a => a = F.GLB_STATUS_READY.addr 0 ∨ inBlock 7 a) [.ctx] s.main m) ∧
    (∀ v : Fin 64, hostReaches 0x3F s.main → AnswersMain (.msixUnmask v) s fun m =>
      m.bit F.MSIX_CTRL_MASK v = false ∧
      (s.main.host.funcMask = false → s.main.host.msixEnable = true → s.main.bit F.MSIX_PBA (v / 32) (v % 32) = true →
        Output.msix v ∈ m.out ∧ m.bit F.MSIX_PBA (v / 32) (v % 32) = false) ∧
      Frame (inBlock 0x3F) [.host] s.main m)

/-- R7, R346, R548: REGISTER_WRITE. -/
def Obligations.RegisterWritesFollowTheirTypes : Prop :=
  ∀ (s : State) (reads : List (Nat × List Desc)) (x : StartIn),
    let seen (u : Bool) : Main := { s.main with host := { s.main.host with unsupported := u } }
    (∀ a v : Nat, AnswersMain (.registerWrite (.bar0 a v) reads x) s fun m =>
      (s.main.host.d3hot = true → m = seen true) ∧
      (s.main.host.d3hot = false → blockOpen (a / 0x10000) s.main = false ∨ rowAt a = none → m = seen false) ∧
      (∀ r, hostReaches (a / 0x10000) s.main → rowAt a = some r → r.base ∉ ownWrites →
        (∀ i, i < 32 → (m.word a).testBit i =
          if r.rw.testBit i then v.testBit i else (s.main.word a).testBit i && !(r.w1c.testBit i && v.testBit i)) ∧
        Frame (· = a) [.host] s.main m)) ∧
    AnswersMain (.registerWrite .narrow reads x) s (fun m => m = seen true) ∧
    AnswersMain (.registerWrite .bar2Bad reads x) s (fun m => m = seen true) ∧
    (∀ on : Bool, AnswersMain (.registerWrite (.command on) reads x) s fun m => m.host.busMaster = on ∧ Frame (fun _ => False) [.host] s.main m) ∧
    (∀ on mask : Bool, AnswersMain (.registerWrite (.msix on mask) reads x) s fun m =>
      m.host.msixEnable = on ∧ m.host.funcMask = mask ∧ Frame (inBlock 0x3F) [.host] s.main m) ∧
    (∀ p q : Fin 6, AnswersMain (.registerWrite (.deviceControl p q) reads x) s fun m =>
      m = { s.main with host := { s.main.host with maxPayload := min 256 (128 * 2 ^ p.val), maxRead := 128 * 2 ^ q.val } }) ∧
    (∀ i : ConfigItem, AnswersMain (.registerWrite (.config i) reads x) s fun m => m = s.main.emit (.configData i (configValue s.main i))) ∧
    (∀ a : Nat, a / 0x10000 ≠ 0x0F → AnswersMain (.registerWrite (.read a) reads x) s fun m =>
      let answered (v : Nat) : Prop := m.out = .readData a v :: s.main.out
      (s.main.host.d3hot = true → m = seen true) ∧
      (s.main.host.d3hot = false → s.main.mode = 0 → m = s.main) ∧
      (s.main.host.d3hot = false → s.main.mode ≠ 0 → blockOpen (a / 0x10000) s.main = false →
        answered 0 ∧ Frame (fun _ => False) [.host] s.main m) ∧
      (hostReaches (a / 0x10000) s.main → a ≠ 0x0A0600 → a ≠ 0x100040 → a ≠ 0x100010 → Frame (fun _ => False) [.host] s.main m ∧
        (match groupFirst a with
         | some n =>
           let ws := groupNow a n s.main
           answered (ws.headD 0) ∧ ∀ (k : Nat) (h : k < ws.length), latchGet m (a + 4 * k) = ws[k] + 1
         | none => answered (if groupOther a = true ∧ latchGet s.main a ≠ 0 then latchGet s.main a - 1 else s.main.word a))))

/-- R491, R494, R495, R497, R498, R503, R507, R510, R515: REPLAY_START, REPLAY_RECORD, PRIV_BUFFER_MOVE, BUCKET_REFILL, SKY_PACKET and
SKY_CNT_CLEAR. The TIME of a LOST packet is a free value. -/
def Obligations.LogMovesReplaysAndRefills : Prop :=
  ∀ s : State,
    (hostReaches 0x12 s.main → ∀ v : Nat, AnswersMain (.replayStart v) s fun m =>
      let area := v / 2 ^ 28 % 2
      m.log = { s.main.log with replay := some ⟨v / 2 ^ 29 % 4, area, v % 8192 % (if area = 0 then 1024 else 8192),
        max 1 (min 8192 (s.main.get F.SOF_REPLAY_CNT_COUNT))⟩ } ∧
      m.bit F.SOF_STATUS_REPLAY_BUSY = true ∧ m.get F.SOF_REPLAY_STORE = v / 2 ^ 29 % 4 ∧ m.get F.SOF_REPLAY_AREA = area ∧
      m.get F.SOF_REPLAY_FROM = v % 8192 ∧
      Frame (fun a => a = F.SOF_REPLAY_FROM.addr 0 ∨ a = F.SOF_STATUS_REPLAY_BUSY.addr 0) [.log, .host] s.main m) ∧
    (s.main.log.replay = none ∨ (ringOf s.main 12).waiting ≠ [] → AnswersMain .replayRecord s (· = s.main)) ∧
    (∀ p : Replay, s.main.log.replay = some p → (ringOf s.main 12).waiting = [] → p.pos < areaSize p.area → AnswersMain .replayRecord s fun m =>
      let at' (i : Nat) : Option SofRec := recAt s.main p.store p.area ((p.pos + i) % areaSize p.area)
      ∃ j, j ≤ p.left ∧ (∀ i, i < j → at' i = none) ∧
        ((j = p.left ∧ m.log = { s.main.log with replay := none } ∧ m.bit F.SOF_STATUS_REPLAY_BUSY = false ∧
            Frame (· = F.SOF_STATUS_REPLAY_BUSY.addr 0) [.log] s.main m) ∨
          (j < p.left ∧ ∃ r q, at' j = some r ∧ m = uplPost 4 (recBytes r true) q ∧
            q.log = { s.main.log with replay := if p.left = j + 1 then none else some ⟨p.store, p.area, (p.pos + j + 1) % areaSize p.area, p.left - (j + 1)⟩ } ∧
            q.bit F.SOF_STATUS_REPLAY_BUSY = (s.main.bit F.SOF_STATUS_REPLAY_BUSY && decide (j + 1 < p.left)) ∧
            Frame (· = F.SOF_STATUS_REPLAY_BUSY.addr 0) [.log] s.main q))) ∧
    (s.main.log.priv = [] ∨ s.main.mode = Md.ship ∨ s.main.mode = Md.daylight → AnswersMain .privBufferMove s (· = s.main)) ∧
    (∀ store r t, s.main.log.priv = (store, r) :: t → store < 4 → s.main.mode ≠ Md.ship → s.main.mode ≠ Md.daylight → AnswersMain .privBufferMove s fun m =>
      let n := recNo s.main store
      let lost := s.main.log.lostSince
      Reports (fun _ => False) [] s.main m ∧ m.log.lostSince = 0 ∧ (n ≠ 1023 → m.log.priv = t ∧ m.get F.SOF_STATUS_PRIV_FILL = t.length % 512) ∧
      (n ≠ 1023 → recNo m store = (n + 1) % 2 ^ 48 ∧ ∀ q, q < 4 → q ≠ store → recNo m q = recNo s.main q) ∧
      ∃ x, recAt m store 1 (n % 8192) = some x ∧ (n < 1024 → recAt m store 0 n = some x) ∧ x.code = r.code ∧ x.cls = r.cls ∧ x.priv = r.priv ∧
        x.p0 = r.p0 ∧ x.p1 = r.p1 ∧ x.p2 = r.p2 ∧ x.p3 = r.p3 ∧ (store ≠ 3 → x.t = r.t ∧ x.cyc = r.cyc ∧ x.sub = r.sub) ∧
        (lost = 0 → x.lost = r.lost ∧ x.count = r.count) ∧ (lost ≠ 0 → x.lost = true ∧ x.count = min lost 65535)) ∧
    (∀ code : Nat,
      let spent (m : Main) := sget (fun _ => 0) m.log.spent code
      let count (m : Main) := sget (fun _ => 0) m.log.supp code
      (limitOf s.main code = none → AnswersMain (.bucketRefill code) s (· = s.main)) ∧
      ∀ depth every, limitOf s.main code = some (depth, every) →
        (s.main.log.opSec % every ≠ 0 ∨ spent s.main = 0 → AnswersMain (.bucketRefill code) s (· = s.main)) ∧
        (s.main.log.opSec % every = 0 → spent s.main ≠ 0 → AnswersMain (.bucketRefill code) s fun m =>
          spent m = spent s.main - 1 ∧ (∀ c, c ≠ code → sget (fun _ => 0) m.log.spent c = sget (fun _ => 0) s.main.log.spent c) ∧
          (spent s.main ≠ 1 ∨ count s.main = 0 → m.log.supp = s.main.log.supp ∧ Frame (fun _ => False) [.log] s.main m) ∧
          (spent s.main = 1 → count s.main ≠ 0 → count m = 0 ∧ Reports (fun _ => False) [] s.main m ∧
            (s.main.mode ≠ Md.hold → ∃ x, recAt m 2 1 (recNo s.main 2 % 8192) = some x ∧ x.code = 0x03F0 ∧ x.p0 = code % 2 ^ 32 ∧
              x.count = count s.main)))) ∧
    (s.main.bit F.SKY_CTRL_TRACE_EN = false → AnswersMain .skyPacket s (· = s.main)) ∧
    (s.main.bit F.SKY_CTRL_TRACE_EN = true →
      let due := s.main.log.skyDrops ≠ 0 ∧ s.main.log.sky.length < 127
      (due → AnswersMain .skyPacket s fun m => m.log = { s.main.log with skyDrops := 0 } ∧ Frame (fun _ => False) [.log] s.main m ∧
        ∃ t, t < 2 ^ 20 ∧ m.out = Output.sky (skyNibbles 0xFE t (min s.main.log.skyDrops (2 ^ 32 - 1))) :: s.main.out) ∧
      (¬ due → s.main.log.sky = [] → AnswersMain .skyPacket s (· = s.main)) ∧
      (∀ p t, ¬ due → s.main.log.sky = p :: t → AnswersMain .skyPacket s fun m => m.log = { s.main.log with sky := t } ∧
        m.get F.SKY_FILL_FILL = t.length % 256 ∧ m.out = Output.sky (skyNibbles p.src p.time p.data) :: s.main.out ∧ Frame (· = F.SKY_FILL_FILL.addr 0) [.log] s.main m)) ∧
    (hostReaches 0x13 s.main → ∀ n : Fin 256, AnswersMain (.skyCntClear n) s fun m => m.get F.SKY_CNT n = 0 ∧
      Frame (· = F.SKY_CNT.addr n) [.host] s.main m)

/-- R473–R476: KEY_OWNER_INSTALL, KEY_ACK, ATTEST and KEY_OP_DONE. -/
def Obligations.KeyOperationsStartAndEnd : Prop :=
  ∀ s : State,
    (∀ (r : Fin 8) (d : Desc), ∀ x ∈ [(Instr.keyOwnerInstall r d, 0x0701, 240, false), (.keyAck r d, 0x0703, 72, false), (.attest r d, 0x0706, 1304, true)],
      let kind : CmdKind := ⟨isOp x.2.1, false, fun d => if x.2.2.2 then decide (x.2.2.1 ≤ d.length) else d.length == x.2.2.1, 0, 0, openGate⟩
      (s.main.key.op ≠ none → AnswersMain x.1 s fun m =>
        m = if cmdTurn s.main r && d.own && isOp x.2.1 d then withRing s.main r fun g => { g with parked := true } else s.main) ∧
      (s.main.key.op = none → accepts kind s.main r d → AnswersMain x.1 s fun m =>
        m.bit F.KEY_STATUS_BUSY = true ∧
        m.key = { s.main.key with op := some ⟨some r.val, x.2.1, swapData d.swap (d.data.take d.length)⟩ } ∧
        (ringOf m r).cur = some (ringPos s.main r (ringOf s.main r).taken, d) ∧
        Reports (· = F.KEY_STATUS_BUSY.addr 0) [.key] s.main m)) ∧
    (s.main.key.op = none → AnswersMain .keyOpDone s fun m => m = s.main) ∧
    (∀ o : KeyOp, s.main.key.op = some o → (∀ r, o.ring = some r → r < 8) →
      let p : Main := { s.main.putBit F.KEY_STATUS_BUSY false with key := { s.main.key with op := none } }
      let cur := o.ring.bind fun r => (ringOf s.main r).cur.map fun c => (r, c)
      let nonceAt (i : Nat) := lle o.data i 8 = keyNonce s.main
      AnswersMain .keyOpDone s fun m =>
        let wrote (rep : Desc → Reply) : Prop := match cur with
          | some (r, pos, d) => if s.main.host.d3hot then (ringOf m r).late = some (rep d)
            else (backWrites (payloadMost s.main) (descAddr s.main r pos) r d { rep d with data := swapData d.swap (rep d).data }).reverse <:+: m.out
          | none => True
        let refused (code : Nat) : Prop := wrote (fun d => ⟨St.refused, code, d.length, []⟩) ∧ keyState m = keyState s.main ∧
          m.key = { s.main.key with op := none } ∧ genOwn m = genOwn s.main
        m.key.op = none ∧ m.bit F.KEY_STATUS_BUSY = false ∧ (s.main.bit F.KEY_CTRL_EVT8_EN = true → pends m 8 = true) ∧
        Reports (fun a => inBlock 0x11 a ∨ a = F.TLP_PE_STATUS_KEY_STATE.addr 0) [.key] s.main m ∧ genRoot m = genRoot s.main ∧
        (o.opcode = 0x0701 →
          if keyState s.main ≠ 0 then refused 0x11
          else if s.main.key.ownerPub = none ∧ s.main.mode ≠ Md.commission then refused 0x13
          else if installSigned o.data s.main = true ∧ nonceAt 168 ∧ (installKey o.data s.main).isSome = true then
            wrote (fun d => ⟨St.ok, 0, d.length, []⟩) ∧ keyState m = 1 ∧ genOwn m = min (genOwn s.main + 1) (2 ^ 32 - 1) ∧
            m.key.ownerPub = some (BitVec.ofNat 512 (lbe (o.data.take 64) 0 64)) ∧ m.key.kOwn = installKey o.data s.main ∧
            (∀ k : Fin 4, m.key.work[k] = none ∧ m.bit F.KEY_STATUS_LOADED 0 k = false) ∧ m.key.slots = s.main.key.slots
          else refused 0x12) ∧
        (o.opcode = 0x0703 →
          if keyState s.main ≠ 2 then refused 0x17
          else if class2Live s.main = true then refused 0x16
          else if ackSigned o.data s.main = true ∧ nonceAt 0 then
            wrote (fun d => ⟨St.ok, 0, d.length, []⟩) ∧ keyState m = 0 ∧ m.key = { s.main.key with op := none } ∧ genOwn m = genOwn s.main
          else refused 0x12) ∧
        (o.opcode = 0x0706 → wrote (fun _ => (attest o.data p).2) ∧ (attest o.data p).2.status = St.ok ∧
          keyState m = keyState s.main ∧ m.key = { s.main.key with op := none } ∧ genOwn m = genOwn s.main))

/-- R470–R473, R475: KEY_LOAD. -/
def Obligations.KeyLoadTakesValidBlobs : Prop :=
  ∀ (s : State) (r : Fin 8) (d : Desc),
    let nor := bitOf d.param 6
    let slot := d.param % 64
    let single := s.main.get F.KEY_CFG_MODE = 0
    let n := if nor then 0 else d.length
    let blob := if nor then (vget s.main.key.slots slot none).map (·.blob) else some (swapData d.swap (d.data.take d.length))
    (s.main.key.op ≠ none → AnswersMain (.keyLoad r d) s fun m =>
      m = if cmdTurn s.main r && d.own && isOp 0x0702 d then withRing s.main r fun g => { g with parked := true } else s.main) ∧
    (s.main.key.op = none → accepts ⟨isOp 0x0702, nor, fun d => d.length == (if nor then 0 else 72), 0x1FF, 0, openGate⟩ s.main r d →
    AnswersMain (.keyLoad r d) s fun m =>
      let refused (code : Nat) : Prop := writtenBack s.main r d St.refused code n [] m ∧ m.key = s.main.key
      Reports (fun a => inBlock 0x11 a ∨ a = F.TLP_PE_STATUS_KEY_STATE.addr 0) [.key] s.main m ∧
      (if keyState s.main ≠ 1 then refused 0x14
       else if single ∧ 4 ≤ slot ∨ blob = none then refused 0x15
       else ∀ b, blob = some b →
        match workKey s.main b with
        | none => refused 0x10
        | some w =>
          writtenBack s.main r d St.ok 0 n [] m ∧
          (∀ k : Fin 4, m.key.work[k] = if k.val + 0x10 = Blob.ktype b then some w else s.main.key.work[k]) ∧
          (∀ k : Fin 4, k.val + 0x10 = Blob.ktype b → m.bit F.KEY_STATUS_LOADED 0 k = true ∧ m.get F.KEY_ID k = w.keyId % 2 ^ 32) ∧
          (∀ i : Fin 64, m.key.slots[i] =
            if nor = false ∧ (if single then i.val + 0x10 = Blob.ktype b else bitOf d.param 7 = true ∧ i.val = slot)
            then some ⟨b, decide single || bitOf d.param 8⟩ else s.main.key.slots[i])))

/-- R473–R475: KEY_BUMP, KEY_BUMP_ROOT and KEY_ZEROISE. -/
def Obligations.GenerationsAndZeroise : Prop :=
  ∀ (s : State) (r : Fin 8) (d : Desc),
    let up (v : Nat) := min (v + 1) (2 ^ 32 - 1)
    let data := swapData d.swap (d.data.take d.length)
    let ok (opcode : Nat) := cmacGood d opcode data s.main = true ∧ lle data 0 8 = keyNonce s.main
    let kind (row : Desc → Bool) (param : Nat) : CmdKind := ⟨row, false, fun d => d.length == 24, param, 0, openGate⟩
    let kept (m : Main) : Prop := m.key = s.main.key ∧ genRoot m = genRoot s.main ∧ genOwn m = genOwn s.main ∧ keyState m = keyState s.main
    let framed (m : Main) : Prop := Reports (fun a => inBlock 0x11 a ∨ a = F.TLP_PE_STATUS_KEY_STATE.addr 0) [.key] s.main m
    let refused (code : Nat) (m : Main) : Prop := framed m ∧ kept m ∧ writtenBack s.main r d St.refused code d.length [] m
    (s.main.key.op ≠ none → ∀ x : StartIn, ∀ p ∈ [(Instr.keyBump r d, bumpRow false), (.keyBumpRoot r d, bumpRow true), (.keyZeroise r d x, isOp 0x0705)],
      AnswersMain p.1 s fun m => m = if cmdTurn s.main r && d.own && p.2 d then withRing s.main r fun g => { g with parked := true } else s.main) ∧
    (s.main.key.op = none → accepts (kind (bumpRow false) 1) s.main r d → AnswersMain (.keyBump r d) s fun m =>
      if hstReady s.main = false then refused 0x14 m
      else if ¬ ok 0x0704 then refused 0x12 m
      else framed m ∧ writtenBack s.main r d St.ok 0 d.length [] m ∧
        genOwn m = up (genOwn s.main) ∧ genRoot m = genRoot s.main ∧ keyState m = keyState s.main ∧ m.key = s.main.key) ∧
    (s.main.key.op = none → accepts (kind (bumpRow true) 1) s.main r d → AnswersMain (.keyBumpRoot r d) s fun m =>
      if hstReady s.main = false then refused 0x14 m
      else if ¬ ok 0x0704 then refused 0x12 m
      else framed m ∧ writtenBack s.main r d St.ok 0 d.length [] m ∧
        genRoot m = up (genRoot s.main) ∧ genOwn m = genOwn s.main ∧ keyState m = 0 ∧ m.key.kOwn = none ∧ ∀ k : Fin 4, m.key.work[k] = none) ∧
    (s.main.key.op = none → accepts (kind (isOp 0x0705) 0) s.main r d → ∀ x : StartIn,
      (hstReady s.main = false → AnswersMain (.keyZeroise r d x) s (refused 0x14)) ∧
      (hstReady s.main = true → ¬ ok 0x0705 → AnswersMain (.keyZeroise r d x) s (refused 0x12)) ∧
      (hstReady s.main = true → ok 0x0705 → ∃ p : Main, exec (.keyZeroise r d x) s = .next { s with main := warmReset 6 2 x p } ∧
        framed p ∧ genRoot p = up (genRoot s.main) ∧ genOwn p = up (genOwn s.main) ∧ keyState p = 0 ∧ p.key.kOwn = none ∧
        (∀ k : Fin 4, p.key.work[k] = none) ∧ writtenBack s.main r d St.ok 0 d.length [] p))

/-- R477–R481: TAMPER_INPUT, MESH_BREAK and TAMPER_SOURCE_CLEAR. -/
def Obligations.TampersRaiseTheirClass : Prop :=
  ∀ s : State,
    let up (v : Nat) := min (v + 1) (2 ^ 32 - 1)
    let asserted (k : Fin 4) (isOpen : Bool) : Bool := s.main.bit F.TMP_IN_CFG_ENABLE k && tampAsserted s.main k isOpen
    let tmp (a : Nat) : Prop := inBlock 0x11 a ∨ a = F.TLP_PE_STATUS_KEY_STATE.addr 0
    let struck (p : Main) : Prop :=
      keyState p = 2 ∧ p.key.kOwn = none ∧ (∀ k : Fin 4, p.key.work[k] = none) ∧ p.key.op = none ∧
      genRoot p = up (genRoot s.main) ∧ genOwn p = up (genOwn s.main) ∧ p.get F.ZEROISES = up (s.main.get F.ZEROISES) ∧
      p.get F.CLASS2_COUNT = up (s.main.get F.CLASS2_COUNT) ∧ Reports tmp [.key] s.main p ∧
      (∀ o, s.main.key.op = some o → (s.main.bit F.KEY_CTRL_EVT9_EN = true → pends p 9 = true) ∧
        ∀ r pos d, o.ring = some r → r < 8 → (ringOf s.main r).cur = some (pos, d) → s.main.host.d3hot = false →
          (backWrites (payloadMost s.main) (descAddr s.main r pos) r d ⟨St.refused, 0x80, d.length, []⟩).reverse <:+: p.out)
    let class2 (c : Instr) (src : Nat) (x : StartIn) : Prop := ∃ p : Main, struck p ∧ raisedOf p src = true ∧
      (if s.main.mode = Md.daylight then exec c s = .next { s with main := p } ∧ p.key.zrsPend = true
       else if s.main.mode = Md.ship then exec c s = .next { s with main := p }
       else exec c s = .next { s with main := warmReset 6 1 x (fire 6 p) })
    (∀ (k : Fin 4) (isOpen : Bool) (x : StartIn), asserted k isOpen = false → AnswersMain (.tamperInput k isOpen x) s fun m => m = s.main) ∧
    (∀ (k : Fin 4) (isOpen : Bool) (x : StartIn), asserted k isOpen = true → raisedOf s.main k = true → AnswersMain (.tamperInput k isOpen x) s fun m =>
      m.bit F.TMP_STATUS_TAMP_LIVE 0 k = true ∧ m.bit F.TMP_STATUS_TAMP_LATCH 0 k = true ∧ m.key = s.main.key ∧
      Frame (· = F.TMP_STATUS_TAMP_LIVE.addr 0) [] s.main m) ∧
    (∀ (k : Fin 4) (isOpen : Bool) (x : StartIn), asserted k isOpen = true → raisedOf s.main k = false → s.main.bit F.TMP_IN_CFG_CLASS k = false →
      AnswersMain (.tamperInput k isOpen x) s fun m =>
        m.bit F.TMP_STATUS_TAMP_LIVE 0 k = true ∧ m.bit F.TMP_STATUS_TAMP_LATCH 0 k = true ∧ raisedOf m k = true ∧
        m.get F.CLASS1_COUNT = up (s.main.get F.CLASS1_COUNT) ∧
        (s.main.mode ≠ Md.daylight → s.main.mode ≠ Md.ship → s.main.bit F.TMP_CTRL_EVT5_EN = true → pends m 5 = true) ∧
        (s.main.mode = Md.daylight → m.key.evtPend = s.main.key.evtPend ++ [5]) ∧ Reports tmp [.key] s.main m) ∧
    (∀ (k : Fin 4) (isOpen : Bool) (x : StartIn), asserted k isOpen = true → raisedOf s.main k = false → s.main.bit F.TMP_IN_CFG_CLASS k = true →
      class2 (.tamperInput k isOpen x) k x) ∧
    (∀ x : StartIn, raisedOf s.main 4 = false → class2 (.meshBreak x) 4 x) ∧
    (∀ x : StartIn, raisedOf s.main 4 = true → AnswersMain (.meshBreak x) s fun m =>
      m.bit F.TMP_STATUS_MESH_LIVE = true ∧ m.bit F.TMP_STATUS_MESH_LATCH = true ∧ m.key = s.main.key ∧
      Frame (· = F.TMP_STATUS_MESH_LIVE.addr 0) [] s.main m) ∧
    (∀ src : Fin 5, AnswersMain (.tamperSourceClear src) s fun m =>
      if ∃ h : src.val < 4, overVoltage s.main (.tamp ⟨src.val, h⟩) = true then m = s.main
      else raisedOf m src = false ∧ (if src.val = 4 then m.bit F.TMP_STATUS_MESH_LIVE = false else m.bit F.TMP_STATUS_TAMP_LIVE 0 src = false) ∧
        Frame (· = F.TMP_STATUS_TAMP_LIVE.addr 0) [.key] s.main m)

/-- R522, R530, R534–R536: LIMG_WRITE, LIMG_START, LIMG_STOP, LIGGER, LIGGER_BOUNDARY and LIGGER_RESUME. -/
def Obligations.LiggerChainsRunByBoundary : Prop :=
  ∀ s : State,
    let u := s.main.upd
    let due := s.main.course + 3
    let ended (r : Fin 8) (d : Desc) (st det len : Nat) (m : Main) : Prop := writtenBack s.main r d st det len [] m
    let framed (m : Main) : Prop := Reports (inBlock 0x14) [.upd] s.main m
    (∀ (r : Fin 8) (d : Desc),
      let abort := bitOf d.param 2
      let first := bitOf d.param 0
      let last := bitOf d.param 1
      let data := swapData d.swap (d.data.take d.length)
      accepts ⟨isOp 0x0811, d.length == 0 && abort, fun d => if bitOf d.param 2 then d.length == 0 else decide (4 ≤ d.length), 7, 0, openGate⟩ s.main r d →
      let dropped (m : Main) : Prop := m.upd = { u with limg := [], limgOk := false, limgPos := none } ∧ m.get F.UPD_LIMG = 0 ∧ framed m
      let quiet (m : Main) : Prop := m.upd = u ∧ Reports (fun _ => False) [] s.main m
      AnswersMain (.limgWrite r d) s fun m =>
        if abort then ended r d St.ok 0 0 m ∧ (if u.limgPos.isSome then dropped m else quiet m)
        else if first = true ∧ u.chains ≠ [] then ended r d St.refused 0x24 d.length m ∧ quiet m
        else match (if first then some 0 else u.limgPos) with
          | none => ended r d St.refused 0x23 d.length m ∧ quiet m
          | some pos =>
            let img := appendImg (if first then [] else u.limg) pos data
            let w : Main := { s.main with upd := { u with limg := img } }
            let n := pos + data.length
            if (first = true ∧ ¬ (64 ≤ n ∧ manifestOk w = true)) ∨ 64 + limgLe w 12 4 < n ∨
                (last = true ∧ ¬ (n = 64 + limgLe w 12 4 ∧ limgHashOk w = true)) then ended r d St.refused 0x23 d.length m ∧ dropped m
            else ended r d St.ok 0 d.length m ∧ framed m ∧ m.upd.limg = img ∧
              (if last then m.upd.limgOk = true ∧ m.upd.limgPos = none ∧ m.get F.UPD_LIMG = limgLe w 16 4 ∧ m.upd.limgId = limgLe w 16 4 ∧
                m.upd.progress = (if u.limgId = limgLe w 16 4 then u.progress else [])
               else m.upd.limgPos = some n ∧ m.upd.progress = u.progress)) ∧
    (∀ (r : Fin 8) (d : Desc),
      let named (b : Img) := if bitOf d.param 10 then List.range (sectCount b 15) else [d.param % 1024]
      let set (b : Img) (action : Nat) (m : Main) : Prop := ended r d St.ok 0 0 m ∧
        m.upd = { u with sched := u.sched ++ (named b).map fun c => (due, action, c, 0xFFFF) } ∧ Reports (inBlock 0x0D) [.rdg, .upd] s.main m
      let refused (det : Nat) (m : Main) : Prop := ended r d St.refused det 0 m ∧ Reports (fun _ => False) [] s.main m
      (accepts (CmdKind.plain 0x0812 0x7FF activeGate) s.main r d → AnswersMain (.limgStart r d) s fun m =>
        if u.limgOk = false then refused 0x25 m
        else match runImg s.main with
          | none => refused 0x26 m
          | some b => if (sect b 15).isNone = true ∨ (bitOf d.param 10 = false ∧ sectCount b 15 ≤ d.param % 1024) then refused 0x26 m else set b 1 m) ∧
      (accepts (CmdKind.plain 0x0813 0x7FF activeGate) s.main r d → AnswersMain (.limgStop r d) s fun m => match runImg s.main with
        | none => ended r d St.ok 0 0 m ∧ Reports (fun _ => False) [] s.main m
        | some b => set b 2 m)) ∧
    (∀ f : RidgeFrame, AnswersMain (.ligger f) s fun m =>
      let p := f.payload
      m = if fromPartner s.main f = true ∧ standby s.main = true ∧ f.kind = 0x23 then
        { s.main with upd := { u with sched := u.sched ++ [(lbe p 4 6, lbe p 1 1, lbe p 2 2, lbe p 10 2)] } } else s.main) ∧
    (∀ c : Fin 1024,
      ((standby s.main = true ∨ runImg s.main = none ∨ chainOf s.main c = none ∨ ∃ k, chainOf s.main c = some k ∧ overdue s.main k = false) →
        AnswersMain (.liggerResume c) s (· = s.main)) ∧
      ∀ (b : Img) (k : LChain) (o named : Nat), standby s.main = false → runImg s.main = some b → chainOf s.main c = some k → overdue s.main k = true →
        firstOpen s.main b c k = some (o, named) →
        let tries := if k.resumed = o then k.tries else 0
        AnswersMain (.liggerResume c) s fun m =>
          if tries < 3 then m.upd.sched = u.sched ++ [(due, 3, c.val, named)] ∧
            chainOf m c = some { k with resumed := o, tries := tries + 1, lastAt := none } ∧ m.upd.progress = u.progress ∧
            Reports (inBlock 0x0D) [.rdg, .upd] s.main m
          else progressOf m o = 3 ∧ (∀ k', chainOf m c = some k' → o ∈ k'.out) ∧
            Reports (fun a => inBlock 0x0D a ∨ inBlock 0x14 a) [.rdg, .upd] s.main m) ∧
    ((∀ x ∈ u.sched, s.main.course < x.1) → AnswersMain .liggerBoundary s (· = s.main)) ∧
    ∀ t action c named : Nat, u.sched.filter (fun x => decide (x.1 ≤ s.main.course)) = [(t, action, c, named)] → 1 ≤ action → action ≤ 3 →
      AnswersMain .liggerBoundary s fun m =>
        m.upd.sched = u.sched.filter (fun x => decide (s.main.course < x.1)) ∧ framed m ∧ (∀ j, j ≠ c → chainOf m j = chainOf s.main j) ∧
        (action = 1 → ∀ b, runImg s.main = some b →
          (∃ k, chainOf m c = some k ∧ k.resume = 0 ∧ k.seg = 0 ∧ k.out = []) ∧
          ∀ i ∈ chainLanterns b c, progressOf m i = if progressOf s.main i = 0 then 1 else progressOf s.main i) ∧
        (action = 2 → chainOf m c = none ∧ m.upd.progress = u.progress) ∧
        (action = 3 → ∀ k, chainOf s.main c = some k →
          chainOf m c = some { k with resume := (k.resume + 1) % 256, named := named, seg := 0, lastAt := none } ∧
          (s.main.bit F.UPD_CTRL_EVT61_EN = true → pends m 61 = true))

/-- R517–R523, R527: IMAGE_WRITE, IMAGE_WRITE_ABORT, IMAGE_CHUNK_WRITTEN, IMAGE_ACTIVATE, IMAGE_ACTIVATION and IMAGE_CHAIN. -/
def Obligations.ImageRegionChangesState : Prop :=
  ∀ s : State,
    let u := s.main.upd
    let st := updState s.main
    let regs (a : Nat) : Prop := inBlock 0x0D a ∨ inBlock 0x14 a
    let failed (cause : Nat) (m : Main) : Prop :=
      m.get F.UPD_STATUS_LAST_CAUSE = cause ∧ updState m = (if st = Us.writing then Us.failed else st) ∧ m.upd.img = u.img ∧ m.upd.complete = u.complete ∧
      (s.main.bit F.UPD_CTRL_EVT62_EN = true → pends m 62 = true) ∧ Reports regs [.rdg, .upd] s.main m
    let restarts (c : Instr) (cause : Nat) (x : StartIn) (sec : Nat) : Prop := ∃ p : Main, exec c s = .next { s with main := restart 2 cause x p } ∧
      p.get F.UPD_SEC_MIN = max (s.main.get F.UPD_SEC_MIN) sec ∧ p.upd.complete = true ∧ Reports regs [.rdg, .upd] s.main p
    let returned (ring : Option Nat) (rep : Desc → Reply) (m : Main) : Prop := ∀ q pos d, ring = some q → (ringOf s.main q).cur = some (pos, d) →
      s.main.host.d3hot = false → (backWrites (payloadMost s.main) (descAddr s.main q pos) q d (rep d)).reverse <:+: m.out
    (∀ (r : Fin 8) (d : Desc) (readOk : Bool),
      let kind : CmdKind := ⟨imageRow false, false, fun d => decide (4 ≤ d.length), 7, 0, openGate⟩
      let abort : CmdKind := ⟨imageRow true, d.length == 0, fun d => d.length == 0, 7, 0, openGate⟩
      let first := bitOf d.param 0
      let last := bitOf d.param 1
      let data := swapData d.swap (d.data.take d.length)
      let k := if first then 0 else u.held
      let cause := if k = 0 ∧ first = false then 0x08 else chunkCause k last data s.main
      (u.writing.isSome = true → AnswersMain (.imageWrite r d readOk) s fun m =>
        m = if cmdTurn s.main r && d.own && imageRow false d then withRing s.main r fun g => { g with parked := true } else s.main) ∧
      (s.main.mode = Md.recovery → r ≠ 0 → cmdTurn s.main r = true → d.own = true →
        (u.writing = none → imageRow false d = true → AnswersMain (.imageWrite r d readOk) s (writtenBack s.main r d St.badOpcode 0 0 [])) ∧
        (imageRow true d = true → AnswersMain (.imageWriteAbort r d) s (writtenBack s.main r d St.badOpcode 0 0 []))) ∧
      (u.writing = none → accepts kind s.main r d →
        (cause ≠ 0 → AnswersMain (.imageWrite r d readOk) s fun m => failed cause m ∧ writtenBack s.main r d St.refused cause d.length [] m) ∧
        (cause = 0 → AnswersMain (.imageWrite r d readOk) s fun m =>
          updState m = Us.writing ∧ m.upd.writing = some ⟨readOk, last, some r.val⟩ ∧ m.upd.img = appendImg (if k = 0 then [] else u.img) (65536 * k) data ∧
          (k = 0 → m.upd.complete = false ∧ m.upd.factory = false ∧ m.upd.actAt = none ∧ m.upd.held = 0 ∧ m.bit F.UPD_STATUS_NOR_VALID = false ∧ m.get F.UPD_STATUS_CHUNKS_DONE = 0) ∧
          (k ≠ 0 → m.upd.complete = u.complete ∧ m.upd.factory = u.factory ∧ m.upd.held = u.held) ∧ (ringOf m r).cur = some (ringPos s.main r (ringOf s.main r).taken, d) ∧
          Reports (inBlock 0x14) [.upd] s.main m)) ∧
      (accepts abort s.main r d →
        (st = Us.writing → AnswersMain (.imageWriteAbort r d) s fun m => failed 0x0A m ∧ m.upd.writing = none ∧
          writtenBack s.main r d St.ok 0 0 [] m ∧ returned (u.writing.bind (·.ring)) (fun e => .refused e 0x0A) m) ∧
        (st ≠ Us.writing → AnswersMain (.imageWriteAbort r d) s fun m => writtenBack s.main r d St.ok 0 0 [] m ∧ Reports (fun _ => False) [] s.main m))) ∧
    (∀ x : StartIn,
      (u.writing = none → AnswersMain (.imageChunkWritten x) s (· = s.main)) ∧
      ∀ w, u.writing = some w → u.held < 256 →
        (w.readOk = false → AnswersMain (.imageChunkWritten x) s fun m => failed 0x09 m ∧ (st = Us.writing → m.upd.writing = none) ∧
          returned w.ring (fun e => .refused e 0x09) m) ∧
        (w.readOk = true → w.last = false → AnswersMain (.imageChunkWritten x) s fun m =>
          m.upd.writing = none ∧ m.upd.held = u.held + 1 ∧ m.get F.UPD_STATUS_CHUNKS_DONE = u.held + 1 ∧ updState m = st ∧
          m.upd.img = u.img ∧ m.upd.complete = u.complete ∧ (s.main.bit F.UPD_CTRL_EVT61_EN = true → pends m 61 = true) ∧
          returned w.ring (fun e => .done e.length) m ∧ Reports regs [.rdg, .upd] s.main m) ∧
        (w.readOk = true → w.last = true → s.main.mode ≠ Md.recovery → AnswersMain (.imageChunkWritten x) s fun m =>
          updState m = Us.staged ∧ m.upd.writing = none ∧ m.upd.complete = true ∧ m.bit F.UPD_STATUS_NOR_VALID = true ∧
          m.get F.UPD_STAGED_VER = Ih.version (regionHead s.main) ∧
          m.upd.fwHash = Cipher.sha256 (regionBytes s.main 0 (Ih.total (regionHead s.main))) ∧ m.upd.img = u.img ∧
          returned w.ring (fun e => .done e.length) m ∧ Reports regs [.rdg, .upd] s.main m) ∧
        (w.readOk = true → w.last = true → s.main.mode = Md.recovery →
          restarts (.imageChunkWritten x) 4 x (Ih.security (regionHead s.main)))) ∧
    (∀ (r : Fin 8) (d : Desc), accepts ⟨isOp 0x0802, true, fun d => d.length == 0, 1, 2 ^ 48 - 1, openGate⟩ s.main r d →
      AnswersMain (.imageActivate r d) s fun m =>
        if st ≠ Us.staged then writtenBack s.main r d St.refused 0x20 0 [] m ∧ Reports (fun _ => False) [] s.main m
        else if activeWithPartner s.main = true ∧ bitOf d.param 0 = false then
          writtenBack s.main r d St.refused 0x21 0 [] m ∧ Reports (fun _ => False) [] s.main m
        else writtenBack s.main r d St.ok 0 0 [] m ∧ m.upd = { u with actAt := some (d.addr % 2 ^ 48, false) } ∧
          (s.main.bit F.UPD_CTRL_EVT61_EN = true → pends m 61 = true) ∧ Reports (fun _ => False) [.upd] s.main m) ∧
    (∀ x : StartIn,
      let deferred (m : Main) : Prop := m.upd = { u with actAt := none } ∧ m.get F.UPD_STATUS_LAST_CAUSE = 0x0C ∧ updState m = st ∧
        (s.main.bit F.UPD_CTRL_EVT62_EN = true → pends m 62 = true) ∧ Reports (inBlock 0x14) [.upd] s.main m
      ((u.actAt = none ∨ st ≠ Us.staged ∨ ∃ t c, u.actAt = some (t, c) ∧ s.main.course < t) → AnswersMain (.imageActivation x) s (· = s.main)) ∧
      ∀ t chain, u.actAt = some (t, chain) → st = Us.staged → t ≤ s.main.course → canRestart s.main = true → u.complete = true → u.stagedSec < 2 ^ 32 →
        let active := chain = true ∧ paired s.main = true ∧ s.main.bit F.RED_STATUS_ACTIVE = true
        (¬ active → restarts (.imageActivation x) 3 x u.stagedSec) ∧
        (active → s.main.bit F.RED_STATUS_PARTNER_UP = false → AnswersMain (.imageActivation x) s deferred) ∧
        (active → s.main.bit F.RED_STATUS_PARTNER_UP = true → s.main.course < t + 600 → AnswersMain (.imageActivation x) s (· = s.main)) ∧
        (active → s.main.bit F.RED_STATUS_PARTNER_UP = true → t + 600 ≤ s.main.course →
          if (s.main.red.partner.any (·.inSync)) = true then restarts (.imageActivation x) 3 x u.stagedSec
          else AnswersMain (.imageActivation x) s deferred)) ∧
    ∀ (r : Fin 8) (d : Desc),
      accepts ⟨isOp 0x0803, true, fun d => d.length == 0, 0x7F, 2 ^ 48 - 1, fun _ => if bits d.param 6 1 = 0 then some (.fail St.badParam 1) else none⟩ s.main r d →
      AnswersMain (.imageChain r d) s fun m =>
        let p := d.param % 2
        if st ≠ Us.idle ∧ st ≠ Us.staged then writtenBack s.main r d St.refused 0x20 0 [] m ∧ Reports (fun _ => False) [] s.main m
        else if portState s.main p ≠ Ps.matched then writtenBack s.main r d St.refused 0x22 0 [] m ∧ Reports (fun _ => False) [] s.main m
        else writtenBack s.main r d St.ok 0 0 [] m ∧ vget m.upd.called p [] = regionHead s.main ∧ vget m.upd.outcome p (some (0, 0)) = none ∧
          m.upd.fetch = u.fetch ∧ m.upd.actAt = u.actAt ∧ Reports (inBlock 0x0D) [.rdg, .upd] s.main m

/-- R517, R519, R524–R526, R529: IMG_CALL, IMG_FETCH, IMG_PIECE, IMG_DONE, IMG_FETCH_RETRY, IMG_CHAIN_TIMEOUT, UART_FRAME and RECOVERY_TIMEOUT. -/
def Obligations.ImageChainsFetchAndRecover : Prop :=
  ∀ s : State,
    let u := s.main.upd
    let st := updState s.main
    let rom := s.main.mode = Md.recovery
    let regs (a : Nat) : Prop := inBlock 0x0D a ∨ inBlock 0x14 a
    let failed (cause : Nat) (m : Main) : Prop :=
      m.get F.UPD_STATUS_LAST_CAUSE = cause ∧ updState m = (if st = Us.writing then Us.failed else st) ∧ m.upd.img = u.img ∧
      (s.main.bit F.UPD_CTRL_EVT62_EN = true → pends m 62 = true)
    let sent (dst : Nat) (body : List Byte) (m : Main) : Prop := ∀ q : Fin 2, dst < 0xFFF → s.main.get F.RDG_PORT_STATUS_HEARD q = dst →
      portState s.main q ∈ [Ps.matched, Ps.mismatch, Ps.unplanned] → (q = 0 ∨ s.main.get F.RDG_PORT_STATUS_HEARD 0 ≠ dst) →
      (s.main.rdg.ports[q]).queue.length < 256 → countClass 3 (s.main.rdg.ports[q]).queue < bulkMax s.main → s.main.mode ≠ Md.hold →
      ∃ g : RidgeFrame, (m.rdg.ports[q]).queue = (s.main.rdg.ports[q]).queue ++ [onWire s.main g] ∧ g.cls = 3 ∧ g.dst = dst ∧ g.payload = body ∧
        (rom → g.isOpen = true)
    let done (cause ver : Nat) := beBytes 1 0x43 ++ beBytes 1 cause ++ zeros 2 ++ beBytes 4 ver
    (∀ (p : Fin 2) (f : RidgeFrame),
      let h := slice f.payload 12 256
      let cause := headerCause h true s.main
      AnswersMain (.imgCall p f) s fun m =>
        if s.main.bit F.UPD_CTRL_CHAIN_EN = false ∨ rom then m = s.main
        else if st = Us.writing then m.upd = u ∧ (∃ v, v < 256 ∧ sent f.src (done v (Ih.version h)) m) ∧ Reports (inBlock 0x0D) [.rdg] s.main m
        else if cause ≠ 0 then m.upd = u ∧ failed cause m ∧ sent f.src (done cause (Ih.version h)) m ∧ Reports regs [.rdg] s.main m
        else if Ih.version h = u.runVer ∧ Ih.body0 h = u.runBody0 then
          m.upd = u ∧ sent f.src (done 0xFF (Ih.version h)) m ∧ Reports (inBlock 0x0D) [.rdg] s.main m
        else m.upd = { u with fetch := u.fetch.set p (some ⟨f.src, (f.payload.getD 1 0).toNat, lbe f.payload 4 6, h, 0, []⟩) } ∧
          Reports (inBlock 0x0D) [.rdg, .upd] s.main m) ∧
    (∀ (p : Fin 2) (f : RidgeFrame) (i : Fin 64), lbe f.payload 4 8 = 2 ^ i.val →
      let k := lbe f.payload 2 2
      let call := u.called[p]
      let status := if call ≠ [] ∧ call ≠ regionHead s.main then 2
        else if holdsChunk s.main k = true ∧ 1024 * i.val < Ih.chunkLen (regionHead s.main) k then 0 else 1
      AnswersMain (.imgFetch p f) s fun m =>
        sent f.src (beBytes 1 0x42 ++ beBytes 1 status ++ beBytes 2 k ++ beBytes 1 i ++ zeros 3 ++
          (if status = 0 then regionBytes s.main (65536 * k + 1024 * i) 1024 else [])) m ∧ Reports (inBlock 0x0D) [.rdg] s.main m) ∧
    (∀ (p : Fin 2) (f : RidgeFrame) (readOk : Bool),
      let status := (f.payload.getD 1 0).toNat
      let i := (f.payload.getD 4 0).toNat
      (u.fetch[p] = none → AnswersMain (.imgPiece p f readOk) s (· = s.main)) ∧
      ∀ k, u.fetch[p] = some k →
        let stray := f.src ≠ k.caller ∨ lbe f.payload 2 2 ≠ k.chunk ∨ 64 ≤ i ∨ u.writing.isSome = true
        let pieces := k.pieces ++ [(i, f.payload.drop 8)]
        let n := pieceCount s.main k pieces
        let data := (List.range n).flatMap fun j => match pieces.find? (fun (x : Nat × List Byte) => x.1 == j) with | some x => x.2 | none => []
        let last := Ih.chunks (if k.chunk = 0 then data else regionHead s.main) == k.chunk + 1
        let cause := if otherOwner (p + 1) s.main = true then 0x08 else chunkCause k.chunk last data s.main
        (stray → AnswersMain (.imgPiece p f readOk) s (· = s.main)) ∧
        (¬ stray → status = 2 → AnswersMain (.imgPiece p f readOk) s fun m => failed 0x0A m ∧ m.upd.fetch[p] = none ∧ Reports regs [.rdg, .upd] s.main m) ∧
        (¬ stray → status ≠ 2 → (status ≠ 0 ∨ f.payload.length ≠ 1032 ∨ (k.pieces.any fun x => x.1 == i) = true) →
          AnswersMain (.imgPiece p f readOk) s (· = s.main)) ∧
        (¬ stray → status = 0 → f.payload.length = 1032 → (k.pieces.any fun x => x.1 == i) = false →
          AnswersMain (.imgPiece p f readOk) s fun m =>
            if ∃ j, j < n ∧ (pieces.any fun x => x.1 == j) = false then
              m = { s.main with upd := { u with fetch := u.fetch.set p (some { k with pieces := pieces }) } }
            else if cause ≠ 0 then failed cause m ∧ m.upd.fetch[p] = none ∧ Reports regs [.rdg, .upd] s.main m
            else updState m = Us.writing ∧ m.upd.writing = some ⟨readOk, last, none⟩ ∧ (rom → m.upd.owner = some (p.val + 1)) ∧ m.upd.fetch[p] = some { k with pieces := pieces } ∧
              m.upd.img = appendImg (if k.chunk = 0 then [] else u.img) (65536 * k.chunk) data ∧ Reports (inBlock 0x14) [.upd] s.main m)) ∧
    (∀ (p : Fin 2) (f : RidgeFrame), AnswersMain (.imgDone p f) s fun m =>
      m = { s.main with upd := { u with outcome := u.outcome.set p (some ((f.payload.getD 1 0).toNat, lbe f.payload 4 4)) } }) ∧
    (∀ p : Fin 2,
      (AnswersMain (.imgFetchRetry p) s fun m => match u.fetch[p], lastNeighbour s.main p with
        | some _, _ => m.upd = u ∧ Reports (inBlock 0x0D) [.rdg] s.main m
        | none, some a => if rom ∧ u.owner = none then
            m.upd = { u with fetch := u.fetch.set p (some ⟨a, 0, 0, [], 0, []⟩) } ∧ Reports (inBlock 0x0D) [.rdg, .upd] s.main m else m = s.main
        | none, none => m = s.main) ∧
      AnswersMain (.imgChainTimeout p) s fun m => match u.fetch[p] with
        | none => m = s.main
        | some _ => failed 0x0B m ∧ m.upd.fetch[p] = none ∧ Reports regs [.rdg, .upd] s.main m) ∧
    (∀ (o : List Byte) (readOk : Bool),
      let k := uartChunk s.main
      let tells (code : Nat) (m : Main) : Prop := Output.uart code (lle o 2 2) ∈ m.out
      let only (code : Nat) (m : Main) : Prop := tells code m ∧ Frame (fun _ => False) [] s.main m
      (¬ rom → AnswersMain (.uartFrame o readOk) s (· = s.main)) ∧
      (rom → AnswersMain (.uartFrame o readOk) s fun m =>
        if otherOwner 3 s.main = true then only 0x18 m
        else match uartPiece o with
          | none => only 0x15 m
          | some (number, bytes) =>
            let data := u.uart ++ bytes
            let n := if k ≠ 0 then Ih.chunkLen (regionHead s.main) k else if Ih.lengths data then Ih.chunkLen data 0 else 1024
            let last := Ih.chunks (if k = 0 then data else regionHead s.main) == k + 1
            let cause := chunkCause k last data s.main
            if number ≠ 64 * k + u.uart.length / 1024 ∨ (n ≤ data.length ∧ u.writing.isSome = true) then only 0x15 m
            else if data.length < n then tells 0x06 m ∧ m.upd = { u with uart := data } ∧ Frame (fun _ => False) [.upd] s.main m
            else if cause ≠ 0 then tells 0x18 m ∧ failed cause m ∧ m.upd.uart = [] ∧ Reports regs [.rdg, .upd] s.main m
            else tells 0x06 m ∧ updState m = Us.writing ∧ m.upd.writing = some ⟨readOk, last, none⟩ ∧ m.upd.owner = some 3 ∧ m.upd.uart = [] ∧
              Reports (inBlock 0x14) [.upd] s.main m)) ∧
    AnswersMain .recoveryTimeout s fun m =>
      if rom ∧ u.owner ≠ none ∧ u.writing = none then
        m.upd.owner = none ∧ m.upd.uart = [] ∧ (∀ p : Fin 2, m.upd.fetch[p] = none) ∧ (st = Us.writing → failed 0x0B m) ∧
        (st ≠ Us.writing → updState m = st) ∧ Reports regs [.rdg, .upd] s.main m
      else m = s.main

/-- R540, R542–R544, R546, R551, R556, R557, R559, R561, R563, R573: POR, BOR, WATCHDOG_EXPIRY, PLL_UNLOCK_TIMEOUT, CMS_END, SHIP, FBR, RESET
and GO, and DAYLIGHT_WAKE with a ZRS pending. A WDR being ignored outside the running and service modes is the model's reading. -/
def Obligations.ResetsRestartTheMainSide : Prop :=
  ∀ (s : State) (x : StartIn),
    let cleared (m : Main) : Prop := m.wav = Wav.reset ∧ m.pur = Pur.reset ∧ m.red = Red.reset ∧ m.lanes = Vector.replicate 8 Lane.reset ∧
      (∀ r, r < 32 → ringState m r = Rs.disabled) ∧ m.host.busMaster = false ∧ m.host.msixEnable = false ∧
      (∀ i : Fin 8, m.ylm.cells[i] = none ∧ m.ylm.next[i] = none) ∧ m.mir.snap = none ∧ m.time.master = none ∧ m.time.tsq = []
    let wants := x.strap = true ∨ s.main.key.ownerPub = none ∨ 0xF00 ≤ s.main.get F.RDG_ADDR_ADDR
    let mode := if imageGood s.main = false then Md.recovery else if wants then Md.commission else Md.active
    let exec (m : Main) : Prop := m.exec = if m.mode = Md.recovery then Ex.noPlan else Ex.loading
    let started (kind cause boot : Nat) (m : Main) : Prop := m.get F.PWR_RESET_KIND = kind ∧ m.get F.PWR_RESET_CAUSE = cause ∧ m.mode = mode ∧
      m.get F.GLB_STATUS_MODE = mode ∧ exec m ∧ m.get F.RDG_BOOT_BOOT = (boot + 1) % 2 ^ 16 ∧ cleared m ∧ m.ctx = CtxSt.reset ∧
      m.key.op = none ∧ m.key.ownerPub = s.main.key.ownerPub ∧ m.fuse = s.main.fuse ∧ m.upd.img = s.main.upd.img
    let boot := s.main.get F.RDG_BOOT_BOOT
    let off := s.main.mode = Md.ship ∨ s.main.mode = Md.daylight ∨ s.main.mode = Md.hold
    let asked (v k : Nat) : Prop := s.main.mode = Md.commission ∧ v / 2 ^ 16 % 2 ^ 16 = 0x5A5A ∧ v.testBit k = true
    let only (m : Main) : Prop := Frame (fun _ => False) [.host] s.main m
    AnswersMain (.por x) s (started 0 0 boot) ∧
    (∀ vin lost : Bool,
      let gone := lost = true ∧ s.main.mode = Md.hold ∧ s.main.pwr.weak = true ∧ s.main.bit F.PWR_SUPPLY_B_FLUSH_DONE = false
      let boot := if gone then s.main.pwr.mram.boot % 2 ^ 16 else boot
      (s.main.mode = Md.ship → AnswersMain (.bor x vin lost) s (· = s.main)) ∧
      (s.main.mode ≠ Md.ship → AnswersMain (.bor x vin lost) s fun m =>
        if vin then started 1 0 boot m
        else m.mode = Md.ship ∧ m.get F.PWR_RESET_KIND = 1 ∧ cleared m ∧ m.get F.RDG_BOOT_BOOT = (boot + 1) % 2 ^ 16)) ∧
    (off → AnswersMain (.watchdogExpiry x) s (· = s.main)) ∧
    (¬ off → AnswersMain (.watchdogExpiry x) s (started 2 1 boot)) ∧
    (s.main.pwr.unlocked = false → AnswersMain (.pllUnlockTimeout x) s (· = s.main)) ∧
    (s.main.pwr.unlocked = true → ¬ off → AnswersMain (.pllUnlockTimeout x) s (started 2 2 boot)) ∧
    (s.main.pwr.unlocked = true → off → AnswersMain (.pllUnlockTimeout x) s fun m => m.get F.CLK_STATUS_LAST_LOSS = 1000 ∧
      Reports (· = F.CLK_STATUS_LOCKED.addr 0) [] s.main m) ∧
    (hostReaches 1 s.main → ∀ v : Nat,
      (asked v 0 → ¬ wants → AnswersMain (.cmsEnd v x) s (started 2 5 boot)) ∧
      (¬ asked v 0 → AnswersMain (.cmsEnd v x) s only) ∧
      (asked v 0 → wants → AnswersMain (.cmsEnd v x) s only) ∧
      (asked v 1 → AnswersMain (.ship v) s fun m => m.mode = Md.ship ∧ m.get F.PWR_MODE_PREV = Md.commission ∧ m.get F.PWR_MODE_CAUSE = 6 ∧
        cleared m ∧ m.ctx = CtxSt.reset ∧ (∀ k : Fin 4, m.key.work[k] = none) ∧ m.key.ownerPub = s.main.key.ownerPub ∧ m.key.slots = s.main.key.slots) ∧
      (¬ asked v 1 → AnswersMain (.ship v) s only)) ∧
    (∀ src : Fin 7, s.main.mode = Md.daylight → s.main.key.zrsPend = true →
      (src.val = 1 → ∃ t, s.main.pwr.wakeAt = some t ∧ (t : Int) ≤ calNow s.main) → src.val ≠ 0 →
      AnswersMain (.daylightWake src x) s fun m => started 6 1 boot m ∧ m.get F.PWR_WAKE_SRC = src) ∧
    (∀ sub : Nat,
      let due := ∃ cause, s.main.pwr.fbr = some (0, cause)
      (¬ due ∨ off → AnswersMain (.fbr sub) s (· = s.main)) ∧
      (∀ cause, s.main.pwr.fbr = some (0, cause) → ¬ off → AnswersMain (.fbr sub) s fun m =>
        m.get F.PWR_RESET_KIND = 5 ∧ m.get F.PWR_RESET_CAUSE = cause % 256 ∧ m.mode = s.main.mode ∧ exec m ∧ m.get F.RDG_BOOT_BOOT = boot ∧
        cleared m ∧ m.key = { s.main.key with op := s.main.key.op.map fun o => { o with ring := none } } ∧ m.gbl = s.main.gbl ∧ m.eav = { s.main.eav with started := false } ∧ m.upd.img = s.main.upd.img ∧
        m.pwr = { s.main.pwr with fbr := none, dayRun := 0 } ∧ (∀ a, inBlock 0x0B a ∨ inBlock 0x0C a → m.word a = s.main.word a))) ∧
    (∀ f : RidgeFrame,
      let ok := f.isOpen = false ∧ f.dst = ownAddr s.main ∧ lbe f.payload 4 8 = s.main.fuse.eui ∧ s.main.bit F.PWR_CTRL_FBR_EN = true
      (ok → AnswersMain (.reset f) s fun m => Frame (fun _ => False) [.pwr] s.main m ∧
        m.pwr = { s.main.pwr with fbr := some (s.main.pwr.fbr.getD (2, (f.payload.getD 1 0).toNat)) }) ∧
      (¬ ok → AnswersMain (.reset f) s fun m => m.get F.FBR_REFUSED = (s.main.get F.FBR_REFUSED + 1) % 2 ^ 32 ∧
        Frame (· = F.FBR_REFUSED.addr 0) [] s.main m)) ∧
    (hostReaches 1 s.main → ∀ v : Nat, AnswersMain (.go v) s fun m => ∃ cause p,
      cause < 256 ∧ p.get F.PWR_FBR_TGT_ADDR = v % 4096 ∧ Frame (· = F.PWR_FBR_TGT_ADDR.addr 0) [.host] s.main p ∧
      m = (originate 1 (v % 4096) (beBytes 1 0x2F ++ beBytes 1 cause ++ zeros 2 ++ beBytes 8 (s.main.get64 F.PWR_FBR_EUI_LO F.PWR_FBR_EUI_HI)) p).1)

/-- R541, R543, R545, R546, R549, R550, R556, R571, R574, R577, R588: VIN_WARNING, HOLD_ENTRY, FLUSH_DONE, PLL_UNLOCK, PLL_RELOCK,
ISLAND_ENTRY, ISLAND_EXIT, DAYLIGHT_ENTRY, DAYLIGHT_WAKE, HOLDUP_TIMEOUT, HOLDUP_OK, VBAT_LOW, FIELD_OVERVOLTAGE and OVERVOLTAGE_CLEAR. -/
def Obligations.ModesAndSupplyFollowTheirCauses : Prop :=
  ∀ s : State,
    let entered (new cause : Nat) (m : Main) : Prop := m.mode = new ∧ m.get F.GLB_STATUS_MODE = new ∧ m.get F.PWR_MODE_PREV = s.main.mode ∧
      m.get F.PWR_MODE_CAUSE = cause ∧ (s.main.bit F.PWR_CTRL_EVT0_EN = true → pends m 0 = true)
    let modeRegs (a : Nat) : Prop := a = F.PWR_MODE_MODE.addr 0 ∨ a = F.GLB_STATUS_MODE.addr 0
    let roleMode := if s.main.red.role = 1 then Md.standby else Md.active
    let matched := portState s.main 0 = Ps.matched ∨ portState s.main 1 = Ps.matched
    (∀ vin : Nat,
      (s.main.mode = Md.ship → AnswersMain (.vinWarning vin) s (· = s.main)) ∧
      (s.main.mode ≠ Md.ship → AnswersMain (.vinWarning vin) s fun m => m.get F.PWR_SUPPLY_VIN = vin % 2 ^ 16 ∧ m.mode = s.main.mode ∧
        (s.main.bit F.PWR_CTRL_EVT2_EN = true → pends m 2 = true) ∧
        (s.main.log.priv.length < 256 → ∃ r, m.log.priv = s.main.log.priv ++ [(2, r)] ∧ r.code = 0x0303 ∧ r.p0 = vin % 2 ^ 32 ∧ r.priv = true) ∧
        Reports (· = F.PWR_SUPPLY_VIN.addr 0) [] s.main m)) ∧
    (∀ vin vhold : Nat,
      let stays := s.main.mode = Md.ship ∨ s.main.mode = Md.daylight ∨ s.main.mode = Md.hold
      (stays → AnswersMain (.holdEntry vin vhold) s (· = s.main)) ∧
      (¬ stays → AnswersMain (.holdEntry vin vhold) s fun m => entered Md.hold 9 m ∧
        (s.main.bit F.PWR_CTRL_EVT3_EN = true → pends m 3 = true) ∧
        (∀ p : Fin 2, (m.rdg.ports[p]).queue = (s.main.rdg.ports[p]).queue.filter fun f => f.src != ownAddr s.main) ∧
        m.pwr = { s.main.pwr with weak := !s.main.bit F.PWR_HOLDUP_HOLDUP_OK } ∧
        (s.main.log.priv.length < 255 → ∃ r q, m.log.priv = s.main.log.priv ++ [(2, r), (2, q)] ∧ r.code = 0x0304 ∧ r.p0 = vin % 2 ^ 32 ∧
          r.p1 = vhold % 2 ^ 32 ∧ q.code = 0x0302 ∧ q.p0 = s.main.mode ∧ q.p1 = Md.hold ∧ q.p2 = 9) ∧
        Reports (fun a => modeRegs a ∨ a = F.PWR_SUPPLY_VIN.addr 0 ∨ inBlock 5 a ∨ inBlock 6 a ∨ inBlock 0x0D a) [.pwr, .rdg] s.main m)) ∧
    (s.main.mode ≠ Md.hold → AnswersMain .flushDone s (· = s.main)) ∧
    (s.main.mode = Md.hold → AnswersMain .flushDone s fun m => m.log.priv = [] ∧ m.bit F.PWR_SUPPLY_B_FLUSH_DONE = true ∧ m.mode = Md.hold ∧
      m.pwr.mram.boot = s.main.get F.RDG_BOOT_BOOT ∧ Reports (· = F.PWR_SUPPLY_B_FLUSH_DONE.addr 0) [.pwr] s.main m) ∧
    (s.main.pwr.unlocked = true ∨ s.main.mode = Md.ship → AnswersMain .pllUnlock s (· = s.main)) ∧
    (s.main.pwr.unlocked = false → s.main.mode ≠ Md.ship → AnswersMain .pllUnlock s fun m => m.bit F.CLK_STATUS_LOCKED = false ∧
      m.bit F.CLK_STATUS_UNLOCKED = true ∧ m.get F.CLK_UNLOCKS = (s.main.get F.CLK_UNLOCKS + 1) % 2 ^ 32 ∧ m.pwr = { s.main.pwr with unlocked := true } ∧
      (s.main.bit F.PWR_CTRL_EVT4_EN = true → pends m 4 = true) ∧
      Reports (fun a => a = F.CLK_STATUS_LOCKED.addr 0 ∨ a = F.CLK_UNLOCKS.addr 0) [.pwr] s.main m) ∧
    (∀ us : Nat,
      (s.main.pwr.unlocked = false → AnswersMain (.pllRelock us) s (· = s.main)) ∧
      (s.main.pwr.unlocked = true → AnswersMain (.pllRelock us) s fun m => m.bit F.CLK_STATUS_LOCKED = true ∧
        m.get F.CLK_STATUS_LAST_LOSS = min us 65535 ∧ m.pwr = { s.main.pwr with unlocked := false } ∧
        Reports (· = F.CLK_STATUS_LOCKED.addr 0) [.pwr] s.main m)) ∧
    (∀ link : Bool,
      let there := (link = true ∧ s.main.host.busMaster = true) ∨ matched
      let runs := s.main.mode = Md.active ∨ s.main.mode = Md.standby ∨ s.main.mode = Md.island
      (¬ runs ∨ there → AnswersMain (.islandEntry link) s (· = s.main)) ∧
      (runs → ¬ there → AnswersMain (.islandEntry link) s fun m => m.mode = Md.island ∧
        (s.main.mode = Md.active → entered Md.island 3 m ∧ Reports (fun a => modeRegs a ∨ inBlock 0x0E a) [.ctx, .pur, .red] s.main m)) ∧
      (s.main.mode ≠ Md.island ∨ ¬ there → AnswersMain (.islandExit link) s (· = s.main)) ∧
      (s.main.mode = Md.island → there → AnswersMain (.islandExit link) s fun m => entered roleMode 3 m ∧ Reports modeRegs [] s.main m)) ∧
    (let goes := (s.main.mode = Md.active ∨ s.main.mode = Md.island) ∧ 60 ≤ s.main.pwr.dayRun
     (¬ goes → AnswersMain .daylightEntry s (· = s.main)) ∧
     (goes → AnswersMain .daylightEntry s fun m => entered Md.daylight 4 m ∧ m.bit F.GLB_STATUS_READY = false ∧ m.exec = Ex.loading ∧
        (∀ p : Fin 2, portState m p = Ps.down ∧ (m.rdg.ports[p]).queue = []) ∧ (∀ l : Fin 8, m.ylm.cells[l] = none) ∧ m.pwr.dayRun = 0 ∧
        m.pwr.wakeAt = (planWake s.main).map Int.toNat)) ∧
    (∀ (src : Fin 7) (x : StartIn),
      let due := match src.val with
        | 0 => False
        | 1 => ∃ t, s.main.pwr.wakeAt = some t ∧ (t : Int) ≤ calNow s.main
        | 5 => s.main.key.zrsPend = true ∨ s.main.key.evtPend ≠ []
        | _ => True
      (s.main.mode ≠ Md.daylight ∨ ¬ due → AnswersMain (.daylightWake src x) s (· = s.main)) ∧
      (s.main.mode = Md.daylight → due → s.main.key.zrsPend = false → AnswersMain (.daylightWake src x) s fun m => entered roleMode 5 m ∧
        m.get F.PWR_WAKE_SRC = src ∧ m.log.priv = [] ∧ m.key.evtPend = [] ∧ m.pwr.wakeAt = none ∧ m.lanes = Vector.replicate 8 Lane.reset ∧
        ∀ n ∈ s.main.key.evtPend, n = 5 ∨ n = 6 → eventEnabled s.main n = true → pends m n = true)) ∧
    AnswersMain .holdupTimeout s (fun m => m.bit F.PWR_HOLDUP_HOLDUP_FAULT = (s.main.bit F.PWR_HOLDUP_HOLDUP_FAULT || !s.main.bit F.PWR_HOLDUP_HOLDUP_OK) ∧
      Frame (· = F.PWR_HOLDUP_HOLDUP_OK.addr 0) [] s.main m) ∧
    (∀ v : Nat, AnswersMain (.holdupOk v) s fun m => m.get F.PWR_SUPPLY_VHOLD = v % 2 ^ 16 ∧ m.bit F.PWR_HOLDUP_HOLDUP_OK = decide (24000 ≤ v) ∧
      m.bit F.PWR_HOLDUP_HOLDUP_FAULT = (s.main.bit F.PWR_HOLDUP_HOLDUP_FAULT || decide (v < 22000 ∧ s.main.mode ≠ Md.hold)) ∧
      Frame (fun a => a = F.PWR_HOLDUP_HOLDUP_OK.addr 0 ∨ a = F.PWR_SUPPLY_VHOLD.addr 0) [] s.main m) ∧
    (∀ v : Nat, AnswersMain (.vbatLow v) s fun m => m.get F.PWR_SUPPLY_B_VBAT = v % 2 ^ 16 ∧ m.bit F.PWR_HOLDUP_VBAT_LOW = decide (v < 2200) ∧
      Frame (fun a => a = F.PWR_HOLDUP_HOLDUP_OK.addr 0 ∨ a = F.PWR_SUPPLY_B_VBAT.addr 0) [] s.main m) ∧
    ∀ land : FieldLand,
      let was := land ∈ s.main.pwr.overV
      let framed (m : Main) : Prop := Reports (fun a => a = F.PWR_FIO_LIVE.addr 0 ∨ inBlock 0x0B a ∨ inBlock 0x0C a) [.pwr, .eav, .gbl] s.main m
      let fio (k : Nat) (on : Bool) (m : Main) : Prop := m.bit F.PWR_FIO_LIVE 0 k = on ∧
        m.bit F.PWR_FIO_LATCH 0 k = (s.main.bit F.PWR_FIO_LATCH 0 k || on)
      let kept (m : Main) : Prop := m.eav = s.main.eav ∧ m.gbl = s.main.gbl
      let shown (on : Bool) (m : Main) : Prop := match land with
        | .ain n => fio n on m ∧ kept m
        | .pls n => fio (2 + n) on m ∧ kept m
        | .tamp n => fio (4 + n) on m ∧ kept m
        | .ntc k => kept m ∧ m.bit F.NTC_TEMP_FAULT k = (s.main.bit F.NTC_TEMP_FAULT k || on) ∧
            (on = true → s.main.bit F.NTC_TEMP_FAULT k = false → s.main.bit F.EAV_CTRL_EVT42_EN = true → pends m 42 = true)
        | .gbl n => Output.guarded (.gbl n) on ∈ m.out ∧ (on = true → m.bit F.GBL_FAULT_LIVE 0 5 = true ∧ m.bit F.GBL_FAULT_LATCH 0 5 = true ∧ m.gbl.lit = none ∧ m.gbl.oe = false) ∧
            m.eav = s.main.eav
        | .eav n => m.bit F.CH_FAULT_LIVE n 5 = (on || decide (FieldLand.flt n ∈ s.main.pwr.overV)) ∧ (on = true → m.bit F.CH_FAULT_LATCH n 5 = true ∧ (eavCh m n).drive = .highZ) ∧
            m.gbl = s.main.gbl
        | .flt n => m.bit F.CH_FAULT_LIVE n 5 = (on || decide (FieldLand.eav n ∈ s.main.pwr.overV)) ∧ (on = true → m.bit F.CH_FAULT_LATCH n 5 = true ∧ (eavCh m n).drive = .highZ) ∧
            m.gbl = s.main.gbl
      (was ∨ s.main.mode = Md.ship → AnswersMain (.fieldOvervoltage land) s (· = s.main)) ∧
      (¬ was → s.main.mode ≠ Md.ship → AnswersMain (.fieldOvervoltage land) s fun m => m.pwr = { s.main.pwr with overV := land :: s.main.pwr.overV } ∧
        shown true m ∧ framed m) ∧
      (¬ was → AnswersMain (.overvoltageClear land) s (· = s.main)) ∧
      (was → AnswersMain (.overvoltageClear land) s fun m => m.pwr = { s.main.pwr with overV := s.main.pwr.overV.filter (· != land) } ∧
        shown false m ∧ framed m)
end

