-- ==== Sys2Proof/Laws/Sparse.lean ====
section
/-!
SUPPORT. What the sparse stores do: a read after a write, and the canonical form kept by every operation.
-/
namespace Sys2Proof.Machine

variable {α : Type}

theorem sget_serase (d : Nat → α) (m : Sparse α) (k j : Nat) :
    sget d (serase m k) j = if k = j then d j else sget d m j := by
  induction m with
  | nil => simp [serase, sget]
  | cons p t ih =>
    obtain ⟨a, v⟩ := p
    unfold serase
    by_cases hk : a = k
    · rw [if_pos hk, ih]
      by_cases hj : k = j
      · simp [hj]
      · have : a ≠ j := fun e => hj (hk.symm.trans e)
        simp [hj, sget, this]
    · rw [if_neg hk]
      by_cases hj : a = j
      · have : k ≠ j := fun e => hk (hj.trans e.symm)
        simp [sget, hj, this]
      · simp [sget, hj, ih]

theorem sget_sinsert (d : Nat → α) (m : Sparse α) (k j : Nat) (v : α) (h : sget (fun _ => none) (m.map fun p => (p.1, some p.2)) k = none) :
    sget d (sinsert k v m) j = if k = j then v else sget d m j := by
  induction m with
  | nil => simp [sinsert, sget]
  | cons p t ih =>
    obtain ⟨a, w⟩ := p
    by_cases ha : a = k
    · simp [sget, ha] at h
    · have h' : sget (fun _ => none) (t.map fun p => (p.1, some p.2)) k = none := by
        simpa [sget, ha] using h
      unfold sinsert
      by_cases hlt : k < a
      · simp only [hlt, if_true, sget]
      · simp only [hlt, if_false, sget, ih h']
        by_cases haj : a = j
        · have : k ≠ j := fun e => ha (haj.trans e.symm)
          simp [haj, this]
        · simp [haj]

theorem absent_serase (m : Sparse α) (k : Nat) :
    sget (fun _ => none) ((serase m k).map fun p => (p.1, some p.2)) k = (none : Option α) := by
  induction m with
  | nil => rfl
  | cons p t ih =>
    obtain ⟨a, v⟩ := p
    by_cases ha : a = k <;> simp_all [serase, sget]

/-- A read after a write, of the same key and of any other: for every store, canonical or not. -/
theorem sget_sset [DecidableEq α] (d : Nat → α) (m : Sparse α) (k j : Nat) (v : α) :
    sget d (sset d m k v) j = if k = j then v else sget d m j := by
  unfold sset
  by_cases hv : v = d k
  · rw [if_pos hv, sget_serase]
    by_cases hkj : k = j
    · subst hkj; simp [hv]
    · simp [hkj]
  · rw [if_neg hv, sget_sinsert d _ _ _ _ (absent_serase m k), sget_serase]
    by_cases hkj : k = j <;> simp [hkj]

@[simp] theorem sget_sset_same [DecidableEq α] (d : Nat → α) (m : Sparse α) (k : Nat) (v : α) : sget d (sset d m k v) k = v := by
  simp [sget_sset]

theorem sget_sset_ne [DecidableEq α] (d : Nat → α) (m : Sparse α) {k j : Nat} (v : α) (h : k ≠ j) :
    sget d (sset d m k v) j = sget d m j := by
  simp [sget_sset, h]

/-- Every key of the list is above `k`. -/
def above (k : Nat) (m : Sparse α) : Prop := ∀ p ∈ m, k < p.1

theorem swf_cons [DecidableEq α] (d : Nat → α) (k : Nat) (v : α) (m : Sparse α) :
    swf d ((k, v) :: m) = true ↔ v ≠ d k ∧ above k m ∧ swf d m = true := by
  induction m generalizing k v with
  | nil => simp [swf, above]
  | cons p t ih =>
    obtain ⟨j, w⟩ := p
    constructor
    · intro h
      simp only [swf, Bool.and_eq_true, decide_eq_true_eq] at h
      obtain ⟨⟨h1, h2⟩, h3⟩ := h
      refine ⟨h1, ?_, h3⟩
      intro q hq
      rcases List.mem_cons.1 hq with rfl | hq
      · exact h2
      · exact Nat.lt_trans h2 (((ih j w).1 h3).2.1 q hq)
    · rintro ⟨h1, h2, h3⟩
      simp only [swf, Bool.and_eq_true, decide_eq_true_eq]
      exact ⟨⟨h1, h2 (j, w) (List.mem_cons_self ..)⟩, h3⟩

theorem above_serase {k : Nat} {m : Sparse α} (h : above k m) (j : Nat) : above k (serase m j) := by
  induction m with
  | nil => exact h
  | cons p t ih =>
    obtain ⟨a, v⟩ := p
    have ht : above k t := fun q hq => h q (List.mem_cons_of_mem _ hq)
    unfold serase
    split
    · exact ih ht
    · intro q hq
      rcases List.mem_cons.1 hq with rfl | hq
      · exact h _ (List.mem_cons_self ..)
      · exact ih ht q hq

theorem swf_serase [DecidableEq α] (d : Nat → α) {m : Sparse α} (h : swf d m = true) (k : Nat) : swf d (serase m k) = true := by
  induction m with
  | nil => exact h
  | cons p t ih =>
    obtain ⟨a, v⟩ := p
    obtain ⟨h1, h2, h3⟩ := (swf_cons d a v t).1 h
    unfold serase
    split
    · exact ih h3
    · exact (swf_cons d a v _).2 ⟨h1, above_serase h2 k, ih h3⟩

theorem ne_of_mem_serase {m : Sparse α} {k : Nat} {p : Nat × α} (h : p ∈ serase m k) : p.1 ≠ k := by
  induction m with
  | nil => simp [serase] at h
  | cons q t ih =>
    obtain ⟨a, v⟩ := q
    unfold serase at h
    split at h
    · exact ih h
    · rename_i hne
      rcases List.mem_cons.1 h with rfl | h
      · exact hne
      · exact ih h

theorem above_sinsert {a k : Nat} {m : Sparse α} (h : above a m) (hk : a < k) (v : α) : above a (sinsert k v m) := by
  induction m with
  | nil => intro q hq; simp [sinsert] at hq; subst hq; exact hk
  | cons p t ih =>
    obtain ⟨b, w⟩ := p
    have ht : above a t := fun q hq => h q (List.mem_cons_of_mem _ hq)
    unfold sinsert
    split
    · intro q hq
      rcases List.mem_cons.1 hq with rfl | hq
      · exact hk
      · exact h q hq
    · intro q hq
      rcases List.mem_cons.1 hq with rfl | hq
      · exact h _ (List.mem_cons_self ..)
      · exact ih ht q hq

theorem swf_sinsert [DecidableEq α] (d : Nat → α) {m : Sparse α} (h : swf d m = true) {k : Nat} {v : α} (hv : v ≠ d k)
    (hk : ∀ p ∈ m, p.1 ≠ k) : swf d (sinsert k v m) = true := by
  induction m with
  | nil => simp [sinsert, swf, hv]
  | cons p t ih =>
    obtain ⟨a, w⟩ := p
    obtain ⟨h1, h2, h3⟩ := (swf_cons d a w t).1 h
    have ha : a ≠ k := hk _ (List.mem_cons_self ..)
    unfold sinsert
    split
    · rename_i hlt
      refine (swf_cons d k v _).2 ⟨hv, ?_, h⟩
      intro q hq
      rcases List.mem_cons.1 hq with rfl | hq
      · exact hlt
      · exact Nat.lt_trans hlt (h2 q hq)
    · refine (swf_cons d a w _).2 ⟨h1, above_sinsert h2 (by omega) v, ih h3 fun q hq => hk q (List.mem_cons_of_mem _ hq)⟩

/-- A write keeps the canonical form. -/
theorem swf_sset [DecidableEq α] (d : Nat → α) {m : Sparse α} (h : swf d m = true) (k : Nat) (v : α) : swf d (sset d m k v) = true := by
  unfold sset
  split
  · exact swf_serase d h k
  · rename_i hv
    exact swf_sinsert d (swf_serase d h k) hv fun p hp => ne_of_mem_serase hp

theorem above_smap [DecidableEq α] (d : Nat → α) (f : Nat → α → α) {k : Nat} {m : Sparse α} (h : above k m) : above k (smap d f m) := by
  induction m with
  | nil => exact h
  | cons p t ih =>
    obtain ⟨a, v⟩ := p
    have ht : above k t := fun q hq => h q (List.mem_cons_of_mem _ hq)
    unfold smap
    split
    · exact ih ht
    · intro q hq
      rcases List.mem_cons.1 hq with rfl | hq
      · exact h (a, v) (List.mem_cons_self ..)
      · exact ih ht q hq

/-- A rewrite of every value keeps the canonical form. -/
theorem swf_smap [DecidableEq α] (d : Nat → α) (f : Nat → α → α) {m : Sparse α} (h : swf d m = true) : swf d (smap d f m) = true := by
  induction m with
  | nil => exact h
  | cons p t ih =>
    obtain ⟨a, v⟩ := p
    obtain ⟨h1, h2, h3⟩ := (swf_cons d a v t).1 h
    unfold smap
    split
    · exact ih h3
    · rename_i hne
      exact (swf_cons d a _ _).2 ⟨hne, above_smap d f h2, ih h3⟩

end Sys2Proof.Machine
end

