-- ==== Sys2Proof/Laws/Ops.lean ====
section
/-!
SUPPORT. The laws of the register file: what a word or a field reads after a write of another or of itself, and which parts
of the main side a write leaves alone.
-/
namespace Sys2Proof.Machine

/-! ### Words -/

theorem Main.word_lt (m : Main) (a : Nat) : m.word a < 2 ^ 32 := (sget resetWord m.regs a).isLt

theorem Main.word_setWord (m : Main) (a b v : Nat) : (m.setWord a v).word b = if a = b then v % 2 ^ 32 else m.word b := by
  unfold Main.word Main.setWord
  rw [sget_sset]
  split <;> simp

@[simp] theorem Main.word_setWord_same (m : Main) (a v : Nat) : (m.setWord a v).word a = v % 2 ^ 32 := by
  simp [Main.word_setWord]

theorem Main.word_setWord_ne (m : Main) {a b : Nat} (v : Nat) (h : a ≠ b) : (m.setWord a v).word b = m.word b := by
  simp [Main.word_setWord, h]

/-! ### Bits of a number -/

theorem putBits_lt (old lo w v : Nat) (h : old < 2 ^ 32) (hw : lo + w ≤ 32) : putBits old lo w v < 2 ^ 32 := by
  unfold putBits
  have h1 : old % 2 ^ lo < 2 ^ lo := Nat.mod_lt _ (Nat.two_pow_pos _)
  have h2 : v % 2 ^ w < 2 ^ w := Nat.mod_lt _ (Nat.two_pow_pos _)
  have e : (2 : Nat) ^ (lo + w) = 2 ^ w * 2 ^ lo := by rw [Nat.pow_add, Nat.mul_comm]
  have h3 : old % 2 ^ lo + v % 2 ^ w * 2 ^ lo < 2 ^ (lo + w) := by
    rw [e]
    calc old % 2 ^ lo + v % 2 ^ w * 2 ^ lo < 2 ^ lo + v % 2 ^ w * 2 ^ lo := by omega
      _ = (v % 2 ^ w + 1) * 2 ^ lo := by ring
      _ ≤ 2 ^ w * 2 ^ lo := Nat.mul_le_mul_right _ h2
  obtain ⟨k, hk⟩ := Nat.exists_eq_add_of_le hw
  have e2 : (2 : Nat) ^ 32 = 2 ^ k * 2 ^ (lo + w) := by rw [hk, Nat.pow_add, Nat.mul_comm]
  have h4 : old / 2 ^ (lo + w) < 2 ^ k := by
    rw [Nat.div_lt_iff_lt_mul (Nat.two_pow_pos _), ← e2]; exact h
  calc old % 2 ^ lo + v % 2 ^ w * 2 ^ lo + old / 2 ^ (lo + w) * 2 ^ (lo + w)
      < 2 ^ (lo + w) + old / 2 ^ (lo + w) * 2 ^ (lo + w) := by omega
    _ = (old / 2 ^ (lo + w) + 1) * 2 ^ (lo + w) := by ring
    _ ≤ 2 ^ k * 2 ^ (lo + w) := Nat.mul_le_mul_right _ h4
    _ = 2 ^ 32 := e2.symm

/-- Whether a bit of `putBits` is the written value's or the old one's. -/
theorem testBit_putBits (old lo w v j : Nat) :
    (putBits old lo w v).testBit j = if lo ≤ j ∧ j < lo + w then v.testBit (j - lo) else old.testBit j := by
  have h1 : old % 2 ^ lo < 2 ^ lo := Nat.mod_lt _ (Nat.two_pow_pos _)
  have h2 : v % 2 ^ w < 2 ^ w := Nat.mod_lt _ (Nat.two_pow_pos _)
  have e : (2 : Nat) ^ (lo + w) = 2 ^ lo * 2 ^ w := Nat.pow_add ..
  have hx : putBits old lo w v = 2 ^ lo * (2 ^ w * (old / 2 ^ (lo + w)) + v % 2 ^ w) + old % 2 ^ lo := by
    unfold putBits; rw [e]; ring
  rw [hx, Nat.testBit_two_pow_mul_add _ h1, Nat.testBit_two_pow_mul_add _ h2, Nat.testBit_mod_two_pow, Nat.testBit_mod_two_pow,
    Nat.testBit_div_two_pow]
  by_cases ha : j < lo
  · simp [ha, Nat.not_le.2 ha]
  · by_cases hb : j < lo + w
    · have : j - lo < w := by omega
      simp [ha, hb, this, Nat.not_lt.1 ha]
    · have : ¬ j - lo < w := by omega
      have h3 : j - lo - w + (lo + w) = j := by omega
      simp [ha, hb, this, h3]

theorem field_putBits_same (old lo w v : Nat) : putBits old lo w v / 2 ^ lo % 2 ^ w = v % 2 ^ w := by
  apply Nat.eq_of_testBit_eq
  intro j
  rw [Nat.testBit_mod_two_pow, Nat.testBit_div_two_pow, testBit_putBits, Nat.testBit_mod_two_pow]
  by_cases h : j < w
  · have h1 : lo ≤ j + lo ∧ j + lo < lo + w := by omega
    simp [h, h1]
  · simp [h]

theorem field_putBits_ne (old lo w v lo' w' : Nat) (h : lo' + w' ≤ lo ∨ lo + w ≤ lo') :
    putBits old lo w v / 2 ^ lo' % 2 ^ w' = old / 2 ^ lo' % 2 ^ w' := by
  apply Nat.eq_of_testBit_eq
  intro j
  rw [Nat.testBit_mod_two_pow, Nat.testBit_div_two_pow, testBit_putBits, Nat.testBit_mod_two_pow, Nat.testBit_div_two_pow]
  by_cases hj : j < w'
  · have h1 : ¬ (lo ≤ j + lo' ∧ j + lo' < lo + w) := by omega
    simp [h1]
  · simp [hj]

/-! ### Fields -/

theorem Main.word_put (m : Main) (f : Field) (v i b : Nat) (h : f.lo + f.width ≤ 32) :
    (m.put f v i).word b = if f.addr i = b then putBits (m.word b) f.lo f.width v else m.word b := by
  unfold Main.put
  rw [Main.word_setWord]
  split
  · next e => subst e; exact Nat.mod_eq_of_lt (putBits_lt _ _ _ _ (Main.word_lt _ _) h)
  · rfl

/-- A write of another register leaves a field alone. -/
theorem Main.get_setWord_ne (m : Main) (f : Field) (i : Nat) {a : Nat} (v : Nat) (h : a ≠ f.addr i) :
    (m.setWord a v).get f i = m.get f i := by
  unfold Main.get; rw [Main.word_setWord_ne _ _ h]

/-- A field reads what was last put into it. -/
theorem Main.get_put_same (m : Main) (f : Field) (v i : Nat) (h : f.lo + f.width ≤ 32) :
    (m.put f v i).get f i = v % 2 ^ f.width := by
  unfold Main.get
  rw [Main.word_put _ _ _ _ _ h, if_pos rfl, field_putBits_same]

/-- A field of another register is left alone. -/
theorem Main.get_put_addr (m : Main) (f g : Field) (v i j : Nat) (h : f.addr i ≠ g.addr j) :
    (m.put f v i).get g j = m.get g j := by
  unfold Main.put; exact Main.get_setWord_ne _ _ _ _ h

/-- Another field of the same register is left alone. -/
theorem Main.get_put_bits (m : Main) (f g : Field) (v i j : Nat) (hf : f.lo + f.width ≤ 32)
    (h : g.lo + g.width ≤ f.lo ∨ f.lo + f.width ≤ g.lo) : (m.put f v i).get g j = m.get g j := by
  unfold Main.get
  rw [Main.word_put _ _ _ _ _ hf]
  split
  · exact field_putBits_ne _ _ _ _ _ _ h
  · rfl

theorem Main.get_lt (m : Main) (f : Field) (i : Nat) : m.get f i < 2 ^ f.width := Nat.mod_lt _ (Nat.two_pow_pos _)

/-! ### What a register write leaves alone -/

@[simp] theorem Main.put_fuse (m : Main) (f : Field) (v i : Nat) : (m.put f v i).fuse = m.fuse := rfl
@[simp] theorem Main.put_host (m : Main) (f : Field) (v i : Nat) : (m.put f v i).host = m.host := rfl
@[simp] theorem Main.put_log (m : Main) (f : Field) (v i : Nat) : (m.put f v i).log = m.log := rfl
@[simp] theorem Main.put_time (m : Main) (f : Field) (v i : Nat) : (m.put f v i).time = m.time := rfl
@[simp] theorem Main.put_ylm (m : Main) (f : Field) (v i : Nat) : (m.put f v i).ylm = m.ylm := rfl
@[simp] theorem Main.put_lanes (m : Main) (f : Field) (v i : Nat) : (m.put f v i).lanes = m.lanes := rfl
@[simp] theorem Main.put_ctx (m : Main) (f : Field) (v i : Nat) : (m.put f v i).ctx = m.ctx := rfl
@[simp] theorem Main.put_wav (m : Main) (f : Field) (v i : Nat) : (m.put f v i).wav = m.wav := rfl
@[simp] theorem Main.put_pur (m : Main) (f : Field) (v i : Nat) : (m.put f v i).pur = m.pur := rfl
@[simp] theorem Main.put_mir (m : Main) (f : Field) (v i : Nat) : (m.put f v i).mir = m.mir := rfl
@[simp] theorem Main.put_eav (m : Main) (f : Field) (v i : Nat) : (m.put f v i).eav = m.eav := rfl
@[simp] theorem Main.put_gbl (m : Main) (f : Field) (v i : Nat) : (m.put f v i).gbl = m.gbl := rfl
@[simp] theorem Main.put_rdg (m : Main) (f : Field) (v i : Nat) : (m.put f v i).rdg = m.rdg := rfl
@[simp] theorem Main.put_red (m : Main) (f : Field) (v i : Nat) : (m.put f v i).red = m.red := rfl
@[simp] theorem Main.put_key (m : Main) (f : Field) (v i : Nat) : (m.put f v i).key = m.key := rfl
@[simp] theorem Main.put_upd (m : Main) (f : Field) (v i : Nat) : (m.put f v i).upd = m.upd := rfl
@[simp] theorem Main.put_pwr (m : Main) (f : Field) (v i : Nat) : (m.put f v i).pwr = m.pwr := rfl
@[simp] theorem Main.put_out (m : Main) (f : Field) (v i : Nat) : (m.put f v i).out = m.out := rfl
@[simp] theorem Main.put_free (m : Main) (f : Field) (v i : Nat) : (m.put f v i).free = m.free := rfl

/-- The register file keeps its canonical form under every write. -/
theorem swf_setWord (m : Main) (a v : Nat) (h : swf resetWord m.regs = true) : swf resetWord (m.setWord a v).regs = true :=
  swf_sset resetWord h a _

theorem swf_put (m : Main) (f : Field) (v i : Nat) (h : swf resetWord m.regs = true) : swf resetWord (m.put f v i).regs = true :=
  swf_setWord m _ _ h

end Sys2Proof.Machine
end

