-- ==== Sys2Proof/Laws/Keeps.lean ====
section
/-!
SUPPORT. The frame of the shared reporting operations: an event, a trace, a log record, an upload, a write-back. They
write the event words, the host interface, the DMA engine, the log and the skylight port, and leave every other block of
registers and every other part of the main side as it was.
-/
namespace Sys2Proof.Machine

/-- The blocks of BAR0 that reporting writes beside the pending events: HST, DMA, SOF, SKY and the MSI-X structures. -/
def reportWrite (b : Nat) : Bool := b == 2 || b == 3 || b == 0x12 || b == 0x13 || b == 0x3F

/-- The registers that reporting writes: GLB_EVT and those blocks. -/
def reportAddr (a : Nat) : Bool := a == 0x10 || a == 0x14 || reportWrite (a / 65536)

theorem reportAddr_of_write {a : Nat} (h : reportWrite (a / 65536) = true) : reportAddr a = true := by
  unfold reportAddr; rw [h]; simp

theorem ne_zero_of_write {b : Nat} (h : reportWrite b = true) : b ≠ 0 := by
  intro e; subst e; cases h

/-- `m'` is `m` but for what reporting writes. -/
structure Keeps (m m' : Main) : Prop where
  word : ∀ a, reportAddr a = false → m'.word a = m.word a
  fuse : m'.fuse = m.fuse
  time : m'.time = m.time
  ylm : m'.ylm = m.ylm
  lanes : m'.lanes = m.lanes
  ctx : m'.ctx = m.ctx
  wav : m'.wav = m.wav
  pur : m'.pur = m.pur
  mir : m'.mir = m.mir
  eav : m'.eav = m.eav
  gbl : m'.gbl = m.gbl
  rdg : m'.rdg = m.rdg
  red : m'.red = m.red
  key : m'.key = m.key
  upd : m'.upd = m.upd
  pwr : m'.pwr = m.pwr
  /-- what has been put on a bus or a land stays put: outputs are only added, newest first -/
  out : m.out <:+ m'.out
  /-- a pending event stays pending -/
  pend : ∀ n, n < 64 → pends m n = true → pends m' n = true

theorem Keeps.refl (m : Main) : Keeps m m := ⟨fun _ _ => rfl, rfl, rfl, rfl, rfl, rfl, rfl, rfl, rfl, rfl, rfl, rfl, rfl, rfl, rfl, rfl, List.suffix_refl _, fun _ _ h => h⟩

theorem Keeps.trans {a b c : Main} (h : Keeps a b) (g : Keeps b c) : Keeps a c :=
  ⟨fun x hx => (g.word x hx).trans (h.word x hx), g.fuse.trans h.fuse, g.time.trans h.time, g.ylm.trans h.ylm, g.lanes.trans h.lanes,
   g.ctx.trans h.ctx, g.wav.trans h.wav, g.pur.trans h.pur, g.mir.trans h.mir, g.eav.trans h.eav, g.gbl.trans h.gbl, g.rdg.trans h.rdg,
   g.red.trans h.red, g.key.trans h.key, g.upd.trans h.upd, g.pwr.trans h.pwr, h.out.trans g.out,
   fun n hn hp => g.pend n hn (h.pend n hn hp)⟩

/-- A field of a block that reporting does not write. -/
theorem Keeps.get {m m' : Main} (h : Keeps m m') (f : Field) (i : Nat) (hf : reportAddr (f.addr i) = false) :
    m'.get f i = m.get f i := by
  unfold Main.get; rw [h.word _ hf]

theorem Keeps.bit {m m' : Main} (h : Keeps m m') (f : Field) (i j : Nat) (hf : reportAddr (f.addr i) = false) :
    m'.bit f i j = m.bit f i j := by
  unfold Main.bit; rw [h.get f i hf]

theorem Keeps.mode {m m' : Main} (h : Keeps m m') : m'.mode = m.mode := h.get _ 0 rfl

/-- An output made before stays. -/
theorem Keeps.mem {m m' : Main} (h : Keeps m m') {o : Output} (ho : o ∈ m.out) : o ∈ m'.out := h.out.mem ho

/-- A write of a register of a reporting block other than GLB. -/
theorem Keeps.setWord (m : Main) (a v : Nat) (h : reportWrite (a / 65536) = true) : Keeps m (m.setWord a v) := by
  refine ⟨fun x hx => Main.word_setWord_ne _ _ ?_, rfl, rfl, rfl, rfl, rfl, rfl, rfl, rfl, rfl, rfl, rfl, rfl, rfl, rfl, rfl, List.suffix_refl _, ?_⟩
  · intro e; subst e; rw [reportAddr_of_write h] at hx; cases hx
  · intro n hn hp
    have : a ≠ F.GLB_EVT_PEND.addr (n / 32) := by
      intro e; apply ne_zero_of_write h; rw [e]; unfold Field.addr; simp only [F.GLB_EVT_PEND]; omega
    unfold pends Main.bit at *
    rw [Main.get_setWord_ne _ _ _ _ this]; exact hp

theorem Keeps.put (m : Main) (f : Field) (v i : Nat) (h : reportWrite (f.addr i / 65536) = true) : Keeps m (m.put f v i) :=
  Keeps.setWord m _ _ h

theorem Keeps.putBit (m : Main) (f : Field) (on : Bool) (i j : Nat) (h : reportWrite (f.addr i / 65536) = true) :
    Keeps m (m.putBit f on i j) := Keeps.setWord m _ _ h

theorem Keeps.count (m : Main) (f : Field) (i n : Nat) (h : reportWrite (f.addr i / 65536) = true) : Keeps m (m.count f i n) :=
  Keeps.setWord m _ _ h

/-- A change of the free counter, the log or the host interface alone. -/
theorem Keeps.side {m m' : Main} (h : m' = { m with free := m'.free, log := m'.log, host := m'.host }) : Keeps m m' := by
  rw [h]; exact ⟨fun _ _ => rfl, rfl, rfl, rfl, rfl, rfl, rfl, rfl, rfl, rfl, rfl, rfl, rfl, rfl, rfl, rfl, List.suffix_refl _, fun _ _ h => h⟩

/-- An output, with a change of the free counter or the log. -/
theorem Keeps.emits {m m' : Main} (o : Output) (h : m' = { m with out := o :: m.out, free := m'.free, log := m'.log, host := m'.host }) :
    Keeps m m' := by
  rw [h]; exact ⟨fun _ _ => rfl, rfl, rfl, rfl, rfl, rfl, rfl, rfl, rfl, rfl, rfl, rfl, rfl, rfl, rfl, rfl, List.suffix_cons _ _, fun _ _ h => h⟩

theorem keeps_ite {m a b : Main} (c : Prop) [Decidable c] (h : Keeps m a) (g : Keeps m b) : Keeps m (if c then a else b) := by
  split
  · exact h
  · exact g

theorem keeps_withRing (m : Main) (r : Nat) (f : Ring → Ring) : Keeps m (withRing m r f) := Keeps.side rfl
theorem keeps_emit (m : Main) (o : Output) : Keeps m (m.emit o) := Keeps.emits o rfl
theorem keeps_nextFree (m : Main) : Keeps m (nextFree m) := Keeps.side rfl

theorem keeps_foldl {α : Type} (f : Main → α → Main) (h : ∀ m x, Keeps m (f m x)) (l : List α) (m : Main) : Keeps m (l.foldl f m) := by
  induction l generalizing m with
  | nil => exact Keeps.refl m
  | cons x t ih => exact (h m x).trans (ih (f m x))

/-- An address at `b + s × i` of a block, where the index is small enough to stay in it. -/
theorem block_of {b s i n k : Nat} (hs : 0 < s) (hi : i < n) (h1 : 65536 * k ≤ b) (h2 : b + s * n ≤ 65536 * (k + 1)) :
    (b + s * i) / 65536 = k := by
  have h4 : s * i < s * n := (Nat.mul_lt_mul_left hs).2 hi
  omega

theorem report_of {b s i n k : Nat} (hk : reportWrite k = true) (hs : 0 < s) (hi : i < n) (h1 : 65536 * k ≤ b)
    (h2 : b + s * n ≤ 65536 * (k + 1)) : reportWrite ((b + s * i) / 65536) = true := by
  rw [block_of hs hi h1 h2]; exact hk

/-! ### The skylight port and events -/

theorem mem_cntList {m : Main} {n : Nat} (h : n ∈ cntList m) : n < 256 := by
  unfold cntList at h
  obtain ⟨p, -, hp⟩ := List.mem_filterMap.1 h
  split at hp
  · injection hp with e; omega
  · cases hp

theorem keeps_bumpCounter (k n : Nat) (m : Main) (h : n < 256) : Keeps m (bumpCounter k n m).1 := by
  have e1 : reportWrite (F.SKY_CNT.addr n / 65536) = true := report_of (k := 0x13) rfl (by decide) h (by decide) (by decide)
  have e2 : reportWrite (F.SKY_HIT.addr (n / 32) / 65536) = true :=
    report_of (k := 0x13) (n := 8) rfl (by decide) (by omega) (by decide) (by decide)
  unfold bumpCounter
  dsimp only
  split
  · exact (Keeps.put m F.SKY_CNT _ n e1).trans (Keeps.putBit _ F.SKY_HIT _ _ _ e2)
  · exact Keeps.put m F.SKY_CNT _ n e1

theorem keeps_countSource (m : Main) (src k : Nat) (lane lantern : Option Nat) : Keeps m (countSource m src k lane lantern).1 := by
  unfold countSource
  have key : ∀ (l : List Nat) (s : Main × Bool), (∀ n ∈ l, n < 256) → Keeps s.1 (l.foldl (fun (s : Main × Bool) n =>
      let q := s.1.get F.SKY_CNT_CFG_QUAL n
      if s.1.bit F.SKY_CNT_CFG_ENABLE n && s.1.get F.SKY_CNT_CFG_SOURCE n == src &&
          (!s.1.bit F.SKY_CNT_CFG_QUAL_EN n || lane == some (q % 8) || lantern == some q) then
        let r := bumpCounter k n s.1
        (r.1, s.2 || r.2)
      else s) s).1 := by
    intro l
    induction l with
    | nil => intro s _; exact Keeps.refl _
    | cons n t ih =>
      intro s h
      refine Keeps.trans ?_ (ih _ fun x hx => h x (List.mem_cons_of_mem _ hx))
      dsimp only
      split
      · exact keeps_bumpCounter _ _ _ (h n (List.mem_cons_self ..))
      · exact Keeps.refl _
  exact key (cntList m) (m, false) fun n hn => mem_cntList hn

theorem keeps_skyQueue (m : Main) (src data : Nat) : Keeps m (skyQueue m src data) := by
  unfold skyQueue
  split
  · exact (Keeps.side rfl : Keeps m { m with log := { m.log with skyDrops := m.log.skyDrops + 1 } }).trans (Keeps.count _ _ _ _ rfl)
  · exact (Keeps.side rfl).trans (Keeps.put _ _ _ _ rfl)

theorem keeps_skyTrace (m : Main) (src data : Nat) (lane lantern : Option Nat) : Keeps m (skyTrace m src data lane lantern) := by
  unfold skyTrace
  exact keeps_ite _ (keeps_skyQueue _ _ _) (Keeps.refl _)

/-- Bit `j` of a number after one bit of it has been put. -/
theorem bitOf_putBits (old k v j : Nat) : bitOf (putBits old k 1 v) j = if j = k then bitOf v 0 else bitOf old j := by
  have key : ∀ x i : Nat, bitOf x i = x.testBit i := by
    intro x i
    unfold bitOf
    rw [Nat.testBit_eq_decide_div_mod_eq]
    by_cases e : x / 2 ^ i % 2 = 1 <;> simp [e]
  rw [key, key, key, testBit_putBits]
  by_cases e : j = k
  · subst e; simp
  · rw [if_neg e, if_neg (by omega)]

theorem bitOf_mod (v w j : Nat) (h : j < w) : bitOf (v % 2 ^ w) j = bitOf v j := by
  have key : ∀ x i : Nat, bitOf x i = x.testBit i := by
    intro x i
    unfold bitOf
    rw [Nat.testBit_eq_decide_div_mod_eq]
    by_cases e : x / 2 ^ i % 2 = 1 <;> simp [e]
  rw [key, key, Nat.testBit_mod_two_pow]; simp [h]

/-- A bit of a field reads what was put into it. -/
theorem Main.bit_putBit (m : Main) (f : Field) (on : Bool) (i j k : Nat) (hw : f.lo + f.width ≤ 32) (hj : j < f.width) :
    (m.putBit f on i k).bit f i j = if j = k then on else m.bit f i j := by
  unfold Main.bit Main.putBit
  rw [Main.get_put_same _ _ _ _ hw, bitOf_mod _ _ _ hj, bitOf_putBits]
  cases on <;> rfl

theorem evt_addr {n : Nat} (h : n < 64) : reportAddr (F.GLB_EVT_PEND.addr (n / 32)) = true := by
  have : n / 32 = 0 ∨ n / 32 = 1 := by omega
  rcases this with e | e <;> rw [e] <;> rfl

theorem evt_ne {n k : Nat} (e : ¬ k / 32 = n / 32) : F.GLB_EVT_PEND.addr (n / 32) ≠ F.GLB_EVT_PEND.addr (k / 32) := by
  unfold Field.addr; simp only [F.GLB_EVT_PEND]; omega

theorem evt_word_ne {n x : Nat} (h : n < 64) (hx : reportAddr x = false) : F.GLB_EVT_PEND.addr (n / 32) ≠ x := by
  intro e; rw [← e, evt_addr h] at hx; cases hx

theorem Keeps.ofWord (m : Main) (a v : Nat) (h : ∀ x, reportAddr x = false → a ≠ x)
    (hp : ∀ n, n < 64 → pends m n = true → pends (m.setWord a v) n = true) : Keeps m (m.setWord a v) :=
  ⟨fun x hx => Main.word_setWord_ne _ _ (h x hx), rfl, rfl, rfl, rfl, rfl, rfl, rfl, rfl, rfl, rfl, rfl, rfl, rfl, rfl, rfl,
   List.suffix_refl _, hp⟩

theorem pends_put_same (m : Main) (n : Nat) : pends (m.putBit F.GLB_EVT_PEND true (n / 32) (n % 32)) n = true := by
  unfold pends
  rw [Main.bit_putBit m F.GLB_EVT_PEND true (n / 32) (n % 32) (n % 32) (by decide) (Nat.mod_lt n (by decide : 0 < 32)), if_pos rfl]

theorem pends_put (m : Main) (n k : Nat) (hp : pends m k = true) : pends (m.putBit F.GLB_EVT_PEND true (n / 32) (n % 32)) k = true := by
  unfold pends at *
  by_cases e : k / 32 = n / 32
  · rw [e] at hp ⊢
    rw [Main.bit_putBit m F.GLB_EVT_PEND true (n / 32) (k % 32) (n % 32) (by decide) (Nat.mod_lt k (by decide : 0 < 32))]
    split
    · rfl
    · exact hp
  · unfold Main.bit Main.putBit at *
    rw [Main.get_put_addr _ _ _ _ _ _ (evt_ne e)]; exact hp

theorem Keeps.evt (m : Main) (n w : Nat) (h : n < 64)
    (hp : ∀ k, k < 64 → pends m k = true → pends (m.put F.GLB_EVT_PEND w (n / 32)) k = true) : Keeps m (m.put F.GLB_EVT_PEND w (n / 32)) :=
  Keeps.ofWord m _ _ (fun _ hx => evt_word_ne h hx) hp

theorem keeps_pend (m : Main) (n : Nat) (h : n < 64) : Keeps m (m.putBit F.GLB_EVT_PEND true (n / 32) (n % 32)) :=
  Keeps.evt m n _ h fun k (_ : k < 64) hk => pends_put m n k hk

theorem pba_block {n : Nat} (h : n < 64) : reportWrite (F.MSIX_PBA.addr (n / 32) / 65536) = true := by
  have : F.MSIX_PBA.addr (n / 32) / 65536 = 0x3F := by unfold Field.addr; simp only [F.MSIX_PBA]; omega
  rw [this]; rfl

theorem keeps_message (m p : Main) (n : Nat) (h : n < 64) (h0 : Keeps m p) (hp : pends p n = true) :
    let q := if !vectorOpen p n then p.putBit F.MSIX_PBA true (n / 32) (n % 32) else if p.host.msixEnable then p.emit (.msix n) else p
    Keeps m q ∧ pends q n = true := by
  have h1 : Keeps p (p.putBit F.MSIX_PBA true (n / 32) (n % 32)) := Keeps.putBit p F.MSIX_PBA true (n / 32) (n % 32) (pba_block h)
  dsimp only
  split
  · exact ⟨h0.trans h1, h1.pend n h hp⟩
  · split
    · exact ⟨h0.trans (keeps_emit _ _), (keeps_emit p (.msix n)).pend n h hp⟩
    · exact ⟨h0, hp⟩

theorem keeps_raise (m : Main) (n : Nat) (h : n < 64) : Keeps m (raise m n) ∧ pends (raise m n) n = true :=
  keeps_message m _ n h (keeps_pend m n h) (pends_put_same m n)

theorem keeps_sky (m : Main) (src data : Nat) (lane lantern : Option Nat) : Keeps m (sky m src data lane lantern) := by
  unfold sky
  dsimp only
  have h1 := (keeps_skyTrace m src data lane lantern).trans (keeps_countSource _ src 1 lane lantern)
  split
  · exact (h1.trans (keeps_raise _ 63 (by decide)).1).trans ((keeps_skyTrace _ _ _ _ _).trans (keeps_countSource _ _ _ _ _))
  · exact h1

/-- An event writes nothing but what reporting writes (R369, R370). -/
theorem keeps_fire (n : Nat) (m : Main) (h : n < 64) : Keeps m (fire n m) := by
  unfold fire
  split
  · exact (keeps_raise m n h).1.trans (keeps_sky _ _ _ _ _)
  · exact Keeps.refl m

/-- An enabled event that fires is pending (R369). -/
theorem pends_fire (n : Nat) (m : Main) (h : n < 64) (he : eventEnabled m n = true) : pends (fire n m) n = true := by
  unfold fire
  rw [if_pos he]
  exact (keeps_sky _ _ _ _ _).pend n h (keeps_raise m n h).2

theorem keeps_fireIf (c : Bool) (n : Nat) (m : Main) (h : n < 64) : Keeps m (fireIf c n m) := by
  unfold fireIf
  split
  · exact keeps_fire n m h
  · exact Keeps.refl m

/-! ### Rings -/

theorem ring_field {b i : Nat} (hi : i < 32) (h1 : 0x020000 ≤ b) (h2 : b + 0x20 * 32 ≤ 0x030000) :
    reportWrite ((b + 0x20 * i) / 65536) = true := report_of (k := 2) rfl (by decide) hi (by omega) (by omega)

theorem channel_field {b i : Nat} (hi : i < 16) (h1 : 0x030000 ≤ b) (h2 : b + 0x20 * 16 ≤ 0x040000) :
    reportWrite ((b + 0x20 * i) / 65536) = true := report_of (k := 3) rfl (by decide) hi (by omega) (by omega)

theorem channelOf_lt {r : Nat} (h : r < 32) : channelOf r < 16 := by
  unfold channelOf; split <;> [omega; (split <;> [omega; (split <;> omega)])]

theorem keeps_ringEvent (m : Main) (r n : Nat) (h : n < 64) : Keeps m (ringEvent m r n) := by
  unfold ringEvent
  split
  · exact keeps_fire n m h
  · split
    · exact keeps_withRing _ _ _
    · exact (keeps_withRing m r _).trans (keeps_fire n _ h)

theorem keeps_granted (c : Nat) (m : Main) : Keeps m (granted c m) := Keeps.side rfl

theorem keeps_bursts {α : Type} (c : Nat) (f : α → Output) (l : List α) (m : Main) :
    Keeps m (l.foldl (fun m b => granted c (m.emit (f b))) m) :=
  keeps_foldl _ (fun m b => (keeps_emit m (f b)).trans (keeps_granted c _)) l m

/-- Reads of host memory (R371). -/
theorem keeps_hostReads (c : Nat) (segs : List (Nat × Nat)) (attr : Attr) (m : Main) : Keeps m (hostReads c segs attr m) :=
  keeps_foldl _ (fun m _ => keeps_bursts c (fun b : Nat × Nat => Output.hostRead c b.1 b.2 attr) _ m) segs m

/-- Posted writes to host memory (R371). -/
theorem keeps_hostWrites (c : Nat) (segs : List (Nat × Nat)) (data : List Byte) (m : Main) : Keeps m (hostWrites c segs data m) :=
  keeps_bursts c (fun b : Nat × List Byte => Output.hostWrite c b.1 b.2 Attr.plain) _ m

theorem keeps_readDesc (r pos : Nat) (m : Main) : Keeps m (readDesc r pos m) := keeps_hostReads _ _ _ _

theorem keeps_readList (c : Nat) (d : Desc) (w : SgWalk) (m : Main) : Keeps m (readList c d w m) := by
  unfold readList; exact keeps_ite _ (keeps_hostReads _ _ _ _) (Keeps.refl m)

theorem keeps_backData (r : Nat) (d : Desc) (data : List Byte) (m : Main) : Keeps m (backData r d data m) := by
  unfold backData; exact keeps_ite _ (Keeps.refl m) ((keeps_hostWrites _ _ _ _).trans (keeps_emit _ _))

theorem keeps_backTail (a : Nat) (raw : List Byte) (rep : Reply) (records : Nat) (m : Main) : Keeps m (backTail a raw rep records m) :=
  ((keeps_hostWrites _ _ _ _).trans (keeps_hostWrites _ _ _ _)).trans (keeps_emit _ _)

theorem keeps_putBack (m : Main) (r pos : Nat) (d : Option Desc) (rep : Reply) (records : Nat) :
    Keeps m (putBack m r pos d rep records) := by
  unfold putBack
  cases d with
  | none => exact ((Keeps.side rfl : Keeps m m.freeVal.2).trans (keeps_backTail _ _ _ _ _)).trans (keeps_sky _ _ _ _ _)
  | some d => exact ((keeps_backData _ _ _ _).trans (keeps_backTail _ _ _ _ _)).trans (keeps_sky _ _ _ _ _)

theorem keeps_dmaTrace (c what : Nat) (m : Main) : Keeps m (dmaTrace c what m) := keeps_sky _ _ _ _ _

theorem keeps_haltRing (r c cause : Nat) (m : Main) (h : r < 32) (hc : c < 16) : Keeps m (haltRing r c cause m) := by
  unfold haltRing
  refine Keeps.trans (((Keeps.put m F.HST_RING_STATUS_STATE _ r ?_).trans (Keeps.put _ F.HST_RING_STATUS_CAUSE _ r ?_)).trans
    (Keeps.putBit _ F.DMA_CH_STATE_PAUSED _ c 0 ?_)) (keeps_dmaTrace _ _ _)
  · exact ring_field h (by decide) (by decide)
  · exact ring_field h (by decide) (by decide)
  · exact channel_field hc (by decide) (by decide)

theorem keeps_dmaMoved (r moved : Nat) (w : SgWalk) (m : Main) (h : r < 32) : Keeps m (dmaMoved r moved w m) := by
  have hc := channelOf_lt h
  unfold dmaMoved
  dsimp only
  refine Keeps.trans (Keeps.trans (Keeps.trans (Keeps.put m F.DMA_CH_STATE_SEG _ _ ?_) (Keeps.put _ F.DMA_CH_STATE_HOPS _ _ ?_))
    (Keeps.put _ F.DMA_REMAIN _ _ ?_)) (Keeps.trans (Keeps.trans (Keeps.put _ F.DMA_CUR_ADDR_LO _ _ ?_)
    (Keeps.put _ F.DMA_CUR_ADDR_HI _ _ ?_)) (Keeps.count _ F.DMA_BYTES _ _ ?_))
  all_goals exact channel_field hc (by decide) (by decide)

theorem uplEvent_lt {u n : Nat} (h : uplEvent u = some n) : n < 64 := by
  unfold uplEvent at h
  split at h <;> first | (injection h with e; omega) | cases h

theorem keeps_uplEnd (u status detail : Nat) (done : Option Nat) (m : Main) (h : 8 + u < 32) : Keeps m (uplEnd u status detail done m) := by
  unfold uplEnd
  dsimp only
  split
  · exact Keeps.refl m
  · split
    · next e he =>
      exact (((keeps_withRing m _ _).trans (keeps_dmaMoved _ _ _ _ h)).trans (keeps_putBack _ _ _ _ _ _)).trans
        (keeps_ringEvent _ _ _ (uplEvent_lt he))
    · exact ((keeps_withRing m _ _).trans (keeps_dmaMoved _ _ _ _ h)).trans (keeps_putBack _ _ _ _ _ _)

theorem keeps_uplWriteBack (u : Nat) (m : Main) (h : 8 + u < 32) : Keeps m (uplWriteBack u m) := keeps_uplEnd _ _ _ _ _ h

theorem keeps_uplPlaceIn (u : Nat) (rec : List Byte) (m : Main) (h : 8 + u < 32) : Keeps m (uplPlaceIn u rec m).1 := by
  unfold uplPlaceIn
  dsimp only
  split
  · exact Keeps.refl m
  · split
    · exact Keeps.refl m
    · split
      · refine ((keeps_uplEnd u _ _ _ m h).trans (Keeps.count _ F.UPL_DROPPED _ _ ?_)).trans
          ((keeps_haltRing _ _ _ _ h (channelOf_lt h)).trans (keeps_fire _ _ (by decide)))
        exact ring_field h (by decide) (by decide)
      · dsimp only
        split
        · exact (keeps_withRing m _ _).trans (keeps_uplWriteBack _ _ h)
        · exact keeps_withRing m _ _

theorem keeps_uplPlace (u : Nat) (rec : List Byte) (m : Main) (h : 8 + u < 32) : Keeps m (uplPlace u rec m).1 := by
  unfold uplPlace
  dsimp only
  split
  · exact keeps_uplPlaceIn _ _ _ h
  · exact (keeps_uplWriteBack u m h).trans (keeps_uplPlaceIn _ _ _ h)

theorem keeps_uplDrain (u k : Nat) (m : Main) (h : 8 + u < 32) : Keeps m (uplDrain u k m) := by
  induction k generalizing m with
  | zero => exact Keeps.refl m
  | succ k ih =>
    unfold uplDrain
    split
    · exact Keeps.refl m
    · split
      · dsimp only
        split
        · exact ((keeps_uplPlace u _ m h).trans (keeps_withRing _ _ _)).trans (ih _)
        · exact keeps_uplPlace u _ m h
      · exact Keeps.refl m

/-- A record posted to an upload ring (R366, R367). -/
theorem keeps_uplPost (u : Nat) (rec : List Byte) (m : Main) (h : 8 + u < 32) : Keeps m (uplPost u rec m) := by
  have hold : ∀ x : Main, ∀ n : Nat, Keeps x (if 64 ≤ n then x.count F.UPL_DROPPED (8 + u) else
      withRing x (8 + u) fun g => { g with waiting := g.waiting ++ [rec] }) := by
    intro x n
    split
    · exact Keeps.count _ F.UPL_DROPPED _ _ (ring_field h (by decide) (by decide))
    · exact keeps_withRing _ _ _
  unfold uplPost
  dsimp only
  split
  · split
    · exact keeps_uplPlace _ _ _ h
    · exact (keeps_uplPlace u rec m h).trans (hold _ _)
  · exact hold _ _

/-! ### The soffit log -/

theorem keeps_putRec (m : Main) (store area pos : Nat) (r : Option SofRec) : Keeps m (putRec m store area pos r) := Keeps.side rfl

theorem keeps_deliverLive (m : Main) (store : Nat) (r : SofRec) (replay : Bool) : Keeps m (deliverLive m store r replay) := by
  unfold deliverLive
  split
  · exact keeps_uplPost _ _ _ (by decide)
  · exact Keeps.refl m

theorem sof_field {b s i : Nat} (hi : i < 4) (hs : 0 < s) (h1 : 0x120000 ≤ b) (h2 : b + s * 4 ≤ 0x130000) :
    reportWrite ((b + s * i) / 65536) = true := report_of (k := 0x12) rfl hs hi (by omega) (by omega)

theorem keeps_setRecNo (m : Main) (s n : Nat) (h : s < 4) : Keeps m (setRecNo m s n) :=
  (Keeps.put m F.SOF_RECNO_LO _ s (sof_field h (by decide) (by decide) (by decide))).trans
    (Keeps.put _ F.SOF_RECNO_HI _ s (sof_field h (by decide) (by decide) (by decide)))

theorem keeps_setClosed (m : Main) (store : Nat) : Keeps m (setClosed m store) :=
  (Keeps.putBit m F.SOF_STATUS_CLOSED _ 0 store rfl).trans (keeps_fire 60 _ (by decide))

theorem keeps_writeStore (fuel store : Nat) (r : SofRec) (m : Main) (h : store < 4) : Keeps m (writeStore fuel store r m) := by
  induction fuel generalizing store r m with
  | zero => exact Keeps.refl m
  | succ fuel ih =>
    unfold writeStore
    dsimp only
    have h1 : ∀ r n, Keeps m (deliverLive (sky ((putRec (if recNo m store < 1024 then putRec (setRecNo m store n) store 0 (recNo m store) (some r)
        else setRecNo m store n) store 1 (recNo m store % 8192) (some r)).count F.SOF_WRITTEN) 0x11 (store * 2 ^ 30 + r.code)) store r false) := by
      intro r n
      refine ((((keeps_setRecNo m store n h).trans ?_).trans (keeps_putRec _ _ _ _ _)).trans (Keeps.count _ _ _ _ rfl)).trans
        ((keeps_sky _ _ _ _ _).trans (keeps_deliverLive _ _ _ _))
      split
      · exact keeps_putRec _ _ _ _ _
      · exact Keeps.refl _
    split
    · exact (h1 _ _).trans (((keeps_setClosed _ _).trans (keeps_nextFree _)).trans (ih 2 _ _ (by decide)))
    · exact h1 _ _

theorem storeOf_lt (code : Nat) : storeOf code < 4 := by
  unfold storeOf; split <;> [omega; (split <;> omega)]

theorem keeps_privPut (store : Nat) (r : SofRec) (m : Main) : Keeps m (privPut store r m) := by
  have add : ∀ (x : Main) (b : List (Nat × SofRec)), Keeps x (({ x with log := { x.log with priv := b } } : Main).put F.SOF_STATUS_PRIV_FILL b.length) :=
    fun x b => (Keeps.side rfl).trans (Keeps.put _ _ _ _ rfl)
  have lost : ∀ x : Main, Keeps x { x.countSat F.SOF_STATUS_PRIV_LOST with log := { x.log with lostSince := x.log.lostSince + 1 } } :=
    fun x => (Keeps.put x F.SOF_STATUS_PRIV_LOST _ 0 rfl).trans (Keeps.side rfl)
  unfold privPut
  dsimp only
  split
  · exact (Keeps.side rfl).trans (Keeps.put _ _ _ _ rfl)
  · split
    · exact (lost m).trans ((Keeps.side rfl).trans (Keeps.put _ _ _ _ rfl))
    · exact lost m

/-- A record by a privileged writer (R496). -/
theorem keeps_recordPriv (code p0 p1 p2 p3 : Nat) (m : Main) : Keeps m (recordPriv code p0 p1 p2 p3 m) :=
  (keeps_nextFree m).trans (keeps_privPut _ _ _)

/-- A record by any other main-side writer (R494–R496). -/
theorem keeps_record (code p0 p1 p2 p3 : Nat) (m : Main) : Keeps m (record code p0 p1 p2 p3 m) := by
  unfold record
  dsimp only
  refine (keeps_nextFree m).trans ?_
  split
  · exact keeps_privPut _ _ _
  · split
    · exact keeps_writeStore _ _ _ _ (storeOf_lt code)
    · split
      · exact (Keeps.side rfl).trans (keeps_writeStore _ _ _ _ (storeOf_lt code))
      · exact ((Keeps.side rfl).trans (Keeps.count _ _ _ _ rfl)).trans ((keeps_sky _ _ _ _ _).trans (keeps_fireIf _ _ _ (by decide)))

/-! ### Commands on a ring -/

theorem keeps_takeOne (r : Nat) (m : Main) (h : r < 32) : Keeps m (takeOne r m) :=
  (keeps_withRing m r _).trans (Keeps.put _ F.HST_RING_STATUS_NEXT _ r (ring_field h (by decide) (by decide)))

theorem keeps_foundClear (r : Nat) (m : Main) (h : r < 32) : Keeps m (foundClear r m) := by
  unfold foundClear
  split
  · exact keeps_withRing _ _ _
  · exact ((keeps_withRing m r _).trans (Keeps.count _ F.DOORBELL_EARLY _ _ (ring_field h (by decide) (by decide)))).trans
      (keeps_fire _ _ (by decide))

theorem keeps_notifyCmd (r : Nat) (notify : Bool) (m : Main) : Keeps m (notifyCmd r notify m) := by
  unfold notifyCmd
  dsimp only
  split
  · next h => exact keeps_ringEvent _ _ _ (by simpa using (Bool.and_eq_true_iff.1 h).2)
  · exact Keeps.refl m

/-- A write-back of a command (R365). -/
theorem keeps_cmdEnd (r n : Nat) (d : Desc) (rep : Reply) (m : Main) : Keeps m (cmdEnd r n d rep m) :=
  (keeps_putBack _ _ _ _ _ _).trans (keeps_notifyCmd _ _ _)

end Sys2Proof.Machine
end

