-- ==== Sys2Proof/Laws/Frame.lean ====
section
/-!
SUPPORT. Frames from the reporting operations' own, and their composition.
-/
namespace Sys2Proof.Machine

theorem reporting_of_not {a : Nat} (h : ¬ reporting a) : reportAddr a = false := by
  unfold reporting at h
  unfold reportAddr reportWrite
  simp only [Bool.or_eq_false_iff, beq_eq_false_iff_ne, ne_eq]
  omega

theorem Part.same_refl (m : Main) (p : Part) : p.same m m := by cases p <;> rfl

theorem Part.same_trans {a b c : Main} {p : Part} (h : p.same a b) (g : p.same b c) : p.same a c := by
  cases p <;> exact Eq.trans g h

theorem Frame.refl (regs : Nat → Prop) (parts : List Part) (m : Main) : Frame regs parts m m :=
  ⟨fun _ _ => rfl, fun p _ => p.same_refl m, List.suffix_refl _⟩

theorem Frame.trans {regs : Nat → Prop} {parts : List Part} {a b c : Main} (h : Frame regs parts a b) (g : Frame regs parts b c) :
    Frame regs parts a c :=
  ⟨fun x hx => (g.1 x hx).trans (h.1 x hx), fun p hp => Part.same_trans (h.2.1 p hp) (g.2.1 p hp), h.2.2.trans g.2.2⟩

theorem Frame.mono {r r' : Nat → Prop} {p p' : List Part} {a b : Main} (h : Frame r p a b) (hr : ∀ x, r x → r' x) (hp : p ⊆ p') :
    Frame r' p' a b :=
  ⟨fun x hx => h.1 x fun hr' => hx (hr x hr'), fun q hq => h.2.1 q fun hq' => hq (hp hq'), h.2.2⟩

/-- Reporting is within every frame that allows reports. -/
theorem Keeps.reports {m m' : Main} (h : Keeps m m') (regs : Nat → Prop) (parts : List Part) : Reports regs parts m m' := by
  refine ⟨fun a ha => h.word a (reporting_of_not fun hr => ha (Or.inr hr)), fun p hp => ?_, h.out⟩
  cases p
  case host => exact absurd (List.mem_cons_self ..) hp
  case log => exact absurd (List.mem_cons_of_mem _ (List.mem_cons_self ..)) hp
  case fuse => exact h.fuse
  case time => exact h.time
  case ylm => exact h.ylm
  case lanes => exact h.lanes
  case ctx => exact h.ctx
  case wav => exact h.wav
  case pur => exact h.pur
  case mir => exact h.mir
  case eav => exact h.eav
  case gbl => exact h.gbl
  case rdg => exact h.rdg
  case red => exact h.red
  case key => exact h.key
  case upd => exact h.upd
  case pwr => exact h.pwr

/-- A register write is within a frame that allows its address. -/
theorem Frame.setWord {regs : Nat → Prop} (parts : List Part) (m : Main) (a v : Nat) (h : regs a) : Frame regs parts m (m.setWord a v) :=
  ⟨fun x hx => Main.word_setWord_ne m v fun e => hx (e ▸ h), fun p _ => by cases p <;> rfl, List.suffix_refl _⟩

theorem Frame.put {regs : Nat → Prop} (parts : List Part) (m : Main) (f : Field) (v i : Nat) (h : regs (f.addr i)) :
    Frame regs parts m (m.put f v i) := Frame.setWord parts m _ _ h

theorem Frame.putBit {regs : Nat → Prop} (parts : List Part) (m : Main) (f : Field) (on : Bool) (i j : Nat) (h : regs (f.addr i)) :
    Frame regs parts m (m.putBit f on i j) := Frame.setWord parts m _ _ h

/-- Every block that reporting does not write stays as a report found it. -/
theorem Reports.trans {regs : Nat → Prop} {parts : List Part} {a b c : Main} (h : Reports regs parts a b) (g : Reports regs parts b c) :
    Reports regs parts a c := Frame.trans h g

end Sys2Proof.Machine
end

