-- ==== Sys2Proof/Laws/Signals.lean ====
section
/-!
SUPPORT. What an event and a trace leave as it was: they write the event words, the skylight port and the pending bits of MSI-X,
and leave the rings and every other register alone.
-/
namespace Sys2Proof.Machine

/-- The registers that an event or a trace writes. -/
def signalAddr (a : Nat) : Bool := a == 0x10 || a == 0x14 || a / 65536 == 0x13 || a / 65536 == 0x3F

/-- `m'` is `m` but for what an event or a trace writes. -/
structure Signals (m m' : Main) : Prop where
  word : ∀ a, signalAddr a = false → m'.word a = m.word a
  host : m'.host = m.host

theorem Signals.refl (m : Main) : Signals m m := ⟨fun _ _ => rfl, rfl⟩
theorem Signals.trans {a b c : Main} (h : Signals a b) (g : Signals b c) : Signals a c :=
  ⟨fun x hx => (g.word x hx).trans (h.word x hx), g.host.trans h.host⟩

theorem Signals.get {m m' : Main} (h : Signals m m') (f : Field) (i : Nat) (hf : signalAddr (f.addr i) = false) :
    m'.get f i = m.get f i := by unfold Main.get; rw [h.word _ hf]

theorem Signals.bit {m m' : Main} (h : Signals m m') (f : Field) (i j : Nat) (hf : signalAddr (f.addr i) = false) :
    m'.bit f i j = m.bit f i j := by unfold Main.bit; rw [h.get f i hf]

theorem Signals.ringOf {m m' : Main} (h : Signals m m') (r : Nat) : Machine.ringOf m' r = Machine.ringOf m r := by
  unfold Machine.ringOf; rw [h.host]

/-- An address of the blocks HST and DMA. -/
theorem signalAddr_ring {a : Nat} (h : a / 65536 = 2 ∨ a / 65536 = 3) : signalAddr a = false := by
  unfold signalAddr
  simp only [Bool.or_eq_false_iff, beq_eq_false_iff_ne, ne_eq]
  omega

theorem Signals.setWord (m : Main) (a v : Nat) (h : signalAddr a = true) : Signals m (m.setWord a v) :=
  ⟨fun x hx => Main.word_setWord_ne _ _ (fun e => by rw [← e, h] at hx; cases hx), rfl⟩

theorem Signals.put (m : Main) (f : Field) (v i : Nat) (h : signalAddr (f.addr i) = true) : Signals m (m.put f v i) :=
  Signals.setWord m _ _ h

theorem Signals.ite {m a b : Main} (c : Prop) [Decidable c] (h : Signals m a) (g : Signals m b) : Signals m (if c then a else b) := by
  split
  · exact h
  · exact g

/-- A change of the log, the outputs and the counter of free values alone. -/
theorem Signals.side {m m' : Main} (h : m' = { m with free := m'.free, log := m'.log, out := m'.out }) : Signals m m' := by
  rw [h]; exact ⟨fun _ _ => rfl, rfl⟩

theorem signal_of {b s i n k : Nat} (hk : k = 0x13 ∨ k = 0x3F) (hs : 0 < s) (hi : i < n) (h1 : 65536 * k ≤ b)
    (h2 : b + s * n ≤ 65536 * (k + 1)) : signalAddr (b + s * i) = true := by
  have := block_of hs hi h1 h2
  unfold signalAddr
  rcases hk with rfl | rfl <;> simp [this]

theorem signals_bumpCounter (k n : Nat) (m : Main) (h : n < 256) : Signals m (bumpCounter k n m).1 := by
  have e1 : signalAddr (F.SKY_CNT.addr n) = true := signal_of (k := 0x13) (Or.inl rfl) (by decide) h (by decide) (by decide)
  have e2 : signalAddr (F.SKY_HIT.addr (n / 32)) = true :=
    signal_of (k := 0x13) (n := 8) (Or.inl rfl) (by decide) (by omega) (by decide) (by decide)
  unfold bumpCounter
  dsimp only
  split
  · exact (Signals.put m F.SKY_CNT _ n e1).trans (Signals.put _ F.SKY_HIT _ _ e2)
  · exact Signals.put m F.SKY_CNT _ n e1

theorem signals_countSource (m : Main) (src k : Nat) (lane lantern : Option Nat) : Signals m (countSource m src k lane lantern).1 := by
  unfold countSource
  have key : ∀ (l : List Nat) (s : Main × Bool), (∀ n ∈ l, n < 256) → Signals s.1 (l.foldl (fun (s : Main × Bool) n =>
      let q := s.1.get F.SKY_CNT_CFG_QUAL n
      if s.1.bit F.SKY_CNT_CFG_ENABLE n && s.1.get F.SKY_CNT_CFG_SOURCE n == src &&
          (!s.1.bit F.SKY_CNT_CFG_QUAL_EN n || lane == some (q % 8) || lantern == some q) then
        let r := bumpCounter k n s.1
        (r.1, s.2 || r.2)
      else s) s).1 := by
    intro l
    induction l with
    | nil => intro s _; exact Signals.refl _
    | cons n t ih =>
      intro s h
      refine Signals.trans ?_ (ih _ fun x hx => h x (List.mem_cons_of_mem _ hx))
      dsimp only
      split
      · exact signals_bumpCounter _ _ _ (h n (List.mem_cons_self ..))
      · exact Signals.refl _
  exact key (cntList m) (m, false) fun n hn => mem_cntList hn

theorem signals_skyTrace (m : Main) (src data : Nat) (lane lantern : Option Nat) : Signals m (skyTrace m src data lane lantern) := by
  have q : Signals m (skyQueue m src data) := by
    unfold skyQueue
    split
    · exact (Signals.side rfl : Signals m { m with log := { m.log with skyDrops := m.log.skyDrops + 1 } }).trans (Signals.put _ F.SKY_LOST _ 0 rfl)
    · exact (Signals.side rfl).trans (Signals.put _ _ _ _ rfl)
  unfold skyTrace
  exact Signals.ite _ q (Signals.refl _)

theorem signal_evt {n : Nat} (h : n < 64) : signalAddr (F.GLB_EVT_PEND.addr (n / 32)) = true := by
  have : n / 32 = 0 ∨ n / 32 = 1 := by omega
  rcases this with e | e <;> rw [e] <;> rfl

theorem signal_pba {n : Nat} (h : n < 64) : signalAddr (F.MSIX_PBA.addr (n / 32)) = true := by
  have : n / 32 = 0 ∨ n / 32 = 1 := by omega
  rcases this with e | e <;> rw [e] <;> rfl

theorem signals_message (m p : Main) (n : Nat) (h : n < 64) (h1 : Signals m p) :
    let q := if !vectorOpen p n then p.putBit F.MSIX_PBA true (n / 32) (n % 32) else if p.host.msixEnable then p.emit (.msix n) else p
    Signals m q := by
  have h2 : Signals p (p.putBit F.MSIX_PBA true (n / 32) (n % 32)) := Signals.put p F.MSIX_PBA _ _ (signal_pba h)
  dsimp only
  split
  · exact h1.trans h2
  · split
    · exact h1.trans (Signals.side rfl)
    · exact h1

theorem signals_raise (m : Main) (n : Nat) (h : n < 64) : Signals m (raise m n) :=
  signals_message m _ n h (Signals.put m F.GLB_EVT_PEND _ _ (signal_evt h))

/-- A trace leaves the rings and the registers of every other block as they were. -/
theorem signals_sky (m : Main) (src data : Nat) (lane lantern : Option Nat) : Signals m (sky m src data lane lantern) := by
  unfold sky
  dsimp only
  have h1 := (signals_skyTrace m src data lane lantern).trans (signals_countSource _ src 1 lane lantern)
  split
  · exact (h1.trans (signals_raise _ 63 (by decide))).trans ((signals_skyTrace _ _ _ _ _).trans (signals_countSource _ _ _ _ _))
  · exact h1

/-- An event leaves the rings and the registers of every other block as they were (R369). -/
theorem signals_fire (n : Nat) (m : Main) (h : n < 64) : Signals m (fire n m) := by
  unfold fire
  split
  · exact (signals_raise m n h).trans (signals_sky _ _ _ _ _)
  · exact Signals.refl m

/-- A change of the outputs, the counter of free values and the channels' turns alone: the rings stay. -/
structure Posts (m m' : Main) : Prop where
  word : ∀ a, signalAddr a = false → m'.word a = m.word a
  rings : m'.host.rings = m.host.rings

theorem Posts.refl (m : Main) : Posts m m := ⟨fun _ _ => rfl, rfl⟩
theorem Posts.trans {a b c : Main} (h : Posts a b) (g : Posts b c) : Posts a c :=
  ⟨fun x hx => (g.word x hx).trans (h.word x hx), g.rings.trans h.rings⟩
theorem Signals.posts {m m' : Main} (h : Signals m m') : Posts m m' := ⟨h.word, by rw [h.host]⟩
theorem Posts.ringOf {m m' : Main} (h : Posts m m') (r : Nat) : Machine.ringOf m' r = Machine.ringOf m r := by
  unfold Machine.ringOf; rw [h.rings]
theorem Posts.get {m m' : Main} (h : Posts m m') (f : Field) (i : Nat) (hf : signalAddr (f.addr i) = false) :
    m'.get f i = m.get f i := by unfold Main.get; rw [h.word _ hf]

theorem posts_foldl {α : Type} (f : Main → α → Main) (h : ∀ m x, Posts m (f m x)) (l : List α) (m : Main) : Posts m (l.foldl f m) := by
  induction l generalizing m with
  | nil => exact Posts.refl m
  | cons x t ih => exact (h m x).trans (ih (f m x))

theorem posts_emit (m : Main) (o : Output) : Posts m (m.emit o) := ⟨fun _ _ => rfl, rfl⟩
theorem posts_granted (c : Nat) (m : Main) : Posts m (granted c m) := ⟨fun _ _ => rfl, rfl⟩

theorem posts_hostReads (c : Nat) (segs : List (Nat × Nat)) (attr : Attr) (m : Main) : Posts m (hostReads c segs attr m) :=
  posts_foldl _ (fun m _ => posts_foldl _ (fun m _ => (posts_emit m _).trans (posts_granted c _)) _ m) segs m

theorem posts_hostWrites (c : Nat) (segs : List (Nat × Nat)) (data : List Byte) (m : Main) : Posts m (hostWrites c segs data m) :=
  posts_foldl _ (fun m _ => (posts_emit m _).trans (posts_granted c _)) _ m

theorem posts_readList (c : Nat) (d : Desc) (w : SgWalk) (m : Main) : Posts m (readList c d w m) := by
  unfold readList
  split
  · exact posts_hostReads _ _ _ _
  · exact Posts.refl m

theorem posts_backData (r : Nat) (d : Desc) (data : List Byte) (m : Main) : Posts m (backData r d data m) := by
  unfold backData
  split
  · exact Posts.refl m
  · exact (posts_hostWrites _ _ _ _).trans (posts_emit _ _)

theorem posts_backTail (a : Nat) (raw : List Byte) (rep : Reply) (records : Nat) (m : Main) : Posts m (backTail a raw rep records m) :=
  ((posts_hostWrites _ _ _ _).trans (posts_hostWrites _ _ _ _)).trans (posts_emit _ _)

theorem posts_putBack (m : Main) (r pos : Nat) (d : Option Desc) (rep : Reply) (records : Nat) :
    Posts m (putBack m r pos d rep records) := by
  unfold putBack
  cases d with
  | none => exact ((⟨fun _ _ => rfl, rfl⟩ : Posts m m.freeVal.2).trans (posts_backTail _ _ _ _ _)).trans (signals_sky _ _ _ _ _).posts
  | some d => exact ((posts_backData _ _ _ _).trans (posts_backTail _ _ _ _ _)).trans (signals_sky _ _ _ _ _).posts

theorem signals_dmaTrace (c what : Nat) (m : Main) : Signals m (dmaTrace c what m) := signals_sky _ _ _ _ _

end Sys2Proof.Machine
end

