-- ==== Sys2Proof/Laws/Cmd.lean ====
section
/-!
SUPPORT. The course of one command on a CMD ring: what a command that is accepted runs on, what a refused one leaves, and that
every write-back is made at the descriptor's ring position.
-/
namespace Sys2Proof.Machine

/-! ### The posted writes of a write-back -/

/-- What a run of bursts puts out, the newest first. -/
theorem bursts_out {α : Type} (c : Nat) (f : α → Output) (l : List α) (m : Main) :
    (l.foldl (fun m b => granted c (m.emit (f b))) m).out = (l.map f).reverse ++ m.out := by
  induction l generalizing m with
  | nil => rfl
  | cons x t ih =>
    rw [List.foldl_cons, ih, List.map_cons, List.reverse_cons, List.append_assoc]
    rfl

theorem bursts_payload {α : Type} (c : Nat) (f : α → Output) (l : List α) (m : Main) :
    (l.foldl (fun m b => granted c (m.emit (f b))) m).host.maxPayload = m.host.maxPayload := by
  induction l generalizing m with
  | nil => rfl
  | cons x t ih => rw [List.foldl_cons, ih]; rfl

theorem hostWrites_out (c : Nat) (segs : List (Nat × Nat)) (data : List Byte) (m : Main) :
    (hostWrites c segs data m).out =
      ((segBursts (payloadMost m) segs data).map fun b => Output.hostWrite c b.1 b.2 Attr.plain).reverse ++ m.out :=
  bursts_out c (fun b : Nat × List Byte => Output.hostWrite c b.1 b.2 Attr.plain) _ m

theorem hostWrites_payload (c : Nat) (segs : List (Nat × Nat)) (data : List Byte) (m : Main) :
    payloadMost (hostWrites c segs data m) = payloadMost m := by
  unfold payloadMost hostWrites
  rw [bursts_payload c (fun b : Nat × List Byte => Output.hostWrite c b.1 b.2 Attr.plain)]

theorem backData_payload (r : Nat) (d : Desc) (data : List Byte) (m : Main) : payloadMost (backData r d data m) = payloadMost m := by
  unfold backData
  split
  · rfl
  · exact hostWrites_payload (channelOf r) (segments d) data m

/-- The bursts of a write, as they are put out. -/
def wrote (most c : Nat) (segs : List (Nat × Nat)) (data : List Byte) : List Output :=
  (segBursts most segs data).map fun b => Output.hostWrite c b.1 b.2 Attr.plain

theorem backData_out (r : Nat) (d : Desc) (data : List Byte) (m : Main) :
    (backData r d data m).out =
      (if data.isEmpty then [] else wrote (payloadMost m) (channelOf r) (segments d) data ++ [Output.dmaDone (channelOf r)]).reverse ++ m.out := by
  unfold backData wrote
  split
  · rfl
  · show Output.dmaDone (channelOf r) :: (hostWrites (channelOf r) (segments d) data m).out = _
    rw [hostWrites_out, List.reverse_append]
    rfl

theorem backTail_out (a : Nat) (raw : List Byte) (rep : Reply) (m : Main) :
    (backTail a raw rep 0 m).out =
      (wrote (payloadMost m) 11 [(a + 24, 8)] (leBytes 4 rep.doneLen ++ leBytes 2 rep.status ++ leBytes 1 rep.detail ++ leBytes 1 0) ++
        wrote (payloadMost m) 11 [(a, 4)] (leBytes 1 (lle raw 0 1 - lle raw 0 1 % 2) ++ slice raw 1 3) ++ [Output.dmaDone 11]).reverse ++ m.out := by
  unfold wrote
  show Output.dmaDone 11 :: (hostWrites 11 [(a, 4)] _ (hostWrites 11 [(a + 24, 8)] _ m)).out = _
  rw [hostWrites_out, hostWrites_out, hostWrites_payload]
  simp only [List.reverse_append, List.append_assoc, List.reverse_cons, List.reverse_nil, List.nil_append, List.cons_append]

/-- The write-back of a command's descriptor puts out its posted writes in their order (R365). -/
theorem putBack_out (m : Main) (r pos : Nat) (d : Desc) (rep : Reply) :
    (backWrites (payloadMost m) (descAddr m r pos) r d rep).reverse <:+: (putBack m r pos (some d) rep 0).out := by
  have h : (backTail (descAddr m r pos) d.raw rep 0 (backData r d rep.data m)).out =
      (backWrites (payloadMost m) (descAddr m r pos) r d rep).reverse ++ m.out := by
    rw [backTail_out, backData_out, backData_payload, ← List.append_assoc, ← List.reverse_append]
    unfold backWrites wrote Desc.flags
    simp only [List.append_assoc]
  have hs := (keeps_sky (backTail (descAddr m r pos) d.raw rep 0 (backData r d rep.data m)) 0x0A
    (r * 2 ^ 27 + rep.status % 256 * 65536 + pos % 65536) none none).out
  rw [h] at hs
  exact List.IsInfix.trans (List.IsPrefix.isInfix (List.prefix_append _ _)) (List.IsSuffix.isInfix hs)

/-- A command's write-back reaches the host (R365). -/
theorem cmdEnd_out (r pos : Nat) (d : Desc) (rep : Reply) (m : Main) :
    (backWrites (payloadMost m) (descAddr m r pos) r d { rep with data := swapData d.swap rep.data }).reverse <:+: (cmdEnd r pos d rep m).out := by
  unfold cmdEnd
  exact List.IsInfix.trans (putBack_out ..) (List.IsSuffix.isInfix (keeps_notifyCmd r d.notify _).out)

/-- What stood among the outputs before a write-back still does. -/
theorem cmdEnd_keeps_mem {r pos : Nat} {d : Desc} {rep : Reply} {m : Main} {o : Output} (h : o ∈ m.out) : o ∈ (cmdEnd r pos d rep m).out :=
  (keeps_cmdEnd r pos d rep m).mem h

/-- A descriptor that the engine takes goes on to its opcode. -/
theorem cmdTake_takes {row : Desc → Bool} {m : Main} {r : Fin 8} {d : Desc} (h : takes row m r d) (k : Nat → Main → Main) :
    cmdTake r d row k m = k (ringPos m r (ringOf m r).taken) (tookOne m r) := by
  obtain ⟨-, h2, h3, h4⟩ := h
  unfold cmdTake
  dsimp only
  rw [if_neg (by simp [h2]), if_neg (by simp [h3]), if_neg (by simp [h4])]
  rfl

theorem keeps_served (m : Main) (r : Nat) : Keeps m { m with host := { m.host with served := r } } := Keeps.side rfl

theorem keeps_tookOne (m : Main) {r : Nat} (h : r < 32) : Keeps m (tookOne m r) :=
  ((keeps_readDesc r (ringPos m r (ringOf m r).taken) m).trans (keeps_takeOne r _ h)).trans (keeps_served _ r)

/-- Checking a command writes nothing but what reporting writes. -/
theorem keeps_atCheck (k : CmdKind) (m : Main) (r : Fin 8) (d : Desc) : Keeps m (atCheck k m r d) := by
  have h : (r : Nat) < 32 := Nat.lt_trans r.isLt (by decide)
  unfold atCheck
  split
  · exact keeps_tookOne m h
  · exact (keeps_tookOne m h).trans (keeps_readList _ _ _ _)

/-- The state that an accepted command acts on: checked, and its buffer moved. -/
def taken (k : CmdKind) (r : Fin 8) (d : Desc) (m : Main) : Main :=
  if k.imm then atCheck k m r d
  else dmaMoved r d.length (descWalk m d)
    ((hostReads r (segments d) ⟨false, false, d.nosnoop⟩ (atCheck k m r d)).emit (.dmaDone r))

theorem keeps_taken (k : CmdKind) (r : Fin 8) (d : Desc) (m : Main) : Keeps m (taken k r d m) := by
  have h : (r : Nat) < 32 := Nat.lt_trans r.isLt (by decide)
  unfold taken
  split
  · exact keeps_atCheck _ _ _ _
  · exact (((keeps_atCheck _ _ _ _).trans (keeps_hostReads _ _ _ _)).trans (keeps_emit _ _)).trans (keeps_dmaMoved _ _ _ _ h)

/-- A walk of the descriptor's list does not look at the rings. -/
theorem descWalk_tookOne (r : Fin 8) (d : Desc) (m : Main) : descWalk (tookOne m r) d = descWalk m d := by
  have h1 := (posts_hostReads 11 [(descAddr m r (ringPos m r (ringOf m r).taken), 32)] Attr.plain m).get F.DMA_CHAIN_MAX_MAX 0
    (signalAddr_ring (by decide))
  have h2 : ∀ (x : Main) (v : Nat), (x.put F.HST_RING_STATUS_NEXT v (r : Nat)).get F.DMA_CHAIN_MAX_MAX = x.get F.DMA_CHAIN_MAX_MAX := by
    intro x v
    rw [Main.get_put_addr]
    have := r.isLt
    unfold Field.addr
    simp only [F.HST_RING_STATUS_NEXT, F.DMA_CHAIN_MAX_MAX]
    omega
  have h3 : ∀ (x : Main) (g : Ring → Ring), (withRing x r g).get F.DMA_CHAIN_MAX_MAX = x.get F.DMA_CHAIN_MAX_MAX := fun _ _ => rfl
  have h4 : ∀ (x : Main), (takeOne r x).get F.DMA_CHAIN_MAX_MAX = x.get F.DMA_CHAIN_MAX_MAX := by
    intro x; unfold takeOne; dsimp only; rw [h2, h3]
  have h : (tookOne m r).get F.DMA_CHAIN_MAX_MAX = m.get F.DMA_CHAIN_MAX_MAX := by
    have h5 : ∀ (t : Main) (g : HostSt), ({ t with host := g } : Main).get F.DMA_CHAIN_MAX_MAX = t.get F.DMA_CHAIN_MAX_MAX := fun _ _ => rfl
    unfold tookOne
    dsimp only
    rw [h5, h4]
    unfold readDesc
    exact h1
  unfold descWalk
  rw [h]

/-- An accepted command runs on its taken state. -/
theorem cmdRunAny_accepts {k : CmdKind} {m : Main} {r : Fin 8} {d : Desc} (h : accepts k m r d)
    (f : List Byte → Main → Main × Option Reply) :
    cmdRunAny r d k f m =
      match (f (swapData d.swap (d.data.take d.length)) (taken k r d m)).2 with
      | some rep => cmdEnd r (ringPos m r (ringOf m r).taken) d rep (f (swapData d.swap (d.data.take d.length)) (taken k r d m)).1
      | none => withRing (f (swapData d.swap (d.data.take d.length)) (taken k r d m)).1 r fun g =>
          { g with cur := some (ringPos m r (ringOf m r).taken, d) } := by
  obtain ⟨h1, h2, h3⟩ := h
  unfold cmdRunAny
  rw [cmdTake_takes h1]
  dsimp only
  rw [descWalk_tookOne]
  have hn : ¬ (walkOf k m d).looped = true := by rw [h3]; decide
  unfold taken
  unfold walkOf at h2 hn
  unfold atCheck at h2 ⊢
  cases hk : k.imm
  · simp only [hk, Bool.false_eq_true, if_false] at h2 hn ⊢
    rw [h2]
    exact if_neg hn
  · simp only [hk, if_true] at h2 hn ⊢
    rw [h2]
    rfl

theorem cmdRun_accepts {k : CmdKind} {m : Main} {r : Fin 8} {d : Desc} (h : accepts k m r d)
    (f : List Byte → Main → Main × Option Reply) : cmdRun r d k f m = cmdRunAny r d k f m := by
  unfold cmdRun
  rw [if_neg h.1.1]

/-- An accepted command that is written back at once. -/
theorem cmdNow_accepts {k : CmdKind} {m : Main} {r : Fin 8} {d : Desc} (h : accepts k m r d) (f : List Byte → Main → Main × Reply) :
    cmdNow r d k f m =
      cmdEnd r (ringPos m r (ringOf m r).taken) d (f (swapData d.swap (d.data.take d.length)) (taken k r d m)).2
        (f (swapData d.swap (d.data.take d.length)) (taken k r d m)).1 := by
  unfold cmdNow
  rw [cmdRun_accepts h, cmdRunAny_accepts h]

/-- A command that fails a check is written back with that check's status, and nothing else happens. -/
theorem cmdNow_fails {k : CmdKind} {m : Main} {r : Fin 8} {d : Desc} {rep : Reply} (h : takes k.row m r d)
    (hc : cmdCheck k d (walkOf k m d) (atCheck k m r d) = some rep) (f : List Byte → Main → Main × Reply) :
    cmdNow r d k f m = cmdEnd r (ringPos m r (ringOf m r).taken) d rep (atCheck k m r d) := by
  unfold cmdNow cmdRun cmdRunAny
  rw [if_neg h.1, cmdTake_takes h]
  dsimp only
  rw [descWalk_tookOne]
  unfold walkOf at hc
  unfold atCheck at hc ⊢
  cases hk : k.imm
  · simp only [hk, Bool.false_eq_true, if_false] at hc ⊢
    rw [hc]
  · simp only [hk, if_true] at hc ⊢
    rw [hc]

end Sys2Proof.Machine
end

