-- ==== Sys2Proof/Laws/Rings.lean ====
section
/-!
SUPPORT. Rings: a ring after a change of it, and what a write-back leaves of its counts.
-/
namespace Sys2Proof.Machine

theorem vget_vmod_same {α : Type} {n : Nat} (v : Vector α n) {i : Nat} (f : α → α) (d : α) (h : i < n) :
    vget (vmod v i f) i d = f (vget v i d) := by
  unfold vget vmod; rw [dif_pos h]; simp [h]

theorem vget_vmod_ne {α : Type} {n : Nat} (v : Vector α n) {i j : Nat} (f : α → α) (d : α) (h : i ≠ j) :
    vget (vmod v i f) j d = vget v j d := by
  unfold vget vmod
  split
  · simp [h]
  · rfl

theorem ringOf_withRing_same (m : Main) {r : Nat} (f : Ring → Ring) (h : r < 32) : ringOf (withRing m r f) r = f (ringOf m r) :=
  vget_vmod_same _ _ _ h

theorem ringOf_withRing_ne (m : Main) {r q : Nat} (f : Ring → Ring) (h : r ≠ q) : ringOf (withRing m r f) q = ringOf m q :=
  vget_vmod_ne _ _ _ h

/-- A change of a ring that keeps its count TAKEN. -/
theorem taken_withRing (m : Main) (r q : Nat) (f : Ring → Ring) (hf : ∀ g, (f g).taken = g.taken) :
    (ringOf (withRing m r f) q).taken = (ringOf m q).taken := by
  by_cases e : r = q
  · subst e
    by_cases h : r < 32
    · rw [ringOf_withRing_same _ _ h, hf]
    · unfold ringOf withRing vget vmod; dsimp only; rw [dif_neg h]
  · rw [ringOf_withRing_ne _ _ e]

theorem ringOf_putBack (m : Main) (r pos : Nat) (d : Option Desc) (rep : Reply) (records q : Nat) :
    ringOf (putBack m r pos d rep records) q = ringOf m q := (posts_putBack ..).ringOf _

theorem taken_ringEvent (m : Main) (r n q : Nat) (h : n < 64) : (ringOf (ringEvent m r n) q).taken = (ringOf m q).taken := by
  unfold ringEvent
  split
  · rw [(signals_fire n m h).ringOf]
  · split
    · exact taken_withRing _ _ _ _ fun _ => rfl
    · rw [(signals_fire n _ h).ringOf]; exact taken_withRing _ _ _ _ fun _ => rfl

theorem taken_cmdEnd (r pos : Nat) (d : Desc) (rep : Reply) (m : Main) (q : Nat) :
    (ringOf (cmdEnd r pos d rep m) q).taken = (ringOf m q).taken := by
  unfold cmdEnd notifyCmd
  dsimp only
  split
  · rename_i h
    rw [taken_ringEvent _ _ _ _ (by simpa using (Bool.and_eq_true_iff.1 h).2), ringOf_putBack]
  · rw [ringOf_putBack]

theorem taken_takeOne (m : Main) {r : Nat} (h : r < 32) : (ringOf (takeOne r m) r).taken = (ringOf m r).taken + 1 := by
  show (ringOf (withRing m r _) r).taken = _
  rw [ringOf_withRing_same _ _ h]

theorem ringOf_served (m : Main) (r q : Nat) : ringOf { m with host := { m.host with served := r } } q = ringOf m q := rfl

theorem taken_tookOne (m : Main) {r : Nat} (h : r < 32) : (ringOf (tookOne m r) r).taken = (ringOf m r).taken + 1 := by
  unfold tookOne
  dsimp only
  rw [ringOf_served, taken_takeOne _ h]
  unfold readDesc
  rw [(posts_hostReads ..).ringOf]

theorem taken_atCheck (k : CmdKind) (m : Main) (r : Fin 8) (d : Desc) : (ringOf (atCheck k m r d) r).taken = (ringOf m r).taken + 1 := by
  have h : (r : Nat) < 32 := Nat.lt_trans r.isLt (by decide)
  unfold atCheck
  split
  · exact taken_tookOne m h
  · rw [(posts_readList ..).ringOf, taken_tookOne m h]

/-! ### Where a write-back goes -/

/-- What says where a write-back goes and in what bursts: the ring's base in host memory, and the payload size. -/
structure SamePlace (m m' : Main) : Prop where
  base : ∀ r, r < 32 → ∀ pos, descAddr m' r pos = descAddr m r pos
  most : payloadMost m' = payloadMost m

theorem SamePlace.refl (m : Main) : SamePlace m m := ⟨fun _ _ _ => rfl, rfl⟩
theorem SamePlace.trans {a b c : Main} (h : SamePlace a b) (g : SamePlace b c) : SamePlace a c :=
  ⟨fun r hr p => (g.base r hr p).trans (h.base r hr p), g.most.trans h.most⟩

theorem SamePlace.of_word {m m' : Main} (h : ∀ r, r < 32 → ∀ w, w = 0x020100 ∨ w = 0x020104 → m'.word (w + 0x20 * r) = m.word (w + 0x20 * r))
    (hp : payloadMost m' = payloadMost m) : SamePlace m m' := by
  refine ⟨fun r hr pos => ?_, hp⟩
  have h1 : m'.word (F.HST_RING_BASE_LO_BASE_LO.addr r) = m.word (F.HST_RING_BASE_LO_BASE_LO.addr r) := h r hr _ (Or.inl rfl)
  have h2 : m'.word (F.HST_RING_BASE_HI_BASE_HI.addr r) = m.word (F.HST_RING_BASE_HI_BASE_HI.addr r) := h r hr _ (Or.inr rfl)
  unfold descAddr Main.get
  rw [h1, h2]

theorem samePlace_hostReads (c : Nat) (segs : List (Nat × Nat)) (attr : Attr) (m : Main) : SamePlace m (hostReads c segs attr m) := by
  have one : ∀ (l : List (Nat × Nat)) (x : Main), SamePlace x (l.foldl (fun m b => granted c (m.emit (.hostRead c b.1 b.2 attr))) x) := by
    intro l
    induction l with
    | nil => exact fun x => SamePlace.refl x
    | cons b t ih =>
      intro x
      have h0 : SamePlace x (granted c (x.emit (.hostRead c b.1 b.2 attr))) := ⟨fun _ _ _ => rfl, rfl⟩
      exact h0.trans (ih _)
  unfold hostReads
  induction segs generalizing m with
  | nil => exact SamePlace.refl m
  | cons s t ih => exact (one _ m).trans (ih _)

theorem samePlace_readList (c : Nat) (d : Desc) (w : SgWalk) (m : Main) : SamePlace m (readList c d w m) := by
  unfold readList
  split
  · exact samePlace_hostReads _ _ _ _
  · exact SamePlace.refl m

theorem samePlace_tookOne (m : Main) (r : Nat) : SamePlace m (tookOne m r) := by
  have h1 := samePlace_hostReads 11 [(descAddr m r (ringPos m r (ringOf m r).taken), 32)] Attr.plain m
  have h2 : ∀ (x : Main) (v : Nat), SamePlace x (x.put F.HST_RING_STATUS_NEXT v r) := by
    intro x v
    refine SamePlace.of_word (fun q hq w hw => Main.word_setWord_ne _ _ ?_) rfl
    unfold Field.addr
    simp only [F.HST_RING_STATUS_NEXT]
    omega
  have h3 : ∀ (x : Main) (g : Ring → Ring), SamePlace x (withRing x r g) := fun _ _ => ⟨fun _ _ _ => rfl, rfl⟩
  have h4 : ∀ (x : Main), SamePlace x (takeOne r x) := fun x => (h3 x _).trans (h2 _ _)
  have h5 : ∀ (t : Main), SamePlace t { t with host := { t.host with served := r } } := fun _ => ⟨fun _ _ _ => rfl, rfl⟩
  unfold tookOne readDesc
  exact (h1.trans (h4 _)).trans (h5 _)

theorem samePlace_atCheck (k : CmdKind) (m : Main) (r : Fin 8) (d : Desc) : SamePlace m (atCheck k m r d) := by
  unfold atCheck
  split
  · exact samePlace_tookOne m r
  · exact (samePlace_tookOne m r).trans (samePlace_readList _ _ _ _)

/-- What a command written back from its check leaves: the write-back, one descriptor more taken, and nothing but reports. -/
theorem cmdEnd_atCheck (k : CmdKind) (m : Main) (r : Fin 8) (d : Desc) (rep : Reply) (he : rep.data = []) :
    writtenBack m r d rep.status rep.detail rep.doneLen [] (cmdEnd r (ringPos m r (ringOf m r).taken) d rep (atCheck k m r d)) ∧
    (ringOf (cmdEnd r (ringPos m r (ringOf m r).taken) d rep (atCheck k m r d)) r).taken = (ringOf m r).taken + 1 ∧
    Reports (fun _ => False) [] m (cmdEnd r (ringPos m r (ringOf m r).taken) d rep (atCheck k m r d)) := by
  have h : (r : Nat) < 32 := Nat.lt_trans r.isLt (by decide)
  have sp := samePlace_atCheck k m r d
  refine ⟨?_, ?_, Keeps.reports ((keeps_atCheck k m r d).trans (keeps_cmdEnd ..)) _ _⟩
  · have := cmdEnd_out r (ringPos m r (ringOf m r).taken) d rep (atCheck k m r d)
    rw [sp.most, sp.base r h, he] at this
    exact this
  · rw [taken_cmdEnd, taken_atCheck]

end Sys2Proof.Machine
end

