-- ==== Sys2Proof/Laws/State.lean ====
section
/-!
SUPPORT. What each update of the state leaves alone, one lemma per field and update.
-/
namespace Sys2Proof.Machine

/-! ### The whole state -/

@[simp] theorem State.push_main (s : State) (c : Instr) : (s.push c).main = s.main := rfl
@[simp] theorem State.push_dmr (s : State) (c : Instr) : (s.push c).dmr = s.dmr := rfl
@[simp] theorem State.push_pending (s : State) (c : Instr) : (s.push c).pending = c :: s.pending := rfl
@[simp] theorem State.step_push (s : State) (c : Instr) : step (s.push c) = exec c s := rfl
theorem State.onMain_eq (s : State) (f : Main → Main) : s.onMain f = .next { s with main := f s.main } := rfl
theorem State.onDormer_eq (s : State) (f : Dormer → Dormer) : s.onDormer f = .next { s with dmr := f s.dmr } := rfl

/-! ### A register word -/

@[simp] theorem Main.setWord_fuse (m : Main) (a v : Nat) : (m.setWord a v).fuse = m.fuse := rfl
@[simp] theorem Main.setWord_host (m : Main) (a v : Nat) : (m.setWord a v).host = m.host := rfl
@[simp] theorem Main.setWord_log (m : Main) (a v : Nat) : (m.setWord a v).log = m.log := rfl
@[simp] theorem Main.setWord_time (m : Main) (a v : Nat) : (m.setWord a v).time = m.time := rfl
@[simp] theorem Main.setWord_ylm (m : Main) (a v : Nat) : (m.setWord a v).ylm = m.ylm := rfl
@[simp] theorem Main.setWord_lanes (m : Main) (a v : Nat) : (m.setWord a v).lanes = m.lanes := rfl
@[simp] theorem Main.setWord_ctx (m : Main) (a v : Nat) : (m.setWord a v).ctx = m.ctx := rfl
@[simp] theorem Main.setWord_wav (m : Main) (a v : Nat) : (m.setWord a v).wav = m.wav := rfl
@[simp] theorem Main.setWord_pur (m : Main) (a v : Nat) : (m.setWord a v).pur = m.pur := rfl
@[simp] theorem Main.setWord_mir (m : Main) (a v : Nat) : (m.setWord a v).mir = m.mir := rfl
@[simp] theorem Main.setWord_eav (m : Main) (a v : Nat) : (m.setWord a v).eav = m.eav := rfl
@[simp] theorem Main.setWord_gbl (m : Main) (a v : Nat) : (m.setWord a v).gbl = m.gbl := rfl
@[simp] theorem Main.setWord_rdg (m : Main) (a v : Nat) : (m.setWord a v).rdg = m.rdg := rfl
@[simp] theorem Main.setWord_red (m : Main) (a v : Nat) : (m.setWord a v).red = m.red := rfl
@[simp] theorem Main.setWord_key (m : Main) (a v : Nat) : (m.setWord a v).key = m.key := rfl
@[simp] theorem Main.setWord_upd (m : Main) (a v : Nat) : (m.setWord a v).upd = m.upd := rfl
@[simp] theorem Main.setWord_pwr (m : Main) (a v : Nat) : (m.setWord a v).pwr = m.pwr := rfl
@[simp] theorem Main.setWord_out (m : Main) (a v : Nat) : (m.setWord a v).out = m.out := rfl
@[simp] theorem Main.setWord_free (m : Main) (a v : Nat) : (m.setWord a v).free = m.free := rfl

/-! ### A bit -/

@[simp] theorem Main.putBit_fuse (m : Main) (f : Field) (on : Bool) (i j : Nat) : (m.putBit f on i j).fuse = m.fuse := rfl
@[simp] theorem Main.putBit_host (m : Main) (f : Field) (on : Bool) (i j : Nat) : (m.putBit f on i j).host = m.host := rfl
@[simp] theorem Main.putBit_log (m : Main) (f : Field) (on : Bool) (i j : Nat) : (m.putBit f on i j).log = m.log := rfl
@[simp] theorem Main.putBit_time (m : Main) (f : Field) (on : Bool) (i j : Nat) : (m.putBit f on i j).time = m.time := rfl
@[simp] theorem Main.putBit_ylm (m : Main) (f : Field) (on : Bool) (i j : Nat) : (m.putBit f on i j).ylm = m.ylm := rfl
@[simp] theorem Main.putBit_lanes (m : Main) (f : Field) (on : Bool) (i j : Nat) : (m.putBit f on i j).lanes = m.lanes := rfl
@[simp] theorem Main.putBit_ctx (m : Main) (f : Field) (on : Bool) (i j : Nat) : (m.putBit f on i j).ctx = m.ctx := rfl
@[simp] theorem Main.putBit_wav (m : Main) (f : Field) (on : Bool) (i j : Nat) : (m.putBit f on i j).wav = m.wav := rfl
@[simp] theorem Main.putBit_pur (m : Main) (f : Field) (on : Bool) (i j : Nat) : (m.putBit f on i j).pur = m.pur := rfl
@[simp] theorem Main.putBit_mir (m : Main) (f : Field) (on : Bool) (i j : Nat) : (m.putBit f on i j).mir = m.mir := rfl
@[simp] theorem Main.putBit_eav (m : Main) (f : Field) (on : Bool) (i j : Nat) : (m.putBit f on i j).eav = m.eav := rfl
@[simp] theorem Main.putBit_gbl (m : Main) (f : Field) (on : Bool) (i j : Nat) : (m.putBit f on i j).gbl = m.gbl := rfl
@[simp] theorem Main.putBit_rdg (m : Main) (f : Field) (on : Bool) (i j : Nat) : (m.putBit f on i j).rdg = m.rdg := rfl
@[simp] theorem Main.putBit_red (m : Main) (f : Field) (on : Bool) (i j : Nat) : (m.putBit f on i j).red = m.red := rfl
@[simp] theorem Main.putBit_key (m : Main) (f : Field) (on : Bool) (i j : Nat) : (m.putBit f on i j).key = m.key := rfl
@[simp] theorem Main.putBit_upd (m : Main) (f : Field) (on : Bool) (i j : Nat) : (m.putBit f on i j).upd = m.upd := rfl
@[simp] theorem Main.putBit_pwr (m : Main) (f : Field) (on : Bool) (i j : Nat) : (m.putBit f on i j).pwr = m.pwr := rfl
@[simp] theorem Main.putBit_out (m : Main) (f : Field) (on : Bool) (i j : Nat) : (m.putBit f on i j).out = m.out := rfl
@[simp] theorem Main.putBit_free (m : Main) (f : Field) (on : Bool) (i j : Nat) : (m.putBit f on i j).free = m.free := rfl

/-! ### A counter -/

@[simp] theorem Main.count_fuse (m : Main) (f : Field) (i n : Nat) : (m.count f i n).fuse = m.fuse := rfl
@[simp] theorem Main.count_host (m : Main) (f : Field) (i n : Nat) : (m.count f i n).host = m.host := rfl
@[simp] theorem Main.count_log (m : Main) (f : Field) (i n : Nat) : (m.count f i n).log = m.log := rfl
@[simp] theorem Main.count_time (m : Main) (f : Field) (i n : Nat) : (m.count f i n).time = m.time := rfl
@[simp] theorem Main.count_ylm (m : Main) (f : Field) (i n : Nat) : (m.count f i n).ylm = m.ylm := rfl
@[simp] theorem Main.count_lanes (m : Main) (f : Field) (i n : Nat) : (m.count f i n).lanes = m.lanes := rfl
@[simp] theorem Main.count_ctx (m : Main) (f : Field) (i n : Nat) : (m.count f i n).ctx = m.ctx := rfl
@[simp] theorem Main.count_wav (m : Main) (f : Field) (i n : Nat) : (m.count f i n).wav = m.wav := rfl
@[simp] theorem Main.count_pur (m : Main) (f : Field) (i n : Nat) : (m.count f i n).pur = m.pur := rfl
@[simp] theorem Main.count_mir (m : Main) (f : Field) (i n : Nat) : (m.count f i n).mir = m.mir := rfl
@[simp] theorem Main.count_eav (m : Main) (f : Field) (i n : Nat) : (m.count f i n).eav = m.eav := rfl
@[simp] theorem Main.count_gbl (m : Main) (f : Field) (i n : Nat) : (m.count f i n).gbl = m.gbl := rfl
@[simp] theorem Main.count_rdg (m : Main) (f : Field) (i n : Nat) : (m.count f i n).rdg = m.rdg := rfl
@[simp] theorem Main.count_red (m : Main) (f : Field) (i n : Nat) : (m.count f i n).red = m.red := rfl
@[simp] theorem Main.count_key (m : Main) (f : Field) (i n : Nat) : (m.count f i n).key = m.key := rfl
@[simp] theorem Main.count_upd (m : Main) (f : Field) (i n : Nat) : (m.count f i n).upd = m.upd := rfl
@[simp] theorem Main.count_pwr (m : Main) (f : Field) (i n : Nat) : (m.count f i n).pwr = m.pwr := rfl
@[simp] theorem Main.count_out (m : Main) (f : Field) (i n : Nat) : (m.count f i n).out = m.out := rfl
@[simp] theorem Main.count_free (m : Main) (f : Field) (i n : Nat) : (m.count f i n).free = m.free := rfl

/-! ### A saturating counter -/

@[simp] theorem Main.countSat_fuse (m : Main) (f : Field) (i : Nat) : (m.countSat f i).fuse = m.fuse := rfl
@[simp] theorem Main.countSat_host (m : Main) (f : Field) (i : Nat) : (m.countSat f i).host = m.host := rfl
@[simp] theorem Main.countSat_log (m : Main) (f : Field) (i : Nat) : (m.countSat f i).log = m.log := rfl
@[simp] theorem Main.countSat_time (m : Main) (f : Field) (i : Nat) : (m.countSat f i).time = m.time := rfl
@[simp] theorem Main.countSat_ylm (m : Main) (f : Field) (i : Nat) : (m.countSat f i).ylm = m.ylm := rfl
@[simp] theorem Main.countSat_lanes (m : Main) (f : Field) (i : Nat) : (m.countSat f i).lanes = m.lanes := rfl
@[simp] theorem Main.countSat_ctx (m : Main) (f : Field) (i : Nat) : (m.countSat f i).ctx = m.ctx := rfl
@[simp] theorem Main.countSat_wav (m : Main) (f : Field) (i : Nat) : (m.countSat f i).wav = m.wav := rfl
@[simp] theorem Main.countSat_pur (m : Main) (f : Field) (i : Nat) : (m.countSat f i).pur = m.pur := rfl
@[simp] theorem Main.countSat_mir (m : Main) (f : Field) (i : Nat) : (m.countSat f i).mir = m.mir := rfl
@[simp] theorem Main.countSat_eav (m : Main) (f : Field) (i : Nat) : (m.countSat f i).eav = m.eav := rfl
@[simp] theorem Main.countSat_gbl (m : Main) (f : Field) (i : Nat) : (m.countSat f i).gbl = m.gbl := rfl
@[simp] theorem Main.countSat_rdg (m : Main) (f : Field) (i : Nat) : (m.countSat f i).rdg = m.rdg := rfl
@[simp] theorem Main.countSat_red (m : Main) (f : Field) (i : Nat) : (m.countSat f i).red = m.red := rfl
@[simp] theorem Main.countSat_key (m : Main) (f : Field) (i : Nat) : (m.countSat f i).key = m.key := rfl
@[simp] theorem Main.countSat_upd (m : Main) (f : Field) (i : Nat) : (m.countSat f i).upd = m.upd := rfl
@[simp] theorem Main.countSat_pwr (m : Main) (f : Field) (i : Nat) : (m.countSat f i).pwr = m.pwr := rfl
@[simp] theorem Main.countSat_out (m : Main) (f : Field) (i : Nat) : (m.countSat f i).out = m.out := rfl
@[simp] theorem Main.countSat_free (m : Main) (f : Field) (i : Nat) : (m.countSat f i).free = m.free := rfl

/-! ### An output -/

@[simp] theorem Main.emit_regs (m : Main) (x : Output) : (m.emit x).regs = m.regs := rfl
@[simp] theorem Main.emit_fuse (m : Main) (x : Output) : (m.emit x).fuse = m.fuse := rfl
@[simp] theorem Main.emit_host (m : Main) (x : Output) : (m.emit x).host = m.host := rfl
@[simp] theorem Main.emit_log (m : Main) (x : Output) : (m.emit x).log = m.log := rfl
@[simp] theorem Main.emit_time (m : Main) (x : Output) : (m.emit x).time = m.time := rfl
@[simp] theorem Main.emit_ylm (m : Main) (x : Output) : (m.emit x).ylm = m.ylm := rfl
@[simp] theorem Main.emit_lanes (m : Main) (x : Output) : (m.emit x).lanes = m.lanes := rfl
@[simp] theorem Main.emit_ctx (m : Main) (x : Output) : (m.emit x).ctx = m.ctx := rfl
@[simp] theorem Main.emit_wav (m : Main) (x : Output) : (m.emit x).wav = m.wav := rfl
@[simp] theorem Main.emit_pur (m : Main) (x : Output) : (m.emit x).pur = m.pur := rfl
@[simp] theorem Main.emit_mir (m : Main) (x : Output) : (m.emit x).mir = m.mir := rfl
@[simp] theorem Main.emit_eav (m : Main) (x : Output) : (m.emit x).eav = m.eav := rfl
@[simp] theorem Main.emit_gbl (m : Main) (x : Output) : (m.emit x).gbl = m.gbl := rfl
@[simp] theorem Main.emit_rdg (m : Main) (x : Output) : (m.emit x).rdg = m.rdg := rfl
@[simp] theorem Main.emit_red (m : Main) (x : Output) : (m.emit x).red = m.red := rfl
@[simp] theorem Main.emit_key (m : Main) (x : Output) : (m.emit x).key = m.key := rfl
@[simp] theorem Main.emit_upd (m : Main) (x : Output) : (m.emit x).upd = m.upd := rfl
@[simp] theorem Main.emit_pwr (m : Main) (x : Output) : (m.emit x).pwr = m.pwr := rfl
@[simp] theorem Main.emit_free (m : Main) (x : Output) : (m.emit x).free = m.free := rfl

/-! ### A free value -/

@[simp] theorem Main.freeVal_regs (m : Main) : (m.freeVal.2).regs = m.regs := rfl
@[simp] theorem Main.freeVal_fuse (m : Main) : (m.freeVal.2).fuse = m.fuse := rfl
@[simp] theorem Main.freeVal_host (m : Main) : (m.freeVal.2).host = m.host := rfl
@[simp] theorem Main.freeVal_log (m : Main) : (m.freeVal.2).log = m.log := rfl
@[simp] theorem Main.freeVal_time (m : Main) : (m.freeVal.2).time = m.time := rfl
@[simp] theorem Main.freeVal_ylm (m : Main) : (m.freeVal.2).ylm = m.ylm := rfl
@[simp] theorem Main.freeVal_lanes (m : Main) : (m.freeVal.2).lanes = m.lanes := rfl
@[simp] theorem Main.freeVal_ctx (m : Main) : (m.freeVal.2).ctx = m.ctx := rfl
@[simp] theorem Main.freeVal_wav (m : Main) : (m.freeVal.2).wav = m.wav := rfl
@[simp] theorem Main.freeVal_pur (m : Main) : (m.freeVal.2).pur = m.pur := rfl
@[simp] theorem Main.freeVal_mir (m : Main) : (m.freeVal.2).mir = m.mir := rfl
@[simp] theorem Main.freeVal_eav (m : Main) : (m.freeVal.2).eav = m.eav := rfl
@[simp] theorem Main.freeVal_gbl (m : Main) : (m.freeVal.2).gbl = m.gbl := rfl
@[simp] theorem Main.freeVal_rdg (m : Main) : (m.freeVal.2).rdg = m.rdg := rfl
@[simp] theorem Main.freeVal_red (m : Main) : (m.freeVal.2).red = m.red := rfl
@[simp] theorem Main.freeVal_key (m : Main) : (m.freeVal.2).key = m.key := rfl
@[simp] theorem Main.freeVal_upd (m : Main) : (m.freeVal.2).upd = m.upd := rfl
@[simp] theorem Main.freeVal_pwr (m : Main) : (m.freeVal.2).pwr = m.pwr := rfl
@[simp] theorem Main.freeVal_out (m : Main) : (m.freeVal.2).out = m.out := rfl

/-! ### `withLane` -/

@[simp] theorem withLane_regs (m : Main) (l : Nat) (f : Lane → Lane) : (withLane l f m).regs = m.regs := rfl
@[simp] theorem withLane_fuse (m : Main) (l : Nat) (f : Lane → Lane) : (withLane l f m).fuse = m.fuse := rfl
@[simp] theorem withLane_host (m : Main) (l : Nat) (f : Lane → Lane) : (withLane l f m).host = m.host := rfl
@[simp] theorem withLane_log (m : Main) (l : Nat) (f : Lane → Lane) : (withLane l f m).log = m.log := rfl
@[simp] theorem withLane_time (m : Main) (l : Nat) (f : Lane → Lane) : (withLane l f m).time = m.time := rfl
@[simp] theorem withLane_ylm (m : Main) (l : Nat) (f : Lane → Lane) : (withLane l f m).ylm = m.ylm := rfl
@[simp] theorem withLane_ctx (m : Main) (l : Nat) (f : Lane → Lane) : (withLane l f m).ctx = m.ctx := rfl
@[simp] theorem withLane_wav (m : Main) (l : Nat) (f : Lane → Lane) : (withLane l f m).wav = m.wav := rfl
@[simp] theorem withLane_pur (m : Main) (l : Nat) (f : Lane → Lane) : (withLane l f m).pur = m.pur := rfl
@[simp] theorem withLane_mir (m : Main) (l : Nat) (f : Lane → Lane) : (withLane l f m).mir = m.mir := rfl
@[simp] theorem withLane_eav (m : Main) (l : Nat) (f : Lane → Lane) : (withLane l f m).eav = m.eav := rfl
@[simp] theorem withLane_gbl (m : Main) (l : Nat) (f : Lane → Lane) : (withLane l f m).gbl = m.gbl := rfl
@[simp] theorem withLane_rdg (m : Main) (l : Nat) (f : Lane → Lane) : (withLane l f m).rdg = m.rdg := rfl
@[simp] theorem withLane_red (m : Main) (l : Nat) (f : Lane → Lane) : (withLane l f m).red = m.red := rfl
@[simp] theorem withLane_key (m : Main) (l : Nat) (f : Lane → Lane) : (withLane l f m).key = m.key := rfl
@[simp] theorem withLane_upd (m : Main) (l : Nat) (f : Lane → Lane) : (withLane l f m).upd = m.upd := rfl
@[simp] theorem withLane_pwr (m : Main) (l : Nat) (f : Lane → Lane) : (withLane l f m).pwr = m.pwr := rfl
@[simp] theorem withLane_out (m : Main) (l : Nat) (f : Lane → Lane) : (withLane l f m).out = m.out := rfl
@[simp] theorem withLane_free (m : Main) (l : Nat) (f : Lane → Lane) : (withLane l f m).free = m.free := rfl

/-! ### `withGutter` -/

@[simp] theorem withGutter_fuse (m : Main) (l : Nat) (f : Gutter → Gutter) : (withGutter l f m).fuse = m.fuse := rfl
@[simp] theorem withGutter_host (m : Main) (l : Nat) (f : Gutter → Gutter) : (withGutter l f m).host = m.host := rfl
@[simp] theorem withGutter_log (m : Main) (l : Nat) (f : Gutter → Gutter) : (withGutter l f m).log = m.log := rfl
@[simp] theorem withGutter_time (m : Main) (l : Nat) (f : Gutter → Gutter) : (withGutter l f m).time = m.time := rfl
@[simp] theorem withGutter_ylm (m : Main) (l : Nat) (f : Gutter → Gutter) : (withGutter l f m).ylm = m.ylm := rfl
@[simp] theorem withGutter_lanes (m : Main) (l : Nat) (f : Gutter → Gutter) : (withGutter l f m).lanes = m.lanes := rfl
@[simp] theorem withGutter_wav (m : Main) (l : Nat) (f : Gutter → Gutter) : (withGutter l f m).wav = m.wav := rfl
@[simp] theorem withGutter_pur (m : Main) (l : Nat) (f : Gutter → Gutter) : (withGutter l f m).pur = m.pur := rfl
@[simp] theorem withGutter_mir (m : Main) (l : Nat) (f : Gutter → Gutter) : (withGutter l f m).mir = m.mir := rfl
@[simp] theorem withGutter_eav (m : Main) (l : Nat) (f : Gutter → Gutter) : (withGutter l f m).eav = m.eav := rfl
@[simp] theorem withGutter_gbl (m : Main) (l : Nat) (f : Gutter → Gutter) : (withGutter l f m).gbl = m.gbl := rfl
@[simp] theorem withGutter_rdg (m : Main) (l : Nat) (f : Gutter → Gutter) : (withGutter l f m).rdg = m.rdg := rfl
@[simp] theorem withGutter_red (m : Main) (l : Nat) (f : Gutter → Gutter) : (withGutter l f m).red = m.red := rfl
@[simp] theorem withGutter_key (m : Main) (l : Nat) (f : Gutter → Gutter) : (withGutter l f m).key = m.key := rfl
@[simp] theorem withGutter_upd (m : Main) (l : Nat) (f : Gutter → Gutter) : (withGutter l f m).upd = m.upd := rfl
@[simp] theorem withGutter_pwr (m : Main) (l : Nat) (f : Gutter → Gutter) : (withGutter l f m).pwr = m.pwr := rfl
@[simp] theorem withGutter_out (m : Main) (l : Nat) (f : Gutter → Gutter) : (withGutter l f m).out = m.out := rfl
@[simp] theorem withGutter_free (m : Main) (l : Nat) (f : Gutter → Gutter) : (withGutter l f m).free = m.free := rfl

/-! ### `withBank` -/

@[simp] theorem withBank_regs (m : Main) (b : Nat) (f : Bank → Bank) : (withBank b f m).regs = m.regs := rfl
@[simp] theorem withBank_fuse (m : Main) (b : Nat) (f : Bank → Bank) : (withBank b f m).fuse = m.fuse := rfl
@[simp] theorem withBank_host (m : Main) (b : Nat) (f : Bank → Bank) : (withBank b f m).host = m.host := rfl
@[simp] theorem withBank_log (m : Main) (b : Nat) (f : Bank → Bank) : (withBank b f m).log = m.log := rfl
@[simp] theorem withBank_time (m : Main) (b : Nat) (f : Bank → Bank) : (withBank b f m).time = m.time := rfl
@[simp] theorem withBank_lanes (m : Main) (b : Nat) (f : Bank → Bank) : (withBank b f m).lanes = m.lanes := rfl
@[simp] theorem withBank_ctx (m : Main) (b : Nat) (f : Bank → Bank) : (withBank b f m).ctx = m.ctx := rfl
@[simp] theorem withBank_wav (m : Main) (b : Nat) (f : Bank → Bank) : (withBank b f m).wav = m.wav := rfl
@[simp] theorem withBank_pur (m : Main) (b : Nat) (f : Bank → Bank) : (withBank b f m).pur = m.pur := rfl
@[simp] theorem withBank_mir (m : Main) (b : Nat) (f : Bank → Bank) : (withBank b f m).mir = m.mir := rfl
@[simp] theorem withBank_eav (m : Main) (b : Nat) (f : Bank → Bank) : (withBank b f m).eav = m.eav := rfl
@[simp] theorem withBank_gbl (m : Main) (b : Nat) (f : Bank → Bank) : (withBank b f m).gbl = m.gbl := rfl
@[simp] theorem withBank_rdg (m : Main) (b : Nat) (f : Bank → Bank) : (withBank b f m).rdg = m.rdg := rfl
@[simp] theorem withBank_red (m : Main) (b : Nat) (f : Bank → Bank) : (withBank b f m).red = m.red := rfl
@[simp] theorem withBank_key (m : Main) (b : Nat) (f : Bank → Bank) : (withBank b f m).key = m.key := rfl
@[simp] theorem withBank_upd (m : Main) (b : Nat) (f : Bank → Bank) : (withBank b f m).upd = m.upd := rfl
@[simp] theorem withBank_pwr (m : Main) (b : Nat) (f : Bank → Bank) : (withBank b f m).pwr = m.pwr := rfl
@[simp] theorem withBank_out (m : Main) (b : Nat) (f : Bank → Bank) : (withBank b f m).out = m.out := rfl
@[simp] theorem withBank_free (m : Main) (b : Nat) (f : Bank → Bank) : (withBank b f m).free = m.free := rfl

/-! ### `withLoop` -/

@[simp] theorem withLoop_regs (m : Main) (l : Nat) (f : PLoop → PLoop) : (withLoop l f m).regs = m.regs := rfl
@[simp] theorem withLoop_fuse (m : Main) (l : Nat) (f : PLoop → PLoop) : (withLoop l f m).fuse = m.fuse := rfl
@[simp] theorem withLoop_host (m : Main) (l : Nat) (f : PLoop → PLoop) : (withLoop l f m).host = m.host := rfl
@[simp] theorem withLoop_log (m : Main) (l : Nat) (f : PLoop → PLoop) : (withLoop l f m).log = m.log := rfl
@[simp] theorem withLoop_time (m : Main) (l : Nat) (f : PLoop → PLoop) : (withLoop l f m).time = m.time := rfl
@[simp] theorem withLoop_ylm (m : Main) (l : Nat) (f : PLoop → PLoop) : (withLoop l f m).ylm = m.ylm := rfl
@[simp] theorem withLoop_lanes (m : Main) (l : Nat) (f : PLoop → PLoop) : (withLoop l f m).lanes = m.lanes := rfl
@[simp] theorem withLoop_ctx (m : Main) (l : Nat) (f : PLoop → PLoop) : (withLoop l f m).ctx = m.ctx := rfl
@[simp] theorem withLoop_wav (m : Main) (l : Nat) (f : PLoop → PLoop) : (withLoop l f m).wav = m.wav := rfl
@[simp] theorem withLoop_mir (m : Main) (l : Nat) (f : PLoop → PLoop) : (withLoop l f m).mir = m.mir := rfl
@[simp] theorem withLoop_eav (m : Main) (l : Nat) (f : PLoop → PLoop) : (withLoop l f m).eav = m.eav := rfl
@[simp] theorem withLoop_gbl (m : Main) (l : Nat) (f : PLoop → PLoop) : (withLoop l f m).gbl = m.gbl := rfl
@[simp] theorem withLoop_rdg (m : Main) (l : Nat) (f : PLoop → PLoop) : (withLoop l f m).rdg = m.rdg := rfl
@[simp] theorem withLoop_red (m : Main) (l : Nat) (f : PLoop → PLoop) : (withLoop l f m).red = m.red := rfl
@[simp] theorem withLoop_key (m : Main) (l : Nat) (f : PLoop → PLoop) : (withLoop l f m).key = m.key := rfl
@[simp] theorem withLoop_upd (m : Main) (l : Nat) (f : PLoop → PLoop) : (withLoop l f m).upd = m.upd := rfl
@[simp] theorem withLoop_pwr (m : Main) (l : Nat) (f : PLoop → PLoop) : (withLoop l f m).pwr = m.pwr := rfl
@[simp] theorem withLoop_out (m : Main) (l : Nat) (f : PLoop → PLoop) : (withLoop l f m).out = m.out := rfl
@[simp] theorem withLoop_free (m : Main) (l : Nat) (f : PLoop → PLoop) : (withLoop l f m).free = m.free := rfl

/-! ### `withPort` -/

@[simp] theorem withPort_regs (m : Main) (p : Nat) (f : RPort → RPort) : (withPort m p f).regs = m.regs := rfl
@[simp] theorem withPort_fuse (m : Main) (p : Nat) (f : RPort → RPort) : (withPort m p f).fuse = m.fuse := rfl
@[simp] theorem withPort_host (m : Main) (p : Nat) (f : RPort → RPort) : (withPort m p f).host = m.host := rfl
@[simp] theorem withPort_log (m : Main) (p : Nat) (f : RPort → RPort) : (withPort m p f).log = m.log := rfl
@[simp] theorem withPort_time (m : Main) (p : Nat) (f : RPort → RPort) : (withPort m p f).time = m.time := rfl
@[simp] theorem withPort_ylm (m : Main) (p : Nat) (f : RPort → RPort) : (withPort m p f).ylm = m.ylm := rfl
@[simp] theorem withPort_lanes (m : Main) (p : Nat) (f : RPort → RPort) : (withPort m p f).lanes = m.lanes := rfl
@[simp] theorem withPort_ctx (m : Main) (p : Nat) (f : RPort → RPort) : (withPort m p f).ctx = m.ctx := rfl
@[simp] theorem withPort_wav (m : Main) (p : Nat) (f : RPort → RPort) : (withPort m p f).wav = m.wav := rfl
@[simp] theorem withPort_pur (m : Main) (p : Nat) (f : RPort → RPort) : (withPort m p f).pur = m.pur := rfl
@[simp] theorem withPort_mir (m : Main) (p : Nat) (f : RPort → RPort) : (withPort m p f).mir = m.mir := rfl
@[simp] theorem withPort_eav (m : Main) (p : Nat) (f : RPort → RPort) : (withPort m p f).eav = m.eav := rfl
@[simp] theorem withPort_gbl (m : Main) (p : Nat) (f : RPort → RPort) : (withPort m p f).gbl = m.gbl := rfl
@[simp] theorem withPort_red (m : Main) (p : Nat) (f : RPort → RPort) : (withPort m p f).red = m.red := rfl
@[simp] theorem withPort_key (m : Main) (p : Nat) (f : RPort → RPort) : (withPort m p f).key = m.key := rfl
@[simp] theorem withPort_upd (m : Main) (p : Nat) (f : RPort → RPort) : (withPort m p f).upd = m.upd := rfl
@[simp] theorem withPort_pwr (m : Main) (p : Nat) (f : RPort → RPort) : (withPort m p f).pwr = m.pwr := rfl
@[simp] theorem withPort_out (m : Main) (p : Nat) (f : RPort → RPort) : (withPort m p f).out = m.out := rfl
@[simp] theorem withPort_free (m : Main) (p : Nat) (f : RPort → RPort) : (withPort m p f).free = m.free := rfl

/-! ### `withCh` -/

@[simp] theorem withCh_regs (m : Main) (n : Nat) (f : EavCh → EavCh) : (withCh m n f).regs = m.regs := rfl
@[simp] theorem withCh_fuse (m : Main) (n : Nat) (f : EavCh → EavCh) : (withCh m n f).fuse = m.fuse := rfl
@[simp] theorem withCh_host (m : Main) (n : Nat) (f : EavCh → EavCh) : (withCh m n f).host = m.host := rfl
@[simp] theorem withCh_log (m : Main) (n : Nat) (f : EavCh → EavCh) : (withCh m n f).log = m.log := rfl
@[simp] theorem withCh_time (m : Main) (n : Nat) (f : EavCh → EavCh) : (withCh m n f).time = m.time := rfl
@[simp] theorem withCh_ylm (m : Main) (n : Nat) (f : EavCh → EavCh) : (withCh m n f).ylm = m.ylm := rfl
@[simp] theorem withCh_lanes (m : Main) (n : Nat) (f : EavCh → EavCh) : (withCh m n f).lanes = m.lanes := rfl
@[simp] theorem withCh_ctx (m : Main) (n : Nat) (f : EavCh → EavCh) : (withCh m n f).ctx = m.ctx := rfl
@[simp] theorem withCh_wav (m : Main) (n : Nat) (f : EavCh → EavCh) : (withCh m n f).wav = m.wav := rfl
@[simp] theorem withCh_pur (m : Main) (n : Nat) (f : EavCh → EavCh) : (withCh m n f).pur = m.pur := rfl
@[simp] theorem withCh_mir (m : Main) (n : Nat) (f : EavCh → EavCh) : (withCh m n f).mir = m.mir := rfl
@[simp] theorem withCh_gbl (m : Main) (n : Nat) (f : EavCh → EavCh) : (withCh m n f).gbl = m.gbl := rfl
@[simp] theorem withCh_rdg (m : Main) (n : Nat) (f : EavCh → EavCh) : (withCh m n f).rdg = m.rdg := rfl
@[simp] theorem withCh_red (m : Main) (n : Nat) (f : EavCh → EavCh) : (withCh m n f).red = m.red := rfl
@[simp] theorem withCh_key (m : Main) (n : Nat) (f : EavCh → EavCh) : (withCh m n f).key = m.key := rfl
@[simp] theorem withCh_upd (m : Main) (n : Nat) (f : EavCh → EavCh) : (withCh m n f).upd = m.upd := rfl
@[simp] theorem withCh_pwr (m : Main) (n : Nat) (f : EavCh → EavCh) : (withCh m n f).pwr = m.pwr := rfl
@[simp] theorem withCh_out (m : Main) (n : Nat) (f : EavCh → EavCh) : (withCh m n f).out = m.out := rfl
@[simp] theorem withCh_free (m : Main) (n : Nat) (f : EavCh → EavCh) : (withCh m n f).free = m.free := rfl

/-! ### `withRing` -/

@[simp] theorem withRing_regs (m : Main) (r : Nat) (f : Ring → Ring) : (withRing m r f).regs = m.regs := rfl
@[simp] theorem withRing_fuse (m : Main) (r : Nat) (f : Ring → Ring) : (withRing m r f).fuse = m.fuse := rfl
@[simp] theorem withRing_log (m : Main) (r : Nat) (f : Ring → Ring) : (withRing m r f).log = m.log := rfl
@[simp] theorem withRing_time (m : Main) (r : Nat) (f : Ring → Ring) : (withRing m r f).time = m.time := rfl
@[simp] theorem withRing_ylm (m : Main) (r : Nat) (f : Ring → Ring) : (withRing m r f).ylm = m.ylm := rfl
@[simp] theorem withRing_lanes (m : Main) (r : Nat) (f : Ring → Ring) : (withRing m r f).lanes = m.lanes := rfl
@[simp] theorem withRing_ctx (m : Main) (r : Nat) (f : Ring → Ring) : (withRing m r f).ctx = m.ctx := rfl
@[simp] theorem withRing_wav (m : Main) (r : Nat) (f : Ring → Ring) : (withRing m r f).wav = m.wav := rfl
@[simp] theorem withRing_pur (m : Main) (r : Nat) (f : Ring → Ring) : (withRing m r f).pur = m.pur := rfl
@[simp] theorem withRing_mir (m : Main) (r : Nat) (f : Ring → Ring) : (withRing m r f).mir = m.mir := rfl
@[simp] theorem withRing_eav (m : Main) (r : Nat) (f : Ring → Ring) : (withRing m r f).eav = m.eav := rfl
@[simp] theorem withRing_gbl (m : Main) (r : Nat) (f : Ring → Ring) : (withRing m r f).gbl = m.gbl := rfl
@[simp] theorem withRing_rdg (m : Main) (r : Nat) (f : Ring → Ring) : (withRing m r f).rdg = m.rdg := rfl
@[simp] theorem withRing_red (m : Main) (r : Nat) (f : Ring → Ring) : (withRing m r f).red = m.red := rfl
@[simp] theorem withRing_key (m : Main) (r : Nat) (f : Ring → Ring) : (withRing m r f).key = m.key := rfl
@[simp] theorem withRing_upd (m : Main) (r : Nat) (f : Ring → Ring) : (withRing m r f).upd = m.upd := rfl
@[simp] theorem withRing_pwr (m : Main) (r : Nat) (f : Ring → Ring) : (withRing m r f).pwr = m.pwr := rfl
@[simp] theorem withRing_out (m : Main) (r : Nat) (f : Ring → Ring) : (withRing m r f).out = m.out := rfl
@[simp] theorem withRing_free (m : Main) (r : Nat) (f : Ring → Ring) : (withRing m r f).free = m.free := rfl

/-! ### `withWave` -/

@[simp] theorem withWave_regs (m : Main) (w : Nat) (f : WaveCtx → WaveCtx) : (withWave w f m).regs = m.regs := rfl
@[simp] theorem withWave_fuse (m : Main) (w : Nat) (f : WaveCtx → WaveCtx) : (withWave w f m).fuse = m.fuse := rfl
@[simp] theorem withWave_host (m : Main) (w : Nat) (f : WaveCtx → WaveCtx) : (withWave w f m).host = m.host := rfl
@[simp] theorem withWave_log (m : Main) (w : Nat) (f : WaveCtx → WaveCtx) : (withWave w f m).log = m.log := rfl
@[simp] theorem withWave_time (m : Main) (w : Nat) (f : WaveCtx → WaveCtx) : (withWave w f m).time = m.time := rfl
@[simp] theorem withWave_ylm (m : Main) (w : Nat) (f : WaveCtx → WaveCtx) : (withWave w f m).ylm = m.ylm := rfl
@[simp] theorem withWave_lanes (m : Main) (w : Nat) (f : WaveCtx → WaveCtx) : (withWave w f m).lanes = m.lanes := rfl
@[simp] theorem withWave_ctx (m : Main) (w : Nat) (f : WaveCtx → WaveCtx) : (withWave w f m).ctx = m.ctx := rfl
@[simp] theorem withWave_pur (m : Main) (w : Nat) (f : WaveCtx → WaveCtx) : (withWave w f m).pur = m.pur := rfl
@[simp] theorem withWave_mir (m : Main) (w : Nat) (f : WaveCtx → WaveCtx) : (withWave w f m).mir = m.mir := rfl
@[simp] theorem withWave_eav (m : Main) (w : Nat) (f : WaveCtx → WaveCtx) : (withWave w f m).eav = m.eav := rfl
@[simp] theorem withWave_gbl (m : Main) (w : Nat) (f : WaveCtx → WaveCtx) : (withWave w f m).gbl = m.gbl := rfl
@[simp] theorem withWave_rdg (m : Main) (w : Nat) (f : WaveCtx → WaveCtx) : (withWave w f m).rdg = m.rdg := rfl
@[simp] theorem withWave_red (m : Main) (w : Nat) (f : WaveCtx → WaveCtx) : (withWave w f m).red = m.red := rfl
@[simp] theorem withWave_key (m : Main) (w : Nat) (f : WaveCtx → WaveCtx) : (withWave w f m).key = m.key := rfl
@[simp] theorem withWave_upd (m : Main) (w : Nat) (f : WaveCtx → WaveCtx) : (withWave w f m).upd = m.upd := rfl
@[simp] theorem withWave_pwr (m : Main) (w : Nat) (f : WaveCtx → WaveCtx) : (withWave w f m).pwr = m.pwr := rfl
@[simp] theorem withWave_out (m : Main) (w : Nat) (f : WaveCtx → WaveCtx) : (withWave w f m).out = m.out := rfl
@[simp] theorem withWave_free (m : Main) (w : Nat) (f : WaveCtx → WaveCtx) : (withWave w f m).free = m.free := rfl

/-! ### `withTto` -/

@[simp] theorem withTto_regs (m : Main) (n : Nat) (f : Tto → Tto) : (withTto m n f).regs = m.regs := rfl
@[simp] theorem withTto_fuse (m : Main) (n : Nat) (f : Tto → Tto) : (withTto m n f).fuse = m.fuse := rfl
@[simp] theorem withTto_host (m : Main) (n : Nat) (f : Tto → Tto) : (withTto m n f).host = m.host := rfl
@[simp] theorem withTto_log (m : Main) (n : Nat) (f : Tto → Tto) : (withTto m n f).log = m.log := rfl
@[simp] theorem withTto_ylm (m : Main) (n : Nat) (f : Tto → Tto) : (withTto m n f).ylm = m.ylm := rfl
@[simp] theorem withTto_lanes (m : Main) (n : Nat) (f : Tto → Tto) : (withTto m n f).lanes = m.lanes := rfl
@[simp] theorem withTto_ctx (m : Main) (n : Nat) (f : Tto → Tto) : (withTto m n f).ctx = m.ctx := rfl
@[simp] theorem withTto_wav (m : Main) (n : Nat) (f : Tto → Tto) : (withTto m n f).wav = m.wav := rfl
@[simp] theorem withTto_pur (m : Main) (n : Nat) (f : Tto → Tto) : (withTto m n f).pur = m.pur := rfl
@[simp] theorem withTto_mir (m : Main) (n : Nat) (f : Tto → Tto) : (withTto m n f).mir = m.mir := rfl
@[simp] theorem withTto_eav (m : Main) (n : Nat) (f : Tto → Tto) : (withTto m n f).eav = m.eav := rfl
@[simp] theorem withTto_gbl (m : Main) (n : Nat) (f : Tto → Tto) : (withTto m n f).gbl = m.gbl := rfl
@[simp] theorem withTto_rdg (m : Main) (n : Nat) (f : Tto → Tto) : (withTto m n f).rdg = m.rdg := rfl
@[simp] theorem withTto_red (m : Main) (n : Nat) (f : Tto → Tto) : (withTto m n f).red = m.red := rfl
@[simp] theorem withTto_key (m : Main) (n : Nat) (f : Tto → Tto) : (withTto m n f).key = m.key := rfl
@[simp] theorem withTto_upd (m : Main) (n : Nat) (f : Tto → Tto) : (withTto m n f).upd = m.upd := rfl
@[simp] theorem withTto_pwr (m : Main) (n : Nat) (f : Tto → Tto) : (withTto m n f).pwr = m.pwr := rfl
@[simp] theorem withTto_out (m : Main) (n : Nat) (f : Tto → Tto) : (withTto m n f).out = m.out := rfl
@[simp] theorem withTto_free (m : Main) (n : Nat) (f : Tto → Tto) : (withTto m n f).free = m.free := rfl

/-! ### `withCtx` -/

@[simp] theorem withCtx_regs (m : Main) (i : Nat) (f : Ctx → Ctx) : (withCtx i f m).regs = m.regs := rfl
@[simp] theorem withCtx_fuse (m : Main) (i : Nat) (f : Ctx → Ctx) : (withCtx i f m).fuse = m.fuse := rfl
@[simp] theorem withCtx_host (m : Main) (i : Nat) (f : Ctx → Ctx) : (withCtx i f m).host = m.host := rfl
@[simp] theorem withCtx_log (m : Main) (i : Nat) (f : Ctx → Ctx) : (withCtx i f m).log = m.log := rfl
@[simp] theorem withCtx_time (m : Main) (i : Nat) (f : Ctx → Ctx) : (withCtx i f m).time = m.time := rfl
@[simp] theorem withCtx_ylm (m : Main) (i : Nat) (f : Ctx → Ctx) : (withCtx i f m).ylm = m.ylm := rfl
@[simp] theorem withCtx_lanes (m : Main) (i : Nat) (f : Ctx → Ctx) : (withCtx i f m).lanes = m.lanes := rfl
@[simp] theorem withCtx_wav (m : Main) (i : Nat) (f : Ctx → Ctx) : (withCtx i f m).wav = m.wav := rfl
@[simp] theorem withCtx_pur (m : Main) (i : Nat) (f : Ctx → Ctx) : (withCtx i f m).pur = m.pur := rfl
@[simp] theorem withCtx_mir (m : Main) (i : Nat) (f : Ctx → Ctx) : (withCtx i f m).mir = m.mir := rfl
@[simp] theorem withCtx_eav (m : Main) (i : Nat) (f : Ctx → Ctx) : (withCtx i f m).eav = m.eav := rfl
@[simp] theorem withCtx_gbl (m : Main) (i : Nat) (f : Ctx → Ctx) : (withCtx i f m).gbl = m.gbl := rfl
@[simp] theorem withCtx_rdg (m : Main) (i : Nat) (f : Ctx → Ctx) : (withCtx i f m).rdg = m.rdg := rfl
@[simp] theorem withCtx_red (m : Main) (i : Nat) (f : Ctx → Ctx) : (withCtx i f m).red = m.red := rfl
@[simp] theorem withCtx_key (m : Main) (i : Nat) (f : Ctx → Ctx) : (withCtx i f m).key = m.key := rfl
@[simp] theorem withCtx_upd (m : Main) (i : Nat) (f : Ctx → Ctx) : (withCtx i f m).upd = m.upd := rfl
@[simp] theorem withCtx_pwr (m : Main) (i : Nat) (f : Ctx → Ctx) : (withCtx i f m).pwr = m.pwr := rfl
@[simp] theorem withCtx_out (m : Main) (i : Nat) (f : Ctx → Ctx) : (withCtx i f m).out = m.out := rfl
@[simp] theorem withCtx_free (m : Main) (i : Nat) (f : Ctx → Ctx) : (withCtx i f m).free = m.free := rfl

/-! ### A channel's turn -/

@[simp] theorem granted_fuse (m : Main) (c : Nat) : (granted c m).fuse = m.fuse := rfl
@[simp] theorem granted_log (m : Main) (c : Nat) : (granted c m).log = m.log := rfl
@[simp] theorem granted_time (m : Main) (c : Nat) : (granted c m).time = m.time := rfl
@[simp] theorem granted_ylm (m : Main) (c : Nat) : (granted c m).ylm = m.ylm := rfl
@[simp] theorem granted_lanes (m : Main) (c : Nat) : (granted c m).lanes = m.lanes := rfl
@[simp] theorem granted_ctx (m : Main) (c : Nat) : (granted c m).ctx = m.ctx := rfl
@[simp] theorem granted_wav (m : Main) (c : Nat) : (granted c m).wav = m.wav := rfl
@[simp] theorem granted_pur (m : Main) (c : Nat) : (granted c m).pur = m.pur := rfl
@[simp] theorem granted_mir (m : Main) (c : Nat) : (granted c m).mir = m.mir := rfl
@[simp] theorem granted_eav (m : Main) (c : Nat) : (granted c m).eav = m.eav := rfl
@[simp] theorem granted_gbl (m : Main) (c : Nat) : (granted c m).gbl = m.gbl := rfl
@[simp] theorem granted_rdg (m : Main) (c : Nat) : (granted c m).rdg = m.rdg := rfl
@[simp] theorem granted_red (m : Main) (c : Nat) : (granted c m).red = m.red := rfl
@[simp] theorem granted_key (m : Main) (c : Nat) : (granted c m).key = m.key := rfl
@[simp] theorem granted_upd (m : Main) (c : Nat) : (granted c m).upd = m.upd := rfl
@[simp] theorem granted_pwr (m : Main) (c : Nat) : (granted c m).pwr = m.pwr := rfl
@[simp] theorem granted_out (m : Main) (c : Nat) : (granted c m).out = m.out := rfl
@[simp] theorem granted_free (m : Main) (c : Nat) : (granted c m).free = m.free := rfl
@[simp] theorem granted_regs (m : Main) (c : Nat) : (granted c m).regs = m.regs := rfl
@[simp] theorem granted_rings (m : Main) (c : Nat) : (granted c m).host.rings = m.host.rings := rfl

end Sys2Proof.Machine
end

