-- ==== Sys2Proof/Laws/Answers.lean ====
section
/-!
SUPPORT. From a meaning to what a command answers: commands of one side, host accesses, and the frames of parts of the main side.
-/
namespace Sys2Proof.Machine

/-! ### Answers -/

/-- A command that acts on the main side by `f` answers with what `f` gives. -/
theorem answersMain_of {c : Instr} {s : State} {f : Main → Main} {P : Main → Prop} (h : exec c s = s.onMain f) (hp : P (f s.main)) :
    AnswersMain c s P := ⟨f s.main, h, hp⟩

theorem answersDormer_of {c : Instr} {s : State} {f : Dormer → Dormer} {P : Dormer → Prop} (h : exec c s = s.onDormer f)
    (hp : P (f s.dmr)) : AnswersDormer c s P := ⟨f s.dmr, h, hp⟩

theorem AnswersMain.mono {c : Instr} {s : State} {P Q : Main → Prop} (h : AnswersMain c s P) (i : ∀ m, P m → Q m) : AnswersMain c s Q :=
  let ⟨m, e, p⟩ := h; ⟨m, e, i m p⟩

theorem AnswersDormer.mono {c : Instr} {s : State} {P Q : Dormer → Prop} (h : AnswersDormer c s P) (i : ∀ d, P d → Q d) :
    AnswersDormer c s Q :=
  let ⟨d, e, p⟩ := h; ⟨d, e, i d p⟩

/-! ### Host accesses -/

/-- The register file that a host access that reaches its block acts on. -/
def accessed (m : Main) : Main := { m with host := { m.host with unsupported := false } }

@[simp] theorem accessed_word (m : Main) (a : Nat) : (accessed m).word a = m.word a := rfl
@[simp] theorem accessed_get (m : Main) (f : Field) (i : Nat) : (accessed m).get f i = m.get f i := rfl
@[simp] theorem accessed_bit (m : Main) (f : Field) (i j : Nat) : (accessed m).bit f i j = m.bit f i j := rfl

theorem hostAccess_reaches {b : Nat} {m : Main} (h : hostReaches b m) (f : Main → Main) : hostAccess b f m = f (accessed m) := by
  obtain ⟨h1, h2⟩ := h
  unfold hostAccess
  rw [if_neg (by simp [h1])]
  show (if blockOpen b (accessed m) then _ else _) = _
  rw [if_pos (show blockOpen b (accessed m) = true from h2)]
  rfl

theorem Frame.accessed (regs : Nat → Prop) {parts : List Part} (m : Main) (h : Part.host ∈ parts) : Frame regs parts m (accessed m) :=
  ⟨fun _ _ => rfl, fun p hp => by cases p <;> first | rfl | exact absurd h hp, List.suffix_refl _⟩

/-! ### Frames of single updates -/

theorem Frame.putWords {regs : Nat → Prop} (parts : List Part) (m : Main) (a : Nat) (ws : List Nat)
    (h : ∀ k, k < ws.length → regs (a + 4 * k)) : Frame regs parts m (m.putWords a ws) := by
  induction ws generalizing m a with
  | nil => exact Frame.refl _ _ _
  | cons w ws ih =>
    refine (Frame.setWord parts m a w (h 0 (Nat.succ_pos _))).trans (ih _ _ fun k hk => ?_)
    have := h (k + 1) (Nat.succ_lt_succ hk)
    rwa [show a + 4 * (k + 1) = a + 4 + 4 * k by omega] at this

theorem Frame.emit (regs : Nat → Prop) (parts : List Part) (m : Main) (x : Output) : Frame regs parts m (m.emit x) :=
  ⟨fun _ _ => rfl, fun p _ => by cases p <;> rfl, List.suffix_cons _ _⟩

theorem Frame.freeVal (regs : Nat → Prop) (parts : List Part) (m : Main) : Frame regs parts m m.freeVal.2 :=
  ⟨fun _ _ => rfl, fun p _ => by cases p <;> rfl, List.suffix_refl _⟩

theorem Frame.time (regs : Nat → Prop) {parts : List Part} (m : Main) (v : Time) (h : Part.time ∈ parts) :
    Frame regs parts m { m with time := v } :=
  ⟨fun _ _ => rfl, fun p hp => by cases p <;> first | rfl | exact absurd h hp, List.suffix_refl _⟩

theorem Frame.pwr (regs : Nat → Prop) {parts : List Part} (m : Main) (v : Pwr) (h : Part.pwr ∈ parts) :
    Frame regs parts m { m with pwr := v } :=
  ⟨fun _ _ => rfl, fun p hp => by cases p <;> first | rfl | exact absurd h hp, List.suffix_refl _⟩

theorem Frame.mir (regs : Nat → Prop) {parts : List Part} (m : Main) (v : Mir) (h : Part.mir ∈ parts) :
    Frame regs parts m { m with mir := v } :=
  ⟨fun _ _ => rfl, fun p hp => by cases p <;> first | rfl | exact absurd h hp, List.suffix_refl _⟩

theorem Frame.withRing (regs : Nat → Prop) {parts : List Part} (m : Main) (r : Nat) (f : Ring → Ring) (h : Part.host ∈ parts) :
    Frame regs parts m (withRing m r f) :=
  ⟨fun _ _ => rfl, fun p hp => by cases p <;> first | rfl | exact absurd h hp, List.suffix_refl _⟩

theorem Frame.withPort (regs : Nat → Prop) {parts : List Part} (m : Main) (p : Nat) (f : RPort → RPort) (h : Part.rdg ∈ parts) :
    Frame regs parts m (withPort m p f) :=
  ⟨fun _ _ => rfl, fun p hp => by cases p <;> first | rfl | exact absurd h hp, List.suffix_refl _⟩

theorem Frame.withLane (regs : Nat → Prop) {parts : List Part} (m : Main) (l : Nat) (f : Lane → Lane) (h : Part.lanes ∈ parts) :
    Frame regs parts m (withLane l f m) :=
  ⟨fun _ _ => rfl, fun p hp => by cases p <;> first | rfl | exact absurd h hp, List.suffix_refl _⟩

/-- An event is a report. -/
theorem reports_fire (regs : Nat → Prop) (parts : List Part) (n : Nat) (m : Main) (h : n < 64) : Reports regs parts m (fire n m) :=
  (keeps_fire n m h).reports regs parts

/-- A log record is a report. -/
theorem reports_record (regs : Nat → Prop) (parts : List Part) (code p0 p1 p2 p3 : Nat) (m : Main) :
    Reports regs parts m (record code p0 p1 p2 p3 m) :=
  (keeps_record code p0 p1 p2 p3 m).reports regs parts

/-- A frame is one in which reports may be made as well. -/
theorem Frame.reports {regs : Nat → Prop} {parts : List Part} {m m' : Main} (h : Frame regs parts m m') : Reports regs parts m m' :=
  h.mono (fun _ => Or.inl) fun _ hp => List.mem_cons_of_mem _ (List.mem_cons_of_mem _ hp)

end Sys2Proof.Machine
end

