-- ==== Sys2Proof/Laws/Dormer.lean ====
section
/-!
SUPPORT. What the dormer's operations leave as it was: the legal log's writes, the intervals, supervision and the frames touch
neither totals nor seal, and every store keeps its canonical form.
-/
namespace Sys2Proof.Machine

/-! ### The LEGAL log -/

theorem legal_eq (d : Dormer) (code p0 p1 p2 p3 : Nat) :
    ∃ l f r, legal d code p0 p1 p2 p3 = { d with log := l, logCount := d.logCount + 1, firstUsed := f, reserveUsed := r } := by
  unfold legal
  dsimp only
  split
  · split
    · exact ⟨_, _, _, rfl⟩
    · exact ⟨_, _, _, rfl⟩
  · split
    · exact ⟨_, _, _, rfl⟩
    · exact ⟨_, _, _, rfl⟩

theorem legal_swf {d : Dormer} (h : swf (fun _ => none) d.log = true) (code p0 p1 p2 p3 : Nat) :
    swf (fun _ => none) (legal d code p0 p1 p2 p3).log = true := by
  unfold legal
  dsimp only
  have h1 := fun (r : SofRec) => swf_sset (fun _ => (none : Option SofRec)) h (1024 + d.logCount % 8192) (some r)
  have h2 := fun (r : SofRec) (k : Nat) => swf_sset (fun _ => (none : Option SofRec)) (h1 r) k (some r)
  split
  · split
    · exact h2 _ _
    · exact h1 _
  · split
    · exact h2 _ _
    · exact h1 _

/-- The newest LEGAL record is the one just written. -/
theorem newestLegal_legal (d : Dormer) (code p0 p1 p2 p3 : Nat) :
    ∃ r, newestLegal (legal d code p0 p1 p2 p3) 0 = some r ∧ r.code = code ∧ r.p0 = p0 % 2 ^ 32 ∧ r.p1 = p1 % 2 ^ 32 := by
  have key : ∀ (e : Dormer) (l : Sparse (Option SofRec)) (r : SofRec), e.logCount = d.logCount + 1 → e.log = l →
      sget (fun _ => none) l (1024 + d.logCount % 8192) = some r → newestLegal e 0 = some r := by
    intro e l r h1 h2 h3
    unfold newestLegal
    rw [h1, h2, if_pos (Nat.succ_pos _)]
    exact h3
  have one := fun (r : SofRec) => sget_sset_same (fun _ => (none : Option SofRec)) d.log (1024 + d.logCount % 8192) (some r)
  have two := fun (r : SofRec) (k : Nat) (hk : k ≠ 1024 + d.logCount % 8192) =>
    (sget_sset_ne (fun _ => (none : Option SofRec)) (sset (fun _ => none) d.log (1024 + d.logCount % 8192) (some r)) (some r) hk).trans
      (one r)
  refine ⟨⟨0, true, false, false, code, d.stepNo / 100 % 2 ^ 32, d.cycles % 2 ^ 24, d.stepNo % 100 * 256 / 100,
    p0 % 2 ^ 32, p1 % 2 ^ 32, p2 % 2 ^ 32, p3 % 2 ^ 32, 0⟩, ?_, rfl, rfl, rfl⟩
  unfold legal
  dsimp only
  split
  · split
    · exact key _ _ _ rfl rfl (two _ _ (by omega))
    · exact key _ _ _ rfl rfl (one _)
  · split
    · exact key _ _ _ rfl rfl (two _ _ (by omega))
    · exact key _ _ _ rfl rfl (one _)

/-! ### Intervals -/

theorem putIvl_swf {p : Sparse Nat} (h : swf profileDefault p = true) (n : Nat) (w : Nat → List Nat) :
    swf profileDefault (putIvl p n w) = true := by
  unfold putIvl
  generalize List.range 16 = l
  induction l generalizing p with
  | nil => exact h
  | cons i t ih => exact ih (swf_sset _ h _ _)

/-- What a change of the intervals leaves as it was: everything but the profile, the open interval and its bases and flags. -/
def ivlOnly (d d' : Dormer) : Prop :=
  ∃ p n i b g e x v, d' = { d with profile := p, newest := n, ivl := i, bases := b, ivlFlags := g, seenImp := e, seenExp := x, ivlDue := v } ∧
    (swf profileDefault d.profile = true → swf profileDefault p = true)

theorem ivlOnly.refl (d : Dormer) : ivlOnly d d := ⟨_, _, _, _, _, _, _, _, rfl, id⟩

theorem ivlOnly.trans {a b c : Dormer} (h : ivlOnly a b) (g : ivlOnly b c) : ivlOnly a c := by
  obtain ⟨_, _, _, _, _, _, _, _, rfl, h1⟩ := h
  obtain ⟨_, _, _, _, _, _, _, _, rfl, g1⟩ := g
  exact ⟨_, _, _, _, _, _, _, _, rfl, fun x => g1 (h1 x)⟩

theorem ivlOnly_flag (d : Dormer) (i : Nat) (on : Bool) : ivlOnly d (d.flag i on) := by
  unfold Dormer.flag
  split
  · exact ⟨_, _, _, _, _, _, _, _, rfl, id⟩
  · exact ivlOnly.refl d

theorem ivlOnly_open (d : Dormer) (n : Nat) : ivlOnly d (openIvl d n) := ⟨_, _, _, _, _, _, _, _, rfl, id⟩
theorem ivlOnly_close (d : Dormer) (n : Nat) : ivlOnly d (closeIvl d n) := ⟨_, _, _, _, _, _, _, _, rfl, fun h => putIvl_swf h _ _⟩

theorem ivlOnly_missing (k : Nat) : ∀ (d : Dormer) (n : Nat), ivlOnly d (closeMissing d n k) := by
  induction k with
  | zero => exact fun d _ => ivlOnly.refl d
  | succ k ih =>
    intro d n
    exact ivlOnly.trans ⟨_, _, _, _, _, _, _, _, rfl, fun h => putIvl_swf h _ _⟩ (ih _ _)

theorem ivlOnly_due (d : Dormer) (v : Option Nat) : ivlOnly d { d with ivlDue := v } := ⟨_, _, _, _, _, _, _, _, rfl, id⟩

theorem ivlOnly_roll (d : Dormer) (tag : Nat) : ivlOnly d (rollIvl d tag) := by
  unfold rollIvl
  dsimp only
  split
  · exact (ivlOnly_open _ _).trans (ivlOnly_flag _ _ _)
  · split
    · exact ivlOnly_flag _ _ _
    · split
      · exact ivlOnly.refl d
      · exact ((ivlOnly_flag _ _ _).trans (ivlOnly_close _ _)).trans (((ivlOnly_missing _ _ _).trans (ivlOnly_open _ _)).trans (ivlOnly_due _ _))

/-! ### Supervision and frames -/

/-- What supervision, overflow records and frames leave as it was: everything but the alarms, the LEGAL log and what is sent. -/
def alarmOnly (d d' : Dormer) : Prop :=
  ∃ q u k o l lc fu ru, d' = { d with pseq := q, undet := u, missingN := k, openCt := o, log := l, logCount := lc, firstUsed := fu, reserveUsed := ru } ∧
    (swf (fun _ => none) d.log = true → swf (fun _ => none) l = true)

theorem alarmOnly.refl (d : Dormer) : alarmOnly d d := ⟨_, _, _, _, _, _, _, _, rfl, id⟩

theorem alarmOnly.trans {a b c : Dormer} (h : alarmOnly a b) (g : alarmOnly b c) : alarmOnly a c := by
  obtain ⟨_, _, _, _, _, _, _, _, rfl, h1⟩ := h
  obtain ⟨_, _, _, _, _, _, _, _, rfl, g1⟩ := g
  exact ⟨_, _, _, _, _, _, _, _, rfl, fun x => g1 (h1 x)⟩

theorem alarmOnly_legal (d : Dormer) (code p0 p1 p2 p3 : Nat) : alarmOnly d (legal d code p0 p1 p2 p3) := by
  obtain ⟨l, f, r, h⟩ := legal_eq d code p0 p1 p2 p3
  refine ⟨d.pseq, d.undet, d.missingN, d.openCt, l, d.logCount + 1, f, r, h, fun hs => ?_⟩
  have := legal_swf hs code p0 p1 p2 p3
  rw [h] at this; exact this

theorem alarmOnly_supervise (d : Dormer) (m : Sums) (n : Nat) : alarmOnly d (superviseLegal d m n) := by
  have ite : ∀ (c : Prop) [Decidable c] (x : Dormer) (code p0 p1 : Nat), alarmOnly x (if c then x else legal x code p0 p1 0 0) := by
    intro c _ x code p0 p1
    split
    · exact alarmOnly.refl x
    · exact alarmOnly_legal _ _ _ _ _ _
  unfold superviseLegal
  dsimp only
  have set1 : ∀ (x : Dormer) (q : Deb) (u : Bool), alarmOnly x { x with pseq := q, undet := u } :=
    fun x q u => ⟨_, _, _, _, _, _, _, _, rfl, id⟩
  have set2 : ∀ (x : Dormer) (q : Deb), alarmOnly x { x with missingN := q } := fun x q => ⟨_, _, _, _, _, _, _, _, rfl, id⟩
  have set3 : ∀ (x : Dormer) (o : Vector Deb 16), alarmOnly x { x with openCt := o } := fun x q => ⟨_, _, _, _, _, _, _, _, rfl, id⟩
  split
  · exact (((ite _ _ _ _ _).trans (set1 _ _ _)).trans (ite _ _ _ _ _)).trans (set2 _ _)
  · exact (((((ite _ _ _ _ _).trans (set1 _ _ _)).trans (ite _ _ _ _ _)).trans (set2 _ _)).trans (ite _ _ _ _ _)).trans (set3 _ _)

/-- What the frames of a step leave as it was: everything but what is sent, the profile's cycle, the replay and the overflow flags. -/
def sentOnly (d d' : Dormer) : Prop :=
  ∃ q l c b f p r v, d' = { d with seq := q, sent := l, cycleN := c, cycleB := b, cycleF := f, pulses := p, replayPos := r, ivlDue := v } ∧
    d.sent <:+ l

theorem sentOnly.refl (d : Dormer) : sentOnly d d := ⟨_, _, _, _, _, _, _, _, rfl, List.suffix_refl _⟩

theorem sentOnly.trans {a b c : Dormer} (h : sentOnly a b) (g : sentOnly b c) : sentOnly a c := by
  obtain ⟨_, _, _, _, _, _, _, _, rfl, h1⟩ := h
  obtain ⟨_, _, _, _, _, _, _, _, rfl, g1⟩ := g
  exact ⟨_, _, _, _, _, _, _, _, rfl, h1.trans g1⟩

theorem sentOnly_frame (h : DmrHeader) (b : DmrBody) (d : Dormer) : sentOnly d (sendFrame h b d) :=
  ⟨_, _, _, _, _, _, _, _, rfl, List.suffix_cons _ _⟩

theorem sentOnly_due (d : Dormer) (v : Option Nat) : sentOnly d { d with ivlDue := v } := ⟨_, _, _, _, _, _, _, _, rfl, List.suffix_refl _⟩

theorem sentOnly_profile (h : DmrHeader) (d : Dormer) : sentOnly d (sendProfile h d) := by
  have go : ∀ e : Dormer, sentOnly d e → sentOnly d (match e.cycleF with
      | [] => e
      | f :: fs =>
        let first := (e.cycleN + 2 ^ 32 - 3359 + 24 * e.cycleB) % 2 ^ 32
        let words := (List.range 24).flatMap fun i =>
          (List.range 4).map fun w => sget profileDefault e.profile (16 * ((e.cycleN + 1 + 24 * e.cycleB + i) % 3360) + 4 * f + w)
        sendFrame h (.profile first f words) { e with cycleF := fs }) := by
    intro e he
    split
    · exact he
    · exact (he.trans (⟨_, _, _, _, _, _, _, _, rfl, List.suffix_refl _⟩ : sentOnly e _)).trans (sentOnly_frame _ _ _)
  unfold sendProfile
  dsimp only
  apply go
  split
  · exact sentOnly.refl d
  · split
    · exact ⟨_, _, _, _, _, _, _, _, rfl, List.suffix_refl _⟩
    · exact ⟨_, _, _, _, _, _, _, _, rfl, List.suffix_refl _⟩

theorem sentOnly_others (h : DmrHeader) (d : Dormer) : sentOnly d (sendOthers h d) := by
  have ite : ∀ (c : Prop) [Decidable c] (x y : Dormer), sentOnly x y → sentOnly x (if c then y else x) := by
    intro c _ x y hxy
    split
    · exact hxy
    · exact sentOnly.refl x
  have st : ∀ x : Dormer, sentOnly x (sendState h x) := fun x =>
    (sentOnly_frame _ _ _).trans ⟨_, _, _, _, _, _, _, _, rfl, List.suffix_refl _⟩
  unfold sendOthers
  dsimp only
  exact (((ite _ _ _ (sentOnly_frame _ _ _)).trans (ite _ _ _ ((sentOnly_frame _ _ _).trans (sentOnly_due _ none)))).trans (ite _ _ _ (sentOnly_profile _ _))).trans
    (ite _ _ _ (st _))

/-! ### The step -/

/-- What a step leaves as it was: the seal, the session, the identity, the halt and the fault. -/
def sealKept (d d' : Dormer) : Prop :=
  d'.sealState = d.sealState ∧ d'.breaks = d.breaks ∧ d'.sessions = d.sessions ∧ d'.lidOpen = d.lidOpen ∧ d'.gateOpen = d.gateOpen ∧
  d'.session = d.session ∧ d'.nonce = d.nonce ∧ d'.nextSeq = d.nextSeq ∧ d'.staged = d.staged ∧ d'.ident = d.ident ∧
  d'.meterFault = d.meterFault ∧ d'.kDl = d.kDl ∧ d'.metroPub = d.metroPub

theorem sealKept.trans {a b c : Dormer} (h : sealKept a b) (g : sealKept b c) : sealKept a c := by
  obtain ⟨h1, h2, h3, h4, h5, h6, h7, h8, h9, h10, h11, h12, h13⟩ := h
  obtain ⟨g1, g2, g3, g4, g5, g6, g7, g8, g9, g10, g11, g12, g13⟩ := g
  exact ⟨g1.trans h1, g2.trans h2, g3.trans h3, g4.trans h4, g5.trans h5, g6.trans h6, g7.trans h7, g8.trans h8, g9.trans h9,
    g10.trans h10, g11.trans h11, g12.trans h12, g13.trans h13⟩

theorem ivlOnly.seal {d d' : Dormer} (h : ivlOnly d d') : sealKept d d' := by
  obtain ⟨_, _, _, _, _, _, _, _, rfl, -⟩ := h
  exact ⟨rfl, rfl, rfl, rfl, rfl, rfl, rfl, rfl, rfl, rfl, rfl, rfl, rfl⟩

theorem alarmOnly.seal {d d' : Dormer} (h : alarmOnly d d') : sealKept d d' := by
  obtain ⟨_, _, _, _, _, _, _, _, rfl, -⟩ := h
  exact ⟨rfl, rfl, rfl, rfl, rfl, rfl, rfl, rfl, rfl, rfl, rfl, rfl, rfl⟩

theorem sentOnly.seal {d d' : Dormer} (h : sentOnly d d') : sealKept d d' := by
  obtain ⟨_, _, _, _, _, _, _, _, rfl, -⟩ := h
  exact ⟨rfl, rfl, rfl, rfl, rfl, rfl, rfl, rfl, rfl, rfl, rfl, rfl, rfl⟩

/-- The energy account: what a step leaves or does to totals and residues (R285). -/
def registered (m : Sums) (n : Nat) (d d' : Dormer) : Prop :=
  ∀ k : Fin 32, if d.meterFault then d'.totals[k] = d.totals[k] ∧ d'.resid[k] = d.resid[k]
    else d'.resid[k] < 1000 ∧ 1000 * d'.totals[k] + d'.resid[k] = 1000 * d.totals[k] + d.resid[k] +
      (feederAdds d m n (k / 8)).getD (k % 8) 0

/-- What registering a step depends on. -/
theorem feederAdds_congr {d d' : Dormer} (hm : d'.meas = d.meas) (hl : d'.load = d.load) (m : Sums) (n f : Nat) :
    feederAdds d' m n f = feederAdds d m n f := by
  unfold feederAdds energy reactive apparent apparentRaw registers sumVi sumVhi sqI loadStep sqI
  rw [hm, hl]

theorem ivlOnly_stepFlags (b : Bool) (d : Dormer) : ivlOnly d (stepFlags b d) :=
  ((((ivlOnly_flag _ _ _).trans (ivlOnly_flag _ _ _)).trans (ivlOnly_flag _ _ _)).trans (ivlOnly_flag _ _ _))

theorem register_eq (d : Dormer) (m : Sums) (n : Nat) :
    ∃ t r i x, register d m n = { d with totals := t, resid := r, seenImp := i, seenExp := x } ∧
      ∀ k : Fin 32, r[k] < 1000 ∧ 1000 * t[k] + r[k] = 1000 * d.totals[k] + d.resid[k] + (feederAdds d m n (k / 8)).getD (k % 8) 0 :=
  ⟨_, _, _, _, rfl, fun k => by simp only [Fin.getElem_fin, Vector.getElem_ofFn]; omega⟩

theorem stepMeter_spec (m : Sums) (n tag : Nat) (d : Dormer) :
    registered m n d (stepMeter m n tag d) ∧ sealKept d (stepMeter m n tag d) ∧
    (stepMeter m n tag d).log = d.log ∧ (stepMeter m n tag d).stepNo = d.stepNo ∧ (stepMeter m n tag d).halted = d.halted ∧
    (stepMeter m n tag d).seq = d.seq ∧ (stepMeter m n tag d).sent = d.sent ∧
    (swf profileDefault d.profile = true → swf profileDefault (stepMeter m n tag d).profile = true) := by
  by_cases h : d.meterFault = true
  · have e : stepMeter m n tag d = d := by unfold stepMeter; rw [if_pos h]
    rw [e]
    exact ⟨fun k => by rw [if_pos h]; exact ⟨rfl, rfl⟩, ⟨rfl, rfl, rfl, rfl, rfl, rfl, rfl, rfl, rfl, rfl, rfl, rfl, rfl⟩, rfl, rfl, rfl, rfl, rfl, id⟩
  · obtain ⟨p, nn, i, b, g, es, ex, v, hi, hs⟩ := (ivlOnly_roll d tag).trans (ivlOnly_stepFlags (decide (0 < d.settle)) _)
    obtain ⟨t, r, i', x', he, hk⟩ := register_eq (stepFlags (decide (0 < d.settle)) (rollIvl d tag)) m n
    have ht : ∀ k : Fin 32, r[k] < 1000 ∧ 1000 * t[k] + r[k] = 1000 * d.totals[k] + d.resid[k] + (feederAdds d m n (k / 8)).getD (k % 8) 0 := by
      intro k
      have := hk k
      rw [feederAdds_congr (d := d) (by rw [hi]) (by rw [hi])] at this
      have e1 : (stepFlags (decide (0 < d.settle)) (rollIvl d tag)).totals = d.totals := by rw [hi]
      have e2 : (stepFlags (decide (0 < d.settle)) (rollIvl d tag)).resid = d.resid := by rw [hi]
      rw [e1, e2] at this
      exact this
    rw [hi] at he
    have hm : ∃ pu, stepMeter m n tag d = { d with profile := p, newest := nn, ivl := i, bases := b, ivlFlags := g, seenImp := i', seenExp := x', ivlDue := v, totals := t, resid := r, changed := false, pulses := pu } := by
      unfold stepMeter
      rw [if_neg h]
      dsimp only
      rw [hi, he]
      exact ⟨_, rfl⟩
    obtain ⟨pu, hm⟩ := hm
    rw [hm]
    refine ⟨fun k => ?_, ⟨rfl, rfl, rfl, rfl, rfl, rfl, rfl, rfl, rfl, rfl, rfl, rfl, rfl⟩, rfl, rfl, rfl, rfl, rfl, hs⟩
    rw [if_neg h]
    exact ht k

theorem stepWatch_spec (m : Sums) (n : Nat) (d0 d : Dormer) :
    sealKept d (stepWatch m n d0 d) ∧ (stepWatch m n d0 d).totals = d.totals ∧ (stepWatch m n d0 d).resid = d.resid ∧
    (stepWatch m n d0 d).tag = d.tag ∧ (stepWatch m n d0 d).stepNo = d.stepNo ∧ (stepWatch m n d0 d).halted = d.halted ∧
    (stepWatch m n d0 d).seq = d.seq ∧ (stepWatch m n d0 d).sent = d.sent ∧ (stepWatch m n d0 d).profile = d.profile ∧
    (swf (fun _ => none) d.log = true → swf (fun _ => none) (stepWatch m n d0 d).log = true) := by
  have h := alarmOnly_supervise d m n
  unfold stepWatch
  generalize superviseLegal d m n = e at h
  obtain ⟨_, _, _, _, _, _, _, _, rfl, hs⟩ := h
  exact ⟨⟨rfl, rfl, rfl, rfl, rfl, rfl, rfl, rfl, rfl, rfl, rfl, rfl, rfl⟩, rfl, rfl, rfl, rfl, rfl, rfl, rfl, rfl, hs⟩

theorem stepLeave_spec (d : Dormer) :
    sealKept d (stepLeave d) ∧ (stepLeave d).totals = d.totals ∧ (stepLeave d).resid = d.resid ∧ (stepLeave d).tag = d.tag ∧
    (stepLeave d).stepNo = d.stepNo ∧ (stepLeave d).halted = d.halted ∧ (stepLeave d).seq = d.seq ∧ (stepLeave d).sent = d.sent ∧
    (stepLeave d).profile = d.profile ∧ (stepLeave d).log = d.log := by
  unfold stepLeave applySealed
  split <;> exact ⟨⟨rfl, rfl, rfl, rfl, rfl, rfl, rfl, rfl, rfl, rfl, rfl, rfl, rfl⟩, rfl, rfl, rfl, rfl, rfl, rfl, rfl, rfl, rfl⟩

theorem stepRun_spec (m : Sums) (n tag : Nat) (codes : List (List Int)) (d : Dormer) :
    registered m n d (stepRun m n tag codes d) ∧ sealKept d (stepRun m n tag codes d) ∧ (stepRun m n tag codes d).tag = tag ∧
    (stepRun m n tag codes d).log = d.log ∧ (stepRun m n tag codes d).stepNo = d.stepNo ∧ (stepRun m n tag codes d).halted = d.halted ∧
    (stepRun m n tag codes d).seq = d.seq ∧ (stepRun m n tag codes d).sent = d.sent ∧
    (swf profileDefault d.profile = true → swf profileDefault (stepRun m n tag codes d).profile = true) := by
  obtain ⟨a1, a2, a3, a4, a5, a6, a7, a8⟩ := stepMeter_spec m n tag d
  unfold stepRun
  generalize stepMeter m n tag d = x at *
  exact ⟨a1, a2.trans ⟨rfl, rfl, rfl, rfl, rfl, rfl, rfl, rfl, rfl, rfl, rfl, rfl, rfl⟩, rfl, a3, a4, a5, a6, a7, a8⟩

/-- What a step does before its frames. -/
theorem stepCore_spec (m : Meas) (short : Bool) (d : Dormer) :
    sealKept d (stepCore m short d).1 ∧ registered (stepSums m short d) (stepSamples m short) d (stepCore m short d).1 ∧
    (stepCore m short d).1.stepNo = d.stepNo + 1 ∧ (stepCore m short d).1.tag = stepTag m d ∧
    (stepCore m short d).1.halted = d.halted ∧ (stepCore m short d).1.seq = d.seq ∧ (stepCore m short d).1.sent = d.sent ∧
    (stepCore m short d).2.1.samples = stepSamples m short ∧ (stepCore m short d).2.1.stepNo = (d.stepNo + 1) % 2 ^ 48 ∧
    (swf profileDefault d.profile = true → swf profileDefault (stepCore m short d).1.profile = true) ∧
    (swf (fun _ => none) d.log = true → swf (fun _ => none) (stepCore m short d).1.log = true) := by
  have hq : sumsOf (stepEnter m short d) m (stepSamples m short) = stepSums m short d := rfl
  unfold stepCore
  dsimp only
  rw [hq]
  generalize stepSums m short d = q
  obtain ⟨a1, a2, a0, a3, a4, a5, a6, a7, a8⟩ :=
    stepRun_spec q (stepSamples m short) (stepTag m d) (stepCodes m (stepSamples m short)) (stepEnter m short d)
  generalize stepRun q (stepSamples m short) (stepTag m d) (stepCodes m (stepSamples m short)) (stepEnter m short d) = x at *
  obtain ⟨b1, b2, b3, b4, b5, b6, b7, b8, b9, b10⟩ := stepWatch_spec q (stepSamples m short) (stepEnter m short d) x
  generalize stepWatch q (stepSamples m short) (stepEnter m short d) x = y at *
  obtain ⟨c1, c2, c3, c4, c5, c6, c7, c8, c9, c10⟩ := stepLeave_spec (stepDips m y).1
  have e1 : sealKept d (stepEnter m short d) := ⟨rfl, rfl, rfl, rfl, rfl, rfl, rfl, rfl, rfl, rfl, rfl, rfl, rfl⟩
  have e2 : sealKept y (stepDips m y).1 := ⟨rfl, rfl, rfl, rfl, rfl, rfl, rfl, rfl, rfl, rfl, rfl, rfl, rfl⟩
  have e7 : (stepDips m y).1.stepNo = d.stepNo + 1 := b5.trans a4
  refine ⟨(((e1.trans a2).trans b1).trans e2).trans c1, fun k => ?_, c5.trans e7, c4.trans (b4.trans a0), c6.trans (b6.trans a5),
    c7.trans (b7.trans a6), c8.trans (b8.trans a7), rfl, congrArg (· % 2 ^ 48) e7, fun h => ?_, fun h => ?_⟩
  · have hk := a1 k
    have e4 : (stepDips m y).1.totals = x.totals := b2
    have e5 : (stepDips m y).1.resid = x.resid := b3
    have e6 : ∀ f, feederAdds (stepEnter m short d) q (stepSamples m short) f = feederAdds d q (stepSamples m short) f :=
      fun f => feederAdds_congr rfl rfl _ _ _
    rw [c2, c3, e4, e5]
    rw [e6] at hk
    exact hk
  · rw [c9]; show swf profileDefault y.profile = true
    rw [b9]; exact a8 h
  · rw [c10]; exact b10 (by rw [a3]; exact h)

theorem sentOnly.same {d d' : Dormer} (h : sentOnly d d') :
    d'.totals = d.totals ∧ d'.resid = d.resid ∧ d'.tag = d.tag ∧ d'.stepNo = d.stepNo ∧ d'.halted = d.halted ∧
    d'.profile = d.profile ∧ d'.log = d.log ∧ d.sent <:+ d'.sent := by
  obtain ⟨_, _, _, _, _, _, _, _, rfl, hs⟩ := h
  exact ⟨rfl, rfl, rfl, rfl, rfl, rfl, rfl, hs⟩

theorem overflowRecords_spec (d : Dormer) : ∃ e p, alarmOnly d e ∧ overflowRecords d = { e with pulses := p } := by
  unfold overflowRecords
  refine ⟨_, _, ?_, rfl⟩
  generalize List.range 4 = l
  have go : ∀ (l : List Nat) (e : Dormer), alarmOnly d e → alarmOnly d (l.foldl (fun e f =>
      let k := ((d.pulses.toList[f]?).map (·.lost)).getD 0
      if k = 0 then e else legal e 0x0107 f k 0 0) e) := by
    intro l
    induction l with
    | nil => exact fun _ h => h
    | cons i t ih =>
      intro e h
      refine ih _ ?_
      dsimp only
      split
      · exact h
      · exact h.trans (alarmOnly_legal _ _ _ _ _ _)
  exact go l d (alarmOnly.refl d)

theorem writeCopy_spec (d : Dormer) : ∃ c, writeCopy d = { d with copies := c } := ⟨_, rfl⟩

/-- What the end of a step leaves as it was: seal and session, totals and residues, number and tag; stores stay canonical. -/
structure StepKeeps (d d' : Dormer) : Prop where
  kept : sealKept d d'
  totals : d'.totals = d.totals
  resid : d'.resid = d.resid
  tag : d'.tag = d.tag
  stepNo : d'.stepNo = d.stepNo
  halted : d'.halted = d.halted
  profile : swf profileDefault d.profile = true → swf profileDefault d'.profile = true
  log : swf (fun _ => none) d.log = true → swf (fun _ => none) d'.log = true

theorem StepKeeps.trans {a b c : Dormer} (h : StepKeeps a b) (g : StepKeeps b c) : StepKeeps a c :=
  ⟨h.kept.trans g.kept, g.totals.trans h.totals, g.resid.trans h.resid, g.tag.trans h.tag, g.stepNo.trans h.stepNo,
   g.halted.trans h.halted, fun x => g.profile (h.profile x), fun x => g.log (h.log x)⟩

theorem alarmOnly.keeps {d d' : Dormer} (h : alarmOnly d d') : StepKeeps d d' := by
  have hs := h.seal
  obtain ⟨_, _, _, _, _, _, _, _, rfl, hl⟩ := h
  exact ⟨hs, rfl, rfl, rfl, rfl, rfl, id, hl⟩

theorem sentOnly.keeps {d d' : Dormer} (h : sentOnly d d') : StepKeeps d d' := by
  obtain ⟨s1, s2, s3, s4, s5, s6, s7, -⟩ := h.same
  exact ⟨h.seal, s1, s2, s3, s4, s5, fun x => by rw [s6]; exact x, fun x => by rw [s7]; exact x⟩

/-- A change of the pulses, the state copies and the flags of the open interval alone. -/
theorem StepKeeps.side (d : Dormer) (p : Vector PulseOut 4) (c : Vector (Option StateCopy) 2) (g : Nat) :
    StepKeeps d { d with pulses := p, copies := c, ivlFlags := g } :=
  ⟨⟨rfl, rfl, rfl, rfl, rfl, rfl, rfl, rfl, rfl, rfl, rfl, rfl, rfl⟩, rfl, rfl, rfl, rfl, rfl, id, id⟩

theorem stepCourseEnd_keeps (d : Dormer) : StepKeeps d (stepCourseEnd d) := by
  unfold stepCourseEnd
  split
  · obtain ⟨e, p, he, hp⟩ := overflowRecords_spec d
    obtain ⟨c, hc⟩ := writeCopy_spec (overflowRecords d)
    rw [hc, hp]
    exact he.keeps.trans (StepKeeps.side e p c e.ivlFlags)
  · exact StepKeeps.side d d.pulses d.copies d.ivlFlags

theorem flush_keeps (d : Dormer) : StepKeeps d (flush d) := by
  unfold flush
  obtain ⟨c, hc⟩ := writeCopy_spec (({ d with pulses := d.pulses.map pulseCut } : Dormer).flag IvlFlag.powerFail true)
  rw [hc]
  exact StepKeeps.side d _ c _

/-- The frames that follow a step's SNAPSHOT, and the SNAPSHOT among what is sent. -/
theorem sendStep_spec (h : DmrHeader) (sn : SnapBody) (d : Dormer) :
    StepKeeps d (sendOthers h (sendFrame h (.snapshot sn) d)) ∧
    ∃ f : DmrFrame, f.octets d.kDl ∈ (sendOthers h (sendFrame h (.snapshot sn) d)).sent ∧ f.body = .snapshot sn ∧
      f.stepNo = h.stepNo ∧ f.samples = h.samples := by
  have hs := sentOnly_others h (sendFrame h (.snapshot sn) d)
  refine ⟨(sentOnly_frame h (.snapshot sn) d).keeps.trans hs.keeps, ?_⟩
  exact ⟨{ stepNo := h.stepNo, samples := h.samples, flags := h.flags, tagSec := h.tagSec, tagSlot := h.tagSlot, vstate := h.vstate,
           sagSwell := h.sagSwell, feeders := h.feeders, openCt := h.openCt, noload := h.noload, reverse := h.reverse, freq := h.freq,
           seq := d.seq % 2 ^ 32, body := .snapshot sn }, hs.same.2.2.2.2.2.2.2.mem (List.mem_cons_self ..), rfl, rfl, rfl⟩

/-- A step's end and the flush of a dormer that runs (R285, R299). -/
theorem stepEnd_spec (m : Meas) (short : Bool) (d : Dormer) (h : d.halted = false) :
    ∃ r, (if short then supplyWarning m d else stepEnd m d) = r ∧ r.halted = short ∧ sealKept d r ∧
      registered (stepSums m short d) (stepSamples m short) d r ∧ r.stepNo = d.stepNo + 1 ∧ r.tag = stepTag m d ∧
      (∃ f : DmrFrame, f.octets d.kDl ∈ r.sent ∧ f.body = .snapshot (stepCore m short d).2.2 ∧ f.stepNo = (d.stepNo + 1) % 2 ^ 48 ∧
        f.samples = stepSamples m short) ∧
      (swf profileDefault d.profile = true → swf profileDefault r.profile = true) ∧
      (swf (fun _ => none) d.log = true → swf (fun _ => none) r.log = true) := by
  obtain ⟨c1, c2, c3, c4, c5, c6, c7, c8, c8', c9, c10⟩ := stepCore_spec m short d
  have done : ∀ (e r : Dormer), StepKeeps (stepCore m short d).1 e →
      r = { sendOthers (stepCore m short d).2.1 (sendFrame (stepCore m short d).2.1 (.snapshot (stepCore m short d).2.2) e) with
            halted := short } → r.halted = short ∧ sealKept d r ∧
      registered (stepSums m short d) (stepSamples m short) d r ∧ r.stepNo = d.stepNo + 1 ∧ r.tag = stepTag m d ∧
      (∃ f : DmrFrame, f.octets d.kDl ∈ r.sent ∧ f.body = .snapshot (stepCore m short d).2.2 ∧ f.stepNo = (d.stepNo + 1) % 2 ^ 48 ∧
        f.samples = stepSamples m short) ∧
      (swf profileDefault d.profile = true → swf profileDefault r.profile = true) ∧
      (swf (fun _ => none) d.log = true → swf (fun _ => none) r.log = true) := by
    intro e r he hr
    obtain ⟨k1, f, hf1, hf2, hf3, hf4⟩ := sendStep_spec (stepCore m short d).2.1 (stepCore m short d).2.2 e
    have k := he.trans k1
    have hk : e.kDl = d.kDl := (he.kept.2.2.2.2.2.2.2.2.2.2.2.1).trans c1.2.2.2.2.2.2.2.2.2.2.2.1
    rw [hk] at hf1
    subst hr
    refine ⟨rfl, c1.trans k.kept, fun i => ?_, k.stepNo.trans c3, k.tag.trans c4, ⟨f, hf1, hf2, hf3.trans c8', hf4.trans c8⟩,
      fun w => k.profile (c9 w), fun w => k.log (c10 w)⟩
    have := c2 i
    rw [← k.totals, ← k.resid] at this
    exact this
  have hc : ¬ d.halted = true := by rw [h]; decide
  cases short
  · have e : stepEnd m d = sendOthers (stepCore m false d).2.1 (sendFrame (stepCore m false d).2.1
        (.snapshot (stepCore m false d).2.2) (stepCourseEnd (stepCore m false d).1)) := by
      unfold stepEnd; rw [if_neg hc]
    have k := (stepCourseEnd_keeps (stepCore m false d).1)
    have hh := (sendStep_spec (stepCore m false d).2.1 (stepCore m false d).2.2 (stepCourseEnd (stepCore m false d).1)).1.halted
    have eta : ∀ x : Dormer, x.halted = false → x = { x with halted := false } := by
      rintro ⟨⟩ hx
      cases hx
      rfl
    refine ⟨_, rfl, done _ _ k ?_⟩
    rw [if_neg (by decide), e]
    exact eta _ (hh.trans (k.halted.trans (c5.trans h)))
  · have e : supplyWarning m d = { sendOthers (stepCore m true d).2.1 (sendFrame (stepCore m true d).2.1 (.snapshot (stepCore m true d).2.2)
        (flush (stepCourseEnd (stepCore m true d).1))) with halted := true } := by
      unfold supplyWarning; rw [if_neg hc]
    refine ⟨_, rfl, done _ _ ((stepCourseEnd_keeps _).trans (flush_keeps _)) ?_⟩
    rw [if_pos rfl, e]

end Sys2Proof.Machine
end

