-- ==== Sys2Proof/Tests/Slice0.lean ====
section
/-!
SUPPORT. Tests: the checks of well-formedness, states that meet the hypotheses of the statements, and small steps worked out by hand
from the spec.
-/
namespace Sys2Proof.Tests
open Sys2Proof Sys2Proof.Machine
set_option Elab.async false

/-! ### Small states -/

/-- A state with a main side, the dormer at reset, and nothing waiting. -/
def st (m : Main) : State := { main := m, dmr := Dormer.reset, pending := [] }

/-- A main side in a mode and an executor state. -/
def up (mode ex : Nat) : Main := (Main.reset.put F.PWR_MODE_MODE mode).put F.YLM_STATUS_EXEC_STATE ex

/-- The bytes of a little-endian number. -/
def num (o n v : Nat) : List (Nat × Byte) := (List.range n).map fun i => (o + i, BitVec.ofNat 8 (v / 256 ^ i))

/-- A bundle with a directory of sections (type, offset, length, count), and numbers (offset, bytes, value). -/
def plan (secs : List (Nat × Nat × Nat × Nat)) (xs : List (Nat × Nat × Nat)) : Img :=
  num 21 1 secs.length ++
  (secs.zipIdx.flatMap fun p => num (64 + 48 * p.2) 2 p.1.1 ++ num (68 + 48 * p.2) 4 p.1.2.1 ++ num (72 + 48 * p.2) 4 p.1.2.2.1 ++
    num (76 + 48 * p.2) 4 p.1.2.2.2) ++ xs.flatMap fun x => num x.1 x.2.1 x.2.2

/-- A bank holds a bundle, in a state of R60. -/
def bank (k st : Nat) (b : Img) (m : Main) : Main :=
  { m.put F.YLM_BANK_STATE_STATE st k with ylm := { m.ylm with banks := vmod m.ylm.banks k fun x => { x with img := b } } }

/-- A bundle runs from bank 0. -/
def runs (b : Img) (m : Main) : Main := { bank 0 5 b m with ylm := { (bank 0 5 b m).ylm with run := some 0 } }

/-- CMD ring 0 runs with one descriptor available. -/
def ringed (m : Main) : Main := (m.put F.HST_RING_STATUS_STATE 1).put F.HST_RING_DB_LIMIT 1

/-- A descriptor as read, with data. -/
def desc (op param addr : Nat) (data : List Byte) : Desc :=
  ⟨[1, 0] ++ leBytes 2 op ++ leBytes 4 7 ++ leBytes 4 data.length ++ leBytes 4 param ++ leBytes 8 addr ++ zeros 8, [], data⟩
/-- One that is a byte short. -/
def cutDesc : Desc := ⟨(desc 0 0 0 []).raw.drop 1, [], []⟩

/-- A transmit cell word: an action on channel 1, of one slot, by seat 0. -/
def word (action : Nat) : Nat := action * 2 ^ 28 + 2 ^ 16
def cell (w start : Nat) (f : Option TlpFrame) : Cell :=
  { word := w, start := start, shadow := false, frame := f, entries := [], idle := false, heard := false }
def tlp (typ : Nat) : TlpFrame :=
  { typ := typ, hops := 0, copy := 0, epoch := 0, spar := 1, sender := 0, courseLo := 0, originSlot := 0, body := [], mic := ⟨.epoch 5 0, 0⟩ }
/-- A cell is fetched for a lane. -/
def fetched (l : Nat) (c : Cell) (m : Main) : Main := { m with ylm := { m.ylm with next := vmod m.ylm.next l fun _ => some c } }
/-- The slot last begun. -/
def slot (n : Nat) (m : Main) : Main := { m with ylm := { m.ylm with slot := n } }

/-- One section of cells whose slot 1 holds a word on lane 0, and channel 1 of every lane present at 868 MHz. -/
def oneCell (w : Nat) : Img := plan [(1, 1000, 3200, 1), (2, 5000, 3600, 3600), (7, 10000, 32768, 0)]
  [(1000 + 32, 4, w), (10016, 1, 0x10), (10017, 1, 28), (10020, 4, 868300)]

/-! ### Ill-formed operands -/

theorem test_ill_course : (Instr.courseBoundary (2 ^ 48) 0 0).wellFormed = false ∧ (Instr.courseBoundary 0 256 0).wellFormed = false ∧
    (Instr.courseBoundary 0 0 (2 ^ 48)).wellFormed = false := by decide
theorem test_ill_late : (Instr.fillDeadline 256).wellFormed = false := by decide
theorem test_ill_us : (Instr.packetRelease none none 10000).wellFormed = false ∧ (Instr.packetRelease (some (0, 2 ^ 40)) none 0).wellFormed = false := by
  decide
theorem test_ill_slot : (Instr.slotBoundary (100 * 2 ^ 48)).wellFormed = false := by decide
theorem test_ill_ntc : (Instr.eavTick (List.replicate 9 0)).wellFormed = false := by decide
theorem test_ill_ain : (Instr.ainConversion 65536 0).wellFormed = false ∧ (Instr.ainConversion 0 65536).wellFormed = false := by decide
def ridge : RidgeFrame := ⟨1, 32, 2, 1, false, false, 1, 1, [0x2F, 0, 0, 0]⟩
theorem test_ill_ridge : (Instr.heartbeatRx { ridge with dst := 4096 }).wellFormed = false ∧ (Instr.tunnel { ridge with ttl := 256 }).wellFormed = false ∧
    (Instr.reset { ridge with seq := 2 ^ 32 }).wellFormed = false ∧ (Instr.imgCall 0 { ridge with boot := 65536 }).wellFormed = false ∧
    (Instr.imgFetch 0 { ridge with src := 4096 }).wellFormed = false ∧ (Instr.imgDone 0 { ridge with payload := [] }).wellFormed = false ∧
    (Instr.ligger { ridge with payload := zeros 1477 }).wellFormed = false ∧ (Instr.detectFwdRx ridge 10000).wellFormed = false ∧
    (Instr.ridgeFrameRx 0 (.good (zeros 59))).wellFormed = false ∧ (Instr.ridgeFrameRx 0 (.good (zeros 1515))).wellFormed = false := by decide +kernel
theorem test_ill_frame : (Instr.rxFrame 0 ⟨zeros 512, 0, 0, false, true, false⟩).wellFormed = false ∧
    (Instr.rxFrame 0 ⟨[], 0, 256, false, true, false⟩).wellFormed = false ∧ (Instr.rxFrame 0 ⟨[], 100 * 2 ^ 48, 0, false, true, false⟩).wellFormed = false := by
  decide +kernel
def step0 : Meas := ⟨[], none, none, [], [], 0, false⟩
theorem test_ill_step : (Instr.dormerStepEnd { step0 with codes := List.replicate 89 (List.replicate 20 0) }).wellFormed = false ∧
    (Instr.dormerStepEnd { step0 with codes := [List.replicate 19 0] }).wellFormed = false ∧
    (Instr.dormerSupplyWarning { step0 with codes := [List.replicate 20 (2 ^ 23)] }).wellFormed = false ∧
    (Instr.dormerStepEnd { step0 with mark := some (0, 100) }).wellFormed = false ∧ (Instr.dormerPowerUp (2 ^ 32) 0).wellFormed = false := by decide +kernel
def start0 : StartIn := ⟨false, 0, false, 0⟩
theorem test_ill_sub : (Instr.fbr 32768).wellFormed = false ∧ (Instr.syncStep 32768).wellFormed = false ∧ (Instr.commit 32768).wellFormed = false ∧
    (Instr.trimWindowEnd 32768 0).wellFormed = false := by decide
theorem test_ill_start : (Instr.por { start0 with sub := 32768 }).wellFormed = false ∧ (Instr.bor { start0 with tamp := 16 } true false).wellFormed = false ∧
    (Instr.watchdogExpiry { start0 with tamp := 16 }).wellFormed = false ∧ (Instr.tamperInput 0 true { start0 with tamp := 16 }).wellFormed = false ∧
    (Instr.cmsEnd 0 { start0 with tamp := 16 }).wellFormed = false ∧ (Instr.cmsEnd (2 ^ 32) start0).wellFormed = false := by decide
theorem test_ill_stamp : (Instr.ptpMessageTx 0 16 0 0 0).wellFormed = false ∧ (Instr.ptpMessageTx 0 0 65536 0 0).wellFormed = false ∧
    (Instr.ptpMessageTx 0 0 0 (2 ^ 48) 0).wellFormed = false ∧ (Instr.ptpMessageTx 0 0 0 0 1000000000).wellFormed = false := by decide
theorem test_ill_ptp : (Instr.ptpMessageRx (.announce 0 256 0 [0, 0, 0, 0, 0, 0] 0 false false false)).wellFormed = false := by decide
theorem test_ill_desc : cutDesc.wellFormed = false ∧ ({ desc 0 0 0 [] with list := [⟨[]⟩] } : Desc).wellFormed = false ∧
    ({ desc 0 0 0 [] with data := [1] } : Desc).wellFormed = false ∧ (desc 0 0 0 [1]).wellFormed = true := by decide +kernel
theorem test_ill_reads : (Instr.nop 0 cutDesc).wellFormed = false ∧ (Instr.doorbell 0 (2 ^ 32) []).wellFormed = false ∧ (Instr.doorbell 0 0 [cutDesc]).wellFormed = false ∧
    (Instr.ringEnable 0 [cutDesc]).wellFormed = false ∧ (Instr.ready [(32, [])]).wellFormed = false ∧ (Instr.poison 0 (some cutDesc)).wellFormed = false ∧
    (Instr.keyZeroise 0 (desc 0 0 0 []) { start0 with tamp := 16 }).wellFormed = false := by decide +kernel
theorem test_ill_via : (Instr.planArm (.pair (2 ^ 32) 0 0)).wellFormed = false ∧ (Instr.planArm (.confirm (2 ^ 256))).wellFormed = false ∧
    (Instr.planDisarm (.pair 0 (2 ^ 64))).wellFormed = false ∧ (Instr.redResync (.host 0 cutDesc)).wellFormed = false := by decide +kernel
theorem test_ill_value : (Instr.almCfgWrite 0 (2 ^ 32)).wellFormed = false ∧ (Instr.go (2 ^ 32)).wellFormed = false ∧
    (Instr.bucketRefill 65536).wellFormed = false := by decide
theorem test_ill_register : (Instr.registerWrite (.bar0 2 0) [] start0).wellFormed = false ∧
    (Instr.registerWrite (.bar0 0x400000 0) [] start0).wellFormed = false ∧ (Instr.registerWrite (.bar0 0 (2 ^ 32)) [] start0).wellFormed = false ∧
    (Instr.registerWrite (.read 0x400000) [] start0).wellFormed = false ∧ (Instr.registerWrite .narrow [(0, [cutDesc])] start0).wellFormed = false ∧
    (Instr.registerWrite .narrow [] { start0 with sub := 32768 }).wellFormed = false := by decide +kernel


/-! ### Premises: the executor and the lanes -/

/-- Every working key is present. -/
def keyed (m : Main) : Main := { m with key.work := Vector.replicate 4 (some ⟨1, 5⟩) }
/-- Registers put one after another: field, value, indices. -/
def puts (xs : List (Field × Nat × Nat)) (m : Main) : Main := xs.foldl (fun m x => m.put x.1 x.2.1 x.2.2) m

theorem test_premises_course : awake Main.reset = false ∧ awake (up 3 3) = true ∧ (runImg (runs (oneCell 0) (up 3 3))).isSome = true ∧
    awake (runs (oneCell 0) (up 3 3)) = true ∧
    awake ({ puts [(F.YLM_CTRL_EVT26_EN, 1, 0)] (up 3 3) with ylm.underrun := true } : Main) = true ∧
    ({ puts [(F.YLM_CTRL_EVT26_EN, 1, 0)] (up 3 3) with ylm.underrun := true } : Main).bit F.YLM_CTRL_EVT26_EN = true := by decide +kernel

theorem test_premises_fetch : runImg Main.reset = none ∧ cellsRun (runs (oneCell 0) (up 3 1)) = false ∧ cellsRun (runs (oneCell 0) (up 3 2)) = true ∧
    cellsRun (runs (oneCell 0) (up 3 3)) = true ∧ (runImg (runs (oneCell 0) (up 3 3))).isSome = true ∧
    (let m := { runs (oneCell 0) (up 3 3) with ylm.slot := 99 };
      (m.slotNow + 1) % 100 = 0 ∧ switchDue m ((m.slotNow + 1) / 100) = false ∧ rollbackDue m = false) := by decide +kernel

/-- A running plan with its own cell fetched for lane 0. -/
def own (c : Cell) (m : Main) : Main := fetched 0 c (runs (oneCell 0) m)

theorem test_premises_deadline :
    (runImg (own (cell (word 1) 1 none) (up 3 3))).isSome = true ∧ ownCell (own (cell (word 1) 1 none) (up 3 3)) 0 = some (cell (word 1) 1 none) ∧
    CellW.action (word 1) ≠ 8 ∧ (own (cell (word 1) 1 none) (up 3 3)).key.work[0] = none ∧
    (own (cell (word 1) 1 none) (keyed (up 3 3))).key.work[0] ≠ none ∧ (own (cell (word 1) 1 none) (keyed (up 3 3))).bit F.RED_STATUS_MUTED = false ∧
    ownCell (own (cell (word 1) 1 (some (tlp 2))) (keyed (up 3 3))) 0 = some (cell (word 1) 1 (some (tlp 2))) ∧
    ownCell (own (cell (word 8) 1 none) (keyed (up 3 3))) 0 = some (cell (word 8) 1 none) ∧ CellW.action (word 8) = 8 ∧
    ownCell (own (cell (word 1) 1 none) (up 3 3)) 1 = none := by decide +kernel

/-- A frame in its cell on lane 0, in the slot that begins. -/
def sends (c : Cell) (ex : Nat) : Main := { own c (keyed (up 3 ex)) with ylm.slot := 1 }

theorem test_premises_cell :
    (up 3 3).ylm.next[0] = none ∧ (sends (cell (word 1) 2 none) 3).ylm.next[0] = some (cell (word 1) 2 none) ∧ (2 : Nat) ≠ (sends (cell (word 1) 2 none) 3).slotNow ∧
    (let c := cell (word 1) 1 (some (tlp 2));
      let m := sends c 3;
      let b : Main := { m with ylm := { m.ylm with next := m.ylm.next.set 0 none, cells := m.ylm.cells.set 0 (some c) } };
      m.slotNow = 1 ∧ lanesOn m = true ∧ (laneOf m 0).skip = false ∧ isTx (word 1) = true ∧ m.bit F.RED_STATUS_MUTED = false ∧
      collides b (oneCell 0) 0 c (airtime (chanAt (oneCell 0) 0 (CellW.chan (word 1))) (psduLen 0 16)) = false ∧
      (txPlan b (oneCell 0) (chanAt (oneCell 0) 0 (CellW.chan (word 1))) 0 (!(laneOf m 0).txSeen)).isSome = true ∧ runImg m = some (oneCell 0)) ∧
    isRx (word 6) = true ∧ lanesOn (sends (cell (word 6) 1 none) 3) = true ∧
    ({ cell (word 1) 1 none with idle := true } : Cell).shadow = false ∧
    (let m := (sends (cell (word 1) 1 (some (tlp 2))) 3).put F.PWR_MODE_MODE 7;
      cellsRun m = true ∧ m.mode = Md.hold) := by decide +kernel

theorem test_premises_slot : awake Main.reset = false ∧ awake (up 3 3) = true ∧
    ({ up 3 3 with ylm.cells := (up 3 3).ylm.cells.set 0 (some (cell (word 6) 1 none)) } : Main).ylm.cells[0] = some (cell (word 6) 1 none) ∧
    (up 3 3).ylm.deferred = false ∧ Ex.listen ≤ (up 3 3).exec ∧ (up 3 3).ctx.inputs = [] ∧
    ({ up 3 3 with wav.ctxs := (up 3 3).wav.ctxs.set 7 { WaveCtx.free with state := 3, endSlot := 5 } } : Main).wav.ctxs[7].state = 3 := by decide +kernel

theorem test_premises_lanes :
    (up 3 3).ylm.next[0] = none ∧ (sends (cell (word 1) 1 none) 3).ylm.next[0].isSome = true ∧ lanesOn (sends (cell (word 1) 1 none) 3) = true ∧
    laneState (up 3 3) 3 ≠ 3 ∧ laneState (setLane 3 3 (up 3 3)) 3 = 3 ∧ (setLane 3 3 (up 3 3)).get F.TLR_LANE_STATUS_ANT_TX 3 = 0 ∧
    (let m := withLane 3 (fun g => { g with notOk := #v[2, 2], goodProbes := 2, wasProbe := true, lowRun := 2, setPower := 30 }) (setLane 3 3 (up 3 3));
      laneState m 3 = 3 ∧ 2 ≤ m.lanes[3].notOk[0] ∧ 2 ≤ m.lanes[3].notOk[1] ∧ m.lanes[3].wasProbe = true ∧ 2 ≤ m.lanes[3].goodProbes ∧
      23 + 6 < m.lanes[3].setPower ∧ ¬ 24 + 6 < m.lanes[3].setPower ∧ 2 ≤ m.lanes[3].lowRun) ∧
    laneState (setLane 4 3 (up 3 3)) 4 = 3 ∧
    (let m := withLane 7 (fun g => { g with limitRun := 2, lowRun := 2, goodProbes := 2 }) (setLane 7 3 (up 3 3));
      laneState m 7 = 3 ∧ m.lanes[7].wasProbe = false ∧ 2 ≤ m.lanes[7].limitRun ∧ 2 ≤ m.lanes[7].lowRun) ∧
    (let m := withLane 7 (fun g => { g with goodProbes := 2, wasProbe := true }) (setLane 7 3 (up 3 3));
      laneState m 7 = 3 ∧ m.lanes[7].wasProbe = true ∧ 2 ≤ m.lanes[7].goodProbes) ∧
    (puts [(F.TLR_CTRL_EVT_EN, 1, 0)] (up 3 3)).bit F.TLR_CTRL_EVT_EN = true := by decide +kernel

/-- Lane 0 receives in slot 1. -/
def hears : Main := runs (oneCell (word 6)) (up 3 3)

theorem test_premises_rx : runImg Main.reset = none ∧ lanesOn (runs (oneCell 0) (up 7 3)) = false ∧ lanesOn hears = true ∧
    runImg hears = some (oneCell (word 6)) ∧ isRx (cellAt (oneCell (word 6)) 1 0).2 = true ∧ isRx (cellAt (oneCell (word 6)) 2 0).2 = false ∧
    isTx (cellAt (oneCell (word 6)) 2 0).2 = false ∧ hears.ylm.cells[0] = none ∧
    (isTx (cellAt (oneCell (word 1 + 2 ^ 24)) 1 0).2 = true ∧ CellW.seat (word 1 + 2 ^ 24) ≠ hears.get F.RED_STATUS_SEAT) ∧
    goesOn (oneCell (word 6)) 0 (cellAt (oneCell (word 6)) 1 0) = false ∧
    hears.ctx.gutters[0].stages.length + packetWords 16 ≤ 128 := by decide +kernel

/-! ### Premises: the plan -/

/-- Puts any field to a value. -/
def set1 (f : Field) (v : Nat) (m : Main) : Main := m.put f v

theorem test_premises_plan_write :
    accepts ⟨planWriteRow false, false, fun d => 4 ≤ d.length && d.length ≤ 1048576, 0xF, 0, gates [rollbackGate, planWriteGate (desc 0x0101 2 0 [1, 2, 3, 4])]⟩
      (ringed (up 3 3)) 0 (desc 0x0101 2 0 [1, 2, 3, 4]) ∧
    accepts ⟨planWriteRow true, (desc 0x0101 9 0 []).length == 0, fun d => d.length == 0, 0xF, 0, gates [rollbackGate, planWriteGate (desc 0x0101 9 0 [])]⟩
      (bank 1 1 [] (ringed (up 3 3))) 0 (desc 0x0101 9 0 []) := by
  unfold accepts takes; decide +kernel

/-- A plan runs from bank 0, and bank 1 holds a verified one of epoch 1. -/
def verifiedOne (m : Main) : Main := (bank 1 2 [(6, 1)] (runs (oneCell 0) m)).put F.YLM_BANK_STATE_EPOCH 1 1

theorem test_premises_plan_arm :
    accepts ⟨isOp 0x0102, true, fun d => d.length == 0, 1, 2 ^ 48 - 1, planGate⟩ (verifiedOne (ringed (up 3 3))) 0 (desc 0x0102 1 10 []) ∧
    (let m := verifiedOne (ringed (up 3 3));
      bankState m 1 = Bk.verified ∧ m.slotNow + 1000 ≤ 100 * 10 ∧ Hdr.validFrom (bankOf m 1).img ≤ 10 ∧ m.ylm.run.isSome = true ∧
      bankEpoch m 1 ≠ m.get F.YLM_STATUS_RUN_EPOCH ∧ (∀ k : Fin 2, bankState m k ≠ Bk.probation) ∧ bankState m (1 - 1) ≠ Bk.armed ∧
      m.ylm.rollback = none ∧ m.bit F.RED_STATUS_PAIRED = false) ∧
    accepts ⟨isOp 0x0102, true, fun d => d.length == 0, 1, 2 ^ 48 - 1, planGate⟩ (verifiedOne (ringed (up 3 3))) 0 (desc 0x0102 1 9 []) ∧
    ¬ (verifiedOne (ringed (up 3 3))).slotNow + 1000 ≤ 100 * 9 := by
  unfold accepts takes; decide +kernel

/-- Bank states. -/
def banked (x y : Nat) (m : Main) : Main := (m.put F.YLM_BANK_STATE_STATE x 0).put F.YLM_BANK_STATE_STATE y 1

theorem test_premises_confirm : bankIn (banked 5 3 (up 3 3)) Bk.armed = some 1 ∧ bankIn (up 3 3) Bk.armed = none := by decide +kernel

theorem test_premises_plan_moves :
    accepts (.plain 0x0103 1 planGate) (banked 5 3 (ringed (up 3 3))) 0 (desc 0x0103 1 0 []) ∧ bankState (banked 5 3 (up 3 3)) 1 = Bk.armed ∧
    bankState (banked 5 2 (up 3 3)) 1 ≠ Bk.armed ∧
    accepts (.plain 0x0104 0 planGate) (banked 6 4 (runs (oneCell 0) (ringed (up 3 3)))) 0 (desc 0x0104 0 0 []) ∧
    accepts (.plain 0x0105 0 planGate) (banked 6 4 (runs (oneCell 0) (ringed (up 3 3)))) 0 (desc 0x0105 0 0 []) ∧
    (let m := banked 6 4 (runs (oneCell 0) (ringed (up 3 3)));
      bankIn m Bk.probation = some 1 ∧ bankIn m Bk.previous = some 0 ∧ m.ylm.run.isSome = true) ∧
    accepts (.plain 0x0104 0 planGate) (banked 5 2 (ringed (up 3 3))) 0 (desc 0x0104 0 0 []) ∧
    accepts (.plain 0x0105 0 planGate) (banked 5 2 (ringed (up 3 3))) 0 (desc 0x0105 0 0 []) ∧
    bankIn (banked 5 2 (up 3 3)) Bk.probation = none ∧ bankIn (banked 5 2 (up 3 3)) Bk.previous = none := by
  unfold accepts takes; decide +kernel

/-- A command's checks but its gate hold, and it is taken. -/
def formed (k : CmdKind) (m : Main) (d : Desc) : Prop := takes k.row m 0 d ∧ cmdCheck k d (walkOf k m d) (atCheck k m 0 d) = none

theorem test_premises_rollback_pending :
    (let m : Main := { ringed (up 3 3) with ylm.rollback := some (5, true) };
      m.ylm.rollback.isSome = true ∧ activeGate m = none ∧
      formed (.plain 0x0103 1 openGate) m (desc 0x0103 1 0 []) ∧ formed (.plain 0x0104 0 openGate) m (desc 0x0104 0 0 []) ∧
      formed (.plain 0x0105 0 openGate) m (desc 0x0105 0 0 []) ∧
      formed ⟨isOp 0x0102, true, fun d => d.length == 0, 1, 2 ^ 48 - 1, openGate⟩ m (desc 0x0102 1 9 []) ∧
      formed ⟨planWriteRow true, true, fun d => d.length == 0, 0xF, 0, openGate⟩ m (desc 0x0101 9 0 []) ∧
      formed ⟨planWriteRow false, false, fun d => 4 ≤ d.length && d.length ≤ 1048576, 0xF, 0, openGate⟩ m (desc 0x0101 2 0 [1, 2, 3, 4])) := by
  unfold formed takes; decide +kernel

/-- One criterion that auto-fails in bank 1, whose window of 10 courses has just ended, and a stored probation of 60. -/
def crit : Img := num 18 2 60 ++ plan [(8, 1000, 16, 1)] [(1000, 1, 1), (1001, 1, 2), (1002, 2, 10), (1004, 4, 1), (1010, 1, 0xFF), (1011, 1, 1)]
def probing (x : Nat) (remain : Nat) (img : Img) : Main :=
  (banked x 4 { bank 1 4 img (up 3 3) with ylm := { (bank 1 4 img (up 3 3)).ylm with run := some 1 } }).put F.YLM_PROBATION_REMAIN remain

theorem test_premises_arm_deadlines :
    (let m : Main := { banked 5 3 (up 3 3) with ylm.idle := some (1, false) };
      m.ylm.idle = some (1, false) ∧ bankState m 1 = Bk.armed ∧ bankIn m Bk.armed = some 1 ∧ 100 * switchAt m ≤ m.slotNow + 100) ∧
    (let m : Main := { banked 5 2 (up 3 3) with ylm.idle := some (1, false) }; bankState m 1 ≠ Bk.armed ∧ bankIn m Bk.armed = none) ∧
    (let m := set1 F.RED_STATUS_PAIRED 1 (banked 5 3 (up 3 3));
      m.bit F.RED_STATUS_PAIRED = true ∧ m.ylm.armNoPlan = false ∧ 100 * switchAt m ≤ m.slotNow + 200 ∧ m.ylm.pairConf = false) := by decide +kernel

theorem test_premises_probation :
    (let m := probing 6 50 crit; m.ylm.run = some 1 ∧ bankState m 1 = Bk.probation ∧ m.ylm.rollback = none ∧ (firstFailing m (bankOf m 1).img none).isSome = true ∧
      (bankIn m Bk.previous).isSome = true) ∧
    (let m := probing 2 50 crit; (firstFailing m (bankOf m 1).img none).isSome = true ∧ bankIn m Bk.previous = none) ∧
    (let m := probing 6 51 crit; m.ylm.run = some 1 ∧ bankState m 1 = Bk.probation ∧ firstFailing m (bankOf m 1).img none = none) ∧
    (let m := probing 6 0 []; m.ylm.run = some 1 ∧ bankState m 1 = Bk.probation ∧ firstFailing m (bankOf m 1).img none = none ∧
      m.get F.YLM_PROBATION_REMAIN = 0) ∧
    (up 3 3).ylm.rollback = none := by decide +kernel

theorem test_premises_switch :
    (let m : Main := { banked 5 3 (runs (oneCell 0) (up 3 3)) with ylm := { (runs (oneCell 0) (up 3 3)).ylm with idle := some (1, true), pairConf := true } };
      bankIn m Bk.armed = some 1 ∧ switchDue m m.course = true ∧ m.ylm.run = some 0 ∧ bankState m 0 = Bk.running) ∧
    bankIn (up 3 3) Bk.armed = none ∧ (up 3 3).ylm.rollback = none ∧
    (let m : Main := { banked 6 4 (up 3 3) with ylm := { (up 3 3).ylm with run := some 1, rollback := some (0, false) } };
      m.ylm.rollback = some (0, false) ∧ m.ylm.run = some 1 ∧ bankIn m Bk.previous = some 0) ∧
    (let m : Main := { up 3 3 with ylm.rollback := some (1, false) }; m.ylm.rollback = some (1, false)) := by decide +kernel

theorem test_premises_load :
    (up 3 3).exec ≠ Ex.loading ∧ (up 3 1).exec = Ex.loading ∧ (up 3 1).ylm.run = none ∧ bankIn (up 3 1) Bk.probation = none ∧ bankIn (up 3 1) Bk.running = none ∧
    (let m := banked 6 5 (up 3 1); m.ylm.run = none ∧ bankIn m Bk.running = some 1 ∧ bankIn m Bk.previous = some 0) ∧
    (let m := banked 2 4 (up 3 1); bankIn m Bk.probation = some 1 ∧ bankIn m Bk.previous = none) ∧
    (up 3 3).exec ≠ Ex.listen ∧ (slot 199 (up 3 2)).exec = Ex.listen ∧ (slot 199 (up 3 2)).course < (up 3 2).ylm.listenAt + 2 ∧
    (up 3 2).ylm.listenAt + 2 ≤ (slot 200 (up 3 2)).course ∧ paired (up 3 2) = false ∧
    hostReaches 4 (up 3 3) ∧ (up 2 3).mode = Md.commission ∧ (up 3 3).mode ≠ Md.commission := by unfold hostReaches; decide +kernel


/-! ### Premises: intake, contexts and waves -/

/-- A report of lantern 0, sealed under the epoch key that K_NET 1 gives. -/
def up8 : TlpFrame := { tlp 8 with epoch := 0, sender := 32768, body := zeros 20, mic := ⟨.epoch 1 0, 0⟩ }
/-- Lantern 0 is in the plan and joined, and has not been heard of. -/
def lit (m : Main) : Main := { m with ctx.ctx := [(0, { Ctx.blank with joined := true, inPlan := true })] }
/-- One packet waits in the gutter of lane 0. -/
def waits (o : List Byte) (m : Main) : Main := { m with ctx.gutters := m.ctx.gutters.set 0 { Gutter.empty with stages := packetStages false o 0 0 0 } }
/-- A wave table of one entry for lantern 0, and a cell for its frame in slot 1 of lane 0. -/
def waveBundle : Img := num 14 2 1 ++ plan [(1, 1000, 3200, 1), (2, 5000, 3600, 3600), (11, 50000, 65632, 1)]
  [(1000 + 32, 4, word 8), (50000, 2, 1), (50004, 4, 8), (50082, 4, 1), (115618, 1, 1), (115619, 1, 1), (115622, 2, 0xFFFF), (115626, 2, 0xFFF),
    (115629, 2, 10)]
def waved : Main := runs waveBundle (keyed (lit (up 3 3)))

theorem test_premises_intake : pickGutter (up 3 3) = none ∧ pickGutter (waits (zeros 16) waved) = some 0 ∧ waved.exec = Ex.running ∧
    runImg waved = some waveBundle ∧ (up 3 2).exec ≠ Ex.running ∧ runImg (up 3 3) = none ∧
    (((gutter (waits (zeros 16) waved) 0).upset 0 1).setMark.readPacket 76).1.any Stage.poison = true := by decide +kernel

theorem test_report_opens :
    (let p := packetOf (packetStages false up8.octets 0 0 0) 0;
      intakeFail waved waveBundle p (rxFields p) = none ∧ openRx waved p 0 = some up8 ∧ openRx waved p 1 = none) := by decide +kernel

/-- A detection of lantern 0 that the standby forwards, and its payload. -/
def seen0 (conf : Nat) : DetectFwd := ⟨0, 1, 0, 0, 0, [0, BitVec.ofNat 8 conf, 0, 0, 0, 0, 0, 0]⟩
def seenBytes (conf : Nat) : List Byte := [2, 0, 0, 0, 0, 1, 0, 0, 0, 0, 0, 0, 0, BitVec.ofNat 8 conf, 0, 0, 0, 0, 0, 0]
/-- A hand-off of one step for lantern 0, up to slot 5. -/
def handed : WStep := ⟨0, 5, 0, 0, 0, 5, false⟩
/-- A decision: kind, sequence number, slot of the decision, and the slot of its bound cell. -/
def decision (seq decSlot bindSlot : Nat) : WaveDec := ⟨0, seq, 0, 0, 0, decSlot, 0, bindSlot, 0, 0, []⟩

theorem test_premises_detect :
    detectFwdOf [] = none ∧ handoffOf [] = none ∧ decisionOf [] = none ∧ detectFwdOf (seenBytes 100) = some (seen0 100) ∧
    (let m := puts [(F.RED_STATUS_PAIRED, 1, 0), (F.RED_STATUS_ACTIVE, 1, 0)] waved;
      m.red.role ≠ 1 ∧ sparTest (ctxOf m 0).lastSpar (seen0 100).spar = 0 ∧ runImg m = some waveBundle ∧
      wavesEnabled m = true ∧ ¬ lle (seen0 100).body 1 1 < min 100 (m.get F.WAV_CTRL_CONF_MIN) ∧ wavLookup waveBundle 0 0 0 = some 0 ∧
      m.wav.ctxs[0].state = 0 ∧ ownSteps waveBundle 0 0 ≠ [] ∧ storeRoom m 1 = true ∧ bindCell m waveBundle (WEnt.lanes waveBundle 0) 0 = some (1, 0) ∧
      100 * originCourse (m.course - (m.course + 2 ^ 32 - (seen0 100).rxCourse % 2 ^ 32) % 2 ^ 32) 0 = 0) ∧
    handoffOf ([3, 1, 0, 0, 0, 0, 0, 0] ++ handoffStep handed) = some [handed] ∧
    decisionOf (decisionBytes (decision 1 2 4)) = some (decision 1 2 4) := by decide +kernel

theorem test_premises_decisions :
    runImg (slot 3 waved) = some waveBundle ∧ (decision 1 1 5).decSlot + 1 < (slot 3 waved).slotNow ∧ (slot 3 waved).slotNow ≤ (decision 1 2 4).decSlot + 1 ∧
    sparTest (slot 3 waved).wav.seq (decision 1 2 4).seq = 0 ∧ (slot 3 waved).slotNow < (decision 1 2 4).bindSlot ∧
    (waveOf (slot 3 waved) 0).state ≠ 3 := by decide +kernel

theorem test_premises_inputs :
    accepts ⟨isOp 0x0301, true, fun d => d.length == 0, 0xF, 0xFFFFFFFF, gates [planNeeded, activeGate]⟩ (ringed (up 3 3)) 0 (desc 0x0301 15 0xFFFFFFFF []) ∧
    accepts (overrideKind (desc 0x0201 (2 * 2 ^ 16 + 1) 5 [])) (ringed (up 3 3)) 0 (desc 0x0201 (2 * 2 ^ 16 + 1) 5 []) ∧
    accepts (overrideKind (desc 0x0201 1 (8191 * 2 ^ 32) [])) (ringed (up 3 3)) 0 (desc 0x0201 1 (8191 * 2 ^ 32) []) ∧
    inputRoom (up 3 3) = true ∧
    inputRoom (set1 F.RED_STATUS_PAIRED 1 { ringed (up 3 3) with red.toSend := List.replicate 64 ⟨0, 0, 0, []⟩ }) = false ∧
    accepts ⟨isOp 0x0202, false, fun d => d.length != 0 && d.length % 96 == 0 && decide (d.param % 8192 + d.length / 96 ≤ 8192), 0x1FFF, 0, openGate⟩
      (ringed (up 3 3)) 0 (desc 0x0202 8191 0 (zeros 96)) ∧ hostReaches 8 (up 3 3) ∧ hostReaches 4 (up 3 3) := by
  unfold accepts takes hostReaches; decide +kernel

/-! ### Premises: the purlin engine, the eaves and the gable -/

/-- A loop of two stages, GAIN and LIMIT, fed by one source, once a second, to loop group 0. -/
def loopBundle (period fb : Nat) : Img := plan [(13, 2000, 448, 1)]
  [(2000, 1, 1), (2096, 1, 0), (2097, 1, 2), (2098, 1, 1), (2100, 4, period), (2104, 1, 5), (2105, 1, fb), (2118, 1, 1), (2192, 1, 1), (2224, 1, 8),
    (2226, 1, 0x10)]
def loops (fb : Nat) : Main := runs (loopBundle 10000 fb) (set1 F.PUR_CTRL_ENABLE 1 (up 3 3))

theorem test_premises_loops :
    runImg (loops 5) = some (loopBundle 10000 5) ∧ loopsRun (runs (loopBundle 10000 5) (set1 F.PUR_CTRL_ENABLE 0 (up 3 3))) = false ∧ loopsRun (loops 5) = true ∧
    loopOn (loopBundle 10000 5) 1 = none ∧ loopOn (loopBundle 10000 5) 0 = some 2096 ∧ LoopC.period (loopBundle 0 5) 2096 = 0 ∧
    9999 % LoopC.period (loopBundle 10000 5) 2096 ≠ 0 ∧ 0 < LoopC.period (loopBundle 10000 5) 2096 ∧ 10000 % LoopC.period (loopBundle 10000 5) 2096 = 0 ∧
    (source (loops 5) (loopBundle 10000 5) 2096 0 5 10000).2 = false ∧ (source (loops 0x10) (loopBundle 10000 0x10) 2096 0 0x10 10000).2 = true ∧
    tracks (loops 5) (loopBundle 10000 5) 2096 = false ∧ (loopSt (loops 5) 0).frozen = false ∧ second (loopBundle 10000 5) 2096 ((loopSt (loops 5) 0).heldRun + 1) = true ∧
    1 < LoopC.stages (loopBundle 10000 5) 2096 ∧ (∀ c ∈ (stageCfg (loopBundle 10000 5) 2096 0).ins, c < 0x80) ∧
    (∀ k : Fin 8, let p := (loopSt (loops 5) 0).stages[k]
      fits24 p.m0 = true ∧ fits24 p.m1 = true ∧ fits24 p.m2 = true ∧ fits24 p.m3 = true ∧ -128 ≤ p.x ∧ p.x ≤ 127) := by decide +kernel

/-- Loop 0 is frozen. -/
def frozen (m : Main) : Main := { m with pur.loops := m.pur.loops.set 0 { PLoop.reset with frozen := true } }

theorem test_premises_purlin_inputs : awake Main.reset = false ∧ awake (up 3 3) = true ∧
    ({ up 3 3 with pur.pls := (up 3 3).pur.pls.set 1 ⟨[7], some 7, 0, none⟩ } : Main).pur.pls[1].high = some 7 ∧ (up 3 3).pur.pls[1].high = none ∧
    hostReaches 9 (up 3 3) ∧ (loopSt (up 3 3) 0).frozen = false ∧ runImg (up 3 3) = none ∧ loopOn (loopBundle 10000 5) 1 = none ∧
    (loopSt (frozen (loops 5)) 0).frozen = true ∧ runImg (frozen (loops 5)) = some (loopBundle 10000 5) ∧
    1 + 1 = LoopC.stages (loopBundle 10000 5) 2096 ∧ (stageCfg (loopBundle 10000 5) 2096 1).kind = 8 ∧
    destNow (frozen (loops 5)) (loopBundle 10000 5) 2096 < 2 ^ 22 := by
  unfold hostReaches; decide +kernel

theorem test_premises_eave : (up 3 3).bit F.CH_FAULT_LATCH 15 2 = false ∧
    chLive ((up 3 3).put F.CH_FAULT_LIVE 2 15) 15 1 = true ∧
    (let m : Main := { (up 3 3).put F.CH_FAULT_LIVE 2 15 with eav.chans := (up 3 3).eav.chans.set 15 { EavCh.reset with good := 2 } }; 2 ≤ (eavCh m 15).good) ∧
    (up 3 3).mode ≠ 0 ∧ (up 3 3).mode ≠ 6 ∧ safeCond (up 3 1) true = true ∧ (up 3 1).mode ≠ 0 ∧ (up 3 1).mode ≠ 6 := by decide +kernel

/-- A legend of one line with its first pixel lit, shown and on. -/
def leg0 : Legend := ⟨1, 1, 0, [1, 0] ++ zeros 30⟩
def shows (m : Main) : Main :=
  { set1 F.GBL_GEOM_LINES 1 (set1 F.GBL_CTRL_ENABLE 1 m) with
    gbl := { Gbl.reset with legends := Gbl.reset.legends.set 3 (some leg0), shown := some (3, leg0), lit := some 0, line := 0 } }

theorem test_premises_gable :
    (shows (up 3 3)).mode ≠ 0 ∧ (shows (up 3 3)).mode ≠ 6 ∧ (shows (up 3 3)).bit F.GBL_CTRL_ENABLE = true ∧
    (shows (up 3 3)).gbl.shown = some (3, leg0) ∧ (shows (up 3 3)).gbl.lit = some (shows (up 3 3)).gbl.line ∧ pixelLit leg0 0 0 = true ∧ lineLit leg0 0 = true ∧
    0 ∈ sdiColumns [0, 1, 0, 0, 0x5A, 0x3C] 1 0 ∧ 15 ∈ sdiColumns [0, 0, 0x80, 0, 0x5A, 0x3C] 1 1 ∧
    (shows (up 3 3)).bit F.GBL_POLICY_REPORT_ONLY 0 3 = false ∧ blanked (shows (up 3 3)) = false ∧
    (shows (up 3 3)).bit F.GBL_FAULT_LIVE 0 2 = false ∧ hostReaches 0x0C (up 3 3) ∧ hostReaches 0x0B (up 3 3) ∧
    accepts ⟨isOp 0x0501, false, fun d => 4 ≤ d.length && d.length ≤ 16777216, 0, 0, openGate⟩ (ringed (up 3 3)) 0 (desc 0x0501 0 0 [1, 2, 3, 4]) := by
  unfold accepts takes hostReaches; decide +kernel

/-! ### Premises: the ridge and the pair -/

/-- The module is at ridge address 9; ports A and B in states, having heard addresses. -/
def ports (a b ha hb : Nat) (m : Main) : Main :=
  puts [(F.RDG_ADDR_IN_USE, 9, 0), (F.RDG_PORT_STATUS_STATE, a, 0), (F.RDG_PORT_STATUS_STATE, b, 1), (F.RDG_PORT_STATUS_HEARD, ha, 0),
    (F.RDG_PORT_STATUS_HEARD, hb, 1)] m
/-- Route entries: address 2 by port B, address 3 by port A with B as alternate. -/
def routes : Img := plan [(14, 2000, 16400, 4096)] [(2016 + 8, 4, 0x18D), (2016 + 12, 4, 0x184)]
def toward (dst : Nat) : RidgeFrame := { ridge with dst := dst, ttl := 32 }
def key1 : Key := 1
/-- The octets that bring a frame to a port of the module at address 9, with padding. -/
def eth (p : Nat) (f : RidgeFrame) : List Byte := macOf 9 p ++ zeros 6 ++ [0x88, 0xB5] ++ f.octets ++ zeros (46 - f.octets.length)
/-- A frame arrives as it left: 60 octets or more, to this port, a ridge frame. -/
def comes (p : Nat) (f : RidgeFrame) : Prop :=
  60 ≤ (eth p f).length ∧ (eth p f).length ≤ 1514 ∧ lbe (eth p f) 12 2 = 0x88B5 ∧ (eth p f).take 6 = macOf 9 p ∧
    (ridgeParse ((eth p f).drop 14)) = some f
/-- A HELLO for the module, sealed under its K_FAB. -/
def hi : RidgeFrame := (toward 9).seal key1
def ready9 : Main := ports 3 3 1 2 (keyed (up 3 3))

theorem test_premises_ridge_rx :
    portState (up 3 3) 0 = Ps.down ∧ portState ready9 0 ≠ Ps.down ∧ ownAddr ready9 = 9 ∧
    (let o : List Byte := broadcastMac ++ zeros 6 ++ [0x88, 0xF7] ++ zeros 46; 60 ≤ o.length ∧ lbe o 12 2 = 0x88F7) ∧
    (let o : List Byte := broadcastMac ++ zeros 6 ++ [0x08, 0x00] ++ zeros 46; lbe o 12 2 ≠ 0x88F7 ∧ lbe o 12 2 ≠ 0x88B5) ∧
    (eth 1 (toward 9)).take 6 ≠ broadcastMac ∧ (eth 1 (toward 9)).take 6 ≠ macOf 9 0 ∧ ridgeParse ((eth 0 { toward 9 with payload := [] }).drop 14) = none ∧
    comes 0 { toward 9 with src := 0xFFF, isOpen := true } ∧ comes 0 { toward 9 with isOpen := true } ∧ comes 0 { hi with src := 1 } ∧
    fabReady (ports 3 3 1 2 (up 3 3)) = false ∧ ready9.key.work[1] = some ⟨key1, 5⟩ ∧ (hi.unseal key1).isSome = true ∧ (hi.unseal 6) = none ∧
    ({ hi with ttl := 1 }.unseal key1).isSome = true ∧ isReplay (seenOf ready9 1) 1 1 = false ∧ isReplay (some ⟨1, 1, []⟩) 1 1 = true ∧
    comes 0 { hi with dst := 2, ttl := 1 } ∧ comes 0 { hi with dst := 2, ttl := 2 } ∧ (2 : Nat) ≠ 9 ∧ (portOf ready9 1).queue.length < 256 := by
  unfold comes; decide +kernel

theorem test_premises_ridge_route :
    (let m := ports 3 3 1 2 (up 3 3); m.get F.RDG_PORT_STATUS_HEARD 1 = (toward 2).dst ∧ portState m 1 ∈ [Ps.matched, Ps.mismatch, Ps.unplanned]) ∧
    (let m := ports 3 3 1 7 (up 3 3); m.get F.RDG_PORT_STATUS_HEARD 1 ≠ (toward 2).dst ∧ portState m 1 = Ps.matched ∧ ({ toward 2 with turned := true } : RidgeFrame).turned = true) ∧
    (let m := ports 3 1 1 7 (up 3 3); portState m 1 ≠ Ps.matched) ∧
    (let m := ports 3 3 1 7 (runs routes (up 3 3));
      (sect routes 14).isSome = true ∧ Rt.valid (routeEntry routes 2) = true ∧ Rt.primary (routeEntry routes 2) = 1 ∧ portState m 1 = Ps.matched ∧
      runImg m = some routes ∧ Rt.valid (routeEntry routes 4) = false ∧ (2 : Nat) < 0xF00) ∧
    (let m := ports 1 3 1 7 (runs routes (up 3 3));
      Rt.primary (routeEntry routes 3) = 0 ∧ portState m 0 ≠ Ps.matched ∧ Rt.alternate (routeEntry routes 3) = 1 ∧ portState m 1 = Ps.matched) ∧
    (let m := ports 1 1 1 7 (runs routes (up 3 3)); portState m 0 ≠ Ps.matched ∧ portState m 1 ≠ Ps.matched) := by decide +kernel

/-- Frames wait at port A. -/
def queued (fs : List RidgeFrame) (m : Main) : Main := { m with rdg.ports := m.rdg.ports.set 0 { RPort.reset with queue := fs } }

theorem test_premises_egress :
    portState (queued [toward 2, { toward 3 with cls := 0 }] (ports 3 3 1 2 (up 3 3))) 0 ≠ Ps.down ∧ (ports 3 3 1 2 (up 3 3)).rdg.ports[0].queue = [] ∧
    (queued [toward 2, { toward 3 with cls := 0 }] (ports 3 3 1 2 (up 3 3))).rdg.ports[0].queue ≠ [] ∧
    (∀ f ∈ [{ toward 2 with payload := zeros 1484 }, { toward 3 with cls := 0 }], f.payload.length ≤ 1484) ∧ (toward 2).cls = 1 ∧
    ({ ridge with payload := [0x30, 17, 0, 0] } : RidgeFrame).kind = 0x30 ∧ ridge.kind ≠ 0x30 ∧
    (({ ridge with payload := [0x30, 17, 0, 0] } : RidgeFrame).payload.getD 1 0).toNat ≤ 17 ∧
    17 < (({ ridge with payload := [0x30, 18, 0, 0] } : RidgeFrame).payload.getD 1 0).toNat := by decide +kernel

/-- A HELLO of the module at an address, on its port 1, that names this module's port 0. -/
def hello (addr : Nat) (isOpen : Bool) : RidgeFrame :=
  { toward 0xFFF with isOpen := isOpen, payload := [0x10, 1, 3, 6] ++ beBytes 8 5 ++ beBytes 2 addr ++ beBytes 2 9 ++ [0, 0] ++ beBytes 2 1000 }

theorem test_premises_hello :
    portState (up 3 3) 0 = Ps.down ∧ portState (ports 1 3 1 2 (up 3 3)) 0 ≠ Ps.down ∧ (ports 1 3 1 2 (up 3 3)).mode ≠ Md.hold ∧ (up 7 3).mode = Md.hold ∧
    helloSpent (ports 1 3 1 2 (up 3 3)) 0 = false ∧
    helloSpent { ports 1 3 1 2 (up 3 3) with rdg.ports := Vector.replicate 2 { RPort.reset with hellos := List.replicate 10 0 } } 0 = true ∧
    helloOf (hello 1 false) = some ⟨1, 3, false, true, true, 5, 1, 9, 0, 0, 1000, false⟩ ∧ helloOf ridge = none ∧
    (let m : Main := { set1 F.RDG_ADDR_PROVISIONAL 1 (ports 1 3 1 2 (up 3 3)) with fuse.eui := 6 };
      m.bit F.RDG_ADDR_PROVISIONAL = true ∧ ownAddr m = 9 ∧ (helloOf (hello 9 true)).any (fun h => h.addr == 9 && h.eui < m.fuse.eui) = true) ∧
    (queued [] (ports 1 3 1 2 (up 3 3))).rdg.ports[0].queue.length < 256 := by decide +kernel

/-- FAB_SEND of four bytes to an address. -/
def fab (dst : Nat) (m : Main) : Prop :=
  accepts ⟨isOp 0x0601, false, fun d => 4 ≤ d.length && d.length ≤ 1472, 2 ^ 18 - 1, 0, fun _ =>
    if 17 < bits (desc 0x0601 dst 0 [1, 2, 3, 4]).param 16 12 then some (.fail St.badParam (12 + lowBit (bits (desc 0x0601 dst 0 [1, 2, 3, 4]).param 16 12)))
    else none⟩ m 0 (desc 0x0601 dst 0 [1, 2, 3, 4])

theorem test_premises_fab_send :
    fab 9 (ringed (ports 3 3 1 2 (keyed (up 3 3)))) ∧ fab 2 (ringed (ports 3 3 1 2 (up 7 3))) ∧ fabReady (ports 3 3 1 2 (up 3 3)) = false ∧
    fabReady (ports 3 3 1 2 (keyed (up 3 3))) = true ∧ (9 : Nat) = ownAddr (ports 3 3 1 2 (up 3 3)) ∧
    route (ringed (ports 3 3 1 2 (keyed (up 3 3)))) none (toward 4) = none ∧ (4 : Nat) ≠ ownAddr (ports 3 3 1 2 (up 3 3)) ∧
    route (ringed (ports 3 3 1 2 (keyed (up 3 3)))) none (toward 2) = some (1, false, false) ∧ fab 4 (ringed (ports 3 3 1 2 (keyed (up 3 3)))) ∧
    fab 2 (ringed (ports 3 3 1 2 (keyed (up 3 3)))) := by
  unfold fab accepts takes; decide +kernel

/-! ### The pair -/

/-- A paired module with both keys, in a role, whose partner is at address 1 on port A. -/
def pair (role : Nat) : Main :=
  { puts [(F.RED_STATUS_PAIRED, 1, 0), (F.RED_STATUS_ACTIVE, natOf (role == 2), 0), (F.RED_STATUS_PARTNER, 1, 0), (F.RED_STATUS_PARTNER_UP, 1, 0)]
      (ports 3 3 1 2 (keyed (up 3 3))) with red.role := role }
def beat (active : Bool) (at' : Nat) : HbMsg := ⟨active, 0, false, true, true, true, 0, 0, at', 0, []⟩
/-- A frame with a payload from the module at an address. -/
def tells (src : Nat) (o : List Byte) : RidgeFrame := { toward 9 with src := src, payload := o }
def digest (course : Nat) : Digest := ⟨0, course, 0, 0, 0, 0, zeros 4 |>.map BitVec.toNat, zeros 16 |>.map BitVec.toNat, 0⟩

theorem test_premises_pair :
    hbOf [] = none ∧ hbOf (hbBytes (beat true 0)) = some (beat true 0) ∧ fromPartner (pair 1) (tells 2 []) = false ∧ fromPartner (pair 1) (tells 1 []) = true ∧
    paired (up 3 3) = false ∧ paired (pair 1) = true ∧ fabReady (pair 1) = true ∧ (pair 1).mode ≠ Md.hold ∧ pairPartner (pair 1) < 0xFFF ∧
    pairPartner (pair 1) ≠ ownAddr (pair 1) ∧ (pair 1).get F.RDG_PORT_STATUS_HEARD 0 = pairPartner (pair 1) ∧ 2 ≤ portState (pair 1) 0 ∧ portState (pair 1) 0 ≤ 4 ∧
    ((pair 1).rdg.ports[0]).queue.length < 256 ∧ ((pair 1).put F.PWR_MODE_MODE 7).mode = Md.hold ∧
    (let m : Main := { pair 2 with red.actRun := 2 }; m.red.role = 2 ∧ (beat true 0).active = true ∧ m.red.actRun = 2 ∧ m.fuse.eui < partnerEui (set1 F.RDG_PORT_EUI_LO 1 m)) ∧
    (let m : Main := { pair 1 with red.sbyRun := 2 };
      m.red.role = 1 ∧ m.get F.RED_STATUS_SEAT = 0 ∧ (beat false 0).active = false ∧ m.red.sbyRun = 2 ∧ keysReady m = true) ∧
    ((pair 0).red.role = 0 ∧ (pair 0).exec = Ex.running ∧ keysReady (pair 0) = true) ∧ (pair 1).bit F.RED_STATUS_PARTNER_UP = true := by decide +kernel

theorem test_premises_roles :
    (pair 1).exec = Ex.running ∧ keysReady (pair 1) = true ∧ (pair 1).red.pendRole = none ∧
    (let m : Main := { pair 1 with red.pendRole := some (2, 15) }; keysReady m = true ∧ m.red.pendRole = some (2, 15)) ∧
    (let m : Main := { pair 2 with key.work := Vector.replicate 4 none }; keysReady m = false ∧ ¬ (m.red.role = 1 ∧ muted m = true)) := by decide +kernel

/-- A paired module that has its own digest of the course just ended, and perhaps the partner's. -/
def digests (own theirs : List Digest) (m : Main) : Main := { { m with red.own := own, red.theirs := theirs } with ylm.slot := 200 }

theorem test_premises_digests :
    (digests [digest 1] [] (pair 1)).red.own.find? (fun d => d.course == (digest 1).course) = some (digest 1) ∧ (digest 1).course ∉ (digests [digest 1] [] (pair 1)).red.compared ∧
    (digests [] [] (pair 1)).red.own.find? (fun d => d.course == (digest 1).course) = none ∧
    (digests [digest 1] [] (pair 1)).red.own.find? (fun d => d.course + 1 == (digests [digest 1] [] (pair 1)).course) = some (digest 1) ∧
    (digests [digest 1] [digest 1] (pair 1)).red.theirs.find? (fun e => e.course == 1 && decide (1 ∉ (digests [digest 1] [digest 1] (pair 1)).red.compared)) = some (digest 1) ∧
    (digests [digest 1] [] (pair 1)).red.theirs.find? (fun e => e.course == 1 && decide (1 ∉ (digests [digest 1] [] (pair 1)).red.compared)) = none ∧
    ({ pair 2 with red.resync := some 0 } : Main).red.resync.isSome = true ∧ (pair 2).red.role = 2 ∧
    digestOf [] = none ∧ digestOf (digestBytes (digest 1)) = some (digest 1) ∧ fromPartner (pair 2) (tells 1 []) = true ∧ fabReady (pair 2) = true ∧
    accepts (CmdKind.plain 0x0902 0 activeGate) (ringed (pair 2)) 0 (desc 0x0902 0 0 []) := by
  unfold accepts takes; decide +kernel

theorem test_premises_resync :
    (let m : Main := { runs (oneCell 0) (pair 1) with red.snap := some 0 }; m.red.role ≠ 2 ∧ m.red.snap = some 0 ∧ runImg m = some (oneCell 0)) ∧
    resyncOf [] = none ∧ resyncOf (resyncBytes ⟨0, 1, 5, [7]⟩) = some ⟨0, 1, 5, [7]⟩ ∧ fromPartner (pair 1) (tells 1 []) = true ∧ (pair 1).red.role = 1 ∧
    paired (pair 1) = true ∧ fabReady (pair 1) = true := by decide +kernel

theorem test_premises_swaps :
    paired (pair 2) = true ∧ (pair 2).course < 2 ^ 47 ∧ swapAt (pair 2) = 0 ∧
    accepts (CmdKind.plain 0x0901 0 activeGate) (ringed (pair 2)) 0 (desc 0x0901 0 0 []) ∧
    (let m : Main := { set1 F.RED_SWAP_AT_LO 3 (pair 2) with ylm.slot := 299 }; m.course < swapAt m) ∧
    (let m : Main := { set1 F.RED_SWAP_AT_LO 3 (pair 2) with red := { (pair 2).red with partner := some (beat false 3), swapCause := 3 }, ylm := { (pair 2).ylm with slot := 300 } };
      swapAt m ≠ 0 ∧ swapAt m ≤ m.course ∧ m.red.role = 2 ∧ m.red.swapCause ≤ 3 ∧ m.red.partner = some (beat false 3) ∧ (beat false 3).swapAt = swapAt m) ∧
    (let m : Main := { set1 F.RED_SWAP_AT_LO 3 (pair 2) with ylm.slot := 300 }; m.red.partner = none) := by
  unfold accepts takes; decide +kernel

/-! ### Premises: the clocks, the mirror and the dormer -/

/-- A transparent clock with a master, its servo in a state. -/
def clocked (sv : Nat) : Main :=
  { puts [(F.PTP_CTRL_ROLE, 2, 0), (F.PTP_STATUS_STATE, sv, 0), (F.PTP_ADDEND_ADDEND, 0x50000000, 0)] (ports 3 3 1 2 (up 3 3)) with time.master := some [1, 2, 3, 4, 5, 6] }

theorem test_premises_servo :
    ptpRole (set1 F.PTP_CTRL_ROLE 0 (up 3 3)) = 0 ∧ ptpRole (set1 F.PTP_CTRL_ROLE 3 (up 3 3)) = 0 ∧ ptpRole (clocked 2) ≠ 0 ∧ (clocked 2).time.master ≠ none ∧ servo (clocked 0) = Sv.unset ∧ (clocked 2).time.force = false ∧
    servo (clocked 2) = Sv.locked ∧ servo (clocked 1) = Sv.locking ∧ servo (clocked 4) = Sv.free ∧ servo (clocked 3) = Sv.holdover ∧
    1000 * max 1 (min 1000000 ((clocked 2).get F.PTP_JUMP_LIMIT)) < (10 ^ 12 : Int).natAbs ∧ (1000 : Int).natAbs ≤ 1000 * max 1 (min 1000000 ((clocked 2).get F.PTP_JUMP_LIMIT)) ∧
    0x50000000 - 0x50000000 / 5000 ≤ (clocked 2).get F.PTP_ADDEND_ADDEND ∧ (clocked 2).get F.PTP_ADDEND_ADDEND ≤ 0x50000000 + 0x50000000 / 5000 := by decide +kernel

theorem test_premises_messages :
    fromMaster (clocked 2) 0 6 = true ∧ fromMaster (clocked 2) 0 5 = false ∧ portState (clocked 2) 1 ≠ Ps.down ∧ ptpRole (clocked 2) = 2 ∧
    (clocked 2).time.pathDelay = none ∧ (clocked 2).time.syncWait = none ∧
    (let m : Main := { clocked 2 with time := { (clocked 2).time with pathDelay := some 7, syncWait := some (0, 3, 9), delayReq := some (1, 4, 2), syncDiff := some 6 } };
      m.time.pathDelay = some 7 ∧ m.time.syncWait = some (0, 3, 9) ∧ m.time.delayReq = some (1, 4, 2) ∧ m.time.syncDiff = some 6 ∧ m.fuse.eui = 0) ∧
    hostReaches 0x10 (clocked 2) := by
  unfold hostReaches; decide +kernel

theorem test_premises_stamps :
    ptpRole (set1 F.PTP_CTRL_ROLE 0 (up 3 3)) = 0 ∧ ptpRole (set1 F.PTP_CTRL_ROLE 3 (up 3 3)) = 0 ∧ ptpRole (clocked 2) ≠ 0 ∧ portState (clocked 2) 0 ≠ Ps.down ∧
    (let m := set1 F.PTP_CTRL_TSQ_EN 1 (clocked 2); (1 : Nat) ≤ 1 ∧ m.bit F.PTP_CTRL_TSQ_EN = true ∧ m.time.tsq = []) ∧
    (let m : Main := { set1 F.PTP_CTRL_TSQ_EN 1 (clocked 2) with time.tsq := List.replicate 16 ⟨0, 0, 0, 0, 0⟩ }; 16 ≤ m.time.tsq.length) ∧
    ¬ 2 ≤ 1 := by decide +kernel

theorem test_premises_tto :
    (up 3 3).bit F.TTO_CFG_ARM 3 = false ∧ ((up 3 3).time.tto[3]).active = false ∧
    (let m : Main := { (up 3 3).putBit F.TTO_CFG_ARM true 3 with time.tto := (up 3 3).time.tto.set 3 ⟨true, some 5, true⟩ };
      m.bit F.TTO_CFG_ARM 3 = true ∧ (m.time.tto[3]).edge = some 5 ∧ (m.time.tto[3]).first = true ∧ (m.time.tto[3]).active = true ∧
      m.bit F.TTO_CFG_PERIODIC 3 = false) := by decide +kernel

/-- The calendar at a date and time, in BCD. -/
def dated (y mo d h mi sc : Nat) : Main :=
  puts [(F.RTC_DATE_YEAR, y, 0), (F.RTC_DATE_MONTH, mo, 0), (F.RTC_DATE_DAY, d, 0), (F.RTC_TIME_HOUR, h, 0), (F.RTC_TIME_MINUTE, mi, 0),
    (F.RTC_TIME_SECOND, sc, 0)] (up 3 3)

theorem test_premises_calendar :
    (let m := dated 0x2199 0x12 0x31 0x23 0x59 0x59;
      isBcd (m.get F.RTC_DATE_YEAR) = true ∧ isBcd (m.get F.RTC_DATE_MONTH) = true ∧ isBcd (m.get F.RTC_DATE_DAY) = true ∧ unbcd (m.get F.RTC_DATE_YEAR) = 2199 ∧
      unbcd (m.get F.RTC_DATE_MONTH) = 12 ∧ unbcd (m.get F.RTC_DATE_DAY) = 31 ∧ calSecond m = 86399) ∧
    calSecond (dated 0x2016 0x12 0x31 0x23 0x59 0x60) = 86400 ∧ calSecond (dated 0x2000 0x02 0x29 0 0 0) = 0 ∧
    (let m := (puts [(F.ALM_CFG_ENABLE, 1, 3), (F.ALM_CFG_DAILY, 1, 3)] (dated 0x2000 0x02 0x29 0 0 0));
      m.bit F.ALM_CFG_ENABLE 3 = true ∧ m.bit F.ALM_CFG_DAILY 3 = true ∧ almFired m 3 = none ∧ almSecond m 3 = 0) ∧
    hostReaches 0x0F (up 3 3) ∧ (up 3 3).bit F.RTC_WAKE_ENABLE = false ∧ (set1 F.RTC_WAKE_ENABLE 1 (up 3 3)).bit F.RTC_WAKE_ENABLE = true ∧
    (up 3 3).bit F.RTC_CNTDN_RUN = false ∧ (set1 F.RTC_CNTDN_RUN 1 (up 3 3)).bit F.RTC_CNTDN_RUN = true ∧
    1 < (set1 F.RTC_CNTDN_NOW_COUNT 2 (up 3 3)).get F.RTC_CNTDN_NOW_COUNT ∧ (set1 F.RTC_CNTDN_NOW_COUNT 1 (up 3 3)).get F.RTC_CNTDN_NOW_COUNT ≤ 1 := by
  unfold hostReaches; decide +kernel

/-- The calendar to be set, in BCD. -/
def asked (y mo d : Nat) : Main := puts [(F.RTC_SET_DATE_YEAR, y, 0), (F.RTC_SET_DATE_MONTH, mo, 0), (F.RTC_SET_DATE_DAY, d, 0)] (up 3 3)

theorem test_premises_commit :
    isBcd ((asked 0x2024 0x02 0x29).get F.RTC_SET_DATE_YEAR) = true ∧ unbcd ((asked 0x2024 0x02 0x29).get F.RTC_SET_DATE_YEAR) = 2024 ∧
    unbcd ((asked 0x2024 0x02 0x29).get F.RTC_SET_DATE_DAY) = 29 ∧ servo (asked 0x2024 0x02 0x29) ≠ Sv.locked ∧
    isBcd ((asked 0x20A4 0x02 0x29).get F.RTC_SET_DATE_YEAR) = false ∧ almFired (asked 0x2024 0x02 0x29) 0 = none := by decide +kernel

theorem test_premises_sync :
    (up 3 3).bit F.RTC_TRIM_AUTO = false ∧ (set1 F.RTC_TRIM_AUTO 1 (up 3 3)).bit F.RTC_TRIM_AUTO = true ∧ (up 3 3).time.syncStep = false ∧
    (let m : Main := { up 3 3 with time := { (up 3 3).time with syncStep := true, sec := 946684800 } };
      let goal := (m.time.sec : Int) + (if 500000000 ≤ m.time.ns then 1 else 0) - utcShown m;
      m.time.syncStep = true ∧ 86400 * daysOf 2000 1 1 ≤ goal ∧ goal < 86400 * daysOf 2200 1 1) := by decide +kernel

/-- A dormer frame of a kind without its MIC, all zero but its header. -/
def dmrHead (kind len : Nat) : List Byte := leBytes 2 len ++ leBytes 1 kind ++ [1] ++ zeros (len - 12)

/-! What is encrypted under the key of zeros keeps its length. -/

theorem shiftRows_length (s : List Nat) : (Cipher.shiftRows s).length = 16 := by simp [Cipher.shiftRows]
theorem mixed_length (s : List Nat) : (Cipher.mixColumns [2, 3, 1, 1] (Cipher.shiftRows s)).length = 16 := by
  simp [Cipher.mixColumns, Cipher.shiftRows, List.range, List.range.loop, Cipher.quads, Cipher.mixColumn]
theorem encRounds_length (ks : List (List Nat)) : ∀ s, ks ≠ [] → (∀ k ∈ ks, k.length = 16) → (Cipher.encRounds ks s).length = 16 := by
  induction ks with
  | nil => intro s h; exact absurd rfl h
  | cons k t ih =>
    intro s _ hk
    cases t with
    | nil => simp [Cipher.encRounds, Cipher.xorList, shiftRows_length, hk]
    | cons k2 t => exact ih _ (by simp) (fun x hx => hk x (List.mem_cons_of_mem _ hx))
theorem aesEnc_length (b : List Byte) : (Cipher.aesEnc (zeros 16) b).length = 16 := by
  have h : (Cipher.roundKeys (zeros 16)).drop 1 ≠ [] ∧ (∀ k ∈ (Cipher.roundKeys (zeros 16)).drop 1, k.length = 16) ∧ Cipher.roundKeys (zeros 16) ≠ [] := by
    decide +kernel
  unfold Cipher.aesEnc
  revert h
  cases Cipher.roundKeys (zeros 16) with
  | nil => simp
  | cons k ks => intro h; simpa [Cipher.toBytes] using encRounds_length ks _ h.1 h.2.1
theorem cbcMac_length (n : Nat) : ∀ l x, x.length = 16 → (Cipher.cbcMac (zeros 16) n l x).length = 16 := by
  induction n with
  | zero => intro l x h; exact h
  | succ n ih => intro l x h; unfold Cipher.cbcMac; split; exacts [h, ih _ _ (aesEnc_length _)]
theorem frameMic_length (l : List Byte) : (frameMic 0#128 l).length = 8 := by
  have h : Key.bytes 0#128 = zeros 16 := by decide +kernel
  have c := fun n l => cbcMac_length n l (zeros 16) (by simp [zeros])
  simp only [frameMic, h, Cipher.ccmMic, Cipher.xorBytes, List.length_map, List.length_zip, List.length_take, c, aesEnc_length]
  rfl
-- With its MIC under K_DL 0 it verifies, as each of the five kinds.
theorem test_premises_frames (kind len : Nat) (h : (kind, len) ∈ [(1, 568), (2, 408), (3, 120), (4, 432), (5, 440)]) :
    (dmrVerified 0#128 (dmrHead kind len ++ frameMic 0#128 (dmrHead kind len))).map (fun f => frameKind f.body) = some kind := by
  have hl := frameMic_length (dmrHead kind len)
  have hd : (dmrHead kind len).length = len - 8 ∧ len - 8 + 8 = len := by
    simp only [List.mem_cons, Prod.mk.injEq, List.not_mem_nil, or_false] at h
    rcases h with ⟨rfl, rfl⟩ | ⟨rfl, rfl⟩ | ⟨rfl, rfl⟩ | ⟨rfl, rfl⟩ | ⟨rfl, rfl⟩ <;>
      exact ⟨by simp only [dmrHead, List.length_append, zeros, List.length_replicate]; rfl, rfl⟩
  have fin : ∀ l : List Byte, l.length = len → lle l 0 2 = len → lle l 2 1 = kind → frameMic 0#128 (l.take (len - 8)) = l.drop (len - 8) →
      (dmrVerified 0#128 l).map (fun f => frameKind f.body) = some kind := by
    intro l a b c e
    have hb : (dmrFields l).body = bodyOf kind l := by rw [← c]; rfl
    have hf : frameLen (bodyOf kind l) = len ∧ frameKind (bodyOf kind l) = kind ∧ 1 ≤ kind ∧ kind ≤ 5 := by
      simp only [List.mem_cons, Prod.mk.injEq, List.not_mem_nil, or_false] at h
      rcases h with ⟨rfl, rfl⟩ | ⟨rfl, rfl⟩ | ⟨rfl, rfl⟩ | ⟨rfl, rfl⟩ | ⟨rfl, rfl⟩ <;> exact ⟨rfl, rfl, by decide, by decide⟩
    simp [dmrVerified, hb, hf, a, b, c, e]
  refine fin _ (by simp [hd, hl]) ?_ ?_ (by rw [← hd.1]; simp)
  all_goals
    simp only [List.mem_cons, Prod.mk.injEq, List.not_mem_nil, or_false] at h
    rcases h with ⟨rfl, rfl⟩ | ⟨rfl, rfl⟩ | ⟨rfl, rfl⟩ | ⟨rfl, rfl⟩ | ⟨rfl, rfl⟩ <;> rfl

theorem test_premises_mirror :
    linkFrame (up 3 3) [] = none ∧ hostReaches 0x0A (up 3 3) ∧ (up 3 3).fuse.kDl = 0 ∧ (up 3 3).mir.snap = none ∧ (up 3 3).mir.lastSeq = none ∧ frameKind (dmrFields (dmrHead 1 568)).body = 1 ∧
    ({ up 3 3 with mir.snap := some (dmrFields (dmrHead 1 568)) } : Main).mir.snap.isSome = true ∧
    (up 3 3).host.d3hot = false ∧ (up 0 3).mode = 0 ∧ (up 6 3).mode = 6 ∧ ({ up 3 3 with host.d3hot := true } : Main).host.d3hot = true := by
  unfold hostReaches; decide +kernel

/-- A dormer with a session in a state, its gate open. -/
def inSession (x : Nat) : Dormer := { Dormer.reset with session := x, gateOpen := true, gateLeft := 60000 }

theorem test_premises_dormer :
    (∀ k : Fin 32, State.reset.dmr.resid[k] < 1000) ∧ State.reset.dmr.sound = true ∧ Dormer.reset.halted = false ∧
    ({ Dormer.reset with halted := true } : Dormer).halted = true ∧
    (let o : PulseOut := { PulseOut.reset with pending := 1, last := some 0 };
      let d : Dormer := { Dormer.reset with pulses := Dormer.reset.pulses.set 3 o };
      d.halted = false ∧ d.meterFault = false ∧ d.pulses[3].on = false ∧ 0 < d.pulses[3].pending ∧ 0 + 2 * pulseWidth d.pulses[3] ≤ 2 * pulseWidth d.pulses[3]) ∧
    (inSession 0).session = 0 ∧ (inSession 1).session ≠ 0 ∧ Dormer.reset.gateOpen = false ∧
    accepts ⟨isOp 0x0401, false, fun d => 88 ≤ d.length && d.length ≤ 328, 0, 0, openGate⟩ (ringed (up 3 3)) 0 (desc 0x0401 0 0 (zeros 88)) ∧
    accepts ⟨isOp 0x0401, false, fun d => 88 ≤ d.length && d.length ≤ 328, 0, 0, openGate⟩ (ringed (up 3 3)) 0 (desc 0x0401 0 0 (zeros 328)) := by
  unfold accepts takes; decide +kernel

/-- Session bytes of a command with data of zeros, signed by r and s that are both `r`. -/
def sessionBytes (cmd len r : Nat) : List Byte :=
  leBytes 2 (88 + len) ++ leBytes 1 cmd ++ zeros (21 + len) ++ beBytes 32 r ++ beBytes 32 r
/-- What every clause of the session rows asks for, at an open gate and in a session. -/
def passes (cmd len r pub ses : Nat) : Bool :=
  let c := sessionBytes cmd len r
  let d : Dormer := { inSession ses with metroPub := BitVec.ofNat 512 pub }
  lle c 4 8 == lle d.ident 0 8 && lle c 12 8 == d.nonce && Ses.sigOk d.metroPub c && lle c 20 2 == d.nextSeq && lle c 2 1 == cmd &&
    lle c 0 2 == 88 + len && c.length == 88 + len && lle c 3 1 == 0 && d.session == ses && d.gateOpen

theorem test_premises_open : passes 1 0 0x1890e8313aac5a543c16940712a26d5c1c2524750123832130471282455b6861
    (2 ^ 256 * 0x34177b05804116d3d4e980c607ead49c9e743fb1ef15c15a834f041c19287bd5 +
      0xa70af67622177f40de82423ba6ee2a900563c1ac5418832830a26a22c87ed24a) 1 = true := by decide +kernel
theorem test_premises_set_meas : passes 2 240 0x55b5c5760da81edb58280db06bd6aa1f47ae9b5215f68054a10e7f4930dbc5f9
    (2 ^ 256 * 0xe43d48de1ed13bb8f230912d489cbcc22211944452ab62f58fb3e70f0d6717c7 +
      0x7a60ad1502f37c040e244093ddc4dceec4f62f3aae00de15af6dce11052a4f09) 2 = true := by decide +kernel
theorem test_premises_set_pulse : passes 3 24 0xae621a56513144d822b259497f3b9e150148ff444dc42b98d6ffb20cdbcc1d14
    (2 ^ 256 * 0x9af16b62e8dbdbd9fa268072802def7ea32499606c31a50a87030bb9a69623d7 +
      0x4afdcbe4641ca039faa9b2ca71b2069cadb1b76c9b96f627627768e4281d28b8) 2 = true := by decide +kernel
theorem test_premises_close : passes 4 0 0xdecf0a8baf7d1a895687564059079ab50db587d282ad20bfa2f61f056fa5750c
    (2 ^ 256 * 0x5b37b90ea830ab9a6d6cc90ec4262360bd8a82a2b80ffd6acafb21ee2759432e +
      0xe73d0a035fba339eff9f13e750ce8c655a75f7c5281b7e1b17892d9cb9745a24) 2 = true := by decide +kernel
theorem test_premises_abort : passes 5 0 0x70ab469fad64d7859af5e99ead3dfcba63ea7166efd61b9a718ace044906e0a1
    (2 ^ 256 * 0x9b570428a682e3fa9a5224ad143d87450c472855cbe6a64b1689de6d15445856 +
      0x1e787277166597ce232055199a320107f42b6da3db6b6a3c9e5d269a77ff531e) 2 = true := by decide +kernel

theorem test_premises_sessions :
    (up 3 3).mir.link = [] ∧ ({ up 3 3 with mir.link := [sessionBytes 1 0 1] } : Main).mir.link = [sessionBytes 1 0 1] ∧
    (1 : Nat) ≤ lle (sessionBytes 5 0 1) 2 1 ∧ lle (sessionBytes 5 0 1) 2 1 ≠ 0 + 1 ∧ lle (sessionBytes 0 0 1) 2 1 = 0 ∧ 5 < lle (sessionBytes 6 0 1) 2 1 ∧
    (slice (sessionBytes 4 0 1) 3 1).length = 1 ∧
    ({ inSession 2 with staged := (none, some [1]) } : Dormer).staged.2 = some [1] ∧ [1] ≠ (inSession 2).pulse ∧ (inSession 2).staged = (none, none) ∧
    withCount (inSession 2).meas (MeasCfg.count (inSession 2).meas) = (inSession 2).meas ∧
    (let b : List Byte := zeros 239 ++ [1]; ({ inSession 2 with staged := (some b, none) } : Dormer).staged.1 = some b ∧ withCount b 0 ≠ (inSession 2).meas) := by decide +kernel

theorem test_copy_valid (c : StateCopy) : c.sealed.valid 0 = true := by simp [StateCopy.valid, StateCopy.sealed, StateCopy.bytes]
theorem test_copy_upset (c : StateCopy) : c.sealed.valid 1 = false := by
  simp only [StateCopy.valid, StateCopy.sealed, StateCopy.bytes, beq_eq_false_iff_ne]
  intro h
  have := congrArg (fun n => Nat.testBit n 0) h
  simp at this
  omega

/-! ### Premises: the host interface -/

theorem test_premises_nop : takes (isOp 0) (ringed (up 3 3)) 0 (desc 0 0 0 []) ∧ takes (isOp 0) (ringed (up 3 3)) 0 (desc 0 0xFFFFFFFF 0 [7]) ∧
    ¬ takes (isOp 0) (ringed (up 3 3)) 0 (desc 1 0 0 []) ∧ (up 1 3).mode = 1 ∧ cmdTurn (ringed (up 1 3)) 0 = true ∧ (desc 0xFFFF 0 0 []).own = true ∧
    (desc 0xFFFF 0 0 []).opcode ∉ assignedOps ∧ cmdTurn (up 3 3) 7 = false := by
  unfold takes; decide +kernel

/-- Ring `r` in a state. -/
def ringAt (r st : Nat) (m : Main) : Main := m.put F.HST_RING_STATUS_STATE st r
def withRing31 (g : Ring) (m : Main) : Main := { m with host.rings := m.host.rings.set 31 g }

theorem test_premises_rings :
    hostReaches 2 (up 3 3) ∧ ringState (ringAt 31 1 (up 3 3)) 31 ≠ Rs.disabled ∧ ringState (up 3 3) 31 = Rs.disabled ∧ (ringOf (up 3 3) 31).latched = none ∧
    ringState (ringAt 31 2 (up 3 3)) 31 = Rs.halted ∧ ringState (ringAt 7 2 (up 3 3)) 7 = Rs.halted ∧
    ({ up 3 3 with host.d3hot := true } : Main).host.d3hot = true ∧ (up 3 3).host.d3hot = false ∧ (up 0 3).mode = 0 ∧ (up 3 3).mode ≠ 0 ∧
    (ready (set1 F.GLB_STATUS_READY 1 (ringAt 31 1 (up 3 3))) && ringMoves (set1 F.GLB_STATUS_READY 1 (ringAt 31 1 (up 3 3))) 31) = true ∧
    (ready (up 3 3) && ringMoves (up 3 3) 31) = false ∧ (ringOf (up 3 3) 31).waiting = [] ∧
    (let m : Main := { ringed (up 3 3) with host.rings := (up 3 3).host.rings.set 0 { Ring.reset with early := 3 } }; (ringOf m 0).early ≠ 0 ∧ ringMoves m 0 = true) ∧
    (let m := (ringAt 31 1 (up 3 3)).put F.HST_RING_DB_LIMIT 1 31; ringMoves m 31 = true ∧ (ringOf m 31).stalled = false ∧ ringAvail m 31 ≠ 0) ∧
    (let m := withRing31 { Ring.reset with early := 3 } ((ringAt 31 1 (up 3 3)).put F.HST_RING_DB_LIMIT 1 31); ringAvail m 31 ≠ 0 ∧ 3 ≤ (ringOf m 31).early) ∧
    (desc 0 0 0 []).own = true ∧ (⟨zeros 32, [], []⟩ : Desc).own = false := by
  unfold hostReaches; decide +kernel

theorem test_premises_uploads :
    (ringOf (up 3 3) 31).fill = [] ∧
    (let m := withRing31 { Ring.reset with fill := [[1]], free := [(0, desc 0 0 0 [])], held := some 63 } (ringAt 31 1 (up 3 3));
      (ringOf m (8 + 23)).fill ≠ [] ∧ ringMoves m (8 + 23) = true ∧ (ringOf m (8 + 23)).free = [(0, desc 0 0 0 [])] ∧ (ringOf m 31).held = some 63) ∧
    (ringOf (up 3 3) 31).held = none ∧
    hostReaches 3 (up 3 3) ∧ channelOf 31 = 10 ∧ channelOpen (up 3 3) 15 = true ∧ hostReaches 0x3F (up 3 3) ∧ ready (up 3 3) = false ∧
    readUnder 0 none (ringed (up 3 3)) = true ∧ readUnder 31 (some (desc 0 0 0 [])) (up 3 3) = false ∧
    readUnder 0 (some (desc 0 0 0 [])) (ringed (up 3 3)) = true ∧
    readUnder 31 (some (desc 0 0 0 [])) (withRing31 { Ring.reset with free := [(0, ⟨[3, 1] ++ zeros 30, [], []⟩)] } (ringAt 31 1 (up 3 3))) = true := by
  unfold hostReaches; decide +kernel

theorem test_premises_msix :
    (let m : Main := { set1 F.MSIX_PBA (2 ^ 31) (up 3 3) with host.msixEnable := true };
      m.host.funcMask = false ∧ m.host.msixEnable = true ∧ m.bit F.MSIX_PBA (31 / 32) (31 % 32) = true) ∧
    hostReaches (0x040000 / 0x10000) (up 3 3) ∧ rowAt 0x3FFFFC = none ∧ blockOpen (0x040000 / 0x10000) (up 0 0) = false ∧
    (rowAt 0x040000).isSome = true ∧ (∀ r, rowAt 0x040000 = some r → r.base ∉ ownWrites) ∧ (0x10C000 / 0x10000 ≠ 0x0F) ∧ (up 0 3).mode = 0 ∧
    blockOpen (0x040000 / 0x10000) (up 6 0) = false := by
  unfold hostReaches; decide +kernel

/-! ### Premises: the log, the keys and the tampers -/

def rec0 : SofRec := ⟨0, false, true, false, 0x0303, 0, 0, 0, 0, 0, 0, 0, 1⟩

theorem test_premises_log :
    hostReaches 0x12 (up 3 3) ∧ hostReaches 0x13 (up 3 3) ∧ (up 3 3).log.replay = none ∧ (ringOf (up 3 3) 12).waiting = [] ∧
    (let p : Replay := ⟨0, 1, 8191, 1⟩; p.pos < areaSize p.area) ∧ (up 3 3).log.priv = [] ∧
    (let m : Main := { up 3 3 with log.priv := [(3, rec0)] }; m.log.priv = [(3, rec0)] ∧ m.mode ≠ Md.ship ∧ m.mode ≠ Md.daylight) ∧
    limitOf (up 3 3) 0xFFFF = none ∧ (limitOf (up 3 3) 0x0405).isSome = true ∧
    (let m : Main := { up 3 3 with log := { (up 3 3).log with spent := [(0x0405, 1)], supp := [(0x0405, 1)] } };
      m.log.opSec % ((limitOf m 0x0405).getD (1, 1)).2 = 0 ∧ sget (fun _ => 0) m.log.spent 0x0405 = 1 ∧ sget (fun _ => 0) m.log.supp 0x0405 ≠ 0 ∧ m.mode ≠ Md.hold) ∧
    (up 3 3).bit F.SKY_CTRL_TRACE_EN = false ∧
    (let m : Main := { set1 F.SKY_CTRL_TRACE_EN 1 (up 3 3) with log := { (up 3 3).log with skyDrops := 1, sky := [⟨1, 0, 0⟩] } };
      m.bit F.SKY_CTRL_TRACE_EN = true ∧ m.log.skyDrops ≠ 0 ∧ m.log.sky.length < 127) ∧
    (let m : Main := { set1 F.SKY_CTRL_TRACE_EN 1 (up 3 3) with log.sky := [⟨1, 0, 0⟩] };
      m.bit F.SKY_CTRL_TRACE_EN = true ∧ ¬ m.log.skyDrops ≠ 0 ∧ m.log.sky = [⟨1, 0, 0⟩]) := by
  unfold hostReaches; decide +kernel

/-- A key operation runs for the command taken from ring 0. -/
def operating (opcode : Nat) (m : Main) : Main :=
  { m with key.op := some ⟨some 0, opcode, zeros 240⟩, host.rings := m.host.rings.set 0 { Ring.reset with cur := some (0, desc 0 0 0 []) } }

theorem test_premises_key_ops :
    (up 3 3).key.op = none ∧ (operating 0x0701 (up 3 3)).key.op = some ⟨some 0, 0x0701, zeros 240⟩ ∧ (0 : Nat) < 8 ∧
    accepts ⟨isOp 0x0701, false, fun d => d.length == 240, 0, 0, openGate⟩ (ringed (up 3 3)) 0 (desc 0x0701 0 0 (zeros 240)) ∧
    accepts ⟨isOp 0x0703, false, fun d => d.length == 72, 0, 0, openGate⟩ (ringed (up 3 3)) 0 (desc 0x0703 0 0 (zeros 72)) ∧
    accepts ⟨isOp 0x0706, false, fun d => decide (1304 ≤ d.length), 0, 0, openGate⟩ (ringed (up 3 3)) 0 (desc 0x0706 0 0 (zeros 1304)) ∧
    accepts ⟨isOp 0x0702, bitOf 0x180 6, fun d => d.length == (if bitOf 0x180 6 then 0 else 72), 0x1FF, 0, openGate⟩ (ringed (up 3 3)) 0
      (desc 0x0702 0x180 0 (zeros 72)) ∧
    accepts ⟨isOp 0x0702, bitOf 0x7F 6, fun d => d.length == (if bitOf 0x7F 6 then 0 else 72), 0x1FF, 0, openGate⟩ (ringed (up 3 3)) 0
      (desc 0x0702 0x7F 0 []) := by
  unfold accepts takes; decide +kernel

/-- A nonce of 0 and the CMAC over it that KEY_ZEROISE asks for under K_HST. -/
def underHst0 : Desc := desc 0x0705 0 0 (zeros 8 ++ beBytes 16 211966307912464245033373659622731150179)
theorem test_premises_key_bumps :
    accepts ⟨bumpRow false, false, fun d => d.length == 24, 1, 0, openGate⟩ (ringed (up 3 3)) 0 (desc 0x0704 0 0 (zeros 24)) ∧
    accepts ⟨bumpRow true, false, fun d => d.length == 24, 1, 0, openGate⟩ (ringed (up 3 3)) 0 (desc 0x0704 1 0 (zeros 24)) ∧
    (let m := set1 F.KEY_STATUS_STATE 1 (keyed (ringed (up 3 3)));
      accepts ⟨isOp 0x0705, false, fun d => d.length == 24, 0, 0, openGate⟩ m 0 underHst0 ∧ m.key.op = none ∧ hstReady m = true ∧
      cmacGood underHst0 0x0705 underHst0.data m = true ∧ lle underHst0.data 0 8 = keyNonce m ∧ lle ([1] ++ zeros 23) 0 8 ≠ keyNonce m) ∧
    hstReady (up 3 3) = false := by
  unfold accepts takes; decide +kernel

theorem test_premises_tampers :
    (up 3 3).bit F.TMP_IN_CFG_ENABLE 3 = false ∧
    (let m := (up 3 3).putBit F.TMP_IN_CFG_ENABLE true 3;
      m.bit F.TMP_IN_CFG_ENABLE 3 = true ∧ raisedOf m 3 = false ∧ raisedOf m 4 = false ∧
      (m.putBit F.TMP_IN_CFG_CLASS false 3).bit F.TMP_IN_CFG_CLASS 3 = false ∧ (m.putBit F.TMP_IN_CFG_CLASS true 3).bit F.TMP_IN_CFG_CLASS 3 = true) ∧
    (let m : Main := { (up 3 3).putBit F.TMP_IN_CFG_ENABLE true 3 with key.raised := Vector.replicate 5 true };
      m.bit F.TMP_IN_CFG_ENABLE 3 = true ∧ raisedOf m 3 = true ∧ raisedOf m 4 = true) ∧
    tampAsserted (up 3 3) 3 false ≠ tampAsserted (up 3 3) 3 true ∧ (up 6 3).mode = Md.daylight ∧ (up 0 3).mode = Md.ship ∧
    (ringOf (operating 0x0703 (up 3 3)) 0).cur = some (0, desc 0 0 0 []) := by decide +kernel


/-! ### Premises: updates and power -/

def limgKind (d : Desc) : CmdKind :=
  ⟨isOp 0x0811, d.length == 0 && bitOf d.param 2, fun d => if bitOf d.param 2 then d.length == 0 else decide (4 ≤ d.length), 7, 0, openGate⟩
/-- One ligger chain of lantern 0, running as chain 0. -/
def chains : Img := num 14 2 1 ++ plan [(15, 2000, 128, 1)] [(2000, 1, 1)]
def chained (k : LChain) : Main :=
  { runs chains (up 3 3) with upd.chains := [(0, some k)], ylm := { (runs chains (up 3 3)).ylm with slot := 100000 } }
def chain0 (lastAt : Option Nat) : LChain := ⟨0, 0xFFFF, 0, lastAt, [], 0, 0⟩

theorem test_premises_ligger :
    accepts (limgKind (desc 0x0811 1 0 [1, 2, 3, 4])) (ringed (up 3 3)) 0 (desc 0x0811 1 0 [1, 2, 3, 4]) ∧
    accepts (limgKind (desc 0x0811 4 0 [])) (ringed (up 3 3)) 0 (desc 0x0811 4 0 []) ∧
    accepts (CmdKind.plain 0x0812 0x7FF activeGate) (ringed (up 3 3)) 0 (desc 0x0812 0x7FF 0 []) ∧
    accepts (CmdKind.plain 0x0813 0x7FF activeGate) (ringed (up 3 3)) 0 (desc 0x0813 0x7FF 0 []) ∧
    standby (pair 1) = true ∧ runImg (up 3 3) = none ∧ chainOf (up 3 3) 0 = none ∧
    (let m := chained (chain0 none); chainOf m 0 = some (chain0 none) ∧ overdue m (chain0 none) = false) ∧
    (let m := chained (chain0 (some 0));
      standby m = false ∧ runImg m = some chains ∧ chainOf m 0 = some (chain0 (some 0)) ∧ overdue m (chain0 (some 0)) = true ∧
      firstOpen m chains 0 (chain0 (some 0)) = some (0, 0xFFFF)) ∧
    (let m : Main := { chained (chain0 none) with upd.sched := [(1000, 3, 0, 0), (1001, 1, 0, 0)] };
      m.upd.sched.filter (fun x => decide (x.1 ≤ m.course)) = [(1000, 3, 0, 0)]) ∧
    (let m : Main := { chained (chain0 none) with upd.sched := [(1001, 1, 0, 0)] }; ∀ x ∈ m.upd.sched, m.course < x.1) := by
  unfold accepts takes; decide +kernel

/-- A chunk waits to be read back. -/
def writingOne (readOk last : Bool) (m : Main) : Main := { set1 F.UPD_STATUS_STATE 1 m with upd.writing := some ⟨readOk, last, none⟩ }

theorem test_premises_images :
    (up 3 3).mode ≠ Md.recovery ∧ (writingOne true true (up 3 3)).upd.writing.isSome = true ∧ (writingOne true true (up 3 3)).upd.held < 256 ∧
    accepts ⟨imageRow false, false, fun d => decide (4 ≤ d.length), 7, 0, openGate⟩ (ringed (up 3 3)) 0 (desc 0x0801 1 0 [1, 2, 3, 4]) ∧
    chunkCause 0 true [1, 2, 3, 4] (ringed (up 3 3)) ≠ 0 ∧
    accepts ⟨imageRow true, (desc 0x0801 4 0 []).length == 0, fun d => d.length == 0, 7, 0, openGate⟩ (ringed (up 3 3)) 0 (desc 0x0801 4 0 []) ∧
    cmdTurn (ringAt 1 1 ((up 1 0).put F.HST_RING_DB_LIMIT 1 1)) 1 = true ∧ imageRow false (desc 0x0801 1 0 []) = true ∧ imageRow true (desc 0x0801 4 0 []) = true ∧ updState (set1 F.UPD_STATUS_STATE 1 (up 3 3)) = Us.writing ∧ updState (up 3 3) ≠ Us.writing ∧
    (up 3 3).upd.writing = none ∧ (up 1 0).mode = Md.recovery ∧
    accepts ⟨isOp 0x0802, true, fun d => d.length == 0, 1, 2 ^ 48 - 1, openGate⟩ (ringed (up 3 3)) 0 (desc 0x0802 1 (2 ^ 48 - 1) []) ∧
    accepts ⟨isOp 0x0803, true, fun d => d.length == 0, 0x7F, 2 ^ 48 - 1, fun _ => if bits (desc 0x0803 3 0 []).param 6 1 = 0 then some (.fail St.badParam 1) else none⟩
      (ringed (up 3 3)) 0 (desc 0x0803 3 0 []) := by
  unfold accepts takes; decide +kernel

/-- A staged image with an activation that is due; `set` says whether a chain set it, and the partner's state. -/
def staged (chain : Bool) (m : Main) : Main := { set1 F.UPD_STATUS_STATE 2 m with upd := { m.upd with actAt := some (0, chain) } }

theorem test_premises_activation :
    (up 3 3).upd.actAt = none ∧
    (let m := staged false (up 3 3);
      m.upd.actAt = some (0, false) ∧ updState m = Us.staged ∧ 0 ≤ m.course ∧ canRestart m = true ∧ m.upd.complete = true ∧ m.upd.stagedSec < 2 ^ 32) ∧
    (let m := staged true (pair 2); paired m = true ∧ m.bit F.RED_STATUS_ACTIVE = true ∧ m.bit F.RED_STATUS_PARTNER_UP = true ∧ m.course < 0 + 600) ∧
    (let m := staged true (set1 F.RED_STATUS_PARTNER_UP 0 (pair 2)); m.bit F.RED_STATUS_PARTNER_UP = false ∧ updState m = Us.staged) ∧
    (let m : Main := { staged true (pair 2) with ylm.slot := 60000 }; 0 + 600 ≤ m.course ∧ updState m = Us.staged) ∧
    (let m : Main := { up 3 3 with upd := { (up 3 3).upd with actAt := some (1, false) } }; m.course < 1) := by decide +kernel

/-- An image being fetched from address 1 at port A. -/
def fetching (m : Main) : Main := { m with upd.fetch := m.upd.fetch.set 0 (some ⟨1, 0, 0, [], 0, []⟩) }
def piece (status i : Nat) (n : Nat) : RidgeFrame :=
  { ridge with payload := [0x42, BitVec.ofNat 8 status, 0, 0, BitVec.ofNat 8 i, 0, 0, 0] ++ zeros n }

theorem test_premises_image_fetch :
    lbe ([0x41, 0, 0, 0] ++ beBytes 8 (2 ^ 63)) 4 8 = 2 ^ 63 ∧ (up 3 3).upd.fetch[0] = none ∧
    (fetching (up 3 3)).upd.fetch[0] = some ⟨1, 0, 0, [], 0, []⟩ ∧ (piece 0 63 1024).src = 1 ∧ lbe (piece 0 63 1024).payload 2 2 = 0 ∧ ¬ 64 ≤ ((piece 0 63 1024).payload.getD 4 0).toNat ∧
    (fetching (up 3 3)).upd.writing.isSome = false ∧ (piece 0 63 1024).payload.length = 1032 ∧ ((piece 2 0 0).payload.getD 1 0).toNat = 2 ∧
    ((piece 1 0 0).payload.getD 1 0).toNat ≠ 0 ∧ 64 ≤ ((piece 0 64 1024).payload.getD 4 0).toNat ∧
    (1 : Nat) < 0xFFF ∧ (ports 3 3 1 2 (up 3 3)).get F.RDG_PORT_STATUS_HEARD 0 = 1 ∧ portState (ports 3 3 1 2 (up 3 3)) 0 ∈ [Ps.matched, Ps.mismatch, Ps.unplanned] ∧
    countClass 3 (ports 3 3 1 2 (up 3 3)).rdg.ports[0].queue < bulkMax (ports 3 3 1 2 (up 3 3)) := by decide +kernel

theorem test_premises_resets :
    (up 0 0).mode = Md.ship ∧ (up 3 3).mode ≠ Md.ship ∧ (up 3 3).mode ≠ Md.daylight ∧ (up 3 3).mode ≠ Md.hold ∧ (up 3 3).pwr.unlocked = false ∧
    ({ up 3 3 with pwr.unlocked := true } : Main).pwr.unlocked = true ∧ hostReaches 1 (up 2 3) ∧
    (let m : Main := { set1 F.RDG_ADDR_ADDR 9 (up 2 3) with key.ownerPub := some 1 };
      m.mode = Md.commission ∧ (0x5A5A0001 / 2 ^ 16 % 2 ^ 16 = 0x5A5A) ∧ (0x5A5A0001 : Nat).testBit 0 = true ∧ start0.strap = false ∧ m.key.ownerPub ≠ none ∧
      ¬ 0xF00 ≤ m.get F.RDG_ADDR_ADDR) ∧
    (0x5A5A0002 : Nat).testBit 1 = true ∧ (0x5A5A0002 : Nat).testBit 0 = false ∧ (up 2 3).key.ownerPub = none ∧
    (let m : Main := { up 6 1 with key.zrsPend := true, pwr.wakeAt := some 0 };
      m.mode = Md.daylight ∧ m.key.zrsPend = true ∧ m.pwr.wakeAt = some 0 ∧ (0 : Int) ≤ calNow m) ∧
    (let m : Main := { up 3 3 with pwr.fbr := some (0, 255) }; m.pwr.fbr = some (0, 255) ∧ canRestart m = true) ∧ (up 3 3).pwr.fbr = none ∧
    (let m := set1 F.PWR_CTRL_FBR_EN 1 (ports 3 3 1 2 (up 3 3));
      (toward 9).isOpen = false ∧ (toward 9).dst = ownAddr m ∧ lbe ([0x2F, 0, 0, 0] ++ zeros 8) 4 8 = m.fuse.eui ∧ m.bit F.PWR_CTRL_FBR_EN = true) := by
  unfold hostReaches; decide +kernel

theorem test_premises_modes :
    (up 0 0).mode = Md.ship ∧ (up 7 3).mode = Md.hold ∧ (up 3 3).mode ≠ Md.hold ∧ (up 3 3).log.priv.length < 255 ∧
    (let m := set1 F.RDG_ADDR_IN_USE 9 (up 3 3); portState m 0 ≠ Ps.matched ∧ portState m 1 ≠ Ps.matched ∧ m.mode = Md.active) ∧
    portState (ports 3 3 1 2 (up 5 3)) 0 = Ps.matched ∧ (up 5 3).mode = Md.island ∧
    (let m : Main := { up 5 3 with pwr.dayRun := 60 }; m.mode = Md.island ∧ 60 ≤ m.pwr.dayRun) ∧ ¬ 60 ≤ (up 3 3).pwr.dayRun ∧
    (let m : Main := { up 6 1 with pwr.wakeAt := some 0, key.evtPend := [5] };
      m.mode = Md.daylight ∧ m.pwr.wakeAt = some 0 ∧ (0 : Int) ≤ calNow m ∧ m.key.evtPend ≠ [] ∧ m.key.zrsPend = false) ∧
    FieldLand.gbl 53 ∉ (up 3 3).pwr.overV ∧ FieldLand.gbl 53 ∈ ({ up 3 3 with pwr.overV := [FieldLand.gbl 53] } : Main).pwr.overV := by decide +kernel

/-- An image of one chunk: its header, signed by r and s that are both the same number, and a body of zeros. -/
def imageData : List Byte :=
  leBytes 4 0x57465A55 ++ leBytes 2 1 ++ leBytes 2 1 ++ zeros 4 ++ leBytes 4 1024 ++ leBytes 2 1 ++ zeros 14 ++
    beBytes 32 0xef115a0e0c15cdc41958ca46b5b14b456115f4baec5e3ca68599d2a8f435e3b8 ++ zeros 128 ++
    beBytes 32 0x50bad124da12767f20685899fbaadd226e48ee66e0d08b4df5445692bbf97079 ++ beBytes 32 0x50bad124da12767f20685899fbaadd226e48ee66e0d08b4df5445692bbf97079 ++ zeros 768
def makerPub : Nat := 2 ^ 256 * 0x51142833ab47a84f4f76ae3dee92e22fe97c67ae58fbcbbf66436cf365d0d038 +
  0x16bd4e6401ba2d233df7b1fa95a8c13a0043264ecda50845cb36a04bcd5facb9
def maker : Main := { up 3 3 with fuse.fwPub := BitVec.ofNat 512 makerPub }

theorem image_facts : lle imageData 0 4 = 0x57465A55 ∧ lle imageData 4 2 = 1 ∧ Ih.lengths imageData = true ∧ Ih.chunkLen imageData 0 = 1024 ∧
    bitOf (lle imageData 6 2) maker.fuse.variant = true ∧ Ih.security imageData = 0 ∧ lle imageData 18 2 = 0 ∧ maker.get F.UPD_SEC_MIN = 0 ∧ Ih.chunks imageData = 1 ∧
    updState maker ≠ Us.writing ∧ imageData.length = 1024 := by decide +kernel
theorem image_signed : Ih.signed imageData maker = true := by decide +kernel
theorem image_hashed : chunkHashed 0 imageData maker = true := by decide +kernel
theorem test_premises_first_chunk : chunkCause 0 true imageData maker = 0 := by
  obtain ⟨a, b, c, d, e, f, g, h, i, j, k⟩ := image_facts
  simp [chunkCause, headerCause, image_signed, image_hashed, a, b, c, d, e, f, g, h, i, j, k]

/-- The second of two chunks is awaited, and the hash before it is that of 1,024 zeros. -/
def image1 : Img := num 12 4 66560 ++ num 16 2 2 ++
  (beBytes 32 0x5f70bf18a086007016e948b04aed3b82103a36bea41755b6cddfaf10ace3c6ef).zipIdx.map fun p => (65504 + p.2, p.1)
def second1 : Main :=
  { set1 F.UPD_STATUS_STATE 1 (up 3 3) with upd := { (up 3 3).upd with held := 1, factory := false, img := image1 } }
theorem second1_head : Ih.chunkLen (regionHead second1) 1 = 1024 ∧ Ih.chunks (regionHead second1) = 2 ∧ updState second1 = Us.writing ∧ second1.upd.held = 1 ∧
    second1.upd.writing = none := by decide +kernel
theorem second1_hash : chunkHashed 1 (zeros 1024) second1 = true := by decide +kernel
theorem test_premises_last_chunk : chunkCause 1 true (zeros 1024) second1 = 0 := by
  have l : (zeros 1024).length = 1024 := by rw [zeros, List.length_replicate]
  simp [chunkCause, second1_head, second1_hash, l]

/-! ### A bundle whose content passes every check of R35; its hashes and signature are those of no key -/

/-- One lantern, one template of idle cells, and every required section. -/
def whole : Img := plan [(1, 512, 3200, 1), (2, 3712, 3600, 3600), (3, 7360, 1600, 0), (4, 8960, 1024, 1), (5, 9984, 2048, 256), (6, 12032, 128, 1),
    (7, 12160, 32768, 0), (9, 44928, 48, 1), (10, 44992, 64, 1)]
  ([(0, 4, 0x4D4C4559), (4, 2, 1), (6, 1, 7), (9, 1, 1), (10, 2, 0xF00), (12, 2, 0xFFFF), (14, 2, 1), (40, 4, 45184)] ++
    (List.range 9).map (fun i => (66 + 48 * i, 2, if i < 7 then 1 else 0)) ++
    [(44948, 2, 4096), (44952, 2, 1), (44954, 2, 4095), (44992, 4, 8), (45015, 1, 1), (45016, 1, 1), (45017, 1, 4), (45022, 2, 60), (45048, 1, 2), (45050, 2, 1)])

theorem sget_absent (o : Nat) : ∀ b : Img, (∀ p ∈ b, p.1 ≠ o) → sget (fun _ => 0) b o = 0
  | [], _ => rfl
  | (j, v) :: t, h => by
    rw [sget, if_neg (h _ List.mem_cons_self)]
    exact sget_absent o t fun p hp => h p (List.mem_cons_of_mem _ hp)

theorem whole_keys : ∀ p ∈ whole, p.1 < 512 ∨ 44928 ≤ p.1 := by decide +kernel

theorem whole_le : ∀ n o, 512 ≤ o → o + n ≤ 44928 → le whole o n = 0
  | 0, _, _, _ => rfl
  | n + 1, o, h, k => by
    rw [le, whole_le n (o + 1) (by omega) (by omega), sget_absent o whole fun p hp e => by have := whole_keys p hp; omega]
    rfl

theorem whole_offsets : sectOff whole 1 = 512 ∧ sectOff whole 2 = 3712 ∧ sectOff whole 3 = 7360 ∧ sectOff whole 4 = 8960 ∧ sectOff whole 5 = 9984 ∧
    sectOff whole 6 = 12032 ∧ sectOff whole 7 = 12160 := by decide +kernel

theorem whole_counts : Hdr.templates whole = 1 ∧ sectCount whole 3 = 0 ∧ sectCount whole 6 = 1 ∧ sectCount whole 8 = 0 ∧ sectCount whole 7 = 0 ∧ sectLen whole 7 = 32768 ∧
    (sect whole 11).isSome = false ∧ (sect whole 12).isSome = false ∧ purHas whole = false ∧ sect whole 14 = none ∧ sect whole 15 = none := by decide +kernel

theorem whole_word (s l : Nat) (hs : s < 100) (hl : l < 8) : cellWord whole 0 s l = 0 := by
  rw [cellWord, whole_offsets.1]; exact whole_le 4 _ (by omega) (by omega)

theorem whole_chan (l c : Nat) (hl : l < 8) (hc : c < 256) : chanPresent whole l c = false := by
  rw [chanPresent, chanOff, whole_offsets.2.2.2.2.2.2, whole_le 1 _ (by omega) (by omega)]; rfl

theorem whole_shape (l : Nat) (hl : l < 8) : ∀ n s, s + n ≤ 100 → laneShape whole 0 l n s 0 0 = true ∧ laneShape whole 0 l n s 0 1 = true
  | 0, _, _ => ⟨rfl, rfl⟩
  | n + 1, s, h => by
    have := whole_shape l hl n (s + 1) (by omega)
    simp only [laneShape, whole_word s l (by omega) hl]
    exact ⟨by simpa [CellW.action, CellW.len, bits] using this.2, by simpa [CellW.action, CellW.len, bits] using this.2⟩

theorem whole_cells : cellsValid whole = true := by
  simp only [cellsValid, whole_counts.1, List.all_eq_true, List.mem_range, Bool.and_eq_true]
  intro t ht l hl
  obtain rfl : t = 0 := by omega
  refine ⟨⟨(whole_shape l hl 100 0 (by omega)).1, ?_⟩, fun s hs => ?_⟩
  · have e : (List.range 100).map (fun s => cellWord whole 0 s l) = (List.range 100).map fun _ => 0 :=
      List.map_congr_left fun s hs => whole_word s l (List.mem_range.1 hs) hl
    rw [joinOrder, e]; decide
  · rw [whole_word s l hs hl]; simp [wordOk, prefOk, CellW.action, CellW.pref, CellW.seat, CellW.chan, bits]

theorem whole_tables : sequenceRange whole = true ∧ almanacOrder whole = true ∧ profileRange whole = true ∧ criteriaValid whole = true ∧
    groupsValid whole = true ∧ sheavesValid whole = true ∧ channelsValid whole 0 = true := by
  obtain ⟨o1, o2, o3, o4, o5, o6, o7⟩ := whole_offsets
  obtain ⟨c1, c3, c6, c8, c7, l7, -⟩ := whole_counts
  refine ⟨?_, ?_, ?_, ?_, ?_, ?_, ?_⟩
  · simp only [sequenceRange, templateAt, o2, c1, List.all_eq_true, List.mem_range]
    intro c hc; rw [whole_le 1 _ (by omega) (by omega)]; rfl
  · have c : ∀ d, d < 400 → le whole (7360 + 4 * d) 2 = 0 ∧ le whole (7360 + 4 * d + 2) 1 = 0 ∧ le whole (7360 + 4 * d + 3) 1 = 0 := fun d hd =>
      ⟨whole_le 2 _ (by omega) (by omega), whole_le 1 _ (by omega) (by omega), whole_le 1 _ (by omega) (by omega)⟩
    have f : ∀ (t : List Nat) n, (∀ d ∈ t, d < 400) → t.foldl (fun n d => n + le whole (7360 + 4 * d + 2) 1) n = n := by
      intro t; induction t with
      | nil => intros; rfl
      | cons d t ih => intro n h; rw [List.foldl_cons, (c d (h d List.mem_cons_self)).2.1]; exact ih n fun e he => h e (List.mem_cons_of_mem _ he)
    simp only [almanacOrder, almanacDay, o3, c3, f (List.range 400) 0 fun d hd => List.mem_range.1 hd, List.all_eq_true, List.mem_range, Bool.and_eq_true]
    refine ⟨⟨⟨⟨by rw [(c 0 (by omega)).1]; rfl, fun d hd => ?_⟩, by rfl⟩, fun d hd => ?_⟩, fun i hi => by omega⟩
    · rw [(c d (by omega)).1, (c (d + 1) (by omega)).1, (c d (by omega)).2.1]; rfl
    · rw [(c d hd).2.1, (c d hd).2.2]; exact ⟨⟨by decide, by rfl⟩, by rfl⟩
  · have e : ∀ p, p < 256 → le whole (8960 + 2 * p) 2 = 0 := fun p hp => whole_le 2 _ (by omega) (by omega)
    simp only [profileRange, o4, c3, List.all_eq_true, List.mem_range, Bool.and_eq_true]
    refine ⟨fun p hp => ?_, fun i hi => by omega⟩
    rw [e p hp]; rfl
  · simp [criteriaValid, c8]
  · simp only [groupsValid, groupFloor, groupLoop, o5, List.all_eq_true, List.mem_range]
    intro g hg
    rw [whole_le 2 _ (by omega) (by omega), whole_le 1 _ (by omega) (by omega), whole_le 4 _ (by omega) (by omega)]; rfl
  · have e : (List.range 64).map (sheafEntry whole 0) = (List.range 64).map fun _ => 0 :=
      List.map_congr_left fun i hi => by
        have := List.mem_range.1 hi
        rw [sheafEntry, o6]; exact whole_le 2 _ (by omega) (by omega)
    have n : Hdr.lanterns whole = 1 := by decide +kernel
    simp only [sheavesValid, c6, List.all_eq_true, List.mem_range]
    intro i hi
    obtain rfl : i = 0 := by omega
    rw [sheafOk, e, n]; decide
  · simp only [channelsValid, c7, l7, Bool.and_eq_true, List.all_eq_true, List.mem_range]
    exact ⟨⟨by decide, by decide⟩, fun l hl c hc => by rw [whole_chan l c hl hc]; rfl⟩

theorem whole_rest : sectionLayout whole = true ∧ residentSize whole = true ∧ headerRange whole = true ∧ sheafCctOk whole = true ∧
    inventoryValid whole = true ∧ schedulesValid whole = true := by decide +kernel

theorem whole_waves : wavesValid whole = true ∧ purlinValid whole = true ∧ (∀ a, routesValid whole a = true) ∧ chainsValid whole = true := by
  obtain ⟨c1, -, -, -, -, -, w1, w2, p, r, k⟩ := whole_counts
  refine ⟨?_, by simp [purlinValid, p], fun a => by simp [routesValid, r], by simp [chainsValid, k]⟩
  have : waveCellsOk whole = true := by
    simp only [waveCellsOk, c1, List.all_eq_true, List.mem_range]
    intro t ht l hl s hs
    obtain rfl : t = 0 := by omega
    rw [whole_word s l hs hl]; rfl
  rw [wavesValid, this, w1, w2]
  cases h : sect whole 11 with
  | none => rfl
  | some x => simp [h] at w1

theorem test_bundle_content :
    (headerRange whole && sectionLayout whole && residentSize whole && cellsValid whole && sequenceRange whole && almanacOrder whole && profileRange whole &&
      criteriaValid whole && groupsValid whole && sheavesValid whole && sheafCctOk whole && channelsValid whole 0 && inventoryValid whole && schedulesValid whole &&
      wavesValid whole && purlinValid whole && routesValid whole 0xF00 && chainsValid whole) = true := by
  obtain ⟨t1, t2, t3, t4, t5, t6, t7⟩ := whole_tables
  obtain ⟨r1, r2, r3, r4, r5, r6⟩ := whole_rest
  obtain ⟨v1, v2, v3, v4⟩ := whole_waves
  simp [whole_cells, t1, t2, t3, t4, t5, t6, t7, r1, r2, r3, r4, r5, r6, v1, v2, v3, v4]
/-! ### The worked examples of the spec, on its own figures -/

/-- Entry 0x05 of lane L0 (chapter 03), with the pool of eight frequencies. -/
def kellbury : Chan := ⟨0x11, 0x1C, true, true, 8, 0, 0, 8, 3, false, 0⟩
def pool : Img := plan [(7, 200, 0, 0)] (([863100, 863700, 864300, 864900, 865500, 866100, 866700, 867300] : List Nat).zipIdx.map fun p => (200 + 32768 + 4 * p.2, 4, p.1))

theorem test_example_hops : [2, 4, 6].map (cellFreq pool kellbury 2557) = [864300, 863100, 866700] := by decide +kernel
theorem test_example_airtime_radio : airtime kellbury 152 = 39360 ∧ airtime kellbury 52 = 15360 ∧ airtime kellbury 288 = 72000 := by decide
theorem test_example_airtime_plc : airtime ⟨0x41, 0, false, false, 0, 0, 0, 0, 0, false, 0x3F⟩ 148 = 199635 := by decide
/-- k_max is 9 for a one-slot cell (chapter 06). -/
theorem test_example_k_max :
    airtime kellbury (psduLen 0 (24 + 8 * 9)) ≤ airLimit 1 ∧ airLimit 1 < airtime kellbury (psduLen 0 (24 + 8 * 10)) := by decide
theorem test_example_cell_word :
    CellW.action 0x1305000E = 1 ∧ CellW.len 0x1305000E = 2 ∧ CellW.seat 0x1305000E = 1 ∧ CellW.chan 0x1305000E = 5 ∧
    CellW.pref 0x1305000E = 14 := by decide

/-! Lantern 931 (chapters 04–06) -/

theorem test_example_demand_cut :
    scaleOffset 3277 = -132 ∧ composeLevel 3584 2048 0 0 3277 400 4095 = 3452 ∧ encodeLevel 3584 4403 = 3541 ∧
    encodeLevel 3452 4403 = 3409 := by decide +kernel
theorem test_example_contribution :
    [3541, 3409, 3520].map (contribution [4, 31, 58, 92, 141, 215, 322, 480]) = [33037, 30352, 32470] := by decide
theorem test_example_ramp :
    rampStep 906496 3409 5 = 901254 ∧ rampStep 875044 3409 5 = 872704 ∧ rampStep 786432 3584 5 = 791674 ∧
    rampStep 917482 3584 5 = 917504 := by decide
theorem test_example_wave_level :
    composeLevel 3584 2048 4095 0 3277 400 4095 = 3963 ∧ encodeLevel 3963 4096 = 3963 ∧ encodeLevel 3963 4403 = 3920 := by decide +kernel

/-- The body of the cyclist's WAVE frame (chapter 06). -/
theorem test_example_wave_body :
    let c := 195158055700
    let step (l d h : Nat) : WStep := ⟨l, 4095, 3, c + 7 + d, c + 7 + d + h, 7, false⟩
    let r := takeSteps (fun s => if s.lantern = 931 then 3920 else 3963) (some 23) (c + 18) 9 [step 929 10 1500, step 930 40 2100, step 931 70 2700]
    waveBody (c + 18) 23 r.1 =
      [0x8D, 0xC1, 0x52, 0x74, 0x12, 0x03, 0x17, 0x00, 0xA1, 0x03, 0x7B, 0x3F, 0x00, 0xDB, 0x05, 0x07,
       0xA2, 0x03, 0x7B, 0x3F, 0x1D, 0x34, 0x08, 0x07, 0xA3, 0x03, 0x50, 0x3F, 0x3B, 0x8C, 0x0A, 0x07] := by decide +kernel

/-! The demand cap (chapter 07) -/

def still : StageEnv := ⟨0, false, fun _ _ => 0, fun _ _ => 0, 1000, none⟩
def capStage : StageCfg := ⟨8, false, false, true, [], 0, [Bf.zero, ⟨60000, 0⟩, Bf.ofWord 0x00019000, Bf.ofWord 0x00019000]⟩
def vec (m0 m1 x : Int) (dir : Nat) : PStage := ⟨m0, m1, 0, 0, x, dir, 0, false, 0, false, 0⟩
def steady (v : Int) : Nat → Bf := fun _ => Bf.ofInt v

theorem test_example_cap_falls :
    let r := (stageSample capStage still (vec 2099200 179200 (-6) 2) (steady 30000)).1.renorm.1
    (r.m0, r.x, r.fast) = (4147200, -7, 0) := by decide +kernel
theorem test_example_cap_turns :
    let r := (stageSample capStage still (vec 4096000 0 (-7) 2) (steady 36000)).1.renorm.1
    let q := (stageSample capStage still (vec 4147200 0 (-7) 1) (steady 36000)).1.renorm.1
    (r.m0, r.x, r.dir, q.m0, q.x) = (4147200, -7, 1, 2099200, -6) := by decide +kernel
theorem test_example_pi :
    let g : StageCfg := ⟨2, true, false, false, [], 0, [Bf.ofWord 0x400000E7, Bf.ofWord 0x400000E4]⟩
    let r := stageSample g still (vec 3379200 3379200 (-10) 0) fun k => if k = 0 then ⟨4096000, -7⟩ else ⟨4192000, -7⟩
    (r.1.m0, r.1.m1, r.1.x, r.2) = (3271200, 3367200, -10, false) := by decide +kernel
theorem test_example_limit :
    let g : StageCfg := ⟨8, false, false, false, [], 5, [⟨2458, 0⟩, ⟨4096, 0⟩, ⟨41, 0⟩, ⟨41, 0⟩]⟩
    let r := (stageSample g still (vec 3379200 0 (-10) 2) fun _ => ⟨3271200, -10⟩).1
    (r.m0, r.x) = (3337216, -10) := by decide +kernel

/-! The step on feeder B and its interval (chapters 08 and 09) -/

def bytesAt (n : Nat) (xs : List (Nat × Nat × Nat)) : List Byte :=
  xs.foldl (fun (l : List Byte) x => l.take x.1 ++ leBytes x.2.1 x.2.2 ++ l.drop (x.1 + x.2.1)) (zeros n)
/-- Feeder B on CTs of 100/5 A with 50 mΩ, UN 230.0 V, 50 Hz, in a totalling mode. -/
def ringRoad (arith : Nat) : List Byte :=
  bytesAt 240 ([4, 5, 6].flatMap (fun c => [(12 * c, 1, 2), (12 * c + 2, 2, 100), (12 * c + 4, 2, 500)]) ++
    [(224, 2, 2300), (226, 1, 50), (227, 1, arith), (228, 1, 13)])
def meter (arith : Nat) : Dormer := { Dormer.reset with meas := ringRoad arith }
/-- The sums of 80 samples of the example's figures. -/
def charging : Sums :=
  { vi := [0, 0, 0, 9216, 8640, -1152].map (· * (80 * 10 ^ 12)), vhi := [0, 0, 0, 2688, 2520, 336].map (· * (80 * 10 ^ 12)),
    vv := [80 * 240000000 ^ 2, 80 * 240000000 ^ 2, 80 * 240000000 ^ 2, 0],
    ii := [0, 0, 0, 0, 80 * 40000000 ^ 2, 80 * 37500000 ^ 2, 80 * 5000000 ^ 2], freq := [], ang2 := 12000, ang3 := 24000, imp := 0 }

theorem test_example_sensor : [4, 5, 6].all (currentOk (ringRoad 0)) = true := by decide +kernel
/-- 5 A in the burden of 50 mΩ are 250 mV, a quarter of full scale, and 100 A in the line (R255). -/
theorem test_example_scaled : scaled (ringRoad 0) 4 (2 ^ 21) = 100000000 := by decide +kernel
theorem test_example_energies : [0, 1, 2].map (energy (meter 0) charging 80 1) = [25600000, 24000000, -3200000] := by decide +kernel
theorem test_example_vector : feederAdds (meter 0) charging 80 1 = [46400000, 0, 15400000, 0, 0, 0, 55000000, 0] := by decide +kernel
theorem test_example_arithmetic :
    feederAdds (meter 1) charging 80 1 = [49600000, 3200000, 14466667, 933333, 0, 0, 51666667, 3333333] := by decide +kernel
theorem test_example_block :
    let b := feederBlk (meter 0) charging 80 1
    (b.pNet, b.qNet, b.sNet, b.irms, b.pf) = (16704000, 5544000, 19800000, [40000, 37500, 5000, 0], 8436) := by decide +kernel

theorem test_example_quarter_hour : ivlOf 195161043700 37 = 1116584 ∧ ivlOf 195161043699 37 = 1116583 := by decide
/-- The interval across a reversal: both directions received energy. -/
theorem test_example_interval :
    let d : Dormer := { Dormer.reset with
      totals := Vector.ofFn fun i => [9879884010987, 412525678901, 2105504335412, 0, 88201664530].getD (i.val - 8) 0
      bases := Vector.ofFn fun i => [9876543210987, 412345678901, 2104118335412, 88201664530].getD (i.val - 4) 0
      seenImp := Vector.replicate 4 true, seenExp := Vector.replicate 4 true }
    ivlWords d 1 = [0x8032FA00, 0x0002BF20, 0x00152610, 0] := by decide +kernel

/-! Ring Road West (chapter 10) -/

theorem test_example_sign : geomBad 200 16 4 6 = false ∧ gableOn 200 16 6 3072 = 1354 ∧ gableOn 200 16 6 4095 = 7612 := by decide +kernel
theorem test_example_floodlight :
    let l : Lum := ⟨2, 0, 4, 14, 4403, 4095, 0, 65, 45, 160, 3, [], 0⟩
    (lumLevel l 3584, coolShare l, lumCode l 3541 0, lumCode l 3541 1) = (3541, 819, 3409, 2587) := by decide +kernel

/-! A hand-off round a broken link (chapter 12) -/

theorem test_example_route_entry :
    (Rt.valid 0x284, Rt.primary 0x284, Rt.alternate 0x284, Rt.hops 0x284, Rt.primary 0x281, Rt.alternate 0x281) = (true, 0, 1, 2, 1, 0) := by decide
def handOff (turned : Bool) : RidgeFrame := ⟨1, 31, 0x43, 0x41, false, turned, 0x17, 0x3A2F1, zeros 56⟩
theorem test_example_frame_size : frameSize (handOff false) = 90 := by decide
/-- At 0x042, port B down, the frame turns back on A; at 0x041, TURNED, it leaves by the other port. -/
theorem test_example_detour :
    let m := (runs (plan [(14, 200, 16400, 4096)] [(200 + 16 + 4 * 0x43, 4, 0x181)]) (up 1 3)).put F.RDG_PORT_STATUS_STATE Ps.matched 0
    route m (some 0) (handOff false) = some (0, true, true) ∧
    route (m.put F.RDG_PORT_STATUS_STATE Ps.matched 1) (some 0) (handOff true) = some (1, true, false) := by decide +kernel

/-! A mistaken date (chapter 14) -/

def wednesday : Main :=
  let m := ((putCal (up 1 3) (86400 * daysOf 2031 11 5 + 15150)).putBit F.ALM_CFG_ENABLE true 1).putBit F.ALM_CFG_DAILY true 1
  ((m.put F.ALM_TIME_HOUR 6 1).put F.ALM_TIME_MINUTE 0x30 1).setWord (F.ALM_FIRED_YEAR.addr 1) 0x20311104
def friday : Main := adjustCal (86400 * daysOf 2031 11 7 + 32400) 0 wednesday
def back : Main := adjustCal (86400 * daysOf 2031 11 5 + 15185) 0 friday

theorem test_example_bad_date : dateCheck 0x2031 0x11 0x31 9 0 0 true = 4 := by decide
theorem test_example_forward :
    (friday.word (F.RTC_DATE_YEAR.addr 0), friday.word (F.ALM_STATE_SKIPS.addr 1), friday.word (F.ALM_FIRED_YEAR.addr 1)) =
      (0x2031B107, 0x80000003, 0x20311107) := by decide +kernel
theorem test_example_backward :
    (back.word (F.RTC_DATE_YEAR.addr 0), back.word (F.RTC_TIME_HOUR.addr 0), back.word (F.ALM_FIRED_YEAR.addr 1)) =
      (0x20317105, 0x00041305, 0x20311107) := by decide +kernel
/-- The occurrence of 11-05 is suppressed; a write of ALM_CFG clears FIRED_DATE, and it fires. -/
theorem test_example_suppressed :
    let at6 := putTime back 23400
    (almCount at6).word (F.ALM_FIRED_YEAR.addr 1) = 0x20311107 ∧
    (almCount (almCfgWrite 1 0xC0000000 at6)).word (F.ALM_FIRED_YEAR.addr 1) = 0x20311105 ∧
    (almCount (almCfgWrite 1 0xC0000000 at6)).bit F.ALM_STATE_SKIPPED 1 = false := by decide +kernel

/-! ### The ciphers, on published vectors -/

/-- FIPS 197, appendix C.1. -/
theorem test_aes :
    lbe (Cipher.aesEnc (beBytes 16 0x000102030405060708090a0b0c0d0e0f) (beBytes 16 0x00112233445566778899aabbccddeeff)) 0 16 =
      0x69c4e0d86a7b0430d8cdb78070b4c55a ∧
    lbe (Cipher.aesDec (beBytes 16 0x000102030405060708090a0b0c0d0e0f) (beBytes 16 0x69c4e0d86a7b0430d8cdb78070b4c55a)) 0 16 =
      0x00112233445566778899aabbccddeeff := by decide +kernel
/-- FIPS 180-4: "abc". -/
theorem test_sha256 : Cipher.sha256 (beBytes 3 0x616263) = 0xba7816bf8f01cfea414140de5dae2223b00361a396177a9cb410ff61f20015ad := by decide +kernel
/-- RFC 4493, example 2. -/
theorem test_cmac :
    lbe (Cipher.cmac (beBytes 16 0x2b7e151628aed2a6abf7158809cf4f3c) (beBytes 16 0x6bc1bee22e409f96e93d7e117393172a)) 0 16 =
      0x070a16b46b4d4144f79bdd9dd04a287c := by decide +kernel
/-- RFC 3610, packet vector 1: the cipher text and the MIC. -/
theorem test_ccm :
    let k := beBytes 16 0xC0C1C2C3C4C5C6C7C8C9CACBCCCDCECF
    let n := beBytes 13 0x00000003020100A0A1A2A3A4A5
    let m := beBytes 23 0x08090A0B0C0D0E0F101112131415161718191A1B1C1D1E
    lbe (Cipher.ccmCrypt k n m) 0 23 = 0x588C979A61C663D2F066D0C2C0F989806D5F6B61DAC384 ∧
      lbe (Cipher.ccmMic k n (beBytes 8 0x0001020304050607) m) 0 8 = 0x17E8D12CFDF926E0 := by decide +kernel
/-- RFC 6979, A.2.5, SHA-256 of "sample": the public key and the signature. -/
theorem test_public_key :
    lbe (Cipher.publicOf 0xC9AFA9D845BA75166B5C215767B1D6934E50C3DB36E89B127B8A622B120F6721) 0 64 =
      0x60FED4BA255A9D31C961EB74C6356D68C049B8923B61FA6CE669622E60F29FB67903FE1008B8BC99A41AE9E95628BC64F2F1B20C2D7E9F5177A3C294D4462299 := by
  decide +kernel
def sampleSig : Nat :=
  0xEFD48B2AACB6A8FD1140DD9CD45E81D69D2C877B56AAF991C34D0EA84EAF3716F7CB1C942D657C41D436C7A1B6E29F65F3E900DBB9AFF4064DC4AB2F843ACDA8
def sampleHash : Nat := 0xAF2BDBE1AA9B6EC1E2ADE1D694F41FC71A831D0268E9891562113D8A62ADD1BF
theorem test_sign :
    lbe (Cipher.ecdsaSign 0xC9AFA9D845BA75166B5C215767B1D6934E50C3DB36E89B127B8A622B120F6721 sampleHash
      0xA6E3C57DD01ABE90086538398355DD4C3B17AA873382B0F24D6129493D8AAD60) 0 64 = sampleSig := by decide +kernel
theorem test_verify :
    Cipher.ecdsaOk (beBytes 64
      0x60FED4BA255A9D31C961EB74C6356D68C049B8923B61FA6CE669622E60F29FB67903FE1008B8BC99A41AE9E95628BC64F2F1B20C2D7E9F5177A3C294D4462299)
      sampleHash (beBytes 64 sampleSig) = true := by decide +kernel
/-- RFC 3394, 4.6: 256 bits unwrapped under a key of 256 bits, with their check value. -/
theorem test_key_wrap :
    let kek := beBytes 32 0x000102030405060708090A0B0C0D0E0F101112131415161718191A1B1C1D1E1F
    let data := beBytes 32 0x00112233445566778899AABBCCDDEEFF000102030405060708090A0B0C0D0E0F
    let blob := beBytes 40 0x28C9F404C4B810F4CBCCB35CFB87F8263F5786E2D80ED326CBC7F0E71A99F43BFB988B9B7A02DD21
    Cipher.unwrap kek blob = (Cipher.wrapIv, data) := by decide +kernel

end Sys2Proof.Tests
end

section
/-!
SUPPORT. What a host access answers: the write of a register by the access types of R7, the read of a word and of a latched group
(R7, R346, R548), and the statement of REGISTER_WRITE.
-/
namespace Sys2Proof.Machine

/-! ### What a host access answers where it does not reach its block -/

theorem hostAccess_d3hot {m : Main} (h : m.host.d3hot = true) (b : Nat) (f : Main → Main) :
    hostAccess b f m = { m with host := { m.host with unsupported := true } } := if_pos h

theorem hostAccess_shut {b : Nat} {m : Main} (h : m.host.d3hot = false) (hb : blockOpen b m = false) (f : Main → Main) :
    hostAccess b f m = accessed m := by
  have hb' : blockOpen b (accessed m) = false := hb
  unfold hostAccess
  rw [if_neg (by simp [h])]
  exact if_neg (ne_true_of_eq_false hb')

theorem hostRead_d3hot {m : Main} (h : m.host.d3hot = true) (a : Nat) (f : Main → Main × Nat) :
    hostRead a f m = { m with host := { m.host with unsupported := true } } := if_pos h

theorem hostRead_ship {m : Main} (h : m.host.d3hot = false) (hm : m.mode = 0) (a : Nat) (f : Main → Main × Nat) :
    hostRead a f m = m := by
  unfold hostRead
  rw [if_neg (by simp [h]), if_pos hm]

/-- Outside D3hot and SHIP a read is answered with data: what `f` reads where the block answers, and zero where it does not. -/
theorem hostRead_powered {m : Main} (h : m.host.d3hot = false) (hm : m.mode ≠ 0) (a : Nat) (f : Main → Main × Nat) :
    hostRead a f m =
      let r := if blockOpen (a / 0x10000) m then f (accessed m) else (accessed m, 0)
      r.1.emit (.readData a r.2) := by
  unfold hostRead
  rw [if_neg (by simp [h]), if_neg hm]
  rfl

theorem mode_ne_zero_of_blockOpen {b : Nat} {m : Main} (h : blockOpen b m = true) : m.mode ≠ 0 := by
  intro hm
  simp [blockOpen, hm] at h

/-- A block that does not answer reads as zero (R548). -/
theorem hostRead_shut {a : Nat} {m : Main} (hd : m.host.d3hot = false) (hm : m.mode ≠ 0) (hb : blockOpen (a / 0x10000) m = false)
    (f : Main → Main × Nat) : hostRead a f m = (accessed m).emit (.readData a 0) := by
  rw [hostRead_powered hd hm]
  simp [hb]

theorem hostRead_reaches {a : Nat} {m : Main} (h : hostReaches (a / 0x10000) m) (f : Main → Main × Nat) :
    hostRead a f m = (f (accessed m)).1.emit (.readData a (f (accessed m)).2) := by
  obtain ⟨hd, hb⟩ := h
  rw [hostRead_powered hd (mode_ne_zero_of_blockOpen hb)]
  simp [hb]

/-! ### The access types of R7 -/

/-- An RW bit takes the written bit, a W1C bit written 1 clears, and any other bit stays. -/
theorem testBit_writtenWord (rw w1c old v i : Nat) :
    (writtenWord rw w1c old v).testBit i = if rw.testBit i then v.testBit i else old.testBit i && !(w1c.testBit i && v.testBit i) := by
  unfold writtenWord
  simp only [Nat.testBit_or, Nat.testBit_and, Nat.testBit_xor]
  cases rw.testBit i <;> cases old.testBit i <;> simp

/-- Every RW bit of a register without behaviour of its own is open to a write. -/
theorem openBits_of_not_ownWrites {r : RegRow} (h : r.base ∉ ownWrites) (a : Nat) (m : Main) : openBits r a m = r.rw := by
  have hne : ∀ b ∈ ownWrites, r.base ≠ b := fun b hb e => h (e ▸ hb)
  unfold openBits
  rw [if_neg, if_neg, if_neg]
  · exact hne _ (by decide)
  · rintro (e | e | e) <;> exact hne _ (by decide) e
  · rintro (e | e | e) <;> exact hne _ (by decide) e

/-- A register without behaviour of its own is written by R7 alone. -/
theorem rowWrite_of_not_ownWrites {r : RegRow} (h : r.base ∉ ownWrites) (a v : Nat) (reads : List (Nat × List Desc)) (x : StartIn)
    (m : Main) : rowWrite r a v reads x m = plainWrite r a v m := by
  have hne : ∀ b ∈ ownWrites, r.base ≠ b := fun b hb e => h (e ▸ hb)
  unfold rowWrite
  dsimp only
  split
  case h_32 => rfl
  all_goals exact absurd ‹r.base = _› (hne _ (by decide))

theorem Frame.plainWrite (parts : List Part) (r : RegRow) (a v : Nat) (m : Main) : Frame (· = a) parts m (plainWrite r a v m) :=
  Frame.setWord parts m a _ rfl

/-- The bits that a write of a register without behaviour of its own leaves, by their types. -/
theorem testBit_plainWrite {r : RegRow} (h : r.base ∉ ownWrites) (a v : Nat) (m : Main) {i : Nat} (hi : i < 32) :
    ((plainWrite r a v m).word a).testBit i =
      if r.rw.testBit i then v.testBit i else (m.word a).testBit i && !(r.w1c.testBit i && v.testBit i) := by
  unfold plainWrite
  rw [Main.word_setWord_same, openBits_of_not_ownWrites h, Nat.testBit_mod_two_pow, testBit_writtenWord]
  simp [hi]

/-! ### The write of a word of BAR0 -/

theorem bar0Write_d3hot {m : Main} (h : m.host.d3hot = true) (a v : Nat) (reads : List (Nat × List Desc)) (x : StartIn) :
    bar0Write a v reads x m = { m with host := { m.host with unsupported := true } } := hostAccess_d3hot h _ _

/-- A write that finds no register, or a block that does not answer, changes nothing. -/
theorem bar0Write_ignored {a : Nat} {m : Main} (hd : m.host.d3hot = false) (h : blockOpen (a / 0x10000) m = false ∨ rowAt a = none)
    (v : Nat) (reads : List (Nat × List Desc)) (x : StartIn) : bar0Write a v reads x m = accessed m := by
  unfold bar0Write
  by_cases hb : blockOpen (a / 0x10000) m = true
  · have hr : rowAt a = none := h.resolve_left (by simp [hb])
    rw [hostAccess_reaches ⟨hd, hb⟩, hr]
  · exact hostAccess_shut hd (by simpa using hb) _

/-- A write that reaches a register without behaviour of its own. -/
theorem bar0Write_plain {a : Nat} {m : Main} {r : RegRow} (hm : hostReaches (a / 0x10000) m) (hr : rowAt a = some r)
    (ho : r.base ∉ ownWrites) (v : Nat) (reads : List (Nat × List Desc)) (x : StartIn) :
    bar0Write a v reads x m = plainWrite r a (v % 2 ^ 32) (accessed m) := by
  unfold bar0Write
  rw [hostAccess_reaches hm, hr]
  exact rowWrite_of_not_ownWrites ho _ _ _ _ _

/-! ### The pending messages of MSI-X -/

theorem Frame.host (regs : Nat → Prop) {parts : List Part} (m : Main) (v : HostSt) (h : Part.host ∈ parts) :
    Frame regs parts m { m with host := v } :=
  ⟨fun _ _ => rfl, fun p hp => by cases p <;> first | rfl | exact absurd h hp, List.suffix_refl _⟩

theorem Frame.foldl {α : Type} {regs : Nat → Prop} {parts : List Part} (f : Main → α → Main) (l : List α)
    (h : ∀ x ∈ l, ∀ m, Frame regs parts m (f m x)) (m : Main) : Frame regs parts m (l.foldl f m) := by
  induction l generalizing m with
  | nil => exact Frame.refl _ _ _
  | cons x t ih => exact (h x (List.mem_cons_self ..) m).trans (ih (fun y hy => h y (List.mem_cons_of_mem _ hy)) _)

theorem inBlock_msixPba {n : Nat} (h : n < 64) : inBlock 0x3F (F.MSIX_PBA.addr (n / 32)) := by
  unfold inBlock Field.addr
  simp only [F.MSIX_PBA]
  omega

/-- Letting pending messages out changes the pending bits alone. -/
theorem Frame.sendPending (m : Main) : Frame (inBlock 0x3F) [] m (sendPending m) := by
  refine Frame.foldl _ _ (fun n hn m => ?_) m
  split
  · exact (Frame.putBit [] m F.MSIX_PBA false _ _ (inBlock_msixPba (List.mem_range.1 hn))).trans (Frame.emit _ _ _ _)
  · exact Frame.refl _ _ _

theorem sendPending_host (m : Main) : (sendPending m).host = m.host :=
  have ⟨_, hparts, _⟩ := Frame.sendPending m
  hparts .host (by decide)

/-! ### Latched groups (R7) -/

theorem latchPut_cons (a w : Nat) (ws : List Nat) (l : Sparse Nat) :
    latchPut a (w :: ws) l = latchPut (a + 4) ws (sset (fun _ => 0) l a (w + 1)) := by
  unfold latchPut
  rw [List.zipIdx_cons, List.zipIdx_succ, List.foldl_cons, List.foldl_map]
  congr 1
  funext l p
  rw [show a + 4 * (p.2 + 1) = a + 4 + 4 * p.2 by omega]

theorem sget_latchPut_below (a : Nat) (ws : List Nat) (l : Sparse Nat) {b : Nat} (h : b < a) :
    sget (fun _ => 0) (latchPut a ws l) b = sget (fun _ => 0) l b := by
  induction ws generalizing a l with
  | nil => rfl
  | cons w ws ih => rw [latchPut_cons, ih _ _ (by omega), sget_sset_ne _ _ _ (by omega)]

/-- Each word of a latched group is held, one above its value. -/
theorem sget_latchPut (a : Nat) (ws : List Nat) (l : Sparse Nat) (k : Nat) (h : k < ws.length) :
    sget (fun _ => 0) (latchPut a ws l) (a + 4 * k) = ws[k] + 1 := by
  induction ws generalizing a l k with
  | nil => exact absurd h (Nat.not_lt_zero _)
  | cons w ws ih =>
    rw [latchPut_cons]
    cases k with
    | zero => rw [sget_latchPut_below _ _ _ (by omega)]; exact sget_sset_same ..
    | succ k =>
      rw [show a + 4 * (k + 1) = a + 4 + 4 * k by omega]
      exact ih _ _ k (Nat.lt_of_succ_lt_succ h)

/-- The words of a group do not depend on how the access is answered. -/
theorem groupNow_accessed (a n : Nat) (m : Main) : groupNow a n (accessed m) = groupNow a n m := by
  unfold groupNow
  split <;> rfl

/-! ### The read of a word -/

/-- The words whose read does more than R7: DMR_TOT, PTP_TSQ and the local clock. -/
def ownReads : List Nat := [0x0A0600, 0x100040, 0x100010]

theorem wordRead_groupFirst {a n : Nat} (h : a ∉ ownReads) (hg : groupFirst a = some n) (m : Main) : wordRead a m = groupRead a n m := by
  unfold wordRead
  split
  case h_4 => rw [hg]
  all_goals exact absurd (by decide) h

theorem wordRead_of_not_groupFirst {a : Nat} (h : a ∉ ownReads) (hg : groupFirst a = none) (m : Main) :
    wordRead a m = (m, if groupOther a = true ∧ latchGet m a ≠ 0 then latchGet m a - 1 else m.word a) := by
  unfold wordRead
  split
  case h_4 => rw [hg]; simp
  all_goals exact absurd (by decide) h

theorem Frame.groupRead (regs : Nat → Prop) (a n : Nat) (m : Main) : Frame regs [.host] m (groupRead a n m).1 :=
  Frame.host regs m _ (List.mem_singleton_self _)

/-- Where no word has a read of its own, a read changes the held groups alone. -/
theorem Frame.wordRead (regs : Nat → Prop) {a : Nat} (h : a ∉ ownReads) (m : Main) : Frame regs [.host] m (wordRead a m).1 := by
  cases hg : groupFirst a with
  | some n => rw [wordRead_groupFirst h hg]; exact Frame.groupRead regs a n m
  | none => rw [wordRead_of_not_groupFirst h hg]; exact Frame.refl _ _ _

theorem out_wordRead {a : Nat} (h : a ∉ ownReads) (m : Main) : (wordRead a m).1.out = m.out := by
  cases hg : groupFirst a with
  | some n => rw [wordRead_groupFirst h hg]; rfl
  | none => rw [wordRead_of_not_groupFirst h hg]

/-! ### REGISTER_WRITE -/

/-- A target of REGISTER_WRITE answers with what `registerWrite` makes of the main side. -/
theorem answersMain_registerWrite {t : RegTarget} {reads : List (Nat × List Desc)} {x : StartIn} {s : State} {P : Main → Prop}
    (h : P (registerWrite t reads x s.main)) : AnswersMain (.registerWrite t reads x) s P :=
  answersMain_of (f := registerWrite t reads x) rfl h

theorem registerWrite_bar0 (a v : Nat) (reads : List (Nat × List Desc)) (x : StartIn) (m : Main) :
    registerWrite (.bar0 a v) reads x m = bar0Write a v reads x m := rfl

theorem registerWrite_msix (on mask : Bool) (reads : List (Nat × List Desc)) (x : StartIn) (m : Main) :
    registerWrite (.msix on mask) reads x m = sendPending { m with host := { m.host with msixEnable := on, funcMask := mask } } := rfl

/-- Outside the block of the calendar, a read finds the registers as they stand. -/
theorem registerWrite_read {a : Nat} (h : a / 0x10000 ≠ 0x0F) (reads : List (Nat × List Desc)) (x : StartIn) (m : Main) :
    registerWrite (.read a) reads x m = hostRead a (wordRead a) m := by
  show bar0Read a (if a / 0x10000 = 0x0F then _ else m) = _
  rw [if_neg h]
  rfl

/-- A write by the access types of R7 changes no other register and no other part. -/
theorem frame_bar0Write_plain {a : Nat} {m : Main} {r : RegRow} (hm : hostReaches (a / 0x10000) m) (hr : rowAt a = some r)
    (ho : r.base ∉ ownWrites) (v : Nat) (reads : List (Nat × List Desc)) (x : StartIn) :
    Frame (· = a) [.host] m (bar0Write a v reads x m) := by
  rw [bar0Write_plain hm hr ho]
  exact (Frame.accessed _ m (List.mem_singleton_self _)).trans (Frame.plainWrite _ _ _ _ _)

theorem testBit_bar0Write_plain {a : Nat} {m : Main} {r : RegRow} (hm : hostReaches (a / 0x10000) m) (hr : rowAt a = some r)
    (ho : r.base ∉ ownWrites) (v : Nat) (reads : List (Nat × List Desc)) (x : StartIn) {i : Nat} (hi : i < 32) :
    ((bar0Write a v reads x m).word a).testBit i =
      if r.rw.testBit i then v.testBit i else (m.word a).testBit i && !(r.w1c.testBit i && v.testBit i) := by
  rw [bar0Write_plain hm hr ho, testBit_plainWrite ho _ _ _ hi, accessed_word, Nat.testBit_mod_two_pow]
  simp [hi]

/-- A read that reaches a word without a read of its own leaves every register and every part but the host's. -/
theorem frame_hostRead_word {a : Nat} {m : Main} (hm : hostReaches (a / 0x10000) m) (ha : a ∉ ownReads) (regs : Nat → Prop) :
    Frame regs [.host] m (hostRead a (wordRead a) m) := by
  rw [hostRead_reaches hm]
  exact ((Frame.accessed regs m (List.mem_singleton_self _)).trans (Frame.wordRead regs ha _)).trans (Frame.emit _ _ _ _)

/-- A read of a group's first word answers it and holds every word of the group. -/
theorem hostRead_groupFirst {a n : Nat} {m : Main} (hm : hostReaches (a / 0x10000) m) (ha : a ∉ ownReads) (hg : groupFirst a = some n) :
    (hostRead a (wordRead a) m).out = .readData a ((groupNow a n m).headD 0) :: m.out ∧
      ∀ (k : Nat) (h : k < (groupNow a n m).length), latchGet (hostRead a (wordRead a) m) (a + 4 * k) = (groupNow a n m)[k] + 1 := by
  rw [hostRead_reaches hm, wordRead_groupFirst ha hg]
  unfold groupRead
  rw [groupNow_accessed]
  exact ⟨rfl, fun k h => sget_latchPut a _ _ k h⟩

/-- A read of any other word answers what is held for it, or its register where nothing is. -/
theorem out_hostRead_of_not_groupFirst {a : Nat} {m : Main} (hm : hostReaches (a / 0x10000) m) (ha : a ∉ ownReads)
    (hg : groupFirst a = none) : (hostRead a (wordRead a) m).out =
      .readData a (if groupOther a = true ∧ latchGet m a ≠ 0 then latchGet m a - 1 else m.word a) :: m.out := by
  rw [hostRead_reaches hm, wordRead_of_not_groupFirst ha hg]
  rfl

/-- Settles O50: the writes go by the access types of R7, the reads by whether a word is its group's first, and the other targets by
their equations. -/
theorem registerWritesFollowTheirTypes : Obligations.RegisterWritesFollowTheirTypes := by
  unfold Obligations.RegisterWritesFollowTheirTypes
  intro s reads x seen
  refine ⟨fun a v => answersMain_registerWrite ?_, answersMain_registerWrite rfl, answersMain_registerWrite rfl,
    fun on => answersMain_registerWrite ⟨rfl, Frame.host _ _ _ (List.mem_singleton_self _)⟩,
    fun on mask => answersMain_registerWrite ?_, fun p q => answersMain_registerWrite rfl, fun i => answersMain_registerWrite rfl,
    fun a ha => answersMain_registerWrite ?_⟩
  · rw [registerWrite_bar0]
    exact ⟨fun hd => bar0Write_d3hot hd a v reads x, fun hd ho => bar0Write_ignored hd ho v reads x, fun r hm hr ho =>
      ⟨fun i hi => testBit_bar0Write_plain hm hr ho v reads x hi, frame_bar0Write_plain hm hr ho v reads x⟩⟩
  · rw [registerWrite_msix, sendPending_host]
    refine ⟨rfl, rfl, ?_⟩
    exact (Frame.host _ _ _ (List.mem_singleton_self _)).trans ((Frame.sendPending _).mono (fun _ => id) (List.nil_subset _))
  · rw [registerWrite_read ha]
    refine ⟨fun hd => hostRead_d3hot hd _ _, fun hd hm => hostRead_ship hd hm _ _, fun hd hm hb => ?_, fun hm h1 h2 h3 => ?_⟩
    · rw [hostRead_shut hd hm hb]
      exact ⟨rfl, (Frame.accessed _ _ (List.mem_singleton_self _)).trans (Frame.emit _ _ _ _)⟩
    · have hown : a ∉ ownReads := by simp [ownReads, h1, h2, h3]
      refine ⟨frame_hostRead_word hm hown _, ?_⟩
      cases hg : groupFirst a with
      | some n => exact hostRead_groupFirst hm hown hg
      | none => exact out_hostRead_of_not_groupFirst hm hown hg

end Sys2Proof.Machine
end

section
/-!
SUPPORT. The front of the queue (R20), and the commands of the context store and the composition unit: what an accepted input leaves
(R20, R21, R416, R417), the commands that bring one (R357), CTX_READ (R358), silent lanterns (R154) and LATENCY_CLEAR (R212).
-/
namespace Sys2Proof.Machine

/-! ### A step -/

theorem step_of_pending_nil {s : State} (h : s.pending = []) : step s = .next s := by
  unfold step
  rw [h]

/-- Settles O1: the step takes the queue apart as `State.push` puts it together, and idles on the empty one. -/
theorem stepRunsFront : Obligations.StepRunsFront := by
  unfold Obligations.StepRunsFront
  exact ⟨fun c s => State.step_push s c, fun _ => step_of_pending_nil⟩

/-! ### Frames of the context store -/

theorem Frame.ctx (regs : Nat → Prop) {parts : List Part} (m : Main) (v : CtxSt) (h : Part.ctx ∈ parts) :
    Frame regs parts m { m with ctx := v } := by
  refine ⟨fun _ _ => rfl, fun p hp => ?_, List.suffix_refl _⟩
  cases p with
  | ctx => exact absurd h hp
  | _ => rfl

/-! ### Where the write-back of an accepted command goes -/

/-- A write of a field above the block of the rings moves no write-back. -/
theorem SamePlace.put (m : Main) (f : Field) (v i : Nat) (h : 0x030000 ≤ f.base) : SamePlace m (m.put f v i) := by
  refine SamePlace.of_word (fun r hr w hw => Main.word_setWord_ne m _ ?_) rfl
  unfold Field.addr
  omega

theorem samePlace_dmaMoved (r moved : Nat) (w : SgWalk) (m : Main) : SamePlace m (dmaMoved r moved w m) :=
  (((((SamePlace.put m F.DMA_CH_STATE_SEG _ _ (by decide)).trans (SamePlace.put _ F.DMA_CH_STATE_HOPS _ _ (by decide))).trans
    (SamePlace.put _ F.DMA_REMAIN _ _ (by decide))).trans (SamePlace.put _ F.DMA_CUR_ADDR_LO _ _ (by decide))).trans
    (SamePlace.put _ F.DMA_CUR_ADDR_HI _ _ (by decide))).trans (SamePlace.put _ F.DMA_BYTES _ _ (by decide))

theorem samePlace_emit (m : Main) (o : Output) : SamePlace m (m.emit o) := ⟨fun _ _ _ => rfl, rfl⟩

theorem samePlace_taken (k : CmdKind) (r : Fin 8) (d : Desc) (m : Main) : SamePlace m (taken k r d m) := by
  unfold taken
  split
  · exact samePlace_atCheck k m r d
  · exact (((samePlace_atCheck k m r d).trans (samePlace_hostReads ..)).trans (samePlace_emit ..)).trans (samePlace_dmaMoved ..)

/-- A command written back from a state in which the rings lie as they did. -/
theorem writtenBack_cmdEnd {m x : Main} (h : SamePlace m x) (r : Fin 8) (d : Desc) (rep : Reply) :
    writtenBack m r d rep.status rep.detail rep.doneLen (swapData d.swap rep.data)
      (cmdEnd r (ringPos m r (ringOf m r).taken) d rep x) := by
  have hout := cmdEnd_out r (ringPos m r (ringOf m r).taken) d rep x
  rw [h.most, h.base r (Nat.lt_trans r.isLt (by decide))] at hout
  exact hout

theorem keeps_cmdEnd_taken (k : CmdKind) (m : Main) (r : Fin 8) (d : Desc) (rep : Reply) :
    Keeps m (cmdEnd r (ringPos m r (ringOf m r).taken) d rep (taken k r d m)) :=
  (keeps_taken k r d m).trans (keeps_cmdEnd ..)

/-! ### Inputs -/

/-- The direct queues after an override depend on the contexts and on the queues alone. -/
theorem directLevel_direct_congr (i : Input) {m m' : Main} (hc : m'.ctx.ctx = m.ctx.ctx) (hd : m'.ctx.direct = m.ctx.direct) :
    (directLevel i m').ctx.direct = (directLevel i m).ctx.direct := by
  have hof (n : Nat) : ctxOf m' n = ctxOf m n := by unfold ctxOf; rw [hc]
  unfold directLevel
  split
  · simp only [hof]
    split
    · simp only [withDirect, hd]
    · exact hd
  · exact hd

/-- An override's level changes the direct queues and nothing else. -/
theorem directLevel_eq (i : Input) (m : Main) :
    directLevel i m = { m with ctx := { m.ctx with direct := (directLevel i m).ctx.direct } } := by
  unfold directLevel
  split
  · dsimp only
    split <;> rfl
  · rfl

/-- An input is logged, beside the pair's own record of past inputs (R427). -/
theorem logInput_eq (i : Input) (m : Main) : ∃ past, logInput i m = { m with
    ctx := { m.ctx with inputs := m.ctx.inputs ++ [i], direct := (directLevel i m).ctx.direct },
    red := { m.red with inLog := past } } := by
  have hdir : (directLevel i { m with ctx := { m.ctx with inputs := m.ctx.inputs ++ [i] } }).ctx.direct = (directLevel i m).ctx.direct :=
    directLevel_direct_congr i rfl rfl
  unfold logInput
  rw [directLevel_eq, hdir]
  dsimp only
  split
  · exact ⟨_, rfl⟩
  · exact ⟨m.red.inLog, rfl⟩

/-- An accepted input is logged for its slot (R20), and goes with the next heartbeat of a pair (R21). -/
theorem acceptInput_eq (k : InputKind) (m : Main) : ∃ past, acceptInput k m = { m with
    ctx := { m.ctx with inputs := m.ctx.inputs ++ [⟨inputSlot m, k⟩], direct := (directLevel ⟨inputSlot m, k⟩ m).ctx.direct },
    red := { m.red with inLog := past, toSend :=
      (if m.bit F.RED_STATUS_PAIRED then m.red.toSend ++ [inputRec ⟨inputSlot m, k⟩] else m.red.toSend) } } := by
  obtain ⟨past, hlog⟩ := logInput_eq ⟨inputSlot m, k⟩ m
  refine ⟨past, ?_⟩
  unfold acceptInput
  dsimp only
  rw [hlog]
  by_cases hpair : m.bit F.RED_STATUS_PAIRED = true
  · exact (if_pos hpair).trans (by rw [if_pos hpair])
  · exact (if_neg hpair).trans (by rw [if_neg hpair])

theorem Frame.acceptInput (regs : Nat → Prop) (k : InputKind) (m : Main) : Frame regs [.ctx, .red] m (acceptInput k m) := by
  obtain ⟨past, h⟩ := acceptInput_eq k m
  rw [h]
  refine ⟨fun _ _ => rfl, fun p hp => ?_, List.suffix_refl _⟩
  cases p with
  | ctx | red => exact absurd hp (by decide)
  | _ => rfl

/-- An input leaves the rings where they lie. -/
theorem samePlace_acceptInput (k : InputKind) (m : Main) : SamePlace m (acceptInput k m) := by
  obtain ⟨past, h⟩ := acceptInput_eq k m
  rw [h]
  exact ⟨fun _ _ _ => rfl, rfl⟩

/-! ### OVERRIDE and PUR_SETPOINT -/

/-- What an input that is accepted at `m` on ring `r` leaves: logged, sent with the next heartbeat of a pair, and written back with its
slot, with no change but of the contexts, the pair and what reports. -/
def InputAccepted (m : Main) (r : Fin 8) (d : Desc) (k : InputKind) (m' : Main) : Prop :=
  m'.ctx = { m.ctx with
    inputs := m.ctx.inputs ++ [⟨inputSlot m, k⟩], direct := (directLevel ⟨inputSlot m, k⟩ m).ctx.direct } ∧
  m'.red.toSend = (if m.bit F.RED_STATUS_PAIRED then m.red.toSend ++ [inputRec ⟨inputSlot m, k⟩] else m.red.toSend) ∧
  writtenBack m r d St.ok 0 (inputSlot m % 2 ^ 32) [] m' ∧ Reports (fun _ => False) [.ctx, .red] m m'

theorem Keeps.inputSlot {m x : Main} (h : Keeps m x) : inputSlot x = inputSlot m := by
  unfold Machine.inputSlot Main.slotNow
  rw [h.ylm]

/-- An input accepted from a state that differs in reports alone. -/
theorem inputAccepted_cmdEnd {m x : Main} (hk : Keeps m x) (hp : SamePlace m x) (r : Fin 8) (d : Desc) (k : InputKind) :
    InputAccepted m r d k (cmdEnd r (ringPos m r (ringOf m r).taken) d (slotReply x) (acceptInput k x)) := by
  have hend := keeps_cmdEnd r (ringPos m r (ringOf m r).taken) d (slotReply x) (acceptInput k x)
  have hpaired : x.bit F.RED_STATUS_PAIRED = m.bit F.RED_STATUS_PAIRED := hk.bit _ _ _ rfl
  have hdir := directLevel_direct_congr ⟨inputSlot m, k⟩ (congrArg CtxSt.ctx hk.ctx) (congrArg CtxSt.direct hk.ctx)
  have hback := writtenBack_cmdEnd (hp.trans (samePlace_acceptInput k x)) r d (slotReply x)
  obtain ⟨past, haccept⟩ := acceptInput_eq k x
  refine ⟨?_, ?_, ?_, ?_⟩
  · rw [hend.ctx, haccept, hk.inputSlot, hdir, hk.ctx]
  · rw [hend.red, haccept, hk.inputSlot, hpaired, hk.red]
  · rw [← hk.inputSlot]
    exact hback
  · exact ((hk.reports _ _).trans (Frame.acceptInput _ k x).reports).trans (hend.reports _ _)

/-- The lanterns that an OVERRIDE may name (R357). -/
def lanternRoom (m : Main) : Nat :=
  match runImg m with
  | some b => Hdr.lanterns b
  | none => 8192

theorem Keeps.lanternRoom {m x : Main} (h : Keeps m x) : lanternRoom x = lanternRoom m := by
  unfold Machine.lanternRoom runImg
  rw [h.ylm]

/-- The lantern or the group that an OVERRIDE names (R357). -/
def overrideTarget (d : Desc) : Nat := if bits d.param 17 16 = 2 then 0 else bits d.addr 44 32

/-- The input that an OVERRIDE carries. -/
def overrideInput (d : Desc) : InputKind := .override (d.param % 65536) (bits d.param 17 16) (overrideTarget d) (d.addr % 2 ^ 32)

/-- An OVERRIDE of one lantern that the running bundle does not hold. -/
def overridePast (d : Desc) (m : Main) : Prop := bits d.param 17 16 = 0 ∧ lanternRoom m ≤ overrideTarget d

theorem Keeps.overridePast {m x : Main} (h : Keeps m x) (d : Desc) : overridePast d x ↔ overridePast d m := by
  unfold Machine.overridePast
  rw [h.lanternRoom]

/-- What an accepted OVERRIDE does (R357). -/
def overrideRun (d : Desc) (m : Main) : Main × Reply :=
  if bits d.param 17 16 = 0 ∧ lanternRoom m ≤ overrideTarget d then (m, .fail St.badParam 32)
  else (acceptInput (overrideInput d) m, slotReply m)

theorem overrideRun_past {d : Desc} {m : Main} (h : overridePast d m) : overrideRun d m = (m, .fail St.badParam 32) := if_pos h

theorem overrideRun_input {d : Desc} {m : Main} (h : ¬ overridePast d m) :
    overrideRun d m = (acceptInput (overrideInput d) m, slotReply m) := if_neg h

/-- With room in the heartbeat, an OVERRIDE runs at once. -/
theorem cmdOverride_room {m : Main} (h : inputRoom m = true) (r : Fin 8) (d : Desc) :
    cmdOverride r d m = cmdNow r d (overrideKind d) (fun _ => overrideRun d) m := by
  unfold cmdOverride
  rw [if_neg (by simp [h])]
  rfl

theorem cmdOverride_past {m : Main} {r : Fin 8} {d : Desc} (hroom : inputRoom m = true) (h : accepts (overrideKind d) m r d)
    (hp : overridePast d m) : cmdOverride r d m =
      cmdEnd r (ringPos m r (ringOf m r).taken) d (.fail St.badParam 32) (taken (overrideKind d) r d m) := by
  rw [cmdOverride_room hroom, cmdNow_accepts h, overrideRun_past (((keeps_taken ..).overridePast d).mpr hp)]

theorem cmdOverride_input {m : Main} {r : Fin 8} {d : Desc} (hroom : inputRoom m = true) (h : accepts (overrideKind d) m r d)
    (hp : ¬ overridePast d m) : cmdOverride r d m =
      cmdEnd r (ringPos m r (ringOf m r).taken) d (slotReply (taken (overrideKind d) r d m))
        (acceptInput (overrideInput d) (taken (overrideKind d) r d m)) := by
  rw [cmdOverride_room hroom, cmdNow_accepts h, overrideRun_input (mt ((keeps_taken ..).overridePast d).mp hp)]

/-- What PUR_SETPOINT asks of its descriptor (R356, R357). -/
def setpointKind : CmdKind :=
  ⟨isOp 0x0301, true, fun d => d.length == 0, 0xF, 0xFFFFFFFF, gates [planNeeded, activeGate]⟩

theorem cmdSetpoint_accepts {m : Main} {r : Fin 8} {d : Desc} (hroom : inputRoom m = true) (h : accepts setpointKind m r d) :
    cmdSetpoint r d m =
      cmdEnd r (ringPos m r (ringOf m r).taken) d (slotReply (taken setpointKind r d m))
        (acceptInput (.setpoint (d.param % 16) (d.addr % 2 ^ 32)) (taken setpointKind r d m)) := by
  unfold cmdSetpoint
  rw [if_neg (by simp [hroom])]
  exact cmdNow_accepts h _

/-- With the heartbeat full, an input's ring waits (R417). -/
theorem cmdOverride_full {m : Main} (h : inputRoom m = false) (r : Fin 8) (d : Desc) :
    cmdOverride r d m = park r d (isOp 0x0201) m := by
  unfold cmdOverride
  rw [if_pos (by simp [h])]

theorem cmdSetpoint_full {m : Main} (h : inputRoom m = false) (r : Fin 8) (d : Desc) :
    cmdSetpoint r d m = park r d (isOp 0x0301) m := by
  unfold cmdSetpoint
  rw [if_pos (by simp [h])]

theorem answersMain_setpoint {s : State} {r : Fin 8} {d : Desc} (hroom : inputRoom s.main = true)
    (h : accepts setpointKind s.main r d) :
    AnswersMain (.purSetpoint r d) s (InputAccepted s.main r d (.setpoint (d.param % 16) (d.addr % 2 ^ 32))) := by
  refine answersMain_of (f := cmdSetpoint r d) rfl ?_
  rw [cmdSetpoint_accepts hroom h]
  exact inputAccepted_cmdEnd (keeps_taken ..) (samePlace_taken ..) r d _

theorem answersMain_override {s : State} {r : Fin 8} {d : Desc} (hroom : inputRoom s.main = true)
    (h : accepts (overrideKind d) s.main r d) (hp : ¬ overridePast d s.main) :
    AnswersMain (.override r d) s (InputAccepted s.main r d (overrideInput d)) := by
  refine answersMain_of (f := cmdOverride r d) rfl ?_
  rw [cmdOverride_input hroom h hp]
  exact inputAccepted_cmdEnd (keeps_taken ..) (samePlace_taken ..) r d _

theorem answersMain_overridePast {s : State} {r : Fin 8} {d : Desc} (hroom : inputRoom s.main = true)
    (h : accepts (overrideKind d) s.main r d) (hp : overridePast d s.main) : AnswersMain (.override r d) s fun m =>
      writtenBack s.main r d St.badParam 32 0 [] m ∧ Reports (fun _ => False) [] s.main m := by
  refine answersMain_of (f := cmdOverride r d) rfl ?_
  rw [cmdOverride_past hroom h hp]
  exact ⟨writtenBack_cmdEnd (samePlace_taken _ r d s.main) r d (.fail St.badParam 32), (keeps_cmdEnd_taken _ s.main r d _).reports _ _⟩

/-! ### CTX_READ -/

/-- What CTX_READ asks of its descriptor (R356, R358). -/
def ctxReadKind : CmdKind :=
  ⟨isOp 0x0202, false, fun d => d.length != 0 && d.length % 96 == 0 && decide (d.param % 8192 + d.length / 96 ≤ 8192), 0x1FFF, 0, openGate⟩

/-- The bytes of `n` contexts from `first` on (R358). -/
def ctxRun (first n : Nat) (m : Main) : List Byte := (List.range n).flatMap fun k => ctxBytes (first + k) (ctxOf m (first + k))

theorem Keeps.ctxRun {m x : Main} (h : Keeps m x) (first n : Nat) : ctxRun first n x = ctxRun first n m := by
  unfold Machine.ctxRun ctxOf
  rw [h.ctx]

theorem cmdCtxRead_accepts {m : Main} {r : Fin 8} {d : Desc} (h : accepts ctxReadKind m r d) :
    cmdCtxRead r d m = cmdEnd r (ringPos m r (ringOf m r).taken) d
      ⟨St.ok, 0, d.length, ctxRun (d.param % 8192) (d.length / 96) (taken ctxReadKind r d m)⟩ (taken ctxReadKind r d m) := by
  unfold cmdCtxRead
  exact cmdNow_accepts h _

theorem answersMain_ctxRead {s : State} {r : Fin 8} {d : Desc} (h : accepts ctxReadKind s.main r d) :
    AnswersMain (.ctxRead r d) s fun m =>
      writtenBack s.main r d St.ok 0 d.length (swapData d.swap (ctxRun (d.param % 8192) (d.length / 96) s.main)) m ∧
      Reports (fun _ => False) [] s.main m := by
  refine answersMain_of (f := cmdCtxRead r d) rfl ?_
  have hk := keeps_taken ctxReadKind r d s.main
  rw [cmdCtxRead_accepts h, hk.ctxRun]
  exact ⟨writtenBack_cmdEnd (samePlace_taken _ r d s.main) r d ⟨St.ok, 0, d.length, _⟩, (keeps_cmdEnd_taken _ s.main r d _).reports _ _⟩

/-! ### LANTERN_SILENT -/

/-- A joined lantern, not yet named silent, that has not been heard for SILENT_COURSES courses (R154). -/
def silenceDue (i : Nat) (m : Main) : Prop :=
  (ctxOf m i).live = true ∧ (ctxOf m i).joined = true ∧ m.get F.TLP_PE_SILENT_SILENT_COURSES ≠ 0 ∧ i ∉ m.ctx.silent ∧
  m.get F.TLP_PE_SILENT_SILENT_COURSES ≤ (m.course + 2 ^ 32 - max (ctxOf m i).lastHeard (m.ylm.listenAt % 2 ^ 32)) % 2 ^ 32

theorem lanternSilent_not_due {i : Nat} {m : Main} (h : ¬ silenceDue i m) : lanternSilent i m = m := by
  unfold silenceDue at h
  unfold lanternSilent
  dsimp only
  rw [if_neg]
  simpa [and_assoc] using h

theorem lanternSilent_due {i : Nat} {m : Main} (h : silenceDue i m) : lanternSilent i m =
    fire 28 (record 0x0401 i (ctxOf m i).lastHeard 0 0 { m with ctx := { m.ctx with silent := i :: m.ctx.silent } }) := by
  unfold silenceDue at h
  unfold lanternSilent
  dsimp only
  rw [if_pos]
  simpa [and_assoc] using h

theorem lanternSilent_names {i : Nat} {m : Main} (h : silenceDue i m) :
    (lanternSilent i m).ctx = { m.ctx with silent := i :: m.ctx.silent } ∧
    (m.bit F.TLP_PE_CTRL_EVT28_EN = true → pends (lanternSilent i m) 28 = true) ∧
    Reports (fun _ => False) [.ctx] m (lanternSilent i m) := by
  let named : Main := { m with ctx := { m.ctx with silent := i :: m.ctx.silent } }
  have hrec : Keeps named (record 0x0401 i (ctxOf m i).lastHeard 0 0 named) := keeps_record ..
  have hall := hrec.trans (keeps_fire 28 _ (by decide))
  rw [lanternSilent_due h]
  refine ⟨hall.ctx, fun hen => pends_fire 28 _ (by decide) ?_, ?_⟩
  · exact (hrec.bit F.TLP_PE_CTRL_EVT28_EN 0 0 rfl).trans hen
  · exact (Frame.ctx _ (parts := [.host, .log, .ctx]) m named.ctx (by decide)).trans (hall.reports _ _)

/-! ### LATENCY_CLEAR -/

theorem latencyClear_reaches {m : Main} (h : hostReaches 8 m) :
    (hostAccess 8 latencyClear m).get F.WAV_LATENCY_MAX = 0 ∧
    (hostAccess 8 latencyClear m).get F.WAV_LATENCY_LAST = m.get F.WAV_LATENCY_LAST ∧
    Frame (· = F.WAV_LATENCY_MAX.addr 0) [.host] m (hostAccess 8 latencyClear m) := by
  rw [hostAccess_reaches h]
  unfold latencyClear
  exact ⟨Main.get_put_same _ _ _ _ (by decide), Main.get_put_bits _ _ _ _ _ _ (by decide) (by decide),
    (Frame.accessed _ m (by decide)).trans (Frame.put _ _ _ _ _ rfl)⟩

/-- Settles O18: an input waits or is accepted by the room in the heartbeat, a read returns the contexts as they stand, and the
expiries follow their conditions. -/
theorem contextCommands : Obligations.ContextCommands := by
  unfold Obligations.ContextCommands
  intro s slot pair input
  refine ⟨fun r d => ⟨fun hfull => ⟨?_, ?_⟩, fun hroom => ⟨fun ha => ?_, fun ha => ?_⟩⟩, fun r d ha => answersMain_ctxRead ha, ?_,
    fun i => ?_, fun h => answersMain_of (f := hostAccess 8 latencyClear) rfl (latencyClear_reaches h)⟩
  · exact answersMain_of (f := cmdOverride r d) rfl (cmdOverride_full hfull r d)
  · exact answersMain_of (f := cmdSetpoint r d) rfl (cmdSetpoint_full hfull r d)
  · refine (answersMain_setpoint hroom ha).mono ?_
    rintro m ⟨hctx, hsend, hback, hrep⟩
    exact ⟨⟨hctx, hsend, hback⟩, hrep⟩
  · intro scope target room k
    split
    · next hpast => exact answersMain_overridePast hroom ha hpast
    · next hin =>
      refine (answersMain_override hroom ha hin).mono ?_
      rintro m ⟨hctx, hsend, hback, hrep⟩
      exact ⟨⟨hctx, hsend, hback⟩, hrep⟩
  · exact answersMain_of (f := fun m => expireOverrides m.course m) rfl ⟨rfl, Frame.ctx _ (parts := [.ctx]) _ _ (by decide)⟩
  · intro c n unheard
    split
    · next hdue => exact answersMain_of (f := lanternSilent i) rfl (lanternSilent_names hdue)
    · next hnot => exact answersMain_of (f := lanternSilent i) rfl (lanternSilent_not_due hnot)

end Sys2Proof.Machine
end

section
/-!
SUPPORT. Frames by blocks of registers: what an operation of the executor may change, and that it keeps the pending events.
-/
namespace Sys2Proof.Machine

/-! ### Blocks of registers -/

/-- The register words `ws`, and the registers of the blocks `bs`. -/
def inRegs (ws bs : List Nat) (a : Nat) : Prop := a ∈ ws ∨ a / 65536 ∈ bs

/-- A field's registers below number `n` lie in one block, none of them a word of GLB_EVT. -/
def Field.fits (f : Field) (n : Nat) : Bool :=
  decide (f.base % 65536 + f.stride * (n - 1) < 65536) && (decide (f.base < 0x10 ∧ f.stride = 0) || decide (0x18 ≤ f.base))

theorem Field.addr_block {f : Field} {n i : Nat} (h : f.fits n = true) (hi : i < n) : f.addr i / 65536 = f.base / 65536 := by
  have h1 : f.stride * i ≤ f.stride * (n - 1) := Nat.mul_le_mul_left _ (by omega)
  have h2 : f.base % 65536 + f.stride * (n - 1) < 65536 := by
    unfold Field.fits at h
    simp only [Bool.and_eq_true, decide_eq_true_eq] at h
    exact h.1
  unfold Field.addr
  omega

theorem Field.addr_ne_evt {f : Field} {n i : Nat} (h : f.fits n = true) (k : Nat) (hk : k < 2) : f.addr i ≠ F.GLB_EVT_PEND.addr k := by
  have h2 : (f.base < 0x10 ∧ f.stride = 0) ∨ 0x18 ≤ f.base := by
    unfold Field.fits at h
    simp only [Bool.and_eq_true, Bool.or_eq_true, decide_eq_true_eq] at h
    exact h.2
  unfold Field.addr
  simp only [F.GLB_EVT_PEND]
  rcases h2 with ⟨hb, hs⟩ | hb
  · rw [hs]; omega
  · omega

/-! ### What an operation may change -/

/-- `m'` is `m` but for the register words `ws`, the registers of the blocks `bs`, the parts `ps` and reports, and every pending event
still pends. -/
structure Within (ws bs : List Nat) (ps : List Part) (m m' : Main) : Prop where
  reports : Reports (inRegs ws bs) ps m m'
  pend : ∀ n, n < 64 → pends m n = true → pends m' n = true

theorem Within.refl (ws bs : List Nat) (ps : List Part) (m : Main) : Within ws bs ps m m := ⟨Frame.refl _ _ _, fun _ _ h => h⟩

variable {ws ws' bs bs' : List Nat} {ps ps' : List Part} {m m' m'' : Main}

theorem Within.trans (h : Within ws bs ps m m') (g : Within ws bs ps m' m'') : Within ws bs ps m m'' :=
  ⟨h.reports.trans g.reports, fun n hn hp => g.pend n hn (h.pend n hn hp)⟩

theorem Within.mono (h : Within ws bs ps m m') (hw : ∀ a ∈ ws, a ∈ ws' ∨ a / 65536 ∈ bs' := by decide)
    (hb : ∀ b ∈ bs, b ∈ bs' := by decide) (hp : ∀ p ∈ ps, p ∈ ps' := by decide) : Within ws' bs' ps' m m' :=
  ⟨Frame.mono h.reports (fun a hx => hx.imp (fun hx => hx.elim (hw a) fun hx => Or.inr (hb _ hx)) id)
    (List.cons_subset_cons _ (List.cons_subset_cons _ hp)), h.pend⟩

theorem Keeps.within (ws bs : List Nat) (ps : List Part) (h : Keeps m m') : Within ws bs ps m m' := ⟨h.reports _ _, h.pend⟩

theorem Within.ite (c : Prop) [Decidable c] {a b : Main} (h : Within ws bs ps m a) (g : Within ws bs ps m b) :
    Within ws bs ps m (if c then a else b) := by
  split
  · exact h
  · exact g

theorem Within.foldl {α : Type} (f : Main → α → Main) (l : List α) (h : ∀ x ∈ l, ∀ m, Within ws bs ps m (f m x)) (m : Main) :
    Within ws bs ps m (l.foldl f m) := by
  induction l generalizing m with
  | nil => exact Within.refl _ _ _ _
  | cons x t ih => exact (h x (List.mem_cons_self ..) m).trans (ih (fun y hy => h y (List.mem_cons_of_mem _ hy)) _)

/-- A field that a write of another register leaves keeps every pending event. -/
theorem pends_setWord_ne (m : Main) {a : Nat} (v : Nat) (h : ∀ k, k < 2 → a ≠ F.GLB_EVT_PEND.addr k) {n : Nat} (hn : n < 64) :
    pends (m.setWord a v) n = pends m n := by
  unfold pends Main.bit
  rw [Main.get_setWord_ne _ _ _ _ (h (n / 32) (by omega))]

/-- A frame without reports that allows no register of GLB keeps every pending event. -/
theorem Frame.within (h : Frame (inRegs ws bs) ps m m') (hg : 0x10 ∉ ws ∧ 0x14 ∉ ws ∧ 0 ∉ bs := by decide) :
    Within ws bs ps m m' := by
  obtain ⟨h0, h1, hb⟩ := hg
  refine ⟨h.reports, fun n hn hp => ?_⟩
  have hne : ¬ inRegs ws bs (F.GLB_EVT_PEND.addr (n / 32)) := by
    rcases (by omega : n / 32 = 0 ∨ n / 32 = 1) with e | e <;> rw [e]
    · exact not_or.2 ⟨h0, hb⟩
    · exact not_or.2 ⟨h1, hb⟩
  unfold pends Main.bit Main.get at *
  rw [h.1 _ hne]
  exact hp

/-- A field's register lies in the frame that names its word or its block. -/
theorem Field.inRegs {f : Field} {i n : Nat} (hi : i < n) (h : f.fits n = true := by decide)
    (hb : f.stride = 0 ∧ f.base ∈ ws ∨ f.base / 65536 ∈ bs := by decide) : inRegs ws bs (f.addr i) := by
  rcases hb with ⟨hs, hb⟩ | hb
  · exact Or.inl (by unfold Field.addr; rw [hs, Nat.zero_mul]; exact hb)
  · exact Or.inr (by rw [Field.addr_block h hi]; exact hb)

theorem Frame.putIn (m : Main) (f : Field) (v : Nat) {i n : Nat} (hi : i < n) (h : f.fits n = true := by decide)
    (hb : f.stride = 0 ∧ f.base ∈ ws ∨ f.base / 65536 ∈ bs := by decide) : Frame (inRegs ws bs) ps m (m.put f v i) :=
  Frame.put ps m f v i (Field.inRegs hi h hb)

theorem Frame.widen (h : Frame (inRegs ws bs) ps m m') (hw : ∀ a ∈ ws, a ∈ ws' ∨ a / 65536 ∈ bs' := by decide)
    (hb : ∀ b ∈ bs, b ∈ bs' := by decide) (hp : ∀ p ∈ ps, p ∈ ps' := by decide) : Frame (inRegs ws' bs') ps' m m' :=
  h.mono (fun a hx => hx.elim (hw a) fun hx => Or.inr (hb _ hx)) hp

/-- A register write is within a frame that allows its word or its block. -/
theorem Within.put (m : Main) (f : Field) (v : Nat) {i n : Nat} (hi : i < n) (h : f.fits n = true := by decide)
    (hb : f.stride = 0 ∧ f.base ∈ ws ∨ f.base / 65536 ∈ bs := by decide) : Within ws bs ps m (m.put f v i) := by
  refine ⟨(Frame.putIn m f v hi h hb).reports, fun k hk hp => ?_⟩
  unfold Main.put
  rwa [pends_setWord_ne m _ (Field.addr_ne_evt h) hk]

theorem Within.putBit (m : Main) (f : Field) (on : Bool) (j : Nat) {i n : Nat} (hi : i < n) (h : f.fits n = true := by decide)
    (hb : f.stride = 0 ∧ f.base ∈ ws ∨ f.base / 65536 ∈ bs := by decide) : Within ws bs ps m (m.putBit f on i j) := Within.put m f _ hi h hb

theorem Within.count (m : Main) (f : Field) (k : Nat) {i n : Nat} (hi : i < n) (h : f.fits n = true := by decide)
    (hb : f.stride = 0 ∧ f.base ∈ ws ∨ f.base / 65536 ∈ bs := by decide) : Within ws bs ps m (m.count f i k) := Within.put m f _ hi h hb

/-- A change of some parts of the main side, with the registers and the outputs as they were. -/
theorem Frame.parts {regs : Nat → Prop} (hr : m'.regs = m.regs) (ho : m'.out = m.out) (hp : ∀ p, p ∉ ps → p.same m m') :
    Frame regs ps m m' := ⟨fun a _ => by unfold Main.word; rw [hr], hp, ho ▸ List.suffix_refl _⟩

/-- A change of parts of the main side, of the outputs and of the counter of free values, with the registers as they were. -/
theorem Within.parts (h : m'.regs = m.regs) (hp : ∀ p, p ∉ ps → p ≠ .host → p ≠ .log → p.same m m') (ho : m.out <:+ m'.out) :
    Within ws bs ps m m' := by
  refine ⟨⟨fun a _ => by unfold Main.word; rw [h], fun p hn => ?_, ho⟩, fun n _ hp => ?_⟩
  · simp only [List.mem_cons, not_or] at hn
    exact hp p hn.2.2 hn.1 hn.2.1
  · unfold pends Main.bit Main.get Main.word at *
    rw [h]; exact hp

theorem Within.ylm (m : Main) (v : Ylm) (h : Part.ylm ∈ ps := by decide) : Within ws bs ps m { m with ylm := v } :=
  Within.parts rfl (fun p hp _ _ => by cases p <;> first | rfl | exact absurd h hp) (List.suffix_refl _)

theorem Within.ctx (m : Main) (v : CtxSt) (h : Part.ctx ∈ ps := by decide) : Within ws bs ps m { m with ctx := v } :=
  Within.parts rfl (fun p hp _ _ => by cases p <;> first | rfl | exact absurd h hp) (List.suffix_refl _)

theorem Within.wav (m : Main) (v : Wav) (h : Part.wav ∈ ps := by decide) : Within ws bs ps m { m with wav := v } :=
  Within.parts rfl (fun p hp _ _ => by cases p <;> first | rfl | exact absurd h hp) (List.suffix_refl _)

theorem Within.pur (m : Main) (v : Pur) (h : Part.pur ∈ ps := by decide) : Within ws bs ps m { m with pur := v } :=
  Within.parts rfl (fun p hp _ _ => by cases p <;> first | rfl | exact absurd h hp) (List.suffix_refl _)

theorem Within.red (m : Main) (v : Red) (h : Part.red ∈ ps := by decide) : Within ws bs ps m { m with red := v } :=
  Within.parts rfl (fun p hp _ _ => by cases p <;> first | rfl | exact absurd h hp) (List.suffix_refl _)

theorem Within.time (m : Main) (v : Time) (h : Part.time ∈ ps := by decide) : Within ws bs ps m { m with time := v } :=
  Within.parts rfl (fun p hp _ _ => by cases p <;> first | rfl | exact absurd h hp) (List.suffix_refl _)

theorem Within.gbl (m : Main) (v : Gbl) (h : Part.gbl ∈ ps := by decide) : Within ws bs ps m { m with gbl := v } :=
  Within.parts rfl (fun p hp _ _ => by cases p <;> first | rfl | exact absurd h hp) (List.suffix_refl _)

theorem Within.eav (m : Main) (v : Eav) (h : Part.eav ∈ ps := by decide) : Within ws bs ps m { m with eav := v } :=
  Within.parts rfl (fun p hp _ _ => by cases p <;> first | rfl | exact absurd h hp) (List.suffix_refl _)

theorem Within.upd (m : Main) (v : Upd) (h : Part.upd ∈ ps := by decide) : Within ws bs ps m { m with upd := v } :=
  Within.parts rfl (fun p hp _ _ => by cases p <;> first | rfl | exact absurd h hp) (List.suffix_refl _)

theorem Within.pwr (m : Main) (v : Pwr) (h : Part.pwr ∈ ps := by decide) : Within ws bs ps m { m with pwr := v } :=
  Within.parts rfl (fun p hp _ _ => by cases p <;> first | rfl | exact absurd h hp) (List.suffix_refl _)

theorem Within.withLane (l : Nat) (f : Lane → Lane) (m : Main) (h : Part.lanes ∈ ps := by decide) : Within ws bs ps m (withLane l f m) :=
  Within.parts rfl (fun p hp _ _ => by cases p <;> first | rfl | exact absurd h hp) (List.suffix_refl _)

theorem Within.emit (m : Main) (o : Output) : Within ws bs ps m (m.emit o) := (keeps_emit m o).within _ _ _

/-! ### What stays -/

/-- A field's registers below number `n` are written neither in the frame of `ws` and `bs` nor by reporting. -/
def Field.still (f : Field) (n : Nat) (ws bs : List Nat) : Bool :=
  f.fits n && decide (∀ a ∈ ws, a < f.base ∨ f.base + f.stride * (n - 1) < a) && decide (f.base / 65536 ∉ bs) &&
    decide (f.base / 65536 ∉ [0, 2, 3, 0x12, 0x13, 0x3F])

theorem Within.get (h : Within ws bs ps m m') (f : Field) {i n : Nat} (hi : i < n) (hs : f.still n ws bs = true := by decide) :
    m'.get f i = m.get f i := by
  unfold Field.still at hs
  simp only [Bool.and_eq_true, decide_eq_true_eq] at hs
  obtain ⟨⟨⟨hfits, hwords⟩, hblocks⟩, hrep⟩ := hs
  have hblock := Field.addr_block hfits hi
  have hle : f.stride * i ≤ f.stride * (n - 1) := Nat.mul_le_mul_left _ (by omega)
  obtain ⟨hregs, -, -⟩ := h.reports
  unfold Main.get
  rw [hregs]
  rintro ((hin | hin) | hr)
  · have := hwords _ hin
    unfold Field.addr at this
    omega
  · exact hblocks (hblock ▸ hin)
  · apply hrep
    rw [← hblock]
    unfold reporting at hr
    simp only [List.mem_cons, List.not_mem_nil, or_false]
    omega

theorem Within.bit (h : Within ws bs ps m m') (f : Field) (j : Nat) {i n : Nat} (hi : i < n) (hs : f.still n ws bs = true := by decide) :
    m'.bit f i j = m.bit f i j := by
  unfold Main.bit; rw [h.get f hi hs]

theorem Within.same (h : Within ws bs ps m m') (p : Part) (hp : p ∉ Part.host :: Part.log :: ps := by decide) : p.same m m' :=
  h.reports.2.1 p hp

theorem Within.mem (h : Within ws bs ps m m') {o : Output} (ho : o ∈ m.out) : o ∈ m'.out := h.reports.2.2.mem ho

end Sys2Proof.Machine
end


section
/-!
SUPPORT. The plan banks (R60): the states of the banks after each of the operations that move them, and the deadlines of an arm and the
end of probation (R63, R65, R69–R73, R593).
-/
namespace Sys2Proof.Machine

/-! ### The state of a bank -/

theorem bankState_setBank_same (m : Main) (b : Nat) {st : Nat} (h : st < 16) : bankState (setBank b st m) b = st := by
  unfold bankState setBank
  rw [Main.get_put_same _ _ _ _ (by decide)]
  exact Nat.mod_eq_of_lt h

theorem bankState_setBank_ne (m : Main) {b c : Nat} (st : Nat) (h : b ≠ c) : bankState (setBank b st m) c = bankState m c := by
  unfold bankState setBank
  refine Main.get_put_addr _ _ _ _ _ _ ?_
  unfold Field.addr
  simp only [F.YLM_BANK_STATE_STATE]
  omega

theorem Within.bankState {ws bs : List Nat} {ps : List Part} {m m' : Main} (h : Within ws bs ps m m') {b : Nat} (hb : b < 2)
    (hs : F.YLM_BANK_STATE_STATE.still 2 ws bs = true := by decide) : bankState m' b = bankState m b := h.get _ hb hs

/-- A bank in a state, by the states of the two. -/
theorem bankIn_eq (m : Main) (st : Nat) : bankIn m st = if bankState m 0 = st then some 0 else if bankState m 1 = st then some 1 else none := by
  unfold bankIn
  by_cases h0 : bankState m 0 = st
  · simp [h0]
  · by_cases h1 : bankState m 1 = st <;> simp [h0, h1]

theorem bankIn_some {m : Main} {st b : Nat} (h : bankIn m st = some b) : b < 2 ∧ bankState m b = st := by
  rw [bankIn_eq] at h
  split at h
  · next h0 => cases h; exact ⟨by decide, h0⟩
  · split at h
    · next h1 => cases h; exact ⟨by decide, h1⟩
    · cases h

theorem bankIn_none {m : Main} {st : Nat} : bankIn m st = none ↔ ∀ k : Fin 2, bankState m k ≠ st := by
  rw [bankIn_eq]
  constructor
  · intro h k
    split at h
    · cases h
    · next h0 =>
      split at h
      · cases h
      · next h1 => match k with
        | 0 => exact h0
        | 1 => exact h1
  · intro h
    exact (if_neg (h 0)).trans (if_neg (h 1))

theorem bankIn_congr {m m' : Main} (h : ∀ b, b < 2 → bankState m' b = bankState m b) (st : Nat) : bankIn m' st = bankIn m st := by
  rw [bankIn_eq, bankIn_eq, h 0 (by decide), h 1 (by decide)]

theorem bankFin_val {b : Nat} (h : b < 2) : (bankFin b).val = b := by
  unfold bankFin
  split
  · next h1 => show 1 = b; omega
  · next h1 => show 0 = b; omega

/-- A bank is loaded where the idle area holds it whole. -/
theorem armLoaded_iff {m : Main} {b : Nat} (h : b < 2) : armLoaded m b = true ↔ m.ylm.idle = some (bankFin b, true) := by
  unfold armLoaded
  cases m.ylm.idle with
  | none => simp
  | some p =>
    obtain ⟨k, whole⟩ := p
    have hk : (k.val = b) ↔ k = bankFin b := by rw [Fin.ext_iff, bankFin_val h]
    simp [hk]

/-! ### The operations on banks -/

theorem Frame.ylm (regs : Nat → Prop) {parts : List Part} (m : Main) (v : Ylm) (h : Part.ylm ∈ parts) :
    Frame regs parts m { m with ylm := v } :=
  ⟨fun _ _ => rfl, fun p hp => by cases p <;> first | rfl | exact absurd h hp, List.suffix_refl _⟩

theorem Frame.setBank (parts : List Part) (m : Main) {b : Nat} (st : Nat) (h : b < 2) :
    Frame (inRegs [] [4]) parts m (setBank b st m) := Frame.putIn m F.YLM_BANK_STATE_STATE st h

/-- YLM_STATUS alone shows which plan runs. -/
theorem Frame.showPlan (parts : List Part) (m : Main) : Frame (inRegs [0x040008] []) parts m (showPlan m) := by
  have one (x : Main) (f : Field) (v : Nat) (hf : f.fits 1 = true ∧ f.stride = 0 ∧ f.base ∈ [0x040008] := by decide) :
      Frame (inRegs [0x040008] []) parts x (x.put f v) := Frame.putIn x f v Nat.one_pos hf.1 (Or.inl hf.2)
  unfold Machine.showPlan
  dsimp only
  split
  · exact (((one _ F.YLM_STATUS_PREV_EPOCH _).trans (one _ F.YLM_STATUS_RUN_EPOCH _)).trans (one _ F.YLM_STATUS_RUN_BANK _)).trans
      (one _ F.YLM_STATUS_PROBATION _)
  · exact (((one _ F.YLM_STATUS_PREV_EPOCH _).trans (one _ F.YLM_STATUS_RUN_EPOCH _)).trans (one _ F.YLM_STATUS_RUN_BANK _)).trans
      (one _ F.YLM_STATUS_PROBATION _)

theorem within_showPlan (m : Main) : Within [0x040008] [] [] m (showPlan m) := (Frame.showPlan [] m).within

end Sys2Proof.Machine
end


section
/-!
SUPPORT. The deadlines of an arm and the end of probation (R63, R65, R69–R73, R593).
-/
namespace Sys2Proof.Machine

/-! ### An arm that returns, a probation that ends -/

theorem bankState_unarm_same (m : Main) (b : Nat) : bankState (unarm b m) b = Bk.verified := bankState_setBank_same _ _ (by decide)

theorem bankState_unarm_ne (m : Main) {b c : Nat} (h : b ≠ c) : bankState (unarm b m) c = bankState m c := bankState_setBank_ne _ _ h

theorem Frame.unarm (m : Main) {b : Nat} (h : b < 2) : Frame (inRegs [] [4]) [.ylm, .ctx] m (unarm b m) := by
  refine Frame.trans ?_ (Frame.setBank _ _ Bk.verified h)
  refine Frame.parts rfl rfl fun p hp => ?_
  cases p with
  | ylm | ctx => exact absurd hp (by decide)
  | _ => rfl

theorem Frame.blockFour {parts : List Part} {m m' : Main} (h : Frame (inRegs [] [4]) parts m m') : Frame (inBlock 4) parts m m' :=
  h.mono (fun _ hx => hx.elim (fun h => absurd h (List.not_mem_nil)) List.mem_singleton.1) (fun _ h => h)

/-- What is left of an arm that misses its deadline, its error bit `f` of YLM_ERR set. -/
theorem unarm_missed (m : Main) {b : Nat} (h : b < 2) {f : Field} (hf : f.base = 0x040028 ∧ f.stride = 0 ∧ f.lo < 32 ∧ f.width = 1) :
    let m' := unarm b (m.putBit f true)
    bankState m' b = Bk.verified ∧ bankState m' (1 - b) = bankState m (1 - b) ∧ m'.bit f = true ∧ m'.ylm.idle = none ∧
      m'.ylm.banks = m.ylm.banks ∧ Frame (inBlock 4) [.ylm, .ctx] m m' := by
  obtain ⟨hbase, hstride, hlo, hwidth⟩ := hf
  have hword : f.addr 0 = 0x040028 := by unfold Field.addr; rw [hbase, hstride]
  have hput : Frame (inRegs [0x040028] []) [] m (m.putBit f true) :=
    Frame.putBit [] m f true 0 0 (Or.inl (hword ▸ List.mem_singleton_self _))
  have hbit : (m.putBit f true).bit f = true := by
    rw [Main.bit_putBit m f true 0 0 0 (by omega) (by omega), if_pos rfl]
  have hkeep : (unarm b (m.putBit f true)).bit f = (m.putBit f true).bit f := by
    unfold Main.bit unarm setBank
    rw [Main.get_put_addr _ _ _ _ _ _ (by rw [hword]; unfold Field.addr; simp only [F.YLM_BANK_STATE_STATE]; omega)]
    rfl
  refine ⟨bankState_unarm_same _ _, ?_, hkeep.trans hbit, rfl, rfl, ?_⟩
  · rw [bankState_unarm_ne _ (by omega)]
    exact hput.within.bankState (by omega)
  · exact (hput.widen.trans (Frame.unarm _ h)).blockFour

theorem bankState_endProbation_same (m : Main) {b : Nat} (h : b < 2) : bankState (endProbation b m) b = Bk.running := by
  unfold endProbation
  rw [(within_showPlan _).bankState h, (Within.put (ws := [0x040024]) (bs := []) (ps := []) _ F.YLM_PROBATION_REMAIN 0 Nat.one_pos).bankState h]
  exact bankState_setBank_same _ _ (by decide)

theorem bankState_endProbation_ne (m : Main) {b c : Nat} (hc : c < 2) (h : b ≠ c) : bankState (endProbation b m) c = bankState m c := by
  unfold endProbation
  rw [(within_showPlan _).bankState hc, (Within.put (ws := [0x040024]) (bs := []) (ps := []) _ F.YLM_PROBATION_REMAIN 0 Nat.one_pos).bankState hc]
  exact bankState_setBank_ne _ _ h

theorem remain_endProbation (m : Main) (b : Nat) : (endProbation b m).get F.YLM_PROBATION_REMAIN = 0 := by
  unfold endProbation
  rw [(within_showPlan _).get _ Nat.one_pos, Main.get_put_same _ _ _ _ (by decide)]
  rfl

theorem Frame.endProbation (m : Main) {b : Nat} (h : b < 2) : Frame (inRegs [] [4]) [] m (endProbation b m) :=
  ((Frame.setBank [] m Bk.running h).trans (Frame.putIn _ F.YLM_PROBATION_REMAIN 0 Nat.one_pos)).trans (Frame.showPlan [] _).widen

end Sys2Proof.Machine
end


section
namespace Sys2Proof.Machine

/-! ### ARM_LOAD_COMPLETE, ARM_LATE and PAIR_MISMATCH -/

theorem armLoadComplete_armed {m : Main} {b : Fin 2} (hi : m.ylm.idle = some (b, false)) (hb : bankState m b = Bk.armed) :
    armLoadComplete m = { m with ylm := { m.ylm with idle := some (b, true) } } := by
  unfold armLoadComplete
  rw [hi]
  exact if_pos hb

theorem armLoadComplete_else {m : Main} (h : ∀ b : Fin 2, m.ylm.idle = some (b, false) → bankState m b ≠ Bk.armed) :
    armLoadComplete m = m := by
  unfold armLoadComplete
  split
  · next b hi => exact if_neg (h b hi)
  · rfl

/-- The armed bank is not loaded one second before its switch instant (R63). -/
def lateArm (m : Main) (b : Nat) : Prop := m.ylm.idle ≠ some (bankFin b, true) ∧ 100 * switchAt m ≤ m.slotNow + 100

/-- The standby's confirmation is missing two seconds before the switch instant (R65). -/
def mismatched (m : Main) : Prop :=
  m.bit F.RED_STATUS_PAIRED = true ∧ m.ylm.armNoPlan = false ∧ 100 * switchAt m ≤ m.slotNow + 200 ∧
    (standby m = true ∨ m.ylm.pairConf = false)

theorem armLate_armed {m : Main} {b : Nat} (h : bankIn m Bk.armed = some b) :
    (lateArm m b → armLate m = unarm b (m.putBit F.YLM_ERR_ARM_LATE true)) ∧ (¬ lateArm m b → armLate m = m) := by
  have hb := (bankIn_some h).1
  have hload : (!armLoaded m b && decide (100 * switchAt m ≤ m.slotNow + 100)) = true ↔ lateArm m b := by
    unfold lateArm
    rw [ne_eq, ← armLoaded_iff hb]
    simp
  unfold armLate
  rw [h]
  exact ⟨fun hl => if_pos (hload.2 hl), fun hl => if_neg (mt hload.1 hl)⟩

theorem armLate_none {m : Main} (h : bankIn m Bk.armed = none) : armLate m = m := by
  unfold armLate; rw [h]

theorem pairMismatch_armed {m : Main} {b : Nat} (h : bankIn m Bk.armed = some b) :
    (mismatched m → pairMismatch m = unarm b (m.putBit F.YLM_ERR_PAIR_MISMATCH true)) ∧ (¬ mismatched m → pairMismatch m = m) := by
  have hc : (m.bit F.RED_STATUS_PAIRED && !m.ylm.armNoPlan && decide (100 * switchAt m ≤ m.slotNow + 200) &&
      (standby m || !m.ylm.pairConf)) = true ↔ mismatched m := by
    unfold mismatched
    simp [and_assoc]
  unfold pairMismatch
  rw [h]
  exact ⟨fun hl => if_pos (hc.2 hl), fun hl => if_neg (mt hc.1 hl)⟩

theorem pairMismatch_none {m : Main} (h : bankIn m Bk.armed = none) : pairMismatch m = m := by
  unfold pairMismatch; rw [h]

/-! ### PROBATION_WINDOW_END -/

theorem windowEnd_idle {told : Option Nat} {m : Main}
    (h : m.ylm.rollback.isSome ∨ ∀ b, m.ylm.run = some b → bankState m b ≠ Bk.probation) : windowEnd told m = m := by
  unfold windowEnd
  split
  · rfl
  · next b hr => exact if_pos (h.elim Or.inr fun hn => Or.inl (hn b hr))

section
variable {told : Option Nat} {m : Main} {b : Fin 2} (hr : m.ylm.run = some b) (hb : bankState m b = Bk.probation) (hn : m.ylm.rollback = none)
include hr hb hn

theorem windowEnd_fails {i n t : Nat} {c : Crit} (h : firstFailing m (bankOf m b).img told = some (i, c, n, t)) :
    windowEnd told m = criterionFails i c n t m := by
  have hrun : ¬ (bankState m b ≠ Bk.probation ∨ m.ylm.rollback.isSome) := by simp [hb, hn]
  unfold windowEnd
  rw [hr]
  dsimp only
  rw [if_neg hrun, h]

theorem windowEnd_passes (h : firstFailing m (bankOf m b).img told = none) :
    windowEnd told m = if m.get F.YLM_PROBATION_REMAIN = 0 then endProbation b m else m := by
  have hrun : ¬ (bankState m b ≠ Bk.probation ∨ m.ylm.rollback.isSome) := by simp [hb, hn]
  unfold windowEnd
  rw [hr]
  dsimp only
  rw [if_neg hrun, h]

end

/-- YLM_PROBATION shows the criterion that failed. -/
def showCriterion (i : Nat) (m : Main) : Main := (m.putBit F.YLM_PROBATION_FAIL_VALID true).put F.YLM_PROBATION_FAIL_CRIT i

theorem Frame.showCriterion (i : Nat) (m : Main) : Frame (inRegs [0x040024] []) [] m (showCriterion i m) :=
  (Frame.putIn m F.YLM_PROBATION_FAIL_VALID _ Nat.one_pos).trans (Frame.putIn _ F.YLM_PROBATION_FAIL_CRIT i Nat.one_pos)

theorem showCriterion_valid (i : Nat) (m : Main) : (showCriterion i m).bit F.YLM_PROBATION_FAIL_VALID = true := by
  unfold showCriterion Main.bit
  rw [Main.get_put_bits _ _ _ _ _ _ (by decide) (by decide)]
  exact (Main.bit_putBit m F.YLM_PROBATION_FAIL_VALID true 0 0 0 (by decide) (by decide)).trans (if_pos rfl)

theorem showCriterion_crit (i : Nat) (m : Main) : (showCriterion i m).get F.YLM_PROBATION_FAIL_CRIT = i % 16 :=
  Main.get_put_same _ _ _ _ (by decide)

theorem keeps_tellCriterion (i : Nat) (c : Crit) (n t : Nat) (m : Main) : Keeps m (tellCriterion i c n t m) :=
  (keeps_record ..).trans (keeps_fire 25 _ (by decide))

theorem pends_tellCriterion (i : Nat) (c : Crit) (n t : Nat) (m : Main) : pends (tellCriterion i c n t m) 25 = true :=
  pends_fire 25 _ (by decide) rfl

/-- What every failing criterion leaves: it is shown, and nothing outside YLM changes. -/
structure CriterionShown (i : Nat) (m m' : Main) : Prop where
  valid : m'.bit F.YLM_PROBATION_FAIL_VALID = true
  crit : m'.get F.YLM_PROBATION_FAIL_CRIT = i % 16
  within : Within [] [4] [.ylm] m m'

theorem bankIn_showCriterion (i : Nat) (m : Main) (st : Nat) : bankIn (showCriterion i m) st = bankIn m st :=
  bankIn_congr (fun _ hb => (Frame.showCriterion i m).within.bankState hb) st

/-- What a failing criterion does once it is shown: `criterionFails` after its writes of YLM_PROBATION. -/
def criterionShown (i : Nat) (c : Crit) (n t : Nat) (m : Main) : Main :=
  match bankIn m Bk.previous, m.ylm.run with
  | some _, _ =>
    let m := if standby m then m else tellCriterion i c n t m
    { m with ylm := { m.ylm with rollback := some (2, false) } }
  | none, some b => tellCriterion i c n t ((endProbation b m).putBit F.YLM_ERR_ROLLBACK_NONE true)
  | none, none => m

/-- The same by the bank PREVIOUS and the bank that runs. -/
def criterionActs (prev : Option Nat) (run : Option (Fin 2)) (i : Nat) (c : Crit) (n t : Nat) (m : Main) : Main :=
  match prev, run with
  | some _, _ =>
    let m := if standby m then m else tellCriterion i c n t m
    { m with ylm := { m.ylm with rollback := some (2, false) } }
  | none, some b => tellCriterion i c n t ((endProbation b m).putBit F.YLM_ERR_ROLLBACK_NONE true)
  | none, none => m

theorem criterionShown_eq (i : Nat) (c : Crit) (n t : Nat) (m : Main) :
    criterionShown i c n t m = criterionActs (bankIn m Bk.previous) m.ylm.run i c n t m := rfl

/-- The writes stay in a `let` here: the kernel then compares the two functions before it looks at the registers written. -/
theorem criterionFails_let (i : Nat) (c : Crit) (n t : Nat) (m : Main) : criterionFails i c n t m =
    let m := (m.putBit F.YLM_PROBATION_FAIL_VALID true).put F.YLM_PROBATION_FAIL_CRIT i
    criterionShown i c n t m := rfl

theorem criterionFails_eq (i : Nat) (c : Crit) (n t : Nat) (m : Main) : criterionFails i c n t m =
    criterionActs (bankIn (showCriterion i m) Bk.previous) (showCriterion i m).ylm.run i c n t (showCriterion i m) :=
  Eq.trans (criterionFails_let i c n t m) (criterionShown_eq i c n t (showCriterion i m))

theorem criterionActs_alone (b : Fin 2) (i : Nat) (c : Crit) (n t : Nat) (m : Main) :
    criterionActs none (some b) i c n t m = tellCriterion i c n t ((endProbation b m).putBit F.YLM_ERR_ROLLBACK_NONE true) := rfl

/-- With a bank PREVIOUS a failing criterion makes a rollback pending at the second boundary (R71). -/
theorem criterionActs_previous (p : Nat) (run : Option (Fin 2)) (i : Nat) (c : Crit) (n t : Nat) (m : Main) :
    ∃ x, Keeps m x ∧ (standby m = false → pends x 25 = true) ∧
      criterionActs (some p) run i c n t m = { x with ylm := { x.ylm with rollback := some (2, false) } } := by
  refine ⟨if standby m then m else tellCriterion i c n t m, keeps_ite _ (Keeps.refl _) (keeps_tellCriterion ..), fun hs => ?_, rfl⟩
  rw [hs, if_neg Bool.false_ne_true]
  exact pends_tellCriterion i c n t m

theorem criterionFails_previous (i : Nat) (c : Crit) (n t : Nat) {m : Main} {p : Nat} (hp : bankIn m Bk.previous = some p) :
    let m' := criterionFails i c n t m
    CriterionShown i m m' ∧ (standby m = false → pends m' 25 = true) ∧ m'.ylm = { m.ylm with rollback := some (2, false) } ∧
      ∀ k : Fin 2, bankState m' k = bankState m k := by
  have hshow := (Frame.showCriterion i m).within
  have hsby : standby (showCriterion i m) = standby m := by
    unfold standby; rw [hshow.bit _ 0 Nat.one_pos, hshow.bit F.RED_STATUS_ACTIVE 0 Nat.one_pos]
  obtain ⟨x, hkeeps, htold, heq⟩ := criterionActs_previous p (showCriterion i m).ylm.run i c n t (showCriterion i m)
  rw [criterionFails_eq, (bankIn_showCriterion i m Bk.previous).trans hp, heq]
  refine ⟨⟨?_, ?_, ?_⟩, fun hs => htold (hsby.trans hs), ?_, fun k => ?_⟩
  · exact (hkeeps.bit F.YLM_PROBATION_FAIL_VALID 0 0 rfl).trans (showCriterion_valid i m)
  · exact (hkeeps.get F.YLM_PROBATION_FAIL_CRIT 0 rfl).trans (showCriterion_crit i m)
  · exact (hshow.mono.trans (hkeeps.within _ _ _)).trans (Within.ylm _ _)
  · exact congrArg (fun y : Ylm => { y with rollback := some (2, false) }) (hkeeps.ylm.trans (hshow.same .ylm))
  · exact (((hkeeps.within [] [] []).bankState k.isLt).trans (hshow.bankState k.isLt))

/-- The end of probation writes of YLM_PROBATION the courses left alone. -/
theorem get_endProbation (m : Main) (b : Fin 2) (f : Field) (hf : f.base = 0x040024 ∧ f.stride = 0 ∧ 16 ≤ f.lo ∧ f.lo + f.width ≤ 32) :
    (endProbation b m).get f = m.get f := by
  obtain ⟨hbase, hstride, hlo, hhi⟩ := hf
  have haddr : f.addr 0 = 0x040024 := by unfold Field.addr; rw [hbase, hstride]
  have hstate := b.isLt
  unfold endProbation
  calc _ = (((setBank b Bk.running m).put F.YLM_PROBATION_REMAIN 0).get f) := by
        unfold Main.get
        rw [(Frame.showPlan [] _).1 _ (by rw [haddr]; exact not_or.2 ⟨by decide, List.not_mem_nil⟩)]
    _ = (setBank b Bk.running m).get f := Main.get_put_bits _ _ _ _ _ _ (by decide) (Or.inr (by simp only [F.YLM_PROBATION_REMAIN]; omega))
    _ = m.get f := Main.get_put_addr _ _ _ _ _ _ (by rw [haddr]; unfold Field.addr; simp only [F.YLM_BANK_STATE_STATE]; omega)

/-- With no bank PREVIOUS the bank of a failing criterion is RUNNING (R73). -/
theorem criterionFails_alone (i : Nat) (c : Crit) (n t : Nat) {m : Main} {b : Fin 2} (hp : bankIn m Bk.previous = none)
    (hr : m.ylm.run = some b) :
    let m' := criterionFails i c n t m
    CriterionShown i m m' ∧ pends m' 25 = true ∧ m'.ylm = m.ylm ∧ bankState m' b = Bk.running ∧
      bankState m' (1 - b) = bankState m (1 - b) ∧ m'.get F.YLM_PROBATION_REMAIN = 0 ∧ m'.bit F.YLM_ERR_ROLLBACK_NONE = true := by
  have hshow := (Frame.showCriterion i m).within
  have hrun : (showCriterion i m).ylm.run = some b := (congrArg Ylm.run (hshow.same .ylm)).trans hr
  have hother : 1 - (b : Nat) < 2 := by omega
  have hend := Frame.endProbation (showCriterion i m) b.isLt
  have herr : Within [0x040028] [] [] (endProbation b (showCriterion i m))
      ((endProbation b (showCriterion i m)).putBit F.YLM_ERR_ROLLBACK_NONE true) := Within.putBit _ _ _ _ Nat.one_pos
  rw [criterionFails_eq, (bankIn_showCriterion i m Bk.previous).trans hp, hrun, criterionActs_alone]
  generalize hx : (endProbation b (showCriterion i m)).putBit F.YLM_ERR_ROLLBACK_NONE true = x at *
  have htell := keeps_tellCriterion i c n t x
  refine ⟨⟨?_, ?_, ?_⟩, pends_tellCriterion .., ?_, ?_, ?_, ?_, ?_⟩
  · rw [htell.bit F.YLM_PROBATION_FAIL_VALID 0 0 rfl, herr.bit F.YLM_PROBATION_FAIL_VALID 0 Nat.one_pos]
    unfold Main.bit
    rw [get_endProbation _ _ _ (by decide)]
    exact showCriterion_valid i m
  · rw [htell.get F.YLM_PROBATION_FAIL_CRIT 0 rfl, herr.get F.YLM_PROBATION_FAIL_CRIT Nat.one_pos, get_endProbation _ _ _ (by decide)]
    exact showCriterion_crit i m
  · exact ((hshow.mono.trans (hend.widen.within)).trans herr.mono).trans (htell.within _ _ _)
  · exact htell.ylm.trans ((herr.same .ylm).trans ((hend.within.same .ylm).trans (hshow.same .ylm)))
  · rw [(htell.within [] [] []).bankState b.isLt, herr.bankState b.isLt, bankState_endProbation_same _ b.isLt]
  · rw [(htell.within [] [] []).bankState hother, herr.bankState hother, bankState_endProbation_ne _ hother (by omega),
      hshow.bankState hother]
  · rw [(htell.within [] [] []).get _ Nat.one_pos, herr.get _ Nat.one_pos, remain_endProbation]
  · rw [htell.bit _ _ _ rfl, ← hx, Main.bit_putBit _ _ _ _ _ _ (by decide) (by decide), if_pos rfl]

end Sys2Proof.Machine
end

section
namespace Sys2Proof.Machine

/-- A frame by words and blocks is one of any predicate that holds of them. -/
theorem Within.report {ws bs : List Nat} {ps : List Part} {regs : Nat → Prop} {m m' : Main} (h : Within ws bs ps m m')
    (hr : ∀ a, inRegs ws bs a → regs a) : Reports regs ps m m' :=
  Frame.mono h.reports (fun a => Or.imp (hr a) id) fun _ hp => hp

theorem inRegs_one {b a : Nat} (h : inRegs [] [b] a) : inBlock b a := h.elim (fun h => absurd h List.not_mem_nil) List.mem_singleton.1

/-- At the end of probation with every criterion passed the bank is RUNNING. -/
theorem endProbation_bank (m : Main) (b : Fin 2) :
    bankState (endProbation b m) b = Bk.running ∧ bankState (endProbation b m) (1 - b) = bankState m (1 - b) ∧
      Frame (inBlock 4) [] m (endProbation b m) :=
  ⟨bankState_endProbation_same m b.isLt, bankState_endProbation_ne m (by omega) (by omega), (Frame.endProbation m b.isLt).blockFour⟩

/-- Settles O13: an arm that misses a deadline by `unarm_missed`, the end of a probation window by whether a criterion fails and, where
one does, by whether a bank is PREVIOUS. -/
theorem armDeadlinesAndProbation : Obligations.ArmDeadlinesAndProbation := by
  unfold Obligations.ArmDeadlinesAndProbation
  intro s returned
  refine ⟨fun b hi hb => answersMain_of (f := armLoadComplete) rfl (armLoadComplete_armed hi hb),
    fun h => answersMain_of (f := armLoadComplete) rfl (armLoadComplete_else h),
    fun h => ⟨answersMain_of (f := armLate) rfl (armLate_none h), answersMain_of (f := pairMismatch) rfl (pairMismatch_none h)⟩,
    fun b hb => ⟨?_, ?_⟩, fun told => ⟨fun h => answersMain_of (f := windowEnd told) rfl (windowEnd_idle h), fun b hr hb hn => ⟨?_, ?_⟩⟩⟩
  · obtain ⟨hlate, hnot⟩ := armLate_armed hb
    split
    · next h =>
      refine answersMain_of (f := armLate) rfl ?_
      rw [hlate h]
      exact unarm_missed _ (bankIn_some hb).1 (by decide)
    · next h => exact answersMain_of (f := armLate) rfl (hnot h)
  · obtain ⟨hmis, hnot⟩ := pairMismatch_armed hb
    split
    · next h =>
      refine answersMain_of (f := pairMismatch) rfl ?_
      rw [hmis h]
      exact unarm_missed _ (bankIn_some hb).1 (by decide)
    · next h => exact answersMain_of (f := pairMismatch) rfl (hnot h)
  · intro i c n t hf
    refine answersMain_of (f := windowEnd told) rfl ?_
    rw [windowEnd_fails hr hb hn hf]
    cases hp : bankIn s.main Bk.previous with
    | some p =>
      obtain ⟨⟨hvalid, hcrit, hwithin⟩, htold, hylm, hbanks⟩ := criterionFails_previous i c n t hp
      exact ⟨hvalid, hcrit, fun h => htold (h.resolve_right (fun h => by cases h)), hwithin.report fun _ => inRegs_one, hylm, hbanks⟩
    | none =>
      obtain ⟨⟨hvalid, hcrit, hwithin⟩, htold, hylm, hbank, hother, hremain, herr⟩ := criterionFails_alone i c n t hp hr
      exact ⟨hvalid, hcrit, fun _ => htold, hwithin.report fun _ => inRegs_one, hylm, hbank, hother, hremain, herr⟩
  · intro hf
    refine answersMain_of (f := windowEnd told) rfl ?_
    rw [windowEnd_passes hr hb hn hf]
    split
    · exact endProbation_bank s.main b
    · rfl

end Sys2Proof.Machine
end

section
/-!
SUPPORT. The plan commands of a ring: a command that its checks let through acts on the banks and is written back (R60–R66, R72, R356,
R593).
-/
namespace Sys2Proof.Machine

/-! ### Commands that act on the banks -/

/-- An operation on the banks moves no ring. -/
theorem Frame.samePlace {ps : List Part} {m x : Main} (h : Frame (inRegs [] [4]) ps m x) (hp : Part.host ∉ ps := by decide) :
    SamePlace m x := by
  obtain ⟨hregs, hparts, -⟩ := h
  refine SamePlace.of_word (fun r hr w hw => hregs _ ?_) (by unfold payloadMost; rw [(hparts .host hp : x.host = m.host)])
  rintro (h | h)
  · cases h
  · rw [List.mem_singleton] at h
    omega

theorem Signals.samePlace {m x : Main} (h : Signals m x) : SamePlace m x := by
  refine SamePlace.of_word (fun r hr w hw => h.word _ (signalAddr_ring ?_)) (by unfold payloadMost; rw [h.host])
  omega

theorem Keeps.bankState {m x : Main} (h : Keeps m x) {b : Nat} (hb : b < 2) : bankState x b = bankState m b :=
  (h.within [] [] []).bankState hb

theorem Keeps.bankIn {m x : Main} (h : Keeps m x) (st : Nat) : bankIn x st = bankIn m st := bankIn_congr (fun _ hb => h.bankState hb) st

/-- What is left where an accepted command made `x` of the state it took, and was answered by `rep`. -/
structure Answered (m : Main) (r : Fin 8) (d : Desc) (rep : Reply) (x m' : Main) : Prop where
  keeps : Keeps x m'
  back : writtenBack m r d rep.status rep.detail rep.doneLen (swapData d.swap rep.data) m'

theorem cmdNow_answered {k : CmdKind} {m : Main} {r : Fin 8} {d : Desc} (ha : accepts k m r d) (f : List Byte → Main → Main × Reply)
    {x : Main} {rep : Reply} (hf : f (swapData d.swap (d.data.take d.length)) (taken k r d m) = (x, rep))
    (hp : SamePlace (taken k r d m) x) : Answered m r d rep x (cmdNow r d k f m) := by
  rw [cmdNow_accepts ha, hf]
  exact ⟨keeps_cmdEnd .., writtenBack_cmdEnd ((samePlace_taken k r d m).trans hp) r d rep⟩

/-- A command that is refused where it acts leaves the state as it was. -/
theorem Answered.still {k : CmdKind} {m m' : Main} {r : Fin 8} {d : Desc} {rep : Reply} (h : Answered m r d rep (taken k r d m) m') :
    Reports (fun _ => False) [] m m' := ((keeps_taken k r d m).trans h.keeps).reports _ _

/-- What a command that ran within frame `ws`, `bs` and `ps` leaves. -/
theorem Answered.within {k : CmdKind} {m m' x : Main} {r : Fin 8} {d : Desc} {rep : Reply} (h : Answered m r d rep x m')
    {ws bs : List Nat} {ps : List Part} (hx : Within ws bs ps (taken k r d m) x) : Within ws bs ps m m' :=
  (((keeps_taken k r d m).within _ _ _).trans hx).trans (h.keeps.within _ _ _)

/-! ### PLAN_DISARM and PLAN_ACCEPT -/

theorem planDisarm_armed {m : Main} {r : Fin 8} {d : Desc} (ha : accepts (.plain 0x0103 1 planGate) m r d)
    (hb : bankState m (d.param % 2) = Bk.armed) :
    Answered m r d (.done 0) (unarm (d.param % 2) (taken (.plain 0x0103 1 planGate) r d m)) (planDisarm (.host r d) m) := by
  have hlt : d.param % 2 < 2 := Nat.mod_lt _ (by decide)
  exact cmdNow_answered ha _ (if_pos (((keeps_taken ..).bankState hlt).trans hb)) (Frame.unarm _ hlt).samePlace

theorem planDisarm_else {m : Main} {r : Fin 8} {d : Desc} (ha : accepts (.plain 0x0103 1 planGate) m r d)
    (hb : bankState m (d.param % 2) ≠ Bk.armed) :
    Answered m r d (.fail St.bankBusy 0) (taken (.plain 0x0103 1 planGate) r d m) (planDisarm (.host r d) m) := by
  have hlt : d.param % 2 < 2 := Nat.mod_lt _ (by decide)
  exact cmdNow_answered ha _ (if_neg (((keeps_taken ..).bankState hlt).trans_ne hb)) (SamePlace.refl _)

/-- What an accepted PLAN_ACCEPT does, by the bank in PROBATION. -/
def acceptRun (m : Main) : Option Nat → Main × Reply
  | some b => (endProbation b m, .done 0)
  | none => (m, .fail St.bankBusy 0)

theorem planAccept_eq (r : Fin 8) (d : Desc) (m : Main) :
    planAccept (.host r d) m = cmdNow r d (.plain 0x0104 0 planGate) (fun _ m => acceptRun m (bankIn m Bk.probation)) m := rfl

theorem planAccept_probation {m : Main} {r : Fin 8} {d : Desc} (ha : accepts (.plain 0x0104 0 planGate) m r d) {b : Nat}
    (hb : bankIn m Bk.probation = some b) :
    Answered m r d (.done 0) (endProbation b (taken (.plain 0x0104 0 planGate) r d m)) (planAccept (.host r d) m) := by
  rw [planAccept_eq]
  exact cmdNow_answered ha _ (congrArg (acceptRun _) (((keeps_taken ..).bankIn _).trans hb))
    (Frame.endProbation _ (bankIn_some hb).1).samePlace

theorem planAccept_none {m : Main} {r : Fin 8} {d : Desc} (ha : accepts (.plain 0x0104 0 planGate) m r d)
    (hb : bankIn m Bk.probation = none) :
    Answered m r d (.fail St.bankBusy 0) (taken (.plain 0x0104 0 planGate) r d m) (planAccept (.host r d) m) := by
  rw [planAccept_eq]
  exact cmdNow_answered ha _ (congrArg (acceptRun _) (((keeps_taken ..).bankIn _).trans hb)) (SamePlace.refl _)

/-! ### PLAN_ROLLBACK -/

/-- What an accepted PLAN_ROLLBACK does, by the bank that runs and the bank PREVIOUS. -/
def rollbackRun (m : Main) (run : Option (Fin 2)) (prev : Option Nat) : Main × Reply :=
  match run, prev with
  | _, none => (m, .fail St.refused 5)
  | none, _ => (m, .fail St.bankBusy 0)
  | some _, some p => (fire 25 { m with ylm := { m.ylm with rollback := some (rollbackAfter m p, true) } }, .done 0)

theorem planRollback_eq (r : Fin 8) (d : Desc) (m : Main) : planRollback (.host r d) m =
    cmdNow r d (.plain 0x0105 0 planGate) (fun _ m => rollbackRun m m.ylm.run (bankIn m Bk.previous)) m := rfl

theorem rollbackRun_none (m : Main) (run : Option (Fin 2)) : rollbackRun m run none = (m, .fail St.refused 5) := by
  cases run <;> rfl

theorem planRollback_none {m : Main} {r : Fin 8} {d : Desc} (ha : accepts (.plain 0x0105 0 planGate) m r d)
    (hb : bankIn m Bk.previous = none) :
    Answered m r d (.fail St.refused 5) (taken (.plain 0x0105 0 planGate) r d m) (planRollback (.host r d) m) := by
  rw [planRollback_eq]
  exact cmdNow_answered ha _ ((congrArg (rollbackRun _ _) (((keeps_taken ..).bankIn _).trans hb)).trans (rollbackRun_none _ _))
    (SamePlace.refl _)

/-- A commanded rollback of the bundle of bank `p` is pending. -/
def rollbackPending (p : Nat) (m : Main) : Main := { m with ylm := { m.ylm with rollback := some (rollbackAfter m p, true) } }

theorem samePlace_rollbackPending (p : Nat) (m : Main) : SamePlace m (rollbackPending p m) := ⟨fun _ _ _ => rfl, rfl⟩

theorem planRollback_previous {m : Main} {r : Fin 8} {d : Desc} (ha : accepts (.plain 0x0105 0 planGate) m r d) {p : Nat} {b : Fin 2}
    (hb : bankIn m Bk.previous = some p) (hr : m.ylm.run = some b) :
    Answered m r d (.done 0) (fire 25 (rollbackPending p (taken (.plain 0x0105 0 planGate) r d m))) (planRollback (.host r d) m) := by
  have hk := keeps_taken (.plain 0x0105 0 planGate) r d m
  have hrun : (taken (.plain 0x0105 0 planGate) r d m).ylm.run = some b := (congrArg Ylm.run hk.ylm).trans hr
  rw [planRollback_eq]
  refine cmdNow_answered ha _ (x := fire 25 (rollbackPending p (taken (.plain 0x0105 0 planGate) r d m))) (rep := .done 0) ?_ ?_
  · rw [hrun, (hk.bankIn _).trans hb]
    rfl
  · exact (samePlace_rollbackPending p _).trans (signals_fire 25 _ (by decide)).samePlace

theorem rollbackAfter_eq (m : Main) {p : Nat} (hp : p < 2) :
    rollbackAfter m p = if m.ylm.idle = some (bankFin p, true) then 2 else 6 := by
  have h := armLoaded_iff (m := m) hp
  unfold armLoaded at h
  unfold rollbackAfter
  simp only [h]

/-! ### While a rollback is pending -/

theorem rollbackGate_pending {m : Main} (h : m.ylm.rollback.isSome) : rollbackGate m = some (.fail St.bankBusy 0) := if_pos h

/-- A descriptor that passes every check but its gate fails at the gate (R356). -/
theorem cmdCheck_gate {k : CmdKind} {d : Desc} {w : SgWalk} {m : Main} (h : cmdCheck k d w m = none) (g : Main → Option Reply) :
    cmdCheck { k with gate := g } d w m = g m := by
  unfold cmdCheck at h ⊢
  split at h
  · cases h
  · next hform =>
    rw [if_neg hform]
    split at h
    · cases h
    · next hlength =>
      rw [if_neg hlength]
      split at h
      · cases h
      · next hparam =>
        rw [if_neg hparam]
        split at h
        · cases h
        · next himm => exact if_neg himm

/-- A plan command whose gate answers is written back with what the gate answers, and changes nothing. -/
theorem answersMain_gated {c : Instr} {s : State} {r : Fin 8} {d : Desc} {k : CmdKind} {g : Main → Option Reply} {st det : Nat}
    {f : List Byte → Main → Main × Reply} (hexec : exec c s = s.onMain (cmdNow r d { k with gate := g } f)) (ht : takes k.row s.main r d)
    (hc : cmdCheck k d (walkOf k s.main d) (atCheck k s.main r d) = none) (hg : g (atCheck k s.main r d) = some (.fail st det)) :
    AnswersMain c s fun m => Reports (fun _ => False) [] s.main m ∧ writtenBack s.main r d st det 0 [] m := by
  have hfail := cmdNow_fails (k := { k with gate := g }) ht ((cmdCheck_gate hc g).trans hg) f
  have hend := cmdEnd_atCheck k s.main r d (.fail st det) rfl
  refine answersMain_of hexec ?_
  rw [hfail]
  exact ⟨hend.2.2, hend.1⟩

theorem Keeps.activeGate {m x : Main} (h : Keeps m x) : activeGate x = activeGate m := by
  unfold Machine.activeGate standby
  rw [h.key, h.bit F.RED_STATUS_PAIRED 0 0 rfl, h.bit F.RED_STATUS_ACTIVE 0 0 rfl]

theorem planGate_pending {m : Main} (hr : m.ylm.rollback.isSome) (ha : activeGate m = none) :
    planGate m = some (.fail St.bankBusy 0) := by
  unfold planGate gates
  rw [List.findSome?_cons, ha, List.findSome?_cons, rollbackGate_pending hr]

theorem planWriteGates_pending {m : Main} (hr : m.ylm.rollback.isSome) (d : Desc) :
    gates [rollbackGate, planWriteGate d] m = some (.fail St.bankBusy 0) := by
  unfold gates
  rw [List.findSome?_cons, rollbackGate_pending hr]

/-! ### The obligation -/

section
variable {s : State} {r : Fin 8} {d : Desc}

theorem answersMain_planDisarm (ha : accepts (.plain 0x0103 1 planGate) s.main r d) :
    (bankState s.main (d.param % 2) = Bk.armed → AnswersMain (.planDisarm (.host r d)) s fun m =>
      bankState m (d.param % 2) = Bk.verified ∧ bankState m (1 - d.param % 2) = bankState s.main (1 - d.param % 2) ∧
      m.ylm.idle = none ∧ writtenBack s.main r d St.ok 0 0 [] m ∧ Reports (inBlock 4) [.ylm, .ctx] s.main m) ∧
    (bankState s.main (d.param % 2) ≠ Bk.armed → AnswersMain (.planDisarm (.host r d)) s fun m =>
      Reports (fun _ => False) [] s.main m ∧ writtenBack s.main r d St.bankBusy 0 0 [] m) := by
  have hlt : d.param % 2 < 2 := Nat.mod_lt _ (by decide)
  have hother : 1 - d.param % 2 < 2 := by omega
  refine ⟨fun hb => answersMain_of (f := planDisarm (.host r d)) rfl ?_, fun hb => answersMain_of (f := planDisarm (.host r d)) rfl ?_⟩
  · have h := planDisarm_armed ha hb
    refine ⟨?_, ?_, ?_, h.back, (h.within (Frame.unarm _ hlt).within).report fun _ => inRegs_one⟩
    · rw [h.keeps.bankState hlt, bankState_unarm_same]
    · rw [h.keeps.bankState hother, bankState_unarm_ne _ (by omega), (keeps_taken ..).bankState hother]
    · rw [h.keeps.ylm]
      rfl
  · have h := planDisarm_else ha hb
    exact ⟨h.still, h.back⟩

theorem answersMain_planAccept (ha : accepts (.plain 0x0104 0 planGate) s.main r d) :
    (∀ b, bankIn s.main Bk.probation = some b → AnswersMain (.planAccept (.host r d)) s fun m =>
      bankState m b = Bk.running ∧ bankState m (1 - b) = bankState s.main (1 - b) ∧ m.get F.YLM_PROBATION_REMAIN = 0 ∧
      writtenBack s.main r d St.ok 0 0 [] m ∧ Reports (inBlock 4) [] s.main m) ∧
    (bankIn s.main Bk.probation = none → AnswersMain (.planAccept (.host r d)) s fun m =>
      Reports (fun _ => False) [] s.main m ∧ writtenBack s.main r d St.bankBusy 0 0 [] m) := by
  refine ⟨fun b hb => answersMain_of (f := planAccept (.host r d)) rfl ?_, fun hb => answersMain_of (f := planAccept (.host r d)) rfl ?_⟩
  · have h := planAccept_probation ha hb
    have hlt := (bankIn_some hb).1
    have hother : 1 - b < 2 := by omega
    refine ⟨?_, ?_, ?_, h.back, (h.within (Frame.endProbation _ hlt).within).report fun _ => inRegs_one⟩
    · rw [h.keeps.bankState hlt, bankState_endProbation_same _ hlt]
    · rw [h.keeps.bankState hother, bankState_endProbation_ne _ hother (by omega), (keeps_taken ..).bankState hother]
    · rw [h.keeps.get _ _ rfl, remain_endProbation]
  · have h := planAccept_none ha hb
    exact ⟨h.still, h.back⟩

theorem answersMain_planRollback (ha : accepts (.plain 0x0105 0 planGate) s.main r d) :
    (∀ p, bankIn s.main Bk.previous = some p → s.main.ylm.run.isSome → AnswersMain (.planRollback (.host r d)) s fun m =>
      m.ylm = { s.main.ylm with rollback := some (if s.main.ylm.idle = some (bankFin p, true) then 2 else 6, true) } ∧
      pends m 25 = true ∧ writtenBack s.main r d St.ok 0 0 [] m ∧ Reports (fun _ => False) [.ylm] s.main m) ∧
    (bankIn s.main Bk.previous = none → AnswersMain (.planRollback (.host r d)) s fun m =>
      Reports (fun _ => False) [] s.main m ∧ writtenBack s.main r d St.refused 5 0 [] m) := by
  refine ⟨fun p hp hr => answersMain_of (f := planRollback (.host r d)) rfl ?_,
    fun hp => answersMain_of (f := planRollback (.host r d)) rfl ?_⟩
  · obtain ⟨b, hb⟩ := Option.isSome_iff_exists.1 hr
    have h := planRollback_previous ha hp hb
    have hk := keeps_taken (.plain 0x0105 0 planGate) r d s.main
    have hfire := keeps_fire 25 (rollbackPending p (taken (.plain 0x0105 0 planGate) r d s.main)) (by decide)
    refine ⟨?_, ?_, h.back, (h.within (ws := []) (bs := []) ((Within.ylm _ _).trans (hfire.within _ _ _))).report ?_⟩
    · rw [h.keeps.ylm, hfire.ylm]
      unfold rollbackPending
      rw [rollbackAfter_eq _ (bankIn_some hp).1, hk.ylm]
    · exact h.keeps.pend 25 (by decide) (pends_fire 25 _ (by decide) rfl)
    · rintro a (h | h) <;> cases h
  · have h := planRollback_none ha hp
    exact ⟨h.still, h.back⟩

end

/-- Settles O12: each of the three commands by what it finds in the banks, and with a rollback pending by the gate that answers. -/
theorem planCommandsMoveTheBanks : Obligations.PlanCommandsMoveTheBanks := by
  unfold Obligations.PlanCommandsMoveTheBanks
  intro s r d still
  refine ⟨answersMain_planDisarm, answersMain_planAccept, answersMain_planRollback, ?_⟩
  intro hpend c kind role hcmd hrole ht hc
  have hk := keeps_atCheck kind s.main r d
  have hpend' : (atCheck kind s.main r d).ylm.rollback.isSome := by rw [hk.ylm]; exact hpend
  have hplan (h : role = true) : planGate (atCheck kind s.main r d) = some (.fail St.bankBusy 0) :=
    planGate_pending hpend' (hk.activeGate.trans (hrole h))
  rcases hcmd with ⟨rfl, rfl, rfl⟩ | ⟨rfl, rfl, rfl⟩ | ⟨⟨rep, rfl⟩, rfl, rfl⟩ | ⟨rfl, rfl, rfl⟩ | ⟨rfl, rfl, rfl⟩ | ⟨rfl, rfl, rfl⟩
  · exact answersMain_gated (g := gates [rollbackGate, planWriteGate d]) rfl ht hc (planWriteGates_pending hpend' d)
  · exact answersMain_gated (g := gates [rollbackGate, planWriteGate d]) rfl ht hc (planWriteGates_pending hpend' d)
  · exact answersMain_gated (g := planGate) rfl ht hc (hplan rfl)
  · exact answersMain_gated (g := planGate) rfl ht hc (hplan rfl)
  · exact answersMain_gated (g := planGate) rfl ht hc (hplan rfl)
  · exact answersMain_gated (g := planGate) rfl ht hc (hplan rfl)

end Sys2Proof.Machine
end

section
/-!
SUPPORT. PLAN_ARM (R61, R63, R65).
-/
namespace Sys2Proof.Machine

/-! ### The conditions of R61 -/

/-- The five conditions of an arm (R61). -/
def mayArm (m : Main) (b instant : Nat) : Prop :=
  bankState m b = Bk.verified ∧ m.slotNow + 1000 ≤ 100 * instant ∧ Hdr.validFrom (bankOf m b).img ≤ instant ∧
    (m.ylm.run.isSome → bankEpoch m b ≠ m.get F.YLM_STATUS_RUN_EPOCH) ∧
    (∀ k : Fin 2, bankState m k ≠ Bk.probation) ∧ bankState m (1 - b) ≠ Bk.armed

theorem armDetail_eq_zero {m : Main} {b instant : Nat} : armDetail m b instant = 0 ↔ mayArm m b instant := by
  have hprob : (bankIn m Bk.probation).isSome = true ↔ ¬ ∀ k : Fin 2, bankState m k ≠ Bk.probation := by
    rw [← bankIn_none, ← Option.not_isSome_iff_eq_none, not_not]
  unfold armDetail mayArm
  constructor
  · intro h
    split at h
    · cases h
    · next hver =>
      split at h
      · cases h
      · next htime =>
        split at h
        · cases h
        · next hepoch =>
          split at h
          · cases h
          · next hnone =>
            split at h
            · cases h
            · next hother =>
              exact ⟨not_not.1 hver, by omega, by omega, fun hr he => hepoch ⟨hr, he⟩, not_not.1 (mt hprob.2 hnone), hother⟩
  · rintro ⟨hver, htime, hfrom, hepoch, hnone, hother⟩
    rw [if_neg (not_not.2 hver), if_neg (by omega), if_neg (fun h => hepoch h.1 h.2), if_neg (fun h => hprob.1 h hnone), if_neg hother]

theorem Keeps.mayArm {m x : Main} (h : Keeps m x) {b : Nat} (hb : b < 2) (instant : Nat) : mayArm x b instant ↔ mayArm m b instant := by
  have hbanks (k : Fin 2) : Machine.bankState x k = Machine.bankState m k := h.bankState k.isLt
  unfold Machine.mayArm bankEpoch bankOf Main.slotNow
  simp only [h.ylm, h.bankState hb, h.bankState (by omega : 1 - b < 2), h.get F.YLM_STATUS_RUN_EPOCH 0 rfl, hbanks]

/-- What the standby of a pair must have reported (R65). -/
theorem reportHolds_iff {m : Main} {b : Nat} {report : Option Nat} : reportHolds m b report = true ↔
    (m.bit F.RED_STATUS_PAIRED = true → m.exec ≠ Ex.noPlan → report = some (bankSha m b)) := by
  unfold reportHolds
  by_cases hp : m.bit F.RED_STATUS_PAIRED = true
  · by_cases he : m.exec = Ex.noPlan
    · simp [he]
    · simp [hp, he]
  · simp [hp]

theorem Keeps.reportHolds {m x : Main} (h : Keeps m x) (b : Nat) (report : Option Nat) : reportHolds x b report = reportHolds m b report := by
  unfold Machine.reportHolds bankSha bankOf Main.exec
  rw [h.ylm, h.bit F.RED_STATUS_PAIRED 0 0 rfl, h.get F.YLM_STATUS_EXEC_STATE 0 rfl]

/-! ### The switch instant -/

theorem lt_of_outside_eq_zero {v n : Nat} (h : outside v (2 ^ n - 1) = 0) : v < 2 ^ n := by
  have hv : v = v &&& (2 ^ n - 1) := Nat.xor_eq_zero_iff.1 h
  rw [Nat.and_two_pow_sub_one_eq_mod] at hv
  rw [hv]
  exact Nat.mod_lt _ (Nat.two_pow_pos n)

/-- The immediate of a descriptor that passes its checks sets no bit outside the mask (R356). -/
theorem outside_of_cmdCheck {k : CmdKind} {d : Desc} {w : SgWalk} {m : Main} (h : cmdCheck k d w m = none) (hi : k.imm = true)
    (hm : k.immMask ≠ 0) : outside (d.addr % 2 ^ 64) k.immMask = 0 := by
  unfold cmdCheck at h
  split at h
  · cases h
  · split at h
    · cases h
    · split at h
      · cases h
      · split at h
        · cases h
        · next himm => exact not_not.1 fun hne => himm ⟨hi, hm, hne⟩

/-! ### The arm -/

/-- The switch instant is shown in YLM_SWITCH alone. -/
theorem Frame.putSwitch (ps : List Part) (m : Main) (v : Nat) :
    Frame (inRegs [0x040014, 0x040018] []) ps m (m.put64 F.YLM_SWITCH_LO_INSTANT F.YLM_SWITCH_HI_INSTANT v) :=
  have hlo : Frame (inRegs [0x040014, 0x040018] []) ps m _ := Frame.putIn m F.YLM_SWITCH_LO_INSTANT (v % 2 ^ 32) Nat.one_pos
  hlo.trans (Frame.putIn _ F.YLM_SWITCH_HI_INSTANT _ Nat.one_pos)

/-- The loading of a bank begins, and its schedule push. -/
def beginLoad (b : Nat) (conf : Bool) (m : Main) : Main :=
  { m with
    ylm := { m.ylm with idle := some (bankFin b, false), pairConf := conf, armNoPlan := m.exec == Ex.noPlan },
    ctx := { m.ctx with push := some (0, 0) } }

theorem Frame.beginLoad (regs : Nat → Prop) (b : Nat) (conf : Bool) (m : Main) : Frame regs [.ylm, .ctx] m (beginLoad b conf m) := by
  refine Frame.parts rfl rfl fun p hp => ?_
  cases p with
  | ylm | ctx => exact absurd hp (by decide)
  | _ => rfl

theorem Frame.arm (m : Main) {b : Nat} (hb : b < 2) (instant : Nat) (conf : Bool) :
    Frame (inRegs [] [4]) [.ylm, .ctx] m (arm b instant conf m) := by
  have hshow (x : Main) : Frame (inRegs [] [4]) [.ylm, .ctx] x (x.put64 F.YLM_SWITCH_LO_INSTANT F.YLM_SWITCH_HI_INSTANT instant) :=
    (Frame.putSwitch [] x _).widen
  exact ((Frame.beginLoad _ b conf m).trans (Frame.setBank _ _ Bk.armed hb)).trans (hshow _)

theorem bankState_put64_switch (m : Main) (v : Nat) {b : Nat} (hb : b < 2) :
    bankState (m.put64 F.YLM_SWITCH_LO_INSTANT F.YLM_SWITCH_HI_INSTANT v) b = bankState m b :=
  (Frame.putSwitch [] m v).within.bankState hb

theorem bankState_arm_same (m : Main) {b : Nat} (hb : b < 2) (instant : Nat) (conf : Bool) :
    bankState (arm b instant conf m) b = Bk.armed :=
  (bankState_put64_switch _ _ hb).trans (bankState_setBank_same _ _ (by decide))

theorem bankState_arm_ne (m : Main) {b c : Nat} (hc : c < 2) (h : b ≠ c) (instant : Nat) (conf : Bool) :
    bankState (arm b instant conf m) c = bankState m c :=
  (bankState_put64_switch _ _ hc).trans (bankState_setBank_ne _ _ h)

theorem switchAt_arm (m : Main) (b : Nat) {instant : Nat} (h : instant < 2 ^ 48) (conf : Bool) : switchAt (arm b instant conf m) = instant := by
  have hlo (x : Main) : (x.put64 F.YLM_SWITCH_LO_INSTANT F.YLM_SWITCH_HI_INSTANT instant).get F.YLM_SWITCH_LO_INSTANT =
      instant % 2 ^ 32 % 2 ^ 32 :=
    (Main.get_put_addr _ F.YLM_SWITCH_HI_INSTANT F.YLM_SWITCH_LO_INSTANT _ 0 0 (by decide)).trans (Main.get_put_same _ _ _ _ (by decide))
  have hhi (x : Main) : (x.put64 F.YLM_SWITCH_LO_INSTANT F.YLM_SWITCH_HI_INSTANT instant).get F.YLM_SWITCH_HI_INSTANT =
      instant / 2 ^ 32 % 2 ^ 16 := Main.get_put_same _ F.YLM_SWITCH_HI_INSTANT _ _ (by decide)
  unfold switchAt Main.get64 arm
  rw [hlo, hhi]
  omega

/-- Bank `b` is armed for `instant`: what PLAN_ARM leaves (R61, R63). -/
structure Armed (m : Main) (b instant : Nat) (m' : Main) : Prop where
  state : bankState m' b = Bk.armed
  shown : switchAt m' = instant
  loading : m'.ylm.idle = some (bankFin b, false)
  other : bankState m' (1 - b) = bankState m (1 - b)
  banks : m'.ylm.banks = m.ylm.banks
  run : m'.ylm.run = m.ylm.run
  push : m'.ctx.push = some (0, 0)
  reports : Reports (inBlock 4) [.ylm, .ctx] m m'

theorem armed_arm (m : Main) {b instant : Nat} (hb : b < 2) (h : instant < 2 ^ 48) (conf : Bool) :
    Armed m b instant (arm b instant conf m) :=
  ⟨bankState_arm_same m hb _ _, switchAt_arm m b h conf, rfl, bankState_arm_ne m (by omega) (by omega) _ _, rfl, rfl, rfl,
    (Frame.arm m hb _ _).within.report fun _ => inRegs_one⟩

theorem Keeps.switchAt {m x : Main} (h : Keeps m x) : switchAt x = switchAt m := by
  unfold Machine.switchAt Main.get64
  rw [h.get F.YLM_SWITCH_LO_INSTANT 0 rfl, h.get F.YLM_SWITCH_HI_INSTANT 0 rfl]

/-- Reports before and after an arm leave it an arm. -/
theorem Armed.keeps {a m m' z : Main} {b instant : Nat} (h : Armed m b instant m') (hb : b < 2) (ha : Keeps a m) (hz : Keeps m' z) :
    Armed a b instant z where
  state := (hz.bankState hb).trans h.state
  shown := hz.switchAt.trans h.shown
  loading := (congrArg Ylm.idle hz.ylm).trans h.loading
  other := (hz.bankState (by omega)).trans (h.other.trans (ha.bankState (by omega)))
  banks := (congrArg Ylm.banks hz.ylm).trans (h.banks.trans (congrArg Ylm.banks ha.ylm))
  run := (congrArg Ylm.run hz.ylm).trans (h.run.trans (congrArg Ylm.run ha.ylm))
  push := (congrArg CtxSt.push hz.ctx).trans h.push
  reports := ((ha.reports _ _).trans h.reports).trans (hz.reports _ _)

/-! ### By the host, by the pair -/

theorem planArmHost_arms {d : Desc} {report : Option Nat} {m : Main} (h : armDetail m (d.param % 2) (d.addr % 2 ^ 64) = 0)
    (hr : reportHolds m (d.param % 2) report = true) :
    planArmHost d report m = (arm (d.param % 2) (d.addr % 2 ^ 64) false m, .done 0) := by
  unfold planArmHost
  dsimp only
  rw [if_neg (not_not.2 h), hr]
  rfl

theorem planArmHost_refuses {d : Desc} {report : Option Nat} {m : Main}
    (h : ¬ (armDetail m (d.param % 2) (d.addr % 2 ^ 64) = 0 ∧ reportHolds m (d.param % 2) report = true)) :
    ∃ det, 0 < det ∧ planArmHost d report m = (m, .fail St.refused det) := by
  unfold planArmHost
  dsimp only
  by_cases hd : armDetail m (d.param % 2) (d.addr % 2 ^ 64) = 0
  · rw [if_neg (not_not.2 hd), if_pos (by simpa using fun hr => h ⟨hd, hr⟩)]
    exact ⟨1, Nat.one_pos, rfl⟩
  · rw [if_pos hd]
    exact ⟨_, Nat.pos_of_ne_zero hd, rfl⟩

/-- What PLAN_ARM asks of its descriptor (R356). -/
def armKind : CmdKind := ⟨isOp 0x0102, true, fun d => d.length == 0, 1, 2 ^ 48 - 1, planGate⟩

theorem answersMain_planArmHost {s : State} {r : Fin 8} {d : Desc} {report : Option Nat} (ha : accepts armKind s.main r d) :
    (mayArm s.main (d.param % 2) (d.addr % 2 ^ 64) → reportHolds s.main (d.param % 2) report = true →
      AnswersMain (.planArm (.host r d report)) s fun m =>
        Armed s.main (d.param % 2) (d.addr % 2 ^ 64) m ∧ m.ylm.pairConf = false ∧ writtenBack s.main r d St.ok 0 0 [] m) ∧
    (¬ (mayArm s.main (d.param % 2) (d.addr % 2 ^ 64) ∧ reportHolds s.main (d.param % 2) report = true) →
      AnswersMain (.planArm (.host r d report)) s fun m =>
        (∃ det, 0 < det ∧ writtenBack s.main r d St.refused det 0 [] m) ∧ Reports (fun _ => False) [] s.main m) := by
  have hlt : d.param % 2 < 2 := Nat.mod_lt _ (by decide)
  have hk := keeps_taken armKind r d s.main
  have hbound : d.addr % 2 ^ 64 < 2 ^ 48 := lt_of_outside_eq_zero (outside_of_cmdCheck ha.2.1 rfl (by decide))
  have hmay : armDetail (taken armKind r d s.main) (d.param % 2) (d.addr % 2 ^ 64) = 0 ↔ mayArm s.main (d.param % 2) (d.addr % 2 ^ 64) :=
    armDetail_eq_zero.trans (hk.mayArm hlt _)
  have hrep := hk.reportHolds (d.param % 2) report
  refine ⟨fun ho hr => answersMain_of (f := cmdNow r d armKind fun _ => planArmHost d report) rfl ?_,
    fun hno => answersMain_of (f := cmdNow r d armKind fun _ => planArmHost d report) rfl ?_⟩
  · have h := cmdNow_answered ha (fun _ => planArmHost d report) (planArmHost_arms (hmay.2 ho) (hrep.trans hr)) (Frame.arm _ hlt _ _).samePlace
    exact ⟨(armed_arm _ hlt hbound false).keeps hlt hk h.keeps, (congrArg Ylm.pairConf h.keeps.ylm).trans rfl, h.back⟩
  · obtain ⟨det, hpos, hf⟩ := planArmHost_refuses (m := taken armKind r d s.main) (report := report) (d := d) (by rwa [hmay, hrep])
    have h := cmdNow_answered ha (fun _ => planArmHost d report) hf (SamePlace.refl _)
    exact ⟨⟨det, hpos, h.back⟩, h.still⟩

/-- A standby arms where the conditions hold and its own bundle is the one named (R65). -/
theorem answersMain_planArmPair (s : State) (param imm sha : Nat) :
    let may := s.main.ylm.rollback = none ∧ mayArm s.main (param % 2) (imm % 2 ^ 48) ∧ sha = bankSha s.main (param % 2)
    (may → AnswersMain (.planArm (.pair param imm sha)) s fun m => Armed s.main (param % 2) (imm % 2 ^ 48) m ∧ m.ylm.pairConf = true) ∧
    (¬ may → AnswersMain (.planArm (.pair param imm sha)) s fun m => m = s.main) := by
  intro may
  have hrun : exec (.planArm (.pair param imm sha)) s = s.onMain fun m =>
      if m.ylm.rollback.isSome then m else planArmPair (param % 2) (imm % 2 ^ 48) sha m := rfl
  refine ⟨fun ⟨hroll, hmay, hsha⟩ => answersMain_of hrun ?_, fun hno => answersMain_of hrun ?_⟩
  · have heq : planArmPair (param % 2) (imm % 2 ^ 48) sha s.main = arm (param % 2) (imm % 2 ^ 48) true s.main :=
      if_pos ⟨armDetail_eq_zero.2 hmay, hsha⟩
    rw [if_neg (by simp [hroll]), heq]
    exact ⟨armed_arm _ (Nat.mod_lt _ (by decide)) (Nat.mod_lt _ (by decide)) true, rfl⟩
  · split
    · rfl
    · next hroll =>
      exact if_neg fun h => hno ⟨by simpa using hroll, armDetail_eq_zero.1 h.1, h.2⟩

/-- A confirmation is taken where it names the armed bundle (R65). -/
theorem answersMain_planConfirm (s : State) (sha : Nat) :
    let same := ∃ b, bankIn s.main Bk.armed = some b ∧ sha = bankSha s.main b
    (same → AnswersMain (.planArm (.confirm sha)) s fun m => m = { s.main with ylm := { s.main.ylm with pairConf := true } }) ∧
    (¬ same → AnswersMain (.planArm (.confirm sha)) s fun m => m = s.main) := by
  intro same
  refine ⟨fun ⟨b, hb, hsha⟩ => answersMain_of (f := planConfirm sha) rfl ?_, fun hno => answersMain_of (f := planConfirm sha) rfl ?_⟩
  · unfold planConfirm
    rw [hb]
    exact if_pos hsha
  · unfold planConfirm
    split
    · next b hb => exact if_neg fun hsha => hno ⟨b, hb, hsha⟩
    · rfl

/-- Settles O11: the five conditions are those under which `armDetail` is 0, and each path by its own lemma. -/
theorem planArmIsChecked : Obligations.PlanArmIsChecked := by
  unfold Obligations.PlanArmIsChecked
  intro s ok armed
  have harmed {m : Main} {b instant : Nat} (h : Armed s.main b instant m) : armed m b instant :=
    ⟨h.state, h.shown, h.loading, h.other, h.banks, h.run, h.push, h.reports⟩
  refine ⟨fun r d report ha => ?_, fun param imm sha => ?_, fun sha => answersMain_planConfirm s sha⟩
  · obtain ⟨harm, hrefuse⟩ := answersMain_planArmHost (report := report) ha
    refine ⟨fun ho ht => (harm ho (reportHolds_iff.2 ht)).mono fun m hm => ⟨harmed hm.1, hm.2⟩,
      fun hno => hrefuse fun h => hno ⟨h.1, reportHolds_iff.1 h.2⟩⟩
  · obtain ⟨harm, hrefuse⟩ := answersMain_planArmPair s param imm sha
    exact ⟨fun hm => (harm hm).mono fun m h => ⟨harmed h.1, h.2⟩, hrefuse⟩

end Sys2Proof.Machine
end

section
/-!
SUPPORT. PLAN_WRITE (R35, R60, R356): a chunk at its bank, the checks of a whole bundle, and the ABORT.
-/
namespace Sys2Proof.Machine

/-! ### Operations on one bank -/

/-- `m'` is `m` but for bank `b`, its registers among those of YLM, and nothing that runs. -/
structure OneBank (b : Nat) (m m' : Main) : Prop where
  frame : Frame (inRegs [] [4]) [.ylm] m m'
  state : bankState m' (1 - b) = bankState m (1 - b)
  bank : bankOf m' (1 - b) = bankOf m (1 - b)
  run : m'.ylm.run = m.ylm.run

theorem OneBank.refl (b : Nat) (m : Main) : OneBank b m m := ⟨Frame.refl _ _ _, rfl, rfl, rfl⟩

theorem OneBank.trans {b : Nat} {m m' m'' : Main} (h : OneBank b m m') (g : OneBank b m' m'') : OneBank b m m'' :=
  ⟨h.frame.trans g.frame, g.state.trans h.state, g.bank.trans h.bank, g.run.trans h.run⟩

theorem OneBank.setWord {b : Nat} (hb : b < 2) (m : Main) (v : Nat) : OneBank b m (m.setWord (F.YLM_BANK_STATE_STATE.addr b) v) := by
  refine ⟨Frame.setWord _ m _ _ (Field.inRegs (f := F.YLM_BANK_STATE_STATE) hb), ?_, rfl, rfl⟩
  refine Main.get_setWord_ne m _ _ _ ?_
  unfold Field.addr
  simp only [F.YLM_BANK_STATE_STATE]
  omega

theorem OneBank.put {b : Nat} (hb : b < 2) (m : Main) (f : Field) (v : Nat) (hf : f.base = 0x04000C ∧ f.stride = 4) :
    OneBank b m (m.put f v b) := by
  have haddr : f.addr b = F.YLM_BANK_STATE_STATE.addr b := by
    unfold Field.addr
    rw [hf.1, hf.2]
    rfl
  unfold Main.put
  rw [haddr]
  exact OneBank.setWord hb m _

theorem OneBank.withBank {b : Nat} (hb : b < 2) (f : Bank → Bank) (m : Main) : OneBank b m (withBank b f m) :=
  ⟨Frame.ylm _ m _ (List.mem_singleton_self _), rfl, vget_vmod_ne _ _ _ (by omega), rfl⟩

theorem bankOf_withBank {b : Nat} (hb : b < 2) (f : Bank → Bank) (m : Main) : bankOf (withBank b f m) b = f (bankOf m b) :=
  vget_vmod_same _ _ _ hb

theorem bankOf_put (m : Main) (f : Field) (v i b : Nat) : bankOf (m.put f v i) b = bankOf m b := rfl

theorem bankState_withBank (b : Nat) (f : Bank → Bank) (m : Main) (c : Nat) : bankState (withBank b f m) c = bankState m c := rfl

theorem Within.bankOf {ws bs : List Nat} {ps : List Part} {m m' : Main} (h : Within ws bs ps m m') (b : Nat)
    (hp : Part.ylm ∉ Part.host :: Part.log :: ps := by decide) : bankOf m' b = bankOf m b := by
  unfold Machine.bankOf
  rw [h.same .ylm hp]

theorem Keeps.bankOf {m x : Main} (h : Keeps m x) (b : Nat) : bankOf x b = bankOf m b := (h.within [] [] []).bankOf b

theorem OneBank.showPlan {b : Nat} (hb : b < 2) (m : Main) : OneBank b m (showPlan m) :=
  ⟨(Frame.showPlan [] m).widen, (within_showPlan m).bankState (by omega), (within_showPlan m).bankOf _,
    congrArg Ylm.run ((within_showPlan m).same .ylm)⟩

theorem bankState_setWord (m : Main) (b : Nat) {st : Nat} (h : st < 16) :
    bankState (m.setWord (F.YLM_BANK_STATE_STATE.addr b) st) b = st := by
  show (m.setWord (F.YLM_BANK_STATE_STATE.addr b) st).word (F.YLM_BANK_STATE_STATE.addr b) / 2 ^ 0 % 2 ^ 4 = st
  rw [Main.word_setWord_same]
  omega

/-! ### A bank emptied, begun, refused -/

theorem OneBank.abortBank {b : Nat} (hb : b < 2) (m : Main) : OneBank b m (abortBank b m) :=
  ((OneBank.withBank hb _ m).trans (OneBank.setWord hb _ _)).trans (OneBank.showPlan hb _)

theorem abortBank_empty {b : Nat} (hb : b < 2) (m : Main) : bankState (abortBank b m) b = Bk.empty ∧ bankOf (abortBank b m) b = Bank.empty :=
  ⟨((within_showPlan _).bankState hb).trans (bankState_setWord _ _ (by decide)), ((within_showPlan _).bankOf b).trans (bankOf_withBank hb _ m)⟩

/-- The idle area is given up by a bank that is written. -/
def freeIdle (b : Nat) (m : Main) : Main :=
  { m with ylm := { m.ylm with idle := if m.ylm.idle.any (fun p => p.1.val == b) then none else m.ylm.idle } }

theorem beginBank_eq (b : Nat) (m : Main) : beginBank b m =
    showPlan ((freeIdle b (withBank b (fun _ => Bank.empty) m)).setWord (F.YLM_BANK_STATE_STATE.addr b) Bk.writing) := rfl

theorem OneBank.beginBank {b : Nat} (hb : b < 2) (m : Main) : OneBank b m (beginBank b m) := by
  have hidle (x : Main) : OneBank b x (freeIdle b x) := ⟨Frame.ylm _ x _ (List.mem_singleton_self _), rfl, rfl, rfl⟩
  rw [beginBank_eq]
  exact (((OneBank.withBank hb _ m).trans (hidle _)).trans (OneBank.setWord hb _ _)).trans (OneBank.showPlan hb _)

theorem beginBank_writing {b : Nat} (hb : b < 2) (m : Main) :
    bankState (beginBank b m) b = Bk.writing ∧ bankOf (beginBank b m) b = Bank.empty := by
  rw [beginBank_eq]
  exact ⟨((within_showPlan _).bankState hb).trans (bankState_setWord _ _ (by decide)),
    ((within_showPlan _).bankOf b).trans (bankOf_withBank hb _ m)⟩

theorem OneBank.refuseBank {b : Nat} (hb : b < 2) (code : Nat) (m : Main) : OneBank b m (refuseBank b code m) :=
  ((OneBank.put hb m F.YLM_BANK_STATE_STATE _ (by decide)).trans (OneBank.put hb _ F.YLM_BANK_STATE_REFUSE_CODE _ (by decide))).trans
    (OneBank.put hb _ F.YLM_BANK_STATE_EPOCH _ (by decide))

theorem refuseBank_refused (b : Nat) {code : Nat} (hc : code < 256) (m : Main) :
    bankState (refuseBank b code m) b = Bk.refused ∧ (refuseBank b code m).get F.YLM_BANK_STATE_REFUSE_CODE b = code := by
  unfold refuseBank bankState
  rw [Main.get_put_bits _ F.YLM_BANK_STATE_EPOCH _ _ _ _ (by decide) (by decide), Main.get_put_bits _ _ _ _ _ _ (by decide) (by decide),
    Main.get_put_bits _ F.YLM_BANK_STATE_EPOCH _ _ _ _ (by decide) (by decide), Main.get_put_same _ _ _ _ (by decide)]
  exact ⟨bankState_setBank_same m b (by decide), Nat.mod_eq_of_lt hc⟩

/-! ### The checks of R35 -/

theorem Within.refusalCode {m m' : Main} (h : Within [] [4] [.ylm] m m') (k : Bank) : refusalCode m' k = refusalCode m k := by
  have hfuse : m'.fuse = m.fuse := h.same .fuse
  have hkey : m'.key = m.key := h.same .key
  unfold Machine.refusalCode planSigned ownAddr
  rw [hfuse, hkey, h.bit F.RDG_ADDR_PROVISIONAL 0 Nat.one_pos, h.get F.RDG_ADDR_IN_USE Nat.one_pos]

theorem refusalCode_lt (m : Main) (k : Bank) : refusalCode m k < 256 := by
  have either (c : Prop) [Decidable c] {a b : Nat} (ha : a < 256) (hb : b < 256) : (if c then a else b) < 256 := by
    split
    · exact ha
    · exact hb
  unfold refusalCode
  iterate 15 refine either _ (by decide) ?_
  decide

theorem epoch_lt (b : Img) : Hdr.epoch b < 256 := by
  have := (sget (fun _ => 0) b 6).isLt
  show (sget (fun _ => 0) b 6).toNat + 256 * 0 < 256
  omega

theorem verifyBank_verified {b : Nat} {d : Desc} {m : Main} (h : refusalCode m (bankOf m b) = 0) :
    verifyBank b d m = ((setBank b Bk.verified m).put F.YLM_BANK_STATE_EPOCH (bankEpoch m b) b, .done d.length) := by
  unfold verifyBank
  exact if_pos h

theorem verifyBank_refused {b : Nat} {d : Desc} {m : Main} (h : refusalCode m (bankOf m b) ≠ 0) :
    verifyBank b d m = (refuseBank b (refusalCode m (bankOf m b)) m, .refused d (refusalCode m (bankOf m b))) := by
  unfold verifyBank
  exact if_neg h

theorem OneBank.verified {b : Nat} (hb : b < 2) (m : Main) (e : Nat) :
    OneBank b m ((setBank b Bk.verified m).put F.YLM_BANK_STATE_EPOCH e b) :=
  (OneBank.put hb m F.YLM_BANK_STATE_STATE _ (by decide)).trans (OneBank.put hb _ F.YLM_BANK_STATE_EPOCH _ (by decide))

theorem verified_shown (m : Main) (b : Nat) :
    bankState ((setBank b Bk.verified m).put F.YLM_BANK_STATE_EPOCH (bankEpoch m b) b) b = Bk.verified ∧
      bankOf ((setBank b Bk.verified m).put F.YLM_BANK_STATE_EPOCH (bankEpoch m b) b) b = bankOf m b ∧
      ((setBank b Bk.verified m).put F.YLM_BANK_STATE_EPOCH (bankEpoch m b) b).get F.YLM_BANK_STATE_EPOCH b = Hdr.epoch (bankOf m b).img := by
  refine ⟨?_, bankOf_put _ _ _ _ _, ?_⟩
  · unfold bankState
    rw [Main.get_put_bits _ _ _ _ _ _ (by decide) (by decide)]
    exact bankState_setBank_same m b (by decide)
  · rw [Main.get_put_same _ _ _ _ (by decide)]
    exact Nat.mod_eq_of_lt (epoch_lt _)

/-! ### A chunk -/

/-- The bank that a chunk is written into. -/
def chunkBegun (d : Desc) (m : Main) : Main := if bitOf d.param 1 then beginBank (d.param % 2) m else m

/-- A bank's NOR with a chunk appended. -/
def grown (k : Bank) (data : List Byte) : Bank := ⟨appendImg k.img k.written data, k.written + data.length⟩

/-- A bank that holds more than its header names, or more than a bank's room. -/
def overlong (k : Bank) : Prop := 16777216 < k.written ∨ (44 ≤ k.written ∧ Hdr.total k.img < k.written)

/-- The bank after a chunk. -/
def chunkHeld (d : Desc) (data : List Byte) (m : Main) : Bank := grown (bankOf (chunkBegun d m) (d.param % 2)) data

/-- The state with the chunk appended. -/
def chunkDone (d : Desc) (data : List Byte) (m : Main) : Main := withBank (d.param % 2) (fun _ => chunkHeld d data m) (chunkBegun d m)

theorem planWriteData_overlong {d : Desc} {data : List Byte} {m : Main} (h : overlong (chunkHeld d data m)) :
    planWriteData d data m = (refuseBank (d.param % 2) 2 (chunkBegun d m), .refused d 2) := if_pos h

theorem planWriteData_part {d : Desc} {data : List Byte} {m : Main} (h : ¬ overlong (chunkHeld d data m)) (hl : bitOf d.param 2 = false) :
    planWriteData d data m = (chunkDone d data m, .done d.length) := (if_neg h).trans (if_neg (ne_true_of_eq_false hl))

theorem planWriteData_last {d : Desc} {data : List Byte} {m : Main} (h : ¬ overlong (chunkHeld d data m)) (hl : bitOf d.param 2 = true) :
    planWriteData d data m = verifyBank (d.param % 2) d (chunkDone d data m) := (if_neg h).trans (if_pos hl)

theorem OneBank.chunkBegun (d : Desc) (m : Main) : OneBank (d.param % 2) m (chunkBegun d m) := by
  unfold Machine.chunkBegun
  split
  · exact OneBank.beginBank (Nat.mod_lt _ (by decide)) m
  · exact OneBank.refl _ m

theorem bankOf_chunkBegun (d : Desc) (m : Main) :
    bankOf (chunkBegun d m) (d.param % 2) = if bitOf d.param 1 then Bank.empty else bankOf m (d.param % 2) := by
  unfold chunkBegun
  split
  · exact (beginBank_writing (Nat.mod_lt _ (by decide)) m).2
  · rfl

/-- A bank that takes a chunk is WRITING: it begins so, or the gate of PLAN_WRITE finds it so. -/
theorem bankState_chunkBegun {d : Desc} {m : Main} (h : bitOf d.param 1 = false → bankState m (d.param % 2) = Bk.writing) :
    bankState (chunkBegun d m) (d.param % 2) = Bk.writing := by
  unfold chunkBegun
  split
  · exact (beginBank_writing (Nat.mod_lt _ (by decide)) m).1
  · next hb => exact h (by simpa using hb)

theorem OneBank.chunkDone (d : Desc) (data : List Byte) (m : Main) : OneBank (d.param % 2) m (chunkDone d data m) :=
  (OneBank.chunkBegun d m).trans (OneBank.withBank (Nat.mod_lt _ (by decide)) _ _)

theorem bankOf_chunkDone (d : Desc) (data : List Byte) (m : Main) : bankOf (chunkDone d data m) (d.param % 2) = chunkHeld d data m :=
  bankOf_withBank (Nat.mod_lt _ (by decide)) _ _

/-! ### The commands -/

/-- What a PLAN_WRITE chunk asks of its descriptor (R356). -/
def chunkKind (d : Desc) : CmdKind :=
  ⟨planWriteRow false, false, fun d => 4 ≤ d.length && d.length ≤ 1048576, 0xF, 0, gates [rollbackGate, planWriteGate d]⟩

/-- What PLAN_WRITE's ABORT asks of its descriptor (R356). -/
def abortKind (d : Desc) : CmdKind :=
  ⟨planWriteRow true, d.length == 0, fun d => d.length == 0, 0xF, 0, gates [rollbackGate, planWriteGate d]⟩

/-- A command row leaves a descriptor that is not its own to the row whose it is. -/
theorem cmdNow_otherRow {row : Desc → Bool} {m : Main} {r : Fin 8} {d : Desc} (h : takes row m r d) {k : CmdKind} (hk : k.row d = false)
    (f : List Byte → Main → Main × Reply) : cmdNow r d k f m = m := by
  obtain ⟨hmode, hturn, hown, -⟩ := h
  unfold cmdNow cmdRun cmdRunAny cmdTake
  rw [if_neg hmode]
  dsimp only
  rw [if_neg (by simp [hturn]), if_neg (by simp [hown]), if_pos (by simp [hk])]

theorem planWriteRow_false {d : Desc} (h : planWriteRow true d = true) : planWriteRow false d = false := by
  unfold planWriteRow at *
  simp only [Bool.and_eq_true, beq_iff_eq] at h
  rw [h.2]
  simp

/-- The gate of a chunk that is not a bundle's first finds the bank WRITING (R60). -/
theorem writing_of_planWriteGates {d : Desc} {m : Main} (h : gates [rollbackGate, planWriteGate d] m = none)
    (hf : bitOf d.param 1 = false) : bankState m (d.param % 2) = Bk.writing := by
  have hgate : planWriteGate d m = none := by
    unfold gates at h
    rw [List.findSome?_eq_none_iff] at h
    exact h _ (by simp)
  unfold planWriteGate at hgate
  dsimp only at hgate
  rw [hf] at hgate
  by_contra hne
  rw [if_neg (by simpa using hne)] at hgate
  cases hgate

/-- The checks of a descriptor end with its gate. -/
theorem gate_of_cmdCheck {k : CmdKind} {d : Desc} {w : SgWalk} {m : Main} (h : cmdCheck k d w m = none) : k.gate m = none :=
  (cmdCheck_gate h k.gate).symm.trans h

section
variable {m m' t x : Main} {r : Fin 8} {d : Desc} {rep : Reply}

/-- What a command that acted on one bank leaves of the state before it. -/
theorem Answered.oneBank {b : Nat} (h : Answered m r d rep x m') (hb : b < 2) (hk : Keeps m t) (hx : OneBank b t x) :
    Reports (inBlock 4) [.ylm] m m' ∧ bankState m' (1 - b) = bankState m (1 - b) ∧ bankOf m' (1 - b) = bankOf m (1 - b) ∧
      m'.ylm.run = m.ylm.run := by
  have hother : 1 - b < 2 := by omega
  have hwithin : Within [] [4] [.ylm] m m' := ((hk.within _ _ _).trans hx.frame.within).trans (h.keeps.within _ _ _)
  refine ⟨hwithin.report fun _ => inRegs_one, ?_, ?_, ?_⟩
  · rw [h.keeps.bankState hother, hx.state, hk.bankState hother]
  · rw [h.keeps.bankOf, hx.bank, hk.bankOf]
  · rw [h.keeps.ylm, hx.run, hk.ylm]

end

theorem answersMain_planWriteAbort {s : State} {r : Fin 8} {d : Desc} (ha : accepts (abortKind d) s.main r d) :
    AnswersMain (.planWriteAbort r d) s fun m =>
      (Reports (inBlock 4) [.ylm] s.main m ∧ bankState m (1 - d.param % 2) = bankState s.main (1 - d.param % 2) ∧
        bankOf m (1 - d.param % 2) = bankOf s.main (1 - d.param % 2) ∧ m.ylm.run = s.main.ylm.run) ∧
      bankState m (d.param % 2) = Bk.empty ∧ bankOf m (d.param % 2) = Bank.empty ∧ writtenBack s.main r d St.ok 0 0 [] m := by
  have hlt : d.param % 2 < 2 := Nat.mod_lt _ (by decide)
  have hone := OneBank.abortBank hlt (taken (abortKind d) r d s.main)
  have h := cmdNow_answered ha (fun _ m => (abortBank (d.param % 2) m, .done 0)) rfl hone.frame.samePlace
  obtain ⟨hstate, hbank⟩ := abortBank_empty hlt (taken (abortKind d) r d s.main)
  refine answersMain_of (f := planWriteAbort r d) rfl ⟨h.oneBank hlt (keeps_taken ..) hone, ?_, ?_, h.back⟩
  · exact (h.keeps.bankState hlt).trans hstate
  · exact (h.keeps.bankOf _).trans hbank

/-- What an accepted chunk leaves in its bank, and how it is written back: by whether it carries the bank past its length, whether it is
the last, and what the checks of R35 find. -/
theorem chunk_outcome {m t m' : Main} {r : Fin 8} {d : Desc} {data : List Byte} (hk : Keeps m t)
    (hopen : bitOf d.param 1 = false → bankState t (d.param % 2) = Bk.writing)
    (run : ∀ x rep, planWriteData d data t = (x, rep) → OneBank (d.param % 2) t x → Answered m r d rep x m') :
    let b := d.param % 2
    let whole := grown (if bitOf d.param 1 then Bank.empty else bankOf m b) data
    (Reports (inBlock 4) [.ylm] m m' ∧ bankState m' (1 - b) = bankState m (1 - b) ∧ bankOf m' (1 - b) = bankOf m (1 - b) ∧
      m'.ylm.run = m.ylm.run) ∧
    (if 16777216 < whole.written ∨ (44 ≤ whole.written ∧ Hdr.total whole.img < whole.written) then
      bankState m' b = Bk.refused ∧ m'.get F.YLM_BANK_STATE_REFUSE_CODE b = 2 ∧ writtenBack m r d St.refused 2 d.length [] m'
     else if bitOf d.param 2 = false then
      bankState m' b = Bk.writing ∧ bankOf m' b = whole ∧ writtenBack m r d St.ok 0 d.length [] m'
     else if refusalCode m whole = 0 then
      bankState m' b = Bk.verified ∧ bankOf m' b = whole ∧ m'.get F.YLM_BANK_STATE_EPOCH b = Hdr.epoch whole.img ∧
        writtenBack m r d St.ok 0 d.length [] m'
     else bankState m' b = Bk.refused ∧ m'.get F.YLM_BANK_STATE_REFUSE_CODE b = refusalCode m whole ∧
        writtenBack m r d St.refused (refusalCode m whole) d.length [] m') := by
  intro b whole
  have hlt : b < 2 := Nat.mod_lt _ (by decide)
  have hwhole : chunkHeld d data t = whole := by
    unfold chunkHeld
    rw [bankOf_chunkBegun, hk.bankOf]
  have hdone : OneBank b t (chunkDone d data t) := OneBank.chunkDone d data t
  have hheld : bankOf (chunkDone d data t) b = whole := (bankOf_chunkDone d data t).trans hwhole
  have hcode : refusalCode (chunkDone d data t) (bankOf (chunkDone d data t) b) = refusalCode m whole := by
    rw [hheld]
    exact ((hk.within _ _ _).trans hdone.frame.within).refusalCode whole
  have hwriting : bankState (chunkDone d data t) b = Bk.writing := by
    unfold chunkDone
    rw [bankState_withBank]
    exact bankState_chunkBegun hopen
  by_cases hover : 16777216 < whole.written ∨ (44 ≤ whole.written ∧ Hdr.total whole.img < whole.written)
  · have hx := (OneBank.chunkBegun d t).trans (OneBank.refuseBank hlt 2 _)
    have h := run _ _ (planWriteData_overlong (by rw [hwhole]; exact hover)) hx
    obtain ⟨hstate, hshown⟩ := refuseBank_refused b (code := 2) (by decide) (chunkBegun d t)
    refine ⟨h.oneBank hlt hk hx, ?_⟩
    rw [if_pos hover]
    exact ⟨(h.keeps.bankState hlt).trans hstate, ((h.keeps.within [] [] []).get F.YLM_BANK_STATE_REFUSE_CODE hlt).trans hshown, h.back⟩
  · rw [if_neg hover]
    have hover' : ¬ overlong (chunkHeld d data t) := by rw [hwhole]; exact hover
    by_cases hlast : bitOf d.param 2 = false
    · have h := run _ _ (planWriteData_part hover' hlast) hdone
      refine ⟨h.oneBank hlt hk hdone, ?_⟩
      rw [if_pos hlast]
      exact ⟨(h.keeps.bankState hlt).trans hwriting, (h.keeps.bankOf b).trans hheld, h.back⟩
    · rw [if_neg hlast]
      have hverify := planWriteData_last hover' (by simpa using hlast)
      by_cases hzero : refusalCode m whole = 0
      · have hx := hdone.trans (OneBank.verified hlt (chunkDone d data t) (bankEpoch (chunkDone d data t) b))
        have h := run _ _ (hverify.trans (verifyBank_verified (hcode.trans hzero))) hx
        obtain ⟨hstate, hbank, hepoch⟩ := verified_shown (chunkDone d data t) b
        refine ⟨h.oneBank hlt hk hx, ?_⟩
        rw [if_pos hzero]
        exact ⟨(h.keeps.bankState hlt).trans hstate, (h.keeps.bankOf b).trans (hbank.trans hheld),
          ((h.keeps.within [] [] []).get F.YLM_BANK_STATE_EPOCH hlt).trans (hepoch.trans (congrArg (fun k => Hdr.epoch k.img) hheld)), h.back⟩
      · have hx := hdone.trans (OneBank.refuseBank hlt (refusalCode m whole) (chunkDone d data t))
        have h := run _ _ (hverify.trans ((verifyBank_refused (mt hcode.symm.trans hzero)).trans (by rw [hcode]))) hx
        obtain ⟨hstate, hshown⟩ := refuseBank_refused b (refusalCode_lt m whole) (chunkDone d data t)
        refine ⟨h.oneBank hlt hk hx, ?_⟩
        rw [if_neg hzero]
        exact ⟨(h.keeps.bankState hlt).trans hstate, ((h.keeps.within [] [] []).get F.YLM_BANK_STATE_REFUSE_CODE hlt).trans hshown, h.back⟩

theorem planWrite_chunk {m : Main} {r : Fin 8} {d : Desc} (ha : accepts (chunkKind d) m r d) (x : Main) (rep : Reply)
    (hf : planWriteData d (swapData d.swap (d.data.take d.length)) (taken (chunkKind d) r d m) = (x, rep))
    (hx : OneBank (d.param % 2) (taken (chunkKind d) r d m) x) : Answered m r d rep x (planWrite r d m) :=
  cmdNow_answered ha (planWriteData d) hf hx.frame.samePlace

/-- The bank of a chunk that is not a bundle's first is WRITING where the chunk acts. -/
theorem writing_of_accepts {m : Main} {r : Fin 8} {d : Desc} (ha : accepts (chunkKind d) m r d) (hf : bitOf d.param 1 = false) :
    bankState (taken (chunkKind d) r d m) (d.param % 2) = Bk.writing := by
  have hlt : d.param % 2 < 2 := Nat.mod_lt _ (by decide)
  rw [(keeps_taken ..).bankState hlt, ← (keeps_atCheck (chunkKind d) m r d).bankState hlt]
  exact writing_of_planWriteGates (gate_of_cmdCheck ha.2.1) hf

/-- Settles O10: a chunk by `chunk_outcome`, the ABORT by `answersMain_planWriteAbort`; PLAN_WRITE's row leaves an ABORT descriptor. -/
theorem planWriteFillsABank : Obligations.PlanWriteFillsABank := by
  unfold Obligations.PlanWriteFillsABank
  intro s r d b framed
  refine ⟨fun ha => ⟨answersMain_planWriteAbort ha, ?_⟩, fun ha => ?_⟩
  · exact answersMain_of (f := planWrite r d) rfl (cmdNow_otherRow ha.1 (planWriteRow_false ha.1.2.2.2) _)
  · exact answersMain_of (f := planWrite r d) rfl (chunk_outcome (keeps_taken ..) (writing_of_accepts ha) (planWrite_chunk ha))

end Sys2Proof.Machine
end

section
/-!
SUPPORT. What the fill deadline and the bind cutoff count (R43–R46, R206).
-/
namespace Sys2Proof.Machine

/-! ### A fold over lanes -/

/-- In a fold over distinct items, what stands before an item's turn and what comes after it are steps of the other items. -/
theorem foldl_visit {α : Type} {S : Main → Main → Prop} (refl : ∀ m, S m m) (trans : ∀ {a b c}, S a b → S b c → S a c)
    (f : Main → α → Main) {x : α} {l : List α} (hd : l.Nodup) (hx : x ∈ l) (hf : ∀ y ∈ l, y ≠ x → ∀ m, S m (f m y)) (m : Main) :
    ∃ m1, S m m1 ∧ S (f m1 x) (l.foldl f m) := by
  have rest (t : List α) (ht : ∀ y ∈ t, y ≠ x ∧ y ∈ l) : ∀ m, S m (t.foldl f m) := by
    induction t with
    | nil => exact refl
    | cons y t ih =>
      intro m
      obtain ⟨hne, hy⟩ := ht y (List.mem_cons_self ..)
      exact trans (hf y hy hne m) (ih (fun z hz => ht z (List.mem_cons_of_mem _ hz)) _)
  obtain ⟨before, after, rfl⟩ := List.append_of_mem hx
  have hsplit := List.nodup_append.1 hd
  have hafter := List.nodup_cons.1 hsplit.2.1
  refine ⟨before.foldl f m, rest before (fun y hy => ⟨?_, by simp [hy]⟩) m, ?_⟩
  · exact fun e => hsplit.2.2 y hy x (List.mem_cons_self ..) e
  · rw [List.foldl_append, List.foldl_cons]
    exact rest after (fun y hy => ⟨fun e => hafter.1 (e ▸ hy), by simp [hy]⟩) _

theorem vget_fin {α : Type} {n : Nat} (v : Vector α n) (i : Fin n) (d : α) : vget v i d = v[i] := by
  unfold vget
  simp

/-! ### The counters of a lane -/

/-- The lane counters that a deadline counts in. -/
def tallied : List Field := [F.YLM_UNDERRUNS, F.YLM_OVERLENGTH, F.YLM_UNUSED]

/-- One in a counter. -/
def oneIn (f g : Field) : Nat := if g = f then 1 else 0

/-- `m'` is `m` with `n` counted on lane `l`; it may differ in the cell that lane `l` has to come. -/
structure Tally (l : Nat) (n : Field → Nat) (m m' : Main) : Prop where
  within : Within [] [4] [.ylm] m m'
  built : m'.ylm.built = m.ylm.built
  next : ∀ i, i ≠ l → vget m'.ylm.next i none = vget m.ylm.next i none
  count : ∀ f ∈ tallied, ∀ i, i < 8 → m'.get f i = (m.get f i + if i = l then n f else 0) % 2 ^ 32
  mark : m.bit F.YLM_ERR_UNDERRUN = true → m'.bit F.YLM_ERR_UNDERRUN = true
  flag : m.ylm.underrun = true → m'.ylm.underrun = true

section
variable {l : Nat} {n n' : Field → Nat} {m m' m'' : Main}

theorem get_tallied_lt {f : Field} (hf : f ∈ tallied) (m : Main) (i : Nat) : m.get f i < 2 ^ 32 := by
  have := Main.get_lt m f i
  rcases List.mem_cons.1 hf with rfl | hf
  · exact this
  · rcases List.mem_cons.1 hf with rfl | hf
    · exact this
    · rw [List.mem_singleton.1 hf] at this ⊢
      exact this

theorem Tally.trans (h : Tally l n m m') (g : Tally l n' m' m'') : Tally l (fun f => n f + n' f) m m'' where
  within := h.within.trans g.within
  built := g.built.trans h.built
  next i hi := (g.next i hi).trans (h.next i hi)
  count f hf i hi := by
    rw [g.count f hf i hi, h.count f hf i hi]
    split <;> omega
  mark hx := g.mark (h.mark hx)
  flag hx := g.flag (h.flag hx)

/-- An operation that counts nothing. -/
theorem Tally.none (within : Within [] [4] [.ylm] m m') (built : m'.ylm.built = m.ylm.built)
    (next : ∀ i, i ≠ l → vget m'.ylm.next i none = vget m.ylm.next i none) (count : ∀ f ∈ tallied, ∀ i, i < 8 → m'.get f i = m.get f i)
    (mark : m.bit F.YLM_ERR_UNDERRUN = true → m'.bit F.YLM_ERR_UNDERRUN = true) (flag : m.ylm.underrun = true → m'.ylm.underrun = true) :
    Tally l (fun _ => 0) m m' where
  within := within
  built := built
  next := next
  count f hf i hi := by
    rw [count f hf i hi, ite_self, Nat.add_zero, Nat.mod_eq_of_lt (get_tallied_lt hf m i)]
  mark := mark
  flag := flag

theorem Tally.refl (l : Nat) (m : Main) : Tally l (fun _ => 0) m m :=
  Tally.none (Within.refl _ _ _ _) rfl (fun _ _ => rfl) (fun _ _ _ _ => rfl) id id

/-- A change of the lane's own cell to come. -/
theorem tally_next (l : Nat) (f : Option Cell → Option Cell) (m : Main) :
    Tally l (fun _ => 0) m { m with ylm := { m.ylm with next := vmod m.ylm.next l f } } :=
  Tally.none (Within.ylm m _) rfl (fun _ hi => vget_vmod_ne _ _ _ hi.symm) (fun _ _ _ _ => rfl) id id

theorem tally_idleCell (l : Nat) (m : Main) : Tally l (fun _ => 0) m (idleCell l m) := tally_next l _ m

theorem next_idleCell {l : Nat} (hl : l < 8) (m : Main) :
    vget (idleCell l m).ylm.next l none = (vget m.ylm.next l none).map fun k => { k with idle := true } := vget_vmod_same _ _ _ hl

/-- The counters of the lanes lie in words of their own. -/
theorem tallied_addr {f g : Field} (hf : f ∈ tallied) (hg : g ∈ tallied) (i j : Nat) : f.addr i = g.addr j ↔ f = g ∧ i = j := by
  have hrow {h : Field} (hh : h ∈ tallied) : h.stride = 32 ∧ h = ⟨h.base, 32, 0, 32⟩ ∧ (h.base = 0x040104 ∨ h.base = 0x040108 ∨ h.base = 0x04010C) := by
    rcases List.mem_cons.1 hh with rfl | hh
    · decide
    · rcases List.mem_cons.1 hh with rfl | hh
      · decide
      · rw [List.mem_singleton.1 hh]
        decide
  obtain ⟨hs, heq, hb⟩ := hrow hf
  obtain ⟨hs', heq', hb'⟩ := hrow hg
  unfold Field.addr
  rw [hs, hs']
  constructor
  · intro h
    have hbase : f.base = g.base := by omega
    exact ⟨by rw [heq, heq', hbase], by omega⟩
  · rintro ⟨rfl, rfl⟩
    rfl

theorem tallied_fits {f : Field} (hf : f ∈ tallied) : f.lo + f.width ≤ 32 ∧ f.width = 32 ∧ f.fits 8 = true ∧ f.base / 65536 = 4 := by
  rcases List.mem_cons.1 hf with rfl | hf
  · decide
  · rcases List.mem_cons.1 hf with rfl | hf
    · decide
    · rw [List.mem_singleton.1 hf]
      decide

theorem get_count_tallied {f g : Field} (hf : f ∈ tallied) (hg : g ∈ tallied) (m : Main) (l i : Nat) :
    (m.count f l).get g i = (m.get g i + if i = l then oneIn f g else 0) % 2 ^ 32 := by
  unfold Main.count oneIn
  by_cases h : f.addr l = g.addr i
  · obtain ⟨rfl, rfl⟩ := (tallied_addr hf hg l i).1 h
    rw [Main.get_put_same _ _ _ _ (tallied_fits hf).1, (tallied_fits hf).2.1, if_pos rfl, if_pos rfl]
  · have hzero : (if i = l then if g = f then 1 else 0 else 0) = 0 := by
      rw [tallied_addr hf hg] at h
      grind
    rw [Main.get_put_addr _ _ _ _ _ _ h, hzero, Nat.add_zero, Nat.mod_eq_of_lt (get_tallied_lt hg m i)]

theorem err_ne_tallied {f : Field} (hf : f ∈ tallied) (l : Nat) {g : Field} (hg : g.base = 0x040028 ∧ g.stride = 0) (i : Nat) :
    f.addr l ≠ g.addr i := by
  rcases List.mem_cons.1 hf with rfl | hf
  · unfold Field.addr; rw [hg.1, hg.2]; simp only [F.YLM_UNDERRUNS]; omega
  · rcases List.mem_cons.1 hf with rfl | hf
    · unfold Field.addr; rw [hg.1, hg.2]; simp only [F.YLM_OVERLENGTH]; omega
    · rw [List.mem_singleton.1 hf]
      unfold Field.addr; rw [hg.1, hg.2]; simp only [F.YLM_UNUSED]; omega

theorem within_count_tallied {f : Field} (hf : f ∈ tallied) {l : Nat} (hl : l < 8) (m : Main) : Within [] [4] [.ylm] m (m.count f l) :=
  Within.count m f 1 hl (tallied_fits hf).2.2.1 (Or.inr (by rw [(tallied_fits hf).2.2.2]; decide))

theorem tally_count {f : Field} (hf : f ∈ tallied) {l : Nat} (hl : l < 8) (m : Main) : Tally l (oneIn f) m (m.count f l) := by
  refine ⟨within_count_tallied hf hl m, rfl, fun _ _ => rfl, fun g hg i _ => get_count_tallied hf hg m l i, fun h => ?_, id⟩
  unfold Main.bit Main.count
  rw [Main.get_put_addr _ _ _ _ _ _ (err_ne_tallied hf l (by decide) 0)]
  exact h

/-- A bit of YLM_ERR is set. -/
theorem tally_err (l : Nat) {g : Field} (hg : g = F.YLM_ERR_UNDERRUN ∨ g = F.YLM_ERR_OVERLENGTH) (m : Main) :
    Tally l (fun _ => 0) m (m.putBit g true) := by
  have hrow : g.base = 0x040028 ∧ g.stride = 0 ∧ g.fits 1 = true := by rcases hg with rfl | rfl <;> decide
  refine Tally.none (Within.putBit m g true 0 Nat.one_pos hrow.2.2 (Or.inr (by rw [hrow.1]; decide))) rfl (fun _ _ => rfl)
    (fun f hf i _ => Main.get_put_addr _ _ _ _ _ _ (err_ne_tallied hf i ⟨hrow.1, hrow.2.1⟩ 0).symm) (fun h => ?_) id
  rcases hg with rfl | rfl
  · exact (Main.bit_putBit m F.YLM_ERR_UNDERRUN true 0 0 0 (by decide) (by decide)).trans (if_pos rfl)
  · unfold Main.bit Main.putBit
    rw [Main.get_put_bits _ F.YLM_ERR_OVERLENGTH F.YLM_ERR_UNDERRUN _ _ _ (by decide) (by decide)]
    exact h

theorem Keeps.tally (l : Nat) (h : Keeps m m') : Tally l (fun _ => 0) m m' := by
  refine Tally.none (h.within _ _ _) (congrArg Ylm.built h.ylm) (fun i _ => congrArg (fun y => vget (Ylm.next y) i none) h.ylm)
    (fun f hf i hi => (h.within [] [] []).get f hi ?_) (h.bit F.YLM_ERR_UNDERRUN 0 0 rfl).trans (congrArg Ylm.underrun h.ylm).trans
  rcases List.mem_cons.1 hf with rfl | hf
  · decide
  · rcases List.mem_cons.1 hf with rfl | hf
    · decide
    · rw [List.mem_singleton.1 hf]
      decide

/-- The course has underrun, and the metrics of the course say on which lane. -/
def noteUnderrun (l : Nat) (m : Main) : Main :=
  { m with ylm := { m.ylm with underrun := true, cur := { m.ylm.cur with underruns := vmod m.ylm.cur.underruns l (· + 1) } } }

theorem underrun_eq (l abs : Nat) (m : Main) : underrun l abs m =
    sky (noteUnderrun l ((m.count F.YLM_UNDERRUNS l).putBit F.YLM_ERR_UNDERRUN true)) 0x02 (l * 2 ^ 29 + abs % 100 * 2 ^ 16) (some l) := rfl

theorem tally_noteUnderrun (l : Nat) (m : Main) : Tally l (fun _ => 0) m (noteUnderrun l m) :=
  Tally.none (Within.ylm m _) rfl (fun _ _ => rfl) (fun _ _ _ _ => rfl) id (fun _ => rfl)

theorem tally_underrun {l : Nat} (hl : l < 8) (abs : Nat) (m : Main) : Tally l (oneIn F.YLM_UNDERRUNS) m (underrun l abs m) := by
  rw [underrun_eq]
  exact (((tally_count (by decide) hl m).trans (tally_err l (Or.inl rfl) _)).trans (tally_noteUnderrun l _)).trans ((keeps_sky ..).tally l)

theorem next_noteUnderrun (l : Nat) (m : Main) : (noteUnderrun l m).ylm.next = m.ylm.next := rfl

theorem next_underrun (l abs : Nat) (m : Main) : (underrun l abs m).ylm.next = m.ylm.next := by
  rw [underrun_eq, (keeps_sky ..).ylm, next_noteUnderrun, Main.putBit_ylm, Main.count_ylm]

theorem flag_noteUnderrun (l : Nat) (m : Main) : (noteUnderrun l m).ylm.underrun = true := rfl

/-- An underrun has been noted. -/
def Marked (m : Main) : Prop := m.bit F.YLM_ERR_UNDERRUN = true ∧ m.ylm.underrun = true

theorem Tally.marked (h : Tally l n m m') (hm : Marked m) : Marked m' := ⟨h.mark hm.1, h.flag hm.2⟩

theorem marked_underrun (l abs : Nat) (m : Main) : Marked (underrun l abs m) := by
  rw [underrun_eq]
  have hset : ((m.count F.YLM_UNDERRUNS l).putBit F.YLM_ERR_UNDERRUN true).bit F.YLM_ERR_UNDERRUN = true :=
    (Main.bit_putBit _ F.YLM_ERR_UNDERRUN true 0 0 0 (by decide) (by decide)).trans (if_pos rfl)
  exact ((keeps_sky ..).tally l).marked ⟨(tally_noteUnderrun l _).mark hset, flag_noteUnderrun l _⟩

/-- A frame longer than its cell. -/
def noteOverlength (l : Nat) (m : Main) : Main := (m.count F.YLM_OVERLENGTH l).putBit F.YLM_ERR_OVERLENGTH true

theorem next_ylmUnused (l : Nat) (m : Main) : (ylmUnused l m).ylm.next = m.ylm.next := by
  unfold ylmUnused
  rw [Main.count_ylm]

theorem next_noteOverlength (l : Nat) (m : Main) : (noteOverlength l m).ylm.next = m.ylm.next := by
  unfold noteOverlength
  rw [Main.putBit_ylm, Main.count_ylm]

theorem tally_noteOverlength {l : Nat} (hl : l < 8) (m : Main) : Tally l (oneIn F.YLM_OVERLENGTH) m (noteOverlength l m) :=
  (tally_count (by decide) hl m).trans (tally_err l (Or.inr rfl) _)

end

/-! ### A cell counted -/

/-- What is counted of one cell. -/
def tallyOf (un ov nu : Nat) (f : Field) : Nat := un * oneIn F.YLM_UNDERRUNS f + ov * oneIn F.YLM_OVERLENGTH f + nu * oneIn F.YLM_UNUSED f

/-- Lane `l`'s cell to come is `k` with these counts. -/
structure Settled (l : Nat) (k : Option Cell) (un ov nu : Nat) (m m' : Main) : Prop where
  tally : Tally l (tallyOf un ov nu) m m'
  cell : vget m'.ylm.next l none = k
  marked : 0 < un → Marked m'

section
variable {l : Nat} {c : Cell} {m : Main}

/-- A cell idled after its counts. -/
theorem settled_idleCell {un ov nu : Nat} {m' : Main} (hl : l < 8) (hc : vget m.ylm.next l none = some c) (h : Tally l (tallyOf un ov nu) m m')
    (hn : m'.ylm.next = m.ylm.next) (hm : 0 < un → Marked m') : Settled l (some { c with idle := true }) un ov nu m (idleCell l m') where
  tally := h.trans (tally_idleCell l m')
  cell := by rw [next_idleCell hl, hn, hc]; rfl
  marked hx := (tally_idleCell l m').marked (hm hx)

theorem Tally.counts {n n' : Field → Nat} {m' : Main} (h : Tally l n m m') (hn : ∀ f ∈ tallied, n f = n' f := by decide) : Tally l n' m m' :=
  { h with count := fun f hf i hi => by rw [h.count f hf i hi, hn f hf] }

theorem settled_unused (hl : l < 8) (hc : vget m.ylm.next l none = some c) :
    Settled l (some { c with idle := true }) 0 0 1 m (idleCell l (ylmUnused l m)) :=
  settled_idleCell hl hc (tally_count (f := F.YLM_UNUSED) (by decide) hl m).counts (next_ylmUnused l m) (fun h => absurd h (Nat.lt_irrefl 0))

theorem settled_late (hl : l < 8) (hc : vget m.ylm.next l none = some c) :
    Settled l (some { c with idle := true }) 0 0 0 m (idleCell l m) :=
  settled_idleCell hl hc (Tally.refl l m).counts rfl (fun h => absurd h (Nat.lt_irrefl 0))

theorem settled_underrun (hl : l < 8) (hc : vget m.ylm.next l none = some c) (abs : Nat) :
    Settled l (some { c with idle := true }) 1 0 0 m (idleCell l (underrun l abs m)) :=
  settled_idleCell hl hc (tally_underrun hl abs m).counts (next_underrun l abs m) (fun _ => marked_underrun l abs m)

theorem settled_overlength (hl : l < 8) (hc : vget m.ylm.next l none = some c) (abs : Nat) :
    Settled l (some { c with idle := true }) 1 1 0 m (idleCell l (underrun l abs (noteOverlength l m))) :=
  settled_idleCell hl hc ((tally_noteOverlength hl m).trans (tally_underrun hl abs _)).counts
    ((next_underrun l abs _).trans (next_noteOverlength l m)) (fun _ => marked_underrun l abs _)

end

end Sys2Proof.Machine
end

section
namespace Sys2Proof.Machine

/-! ### The steps of the two deadlines -/

/-- A module that sends nothing: MUTED, or without a network key (R425, R483). -/
def silent (m : Main) : Prop := m.bit F.RED_STATUS_MUTED = true ∨ m.key.work[0] = none

theorem silent_iff {m : Main} : (m.bit F.RED_STATUS_MUTED || m.key.work[0].isNone) = true ↔ silent m := by
  unfold silent
  simp

theorem settled_same {l : Nat} {m : Main} {k : Option Cell} (h : vget m.ylm.next l none = k) : Settled l k 0 0 0 m m :=
  ⟨(Tally.refl l m).counts, h, fun h => absurd h (Nat.lt_irrefl 0)⟩

section
variable {l : Nat} {c : Cell} {b : Img} {m : Main} (late : Bool)

theorem deadlineCell_silent (h : silent m) : deadlineCell late l c b m = idleCell l (ylmUnused l m) := if_pos (silent_iff.2 h)

/-- A cell that was built for and has no frame underran; one with nothing waiting is unused (R43, R44). -/
theorem deadlineCell_empty (h : ¬ silent m) (hf : c.frame = none) : deadlineCell late l c b m =
    if (CellW.action c.word = 1 ∨ CellW.action c.word = 4) ∧ (sourceCell b c.start l c.word).isSome
    then idleCell l (underrun l c.start m) else idleCell l (ylmUnused l m) := by
  unfold deadlineCell
  dsimp only
  rw [if_neg (mt silent_iff.1 h), hf]
  dsimp only
  rw [apply_ite (idleCell l)]
  exact if_congr (by simp) rfl rfl

/-- A cell with a frame is sent, where its payload is sealed and the frame fits (R43, R45). -/
theorem deadlineCell_frame (h : ¬ silent m) {f : TlpFrame} (hf : c.frame = some f) : deadlineCell late l c b m =
    if (CellW.action c.word = 1 ∨ CellW.action c.word = 4) ∧ late = true then idleCell l (underrun l c.start m)
    else if fits b l c.word f = false then idleCell l (underrun l c.start (noteOverlength l m))
    else m := by
  unfold deadlineCell
  dsimp only
  rw [if_neg (mt silent_iff.1 h), hf]
  exact if_congr (by simp) rfl (if_congr (by simp) rfl rfl)

end

/-- The lane's cell to come takes its frame. -/
def bindFrame (l : Nat) (f : TlpFrame) (m : Main) : Main :=
  { m with ylm := { m.ylm with next := vmod m.ylm.next l fun k => k.map fun k => { k with frame := some f } } }

/-- A fetched WAVE_RESERVE cell at the bind cutoff: `bindCutoff` at one lane. -/
def cutoffCell (l : Nat) (c : Cell) (b : Img) (m : Main) : Main :=
  match sourceCell b c.start l c.word with
  | none => idleCell l (ylmUnused l m)
  | some s =>
    if boundLate m s l then idleCell l m
    else if m.bit F.RED_STATUS_MUTED || m.key.work[0].isNone then idleCell l (ylmUnused l m)
    else
      match frameOf m s l with
      | none => idleCell l (ylmUnused l m)
      | some f => if fits b l c.word f then bindFrame l f m else idleCell l (underrun l c.start (noteOverlength l (bindFrame l f m)))

section
variable {l : Nat} {c : Cell} {b : Img} {m : Main}

theorem cutoffCell_unsourced (h : sourceCell b c.start l c.word = none) : cutoffCell l c b m = idleCell l (ylmUnused l m) := by
  unfold cutoffCell
  rw [h]

variable {a : Nat} (ha : sourceCell b c.start l c.word = some a)
include ha

theorem cutoffCell_late (h : boundLate m a l = true) : cutoffCell l c b m = idleCell l m := by
  unfold cutoffCell
  rw [ha]
  exact if_pos h

variable (hb : ¬ boundLate m a l = true)
include hb

theorem cutoffCell_silent (h : silent m) : cutoffCell l c b m = idleCell l (ylmUnused l m) := by
  unfold cutoffCell
  rw [ha]
  exact (if_neg hb).trans (if_pos (silent_iff.2 h))

variable (hs : ¬ silent m)
include hs

theorem cutoffCell_unbound (h : frameOf m a l = none) : cutoffCell l c b m = idleCell l (ylmUnused l m) := by
  unfold cutoffCell
  rw [ha]
  dsimp only
  rw [if_neg hb, if_neg (mt silent_iff.1 hs), h]

theorem cutoffCell_bound {f : TlpFrame} (h : frameOf m a l = some f) : cutoffCell l c b m =
    if fits b l c.word f then bindFrame l f m else idleCell l (underrun l c.start (noteOverlength l (bindFrame l f m))) := by
  unfold cutoffCell
  rw [ha]
  dsimp only
  rw [if_neg hb, if_neg (mt silent_iff.1 hs), h]

end

/-! ### The two deadlines, lane by lane -/

/-- FILL_DEADLINE at one lane. -/
def fillStep (late : Nat) (b : Img) (m : Main) (l : Nat) : Main :=
  match ownCell m l with
  | some c => if CellW.action c.word = 8 then m else deadlineCell (bitOf late l) l c b m
  | none => m

/-- BIND_CUTOFF at one lane. -/
def cutoffStep (b : Img) (m : Main) (l : Nat) : Main :=
  match ownCell m l with
  | some c => if CellW.action c.word ≠ 8 then m else cutoffCell l c b m
  | none => m

theorem fillDeadline_run {m : Main} {b : Img} (h : runImg m = some b) (late : Nat) :
    fillDeadline late m = (List.range 8).foldl (fillStep late b) m := by
  unfold fillDeadline
  rw [h]
  rfl

theorem bindCutoff_run {m : Main} {b : Img} (h : runImg m = some b) : bindCutoff m = (List.range 8).foldl (cutoffStep b) m := by
  unfold bindCutoff
  rw [h]
  rfl

theorem ownCell_next {m : Main} {l : Nat} {c : Cell} (h : ownCell m l = some c) : vget m.ylm.next l none = some c := by
  unfold ownCell at h
  obtain ⟨k, hk, hc⟩ := Option.bind_eq_some_iff.1 h
  split at hc
  · rw [hk, hc]
  · cases hc

section
variable {late l : Nat} {c : Cell} {b : Img} {m : Main}

theorem fillStep_own (h : ownCell m l = some c) (ha : CellW.action c.word ≠ 8) :
    fillStep late b m l = deadlineCell (bitOf late l) l c b m := by
  unfold fillStep
  rw [h]
  exact if_neg ha

theorem fillStep_other (h : ownCell m l = none ∨ ∃ c, ownCell m l = some c ∧ CellW.action c.word = 8) : fillStep late b m l = m := by
  unfold fillStep
  rcases h with h | ⟨c, h, ha⟩
  · rw [h]
  · rw [h]
    exact if_pos ha

theorem cutoffStep_own (h : ownCell m l = some c) (ha : CellW.action c.word = 8) : cutoffStep b m l = cutoffCell l c b m := by
  unfold cutoffStep
  rw [h]
  exact if_neg (not_not.2 ha)

theorem cutoffStep_other (h : ownCell m l = none ∨ ∃ c, ownCell m l = some c ∧ CellW.action c.word ≠ 8) : cutoffStep b m l = m := by
  unfold cutoffStep
  rcases h with h | ⟨c, h, ha⟩
  · rw [h]
  · rw [h]
    exact if_pos ha

end

/-- The statement's account of lane `l`: its cell to come and what was counted of it. -/
def accounts (l : Nat) (k : Option Cell) (un ov nu : Nat) (m m' : Main) : Prop :=
  vget m'.ylm.next l none = k ∧ m'.get F.YLM_UNDERRUNS l = (m.get F.YLM_UNDERRUNS l + un) % 2 ^ 32 ∧
    m'.get F.YLM_OVERLENGTH l = (m.get F.YLM_OVERLENGTH l + ov) % 2 ^ 32 ∧ m'.get F.YLM_UNUSED l = (m.get F.YLM_UNUSED l + nu) % 2 ^ 32 ∧
    (0 < un → Marked m')

theorem Settled.accounts {l : Nat} (hl : l < 8) {k : Option Cell} {un ov nu : Nat} {m m' : Main} (h : Settled l k un ov nu m m') :
    accounts l k un ov nu m m' := by
  have hcount {f : Field} (hf : f ∈ tallied) {v : Nat} (hv : tallyOf un ov nu f = v) : m'.get f l = (m.get f l + v) % 2 ^ 32 := by
    rw [h.tally.count f hf l hl, if_pos rfl, hv]
  refine ⟨h.cell, hcount (by decide) ?_, hcount (by decide) ?_, hcount (by decide) ?_, h.marked⟩
  · show un * 1 + ov * 0 + nu * 0 = un
    omega
  · show un * 0 + ov * 1 + nu * 0 = ov
    omega
  · show un * 0 + ov * 0 + nu * 1 = nu
    omega

/-- What the deadlines of the other lanes leave of lane `l`. -/
structure SameLane (l : Nat) (m m' : Main) : Prop where
  within : Within [] [4] [.ylm] m m'
  built : m'.ylm.built = m.ylm.built
  next : vget m'.ylm.next l none = vget m.ylm.next l none
  count : ∀ f ∈ tallied, m'.get f l = m.get f l
  mark : Marked m → Marked m'

section
variable {l : Nat} {m m' m'' : Main}

theorem SameLane.refl (l : Nat) (m : Main) : SameLane l m m := ⟨Within.refl _ _ _ _, rfl, rfl, fun _ _ => rfl, id⟩

theorem SameLane.trans (h : SameLane l m m') (g : SameLane l m' m'') : SameLane l m m'' :=
  ⟨h.within.trans g.within, g.built.trans h.built, g.next.trans h.next, fun f hf => (g.count f hf).trans (h.count f hf), fun hm => g.mark (h.mark hm)⟩

theorem Tally.sameLane {i : Nat} {n : Field → Nat} (h : Tally i n m m') (hl : l < 8) (hi : l ≠ i) : SameLane l m m' where
  within := h.within
  built := h.built
  next := h.next l hi
  count f hf := by rw [h.count f hf l hl, if_neg hi, Nat.add_zero, Nat.mod_eq_of_lt (get_tallied_lt hf m l)]
  mark := h.marked

theorem SameLane.ownCell (h : SameLane l m m') : ownCell m' l = ownCell m l := by
  unfold Machine.ownCell
  rw [h.next]

theorem SameLane.silent (h : SameLane l m m') : silent m' ↔ silent m := by
  have hkey : m'.key = m.key := h.within.same .key
  unfold Machine.silent
  rw [h.within.bit F.RED_STATUS_MUTED 0 Nat.one_pos, hkey]

theorem SameLane.boundLate (h : SameLane l m m') (a : Nat) : boundLate m' a l = boundLate m a l := by
  have hwav : m'.wav = m.wav := h.within.same .wav
  unfold Machine.boundLate
  rw [hwav]

theorem SameLane.frameOf (h : SameLane l m m') (a : Nat) : frameOf m' a l = frameOf m a l := by
  have hwav : m'.wav = m.wav := h.within.same .wav
  unfold Machine.frameOf
  rw [hwav, h.built]

/-- A lane's account between what the other lanes did before it and after it. -/
theorem accounts.between {m1 m2 : Main} {k : Option Cell} {un ov nu : Nat} (h : accounts l k un ov nu m1 m2) (before : SameLane l m m1)
    (after : SameLane l m2 m') : accounts l k un ov nu m m' := by
  obtain ⟨hcell, hun, hov, hnu, hmark⟩ := h
  have hu : F.YLM_UNDERRUNS ∈ tallied := by decide
  have ho : F.YLM_OVERLENGTH ∈ tallied := by decide
  have hn : F.YLM_UNUSED ∈ tallied := by decide
  refine ⟨after.next.trans hcell, ?_, ?_, ?_, fun hx => after.mark (hmark hx)⟩
  · rw [after.count _ hu, hun, before.count _ hu]
  · rw [after.count _ ho, hov, before.count _ ho]
  · rw [after.count _ hn, hnu, before.count _ hn]

end

end Sys2Proof.Machine
end

section
namespace Sys2Proof.Machine

/-! ### What is settled of a cell at its deadline -/

section
variable {l : Nat} {c : Cell} {b : Img} {m : Main} (hl : l < 8) (hc : vget m.ylm.next l none = some c)
include hl hc

theorem settled_deadlineCell_silent (late : Bool) (h : silent m) :
    Settled l (some { c with idle := true }) 0 0 1 m (deadlineCell late l c b m) := by
  rw [deadlineCell_silent late h]
  exact settled_unused hl hc

theorem settled_deadlineCell_empty (late : Bool) (h : ¬ silent m) (hf : c.frame = none) :
    if (CellW.action c.word = 1 ∨ CellW.action c.word = 4) ∧ (sourceCell b c.start l c.word).isSome
    then Settled l (some { c with idle := true }) 1 0 0 m (deadlineCell late l c b m)
    else Settled l (some { c with idle := true }) 0 0 1 m (deadlineCell late l c b m) := by
  rw [deadlineCell_empty late h hf]
  split
  · exact settled_underrun hl hc c.start
  · exact settled_unused hl hc

theorem settled_deadlineCell_frame (late : Bool) (h : ¬ silent m) {f : TlpFrame} (hf : c.frame = some f) :
    if (CellW.action c.word = 1 ∨ CellW.action c.word = 4) ∧ late = true
    then Settled l (some { c with idle := true }) 1 0 0 m (deadlineCell late l c b m)
    else if fits b l c.word f = false then Settled l (some { c with idle := true }) 1 1 0 m (deadlineCell late l c b m)
    else Settled l (some c) 0 0 0 m (deadlineCell late l c b m) := by
  rw [deadlineCell_frame late h hf]
  split
  · exact settled_underrun hl hc c.start
  · split
    · exact settled_overlength hl hc c.start
    · exact settled_same hc

theorem tally_deadlineCell (late : Bool) : ∃ n, Tally l n m (deadlineCell late l c b m) := by
  by_cases hs : silent m
  · exact ⟨_, (settled_deadlineCell_silent hl hc late hs).tally⟩
  · cases hf : c.frame with
    | none =>
      have h := settled_deadlineCell_empty (b := b) hl hc late hs hf
      split at h
      · exact ⟨_, h.tally⟩
      · exact ⟨_, h.tally⟩
    | some f =>
      have h := settled_deadlineCell_frame (b := b) hl hc late hs hf
      split at h
      · exact ⟨_, h.tally⟩
      · split at h
        · exact ⟨_, h.tally⟩
        · exact ⟨_, h.tally⟩

/-- The cell with its frame bound. -/
theorem settled_bindFrame (f : TlpFrame) : Settled l (some { c with frame := some f }) 0 0 0 m (bindFrame l f m) :=
  ⟨(tally_next l _ m).counts, (vget_vmod_same _ _ _ hl).trans (by rw [hc]; rfl), fun h => absurd h (Nat.lt_irrefl 0)⟩

theorem settled_bindFrame_overlength (f : TlpFrame) :
    Settled l (some { c with frame := some f, idle := true }) 1 1 0 m
      (idleCell l (underrun l c.start (noteOverlength l (bindFrame l f m)))) := by
  obtain ⟨htally, hcell, -⟩ := settled_bindFrame hl hc f
  have h := settled_overlength hl hcell c.start
  exact ⟨(htally.trans h.tally).counts, h.cell, h.marked⟩

variable {a : Nat} (ha : sourceCell b c.start l c.word = some a)
include ha

theorem settled_cutoffCell_late (h : boundLate m a l = true) : Settled l (some { c with idle := true }) 0 0 0 m (cutoffCell l c b m) := by
  rw [cutoffCell_late ha h]
  exact settled_late hl hc

theorem settled_cutoffCell_silent (hb : ¬ boundLate m a l = true) (hs : silent m) :
    Settled l (some { c with idle := true }) 0 0 1 m (cutoffCell l c b m) := by
  rw [cutoffCell_silent ha hb hs]
  exact settled_unused hl hc

theorem settled_cutoffCell_unbound (hb : ¬ boundLate m a l = true) (hs : ¬ silent m) (h : frameOf m a l = none) :
    Settled l (some { c with idle := true }) 0 0 1 m (cutoffCell l c b m) := by
  rw [cutoffCell_unbound ha hb hs h]
  exact settled_unused hl hc

theorem settled_cutoffCell_bound (hb : ¬ boundLate m a l = true) (hs : ¬ silent m) {f : TlpFrame} (h : frameOf m a l = some f) :
    if fits b l c.word f = true then Settled l (some { c with frame := some f }) 0 0 0 m (cutoffCell l c b m)
    else Settled l (some { c with frame := some f, idle := true }) 1 1 0 m (cutoffCell l c b m) := by
  rw [cutoffCell_bound ha hb hs h]
  split
  · exact settled_bindFrame hl hc f
  · exact settled_bindFrame_overlength hl hc f

end

theorem tally_cutoffCell {l : Nat} {c : Cell} {b : Img} {m : Main} (hl : l < 8) (hc : vget m.ylm.next l none = some c) :
    ∃ n, Tally l n m (cutoffCell l c b m) := by
  cases ha : sourceCell b c.start l c.word with
  | none =>
    rw [cutoffCell_unsourced ha]
    exact ⟨_, (settled_unused hl hc).tally⟩
  | some a =>
    by_cases hb : boundLate m a l = true
    · exact ⟨_, (settled_cutoffCell_late hl hc ha hb).tally⟩
    · by_cases hs : silent m
      · exact ⟨_, (settled_cutoffCell_silent hl hc ha hb hs).tally⟩
      · cases hf : frameOf m a l with
        | none => exact ⟨_, (settled_cutoffCell_unbound hl hc ha hb hs hf).tally⟩
        | some f =>
          have h := settled_cutoffCell_bound hl hc ha hb hs hf
          split at h
          · exact ⟨_, h.tally⟩
          · exact ⟨_, h.tally⟩

theorem tally_fillStep (late : Nat) (b : Img) {l : Nat} (hl : l < 8) (m : Main) : ∃ n, Tally l n m (fillStep late b m l) := by
  unfold fillStep
  split
  · next c hc =>
    split
    · exact ⟨_, Tally.refl l m⟩
    · exact tally_deadlineCell hl (ownCell_next hc) _
  · exact ⟨_, Tally.refl l m⟩

theorem tally_cutoffStep (b : Img) {l : Nat} (hl : l < 8) (m : Main) : ∃ n, Tally l n m (cutoffStep b m l) := by
  unfold cutoffStep
  split
  · next c hc =>
    split
    · exact ⟨_, Tally.refl l m⟩
    · exact tally_cutoffCell hl (ownCell_next hc)
  · exact ⟨_, Tally.refl l m⟩

/-- A fold of steps that each count on their own lane: what it leaves of a lane is what that lane's step left. -/
theorem foldl_lanes {f : Main → Nat → Main} (hf : ∀ l, l < 8 → ∀ m, ∃ n, Tally l n m (f m l)) (m : Main) {l : Nat} (hl : l < 8) :
    ∃ m1, SameLane l m m1 ∧ SameLane l (f m1 l) ((List.range 8).foldl f m) := by
  refine foldl_visit (SameLane.refl l) SameLane.trans f (List.nodup_range) (List.mem_range.2 hl) (fun i hi hne x => ?_) m
  obtain ⟨n, h⟩ := hf i (List.mem_range.1 hi) x
  exact h.sameLane hl (Ne.symm hne)

theorem within_foldl_lanes {f : Main → Nat → Main} (hf : ∀ l, l < 8 → ∀ m, ∃ n, Tally l n m (f m l)) (m : Main) :
    Within [] [4] [.ylm] m ((List.range 8).foldl f m) :=
  Within.foldl f _ (fun l hl x => (hf l (List.mem_range.1 hl) x).elim fun _ h => h.within) m

theorem ite_mono {c : Prop} [Decidable c] {p q p' q' : Prop} (h : if c then p else q) (hp : p → p') (hq : q → q') :
    if c then p' else q' := by
  split
  · next hc => exact hp (by rwa [if_pos hc] at h)
  · next hc => exact hq (by rwa [if_neg hc] at h)

/-! ### The obligation -/

section
variable {b : Img} {m : Main} {l : Nat} (hl : l < 8)
include hl

/-- FILL_DEADLINE leaves of a cell what its own step settles. -/
theorem fillDeadline_lane (hb : runImg m = some b) (late : Nat) :
    ∃ m1, SameLane l m m1 ∧ SameLane l (fillStep late b m1 l) (fillDeadline late m) := by
  rw [fillDeadline_run hb]
  exact foldl_lanes (fun _ hl => tally_fillStep late b hl) m hl

theorem bindCutoff_lane (hb : runImg m = some b) : ∃ m1, SameLane l m m1 ∧ SameLane l (cutoffStep b m1 l) (bindCutoff m) := by
  rw [bindCutoff_run hb]
  exact foldl_lanes (fun _ hl => tally_cutoffStep b hl) m hl

theorem fillDeadline_own (hb : runImg m = some b) (late : Nat) {c : Cell} (hc : ownCell m l = some c) (ha : CellW.action c.word ≠ 8) :
    (silent m → accounts l (some { c with idle := true }) 0 0 1 m (fillDeadline late m)) ∧
    (¬ silent m → ∀ f, c.frame = some f →
      if (CellW.action c.word = 1 ∨ CellW.action c.word = 4) ∧ bitOf late l = true
      then accounts l (some { c with idle := true }) 1 0 0 m (fillDeadline late m)
      else if fits b l c.word f = false then accounts l (some { c with idle := true }) 1 1 0 m (fillDeadline late m)
      else accounts l (some c) 0 0 0 m (fillDeadline late m)) ∧
    (¬ silent m → c.frame = none →
      if (CellW.action c.word = 1 ∨ CellW.action c.word = 4) ∧ (sourceCell b c.start l c.word).isSome
      then accounts l (some { c with idle := true }) 1 0 0 m (fillDeadline late m)
      else accounts l (some { c with idle := true }) 0 0 1 m (fillDeadline late m)) := by
  obtain ⟨m1, before, after⟩ := fillDeadline_lane hl hb late
  have hc1 : ownCell m1 l = some c := before.ownCell.trans hc
  have hnext := ownCell_next hc1
  rw [fillStep_own hc1 ha] at after
  have done {k : Option Cell} {un ov nu : Nat} (h : Settled l k un ov nu m1 (deadlineCell (bitOf late l) l c b m1)) :
      accounts l k un ov nu m (fillDeadline late m) := (h.accounts hl).between before after
  exact ⟨fun hs => done (settled_deadlineCell_silent hl hnext _ (before.silent.2 hs)),
    fun hs f hf => ite_mono (settled_deadlineCell_frame hl hnext _ (mt before.silent.1 hs) hf) done fun h => ite_mono h done done,
    fun hs hf => ite_mono (settled_deadlineCell_empty hl hnext _ (mt before.silent.1 hs) hf) done done⟩

theorem fillDeadline_other (hb : runImg m = some b) (late : Nat)
    (h : ownCell m l = none ∨ ∃ c, ownCell m l = some c ∧ CellW.action c.word = 8) :
    accounts l (vget m.ylm.next l none) 0 0 0 m (fillDeadline late m) := by
  obtain ⟨m1, before, after⟩ := fillDeadline_lane hl hb late
  rw [← before.ownCell] at h
  rw [fillStep_other h] at after
  exact ((settled_same before.next).accounts hl).between before after

theorem bindCutoff_own (hb : runImg m = some b) {c : Cell} (hc : ownCell m l = some c) (ha : CellW.action c.word = 8) :
    (sourceCell b c.start l c.word = none → accounts l (some { c with idle := true }) 0 0 1 m (bindCutoff m)) ∧
    ∀ a, sourceCell b c.start l c.word = some a →
      (boundLate m a l = true → accounts l (some { c with idle := true }) 0 0 0 m (bindCutoff m)) ∧
      (¬ boundLate m a l = true → silent m → accounts l (some { c with idle := true }) 0 0 1 m (bindCutoff m)) ∧
      (¬ boundLate m a l = true → ¬ silent m →
        (frameOf m a l = none → accounts l (some { c with idle := true }) 0 0 1 m (bindCutoff m)) ∧
        ∀ f, frameOf m a l = some f → if fits b l c.word f = true then accounts l (some { c with frame := some f }) 0 0 0 m (bindCutoff m)
          else accounts l (some { c with frame := some f, idle := true }) 1 1 0 m (bindCutoff m)) := by
  obtain ⟨m1, before, after⟩ := bindCutoff_lane hl hb
  have hc1 : ownCell m1 l = some c := before.ownCell.trans hc
  have hnext := ownCell_next hc1
  rw [cutoffStep_own hc1 ha] at after
  have done {k : Option Cell} {un ov nu : Nat} (h : Settled l k un ov nu m1 (cutoffCell l c b m1)) :
      accounts l k un ov nu m (bindCutoff m) := (h.accounts hl).between before after
  refine ⟨fun hs => done (by rw [cutoffCell_unsourced hs]; exact settled_unused hl hnext), fun a hs => ?_⟩
  have hlate := before.boundLate a
  have hsil := before.silent
  have hframe := before.frameOf a
  refine ⟨fun hb => done (settled_cutoffCell_late hl hnext hs (hlate.trans hb)),
    fun hb hx => done (settled_cutoffCell_silent hl hnext hs (by rwa [hlate]) (hsil.2 hx)),
    fun hb hx => ⟨fun hf => done (settled_cutoffCell_unbound hl hnext hs (by rwa [hlate]) (mt hsil.1 hx) (hframe.trans hf)),
      fun f hf => ite_mono (settled_cutoffCell_bound hl hnext hs (by rwa [hlate]) (mt hsil.1 hx) (hframe.trans hf)) done done⟩⟩

theorem bindCutoff_other (hb : runImg m = some b) (h : ownCell m l = none ∨ ∃ c, ownCell m l = some c ∧ CellW.action c.word ≠ 8) :
    accounts l (vget m.ylm.next l none) 0 0 0 m (bindCutoff m) := by
  obtain ⟨m1, before, after⟩ := bindCutoff_lane hl hb
  rw [← before.ownCell] at h
  rw [cutoffStep_other h] at after
  exact ((settled_same before.next).accounts hl).between before after

end

theorem fillDeadline_idle {m : Main} (h : runImg m = none) (late : Nat) : fillDeadline late m = m := by
  unfold fillDeadline
  rw [h]

theorem bindCutoff_idle {m : Main} (h : runImg m = none) : bindCutoff m = m := by
  unfold bindCutoff
  rw [h]

/-- Settles O5: both deadlines go lane by lane, and each lane's account is what its own cell's step settles. -/
theorem deadlinesCountCells : Obligations.DeadlinesCountCells := by
  unfold Obligations.DeadlinesCountCells
  intro s
  refine ⟨fun h => ⟨fun late => ?_, ?_⟩, fun b hb => ?_⟩
  · exact congrArg (fun m => Host.Outcome.next { s with main := m }) (fillDeadline_idle h late)
  · exact congrArg (fun m => Host.Outcome.next { s with main := m }) (bindCutoff_idle h)
  · intro up silent counted idled
    have cell {m : Main} {l : Fin 8} {k : Option Cell} {un ov nu : Nat} (h : accounts l k un ov nu s.main m) :
        m.ylm.next[l] = k ∧ counted m l un ov nu := ⟨(vget_fin ..).symm.trans h.1, h.2⟩
    have hfill (late : Nat) : Within [] [4] [.ylm] s.main (fillDeadline late s.main) := by
      rw [fillDeadline_run hb]
      exact within_foldl_lanes (fun _ hl => tally_fillStep late b hl) _
    have hbind : Within [] [4] [.ylm] s.main (bindCutoff s.main) := by
      rw [bindCutoff_run hb]
      exact within_foldl_lanes (fun _ hl => tally_cutoffStep b hl) _
    refine ⟨fun late => ⟨fillDeadline late s.main, rfl, (hfill late).report fun _ => inRegs_one, fun l => ⟨fun c hc ha => ?_, fun h => ?_⟩⟩,
      bindCutoff s.main, rfl, hbind.report fun _ => inRegs_one, fun l => ⟨fun c hc ha => ?_, fun h => ?_⟩⟩
    · obtain ⟨hsil, hframe, hnone⟩ := fillDeadline_own l.isLt hb late hc ha
      exact ⟨fun hs => cell (hsil hs), fun hs f hf => ite_mono (hframe hs f hf) cell fun h => ite_mono h cell cell,
        fun hs hf => ite_mono (hnone hs hf) cell cell⟩
    · exact (cell (fillDeadline_other l.isLt hb late h)).imp (fun h => h.trans (vget_fin ..)) id
    · obtain ⟨hunsourced, hsourced⟩ := bindCutoff_own l.isLt hb hc ha
      split
      · next hs => exact cell (hunsourced hs)
      · next a hs =>
        obtain ⟨hlate, hsil, hopen⟩ := hsourced a hs
        split
        · next hx => exact cell (hlate hx)
        · next hx =>
          split
          · next hy => exact cell (hsil hx hy)
          · next hy =>
            obtain ⟨hunbound, hbound⟩ := hopen hx hy
            split
            · next hf => exact cell (hunbound hf)
            · next f hf => exact ite_mono (hbound f hf) cell cell
    · exact (cell (bindCutoff_other l.isLt hb h)).imp (fun h => h.trans (vget_fin ..)) id

end Sys2Proof.Machine
end

section
/-!
SUPPORT. What the fetch of a slot's cells may change (R29, R41–R47, R64).
-/
namespace Sys2Proof.Machine

/-! ### The fill of a frame -/

theorem within_showWaves {ws bs : List Nat} {ps : List Part} (m : Main) (h : 8 ∈ bs := by decide) : Within ws bs ps m (showWaves m) :=
  ((Within.put m F.WAV_STATUS_ACTIVE _ Nat.one_pos (by decide) (Or.inr h)).trans
    (Within.put _ F.WAV_STATUS_HIGH_WATER _ Nat.one_pos (by decide) (Or.inr h))).trans
    (Within.put _ F.WAV_STORE_PENDING _ Nat.one_pos (by decide) (Or.inr h))

theorem within_wavCount {ws bs : List Nat} {ps : List Part} {n : Nat} (m : Main) (k : Nat) (hn : n < 20 := by decide) (h : 8 ∈ bs := by decide) :
    Within ws bs ps m (wavCount n m k) := Within.count m F.WAV_CNT k hn (by decide) (Or.inr h)

theorem within_withWave {ws bs : List Nat} {ps : List Part} (w : Nat) (f : WaveCtx → WaveCtx) (m : Main) (h : Part.wav ∈ ps := by decide) :
    Within ws bs ps m (withWave w f m) := Within.wav m _ h

/-- What the fill of a frame may change: the counters and registers of TLP, WAV and PUR, and the contexts, the waves and the chains. -/
abbrev Fills : Main → Main → Prop := Within [] [6, 8, 9] [.ctx, .wav, .upd]

theorem fills_stageFrame (b : Img) (slot lane lead waveId : Nat) (wave : Option Nat) (first noSend : Bool) (es : List (PendEntry × Nat))
    (m : Main) : Fills m (stageFrame b slot lane lead waveId wave first noSend es m) := by
  unfold stageFrame
  exact Within.ite _ (Within.wav m _) ((Within.wav m _).trans (within_wavCount _ 1))

theorem fills_fillContinuation (p : Main) (b : Img) (slot lane k : Nat) (m : Main) : Fills m (fillContinuation p b slot lane k m) := by
  induction k generalizing m with
  | zero => exact Within.refl _ _ _ _
  | succ k ih =>
    unfold fillContinuation
    split
    · exact Within.refl _ _ _ _
    · next q qs _ =>
      extract_lets r rest wav m1 m2 m3
      have h1 : Fills m m1 := Within.wav m _
      have h2 : Fills m1 m2 := within_wavCount m1 _
      have h3 : Fills m2 m3 := by
        show Fills m2 (match q.wave with | some w => _ | none => _)
        split
        · exact within_withWave _ _ _
        · exact Within.refl _ _ _ _
      refine ((h1.trans h2).trans h3).trans ?_
      split
      · exact ih m3
      · exact (fills_stageFrame ..).trans (within_showWaves _)

theorem fills_showGroups (m : Main) : Fills m (showGroups m) := by
  refine Within.foldl _ _ (fun g hg x => ?_) m
  have hg16 : g < 16 := List.mem_range.1 hg
  exact (Within.put x F.PUR_GROUP_LIT_G _ hg16).trans (Within.put _ F.PUR_GROUP_FLOOR_HELD _ hg16)

theorem fills_rememberEntries (es : List (Nat × Entry)) (m : Main) : Fills m (rememberEntries es m) := by
  unfold rememberEntries
  extract_lets m1
  have h1 : Fills m m1 := Within.foldl _ _ (fun e _ x => (Within.ctx x _).trans ((keeps_sky ..).within _ _ _)) m
  exact Within.ite _ h1 (h1.trans (fills_showGroups m1))

theorem fills_entryFrame (f : Option TlpFrame) (abs l exec : Nat) (es : List (Nat × Entry)) (m : Main) :
    Fills m (entryFrame f abs l exec es m).2.2 := by
  unfold entryFrame
  split
  · exact Within.refl _ _ _ _
  · exact fills_rememberEntries es m

theorem fills_fillSheaf (p : Main) (b : Img) (abs l w : Nat) (m : Main) : Fills m (fillSheaf p b abs l w m).2.2 := fills_entryFrame ..

theorem fills_fillLevel (p : Main) (b : Img) (abs l i : Nat) (m : Main) : Fills m (fillLevel p b abs l i m).2.2 := fills_entryFrame ..

theorem fills_withDirect (l : Nat) (f : List Direct → List Direct) (m : Main) : Fills m (withDirect l f m) := Within.ctx m _

/-- A counter of the protocol engine (R154). -/
theorem fills_peCount {k : Nat} (m : Main) (n : Nat) (hk : k < 16 := by decide) : Fills m (m.count F.PE_CNT k n) := Within.count m F.PE_CNT n hk

theorem fills_showJoins (m : Main) : Fills m (showJoins m) := Within.put m F.TLP_PE_STATUS_JOIN_QUEUE _ Nat.one_pos

theorem fills_answered (ls : List Nat) (m : Main) : Fills m (answered ls m) := Within.ctx m _

theorem fills_record (code p0 p1 p2 p3 : Nat) (m : Main) : Fills m (record code p0 p1 p2 p3 m) := (keeps_record ..).within _ _ _

theorem fills_fillAnswer (b : Img) (abs l : Nat) (q : JoinReq) (m : Main) : Fills m (fillAnswer b abs l q m).2 := by
  unfold fillAnswer
  extract_lets drop
  have hdrop (f : JoinReq → Bool) (x : Main) : Fills x (drop f x) := (Within.ctx x _).trans (fills_showJoins _)
  split
  · extract_lets parts key
    split
    · exact Within.refl _ _ _ _
    · exact (((hdrop _ m).trans (fills_answered _ _)).trans (fills_withDirect _ _ _)).trans (fills_peCount (k := 12) _ _)
  · split
    · exact Within.refl _ _ _ _
    · dsimp only
      exact ((hdrop _ m).trans (fills_peCount (k := 13) _ 1)).trans (fills_record _ _ _ _ _ _)
  · extract_lets inBlock ls map
    split
    · exact Within.refl _ _ _ _
    · exact ((hdrop _ m).trans (fills_answered _ _)).trans (fills_peCount (k := 12) _ _)

theorem fills_fillPush (b : Img) (abs l : Nat) (m : Main) : Fills m (fillPush b abs l m).2 := by
  unfold fillPush
  split
  · extract_lets a
    split
    · exact Within.ctx m _
    · split
      · exact Within.ctx m _
      · extract_lets part
        split
        · exact Within.refl _ _ _ _
        · exact (Within.ctx m _).trans (fills_peCount (k := 15) _ _)
  · exact Within.refl _ _ _ _

theorem fills_fillFirstLevel {p : Main} {b : Img} {abs l : Nat} {m : Main} {r : Option TlpFrame × List PendEntry × Main}
    (h : fillFirstLevel p b abs l m = some r) : Fills m r.2.2 := by
  unfold fillFirstLevel at h
  obtain ⟨d, -, hd⟩ := List.exists_of_findSome?_eq_some h
  split at hd
  · split at hd
    · cases hd
      exact (fills_withDirect _ _ _).trans (fills_fillLevel ..)
    · cases hd
  · cases hd

theorem fills_fillDirect (p : Main) (b : Img) (abs l w : Nat) (m : Main) : Fills m (fillDirect p b abs l w m).2.2 := by
  unfold fillDirect
  extract_lets plain beacon
  split
  · exact fills_withDirect _ _ _
  · split
    · exact fills_fillAnswer ..
    · cases h : fillFirstLevel p b abs l m with
      | none => exact fills_fillPush ..
      | some r => exact fills_fillFirstLevel h

theorem fills_fillImage (b : Img) (abs l w : Nat) (m : Main) : Fills m (fillImage b abs l w m).2 := by
  unfold fillImage
  extract_lets c
  split
  · exact Within.refl _ _ _ _
  · extract_lets segs
    split
    · exact Within.refl _ _ _ _
    · split
      · exact Within.refl _ _ _ _
      · exact Within.upd m _

/-! ### A cell fetched -/

/-- A frame that is built is kept for its twin and for the digest. -/
def keepBuilt (abs l : Nat) (f : Option TlpFrame) (m : Main) : Main :=
  { m with ylm := { m.ylm with built := (m.ylm.built.filter fun x => !(x.1 == abs && x.2.1 == l)) ++ [(abs, l, f)] } }

/-- What a fetch leaves alone of the executor. -/
structure Fetches (m m' : Main) : Prop where
  within : Within [] [6, 8, 9] [.ylm, .ctx, .wav, .upd] m m'
  cells : m'.ylm.cells = m.ylm.cells
  slot : m'.ylm.slot = m.ylm.slot
  deferred : m'.ylm.deferred = m.ylm.deferred

theorem Fetches.refl (m : Main) : Fetches m m := ⟨Within.refl _ _ _ _, rfl, rfl, rfl⟩

theorem Fetches.trans {m m' m'' : Main} (h : Fetches m m') (g : Fetches m' m'') : Fetches m m'' :=
  ⟨h.within.trans g.within, g.cells.trans h.cells, g.slot.trans h.slot, g.deferred.trans h.deferred⟩

theorem Fills.fetches {m m' : Main} (h : Fills m m') : Fetches m m' ∧ m'.ylm.next = m.ylm.next := by
  have hylm : m'.ylm = m.ylm := h.same .ylm
  exact ⟨⟨h.mono, by rw [hylm], by rw [hylm], by rw [hylm]⟩, by rw [hylm]⟩

theorem fetches_keepBuilt (abs l : Nat) (f : Option TlpFrame) (m : Main) : Fetches m (keepBuilt abs l f m) := ⟨Within.ylm m _, rfl, rfl, rfl⟩

theorem fetches_fillCell (p : Main) (b : Img) (abs l w : Nat) (m : Main) :
    Fetches m (fillCell p b abs l w m).2.2 ∧ (fillCell p b abs l w m).2.2.ylm.next = m.ylm.next := by
  have kept {x : Main} (h : Fills m x) (f : Option TlpFrame) : Fetches m (keepBuilt abs l f x) ∧ (keepBuilt abs l f x).ylm.next = m.ylm.next :=
    ⟨h.fetches.1.trans (fetches_keepBuilt abs l f x), h.fetches.2⟩
  unfold fillCell
  extract_lets keep sheaf m1 direct beacon image
  split
  · exact kept (fills_fillSheaf ..) _
  · have h1 : Fills m m1 := Within.ite _ (fills_fillContinuation ..) (Within.refl _ _ _ _)
    exact h1.fetches
  · exact kept (fills_fillDirect ..) _
  · exact kept (Within.refl _ _ _ _) _
  · exact kept (fills_fillImage ..) _
  · exact ⟨Fetches.refl m, rfl⟩

/-- The lane's cell to come. -/
def putNext (l : Nat) (c : Option Cell) (m : Main) : Main := { m with ylm := { m.ylm with next := vmod m.ylm.next l fun _ => c } }

theorem fetches_putNext (l : Nat) (c : Option Cell) (m : Main) : Fetches m (putNext l c m) := ⟨Within.ylm m _, rfl, rfl, rfl⟩

theorem putNext_same {l : Nat} (hl : l < 8) (c : Option Cell) (m : Main) : vget (putNext l c m).ylm.next l none = c := vget_vmod_same _ _ _ hl

theorem putNext_ne {l i : Nat} (h : i ≠ l) (c : Option Cell) (m : Main) : vget (putNext l c m).ylm.next i none = vget m.ylm.next i none :=
  vget_vmod_ne _ _ _ h.symm

/-- What a fetch makes of a lane's cell to come. -/
def fetched (m : Main) (b : Img) (abs l : Nat) (k : Option Cell) : Prop :=
  let w := wordAt b abs l
  if CellW.action w = 10 then k = none
  else if isTx w = false then k = some ⟨w, abs, false, none, [], false, false⟩
  else if m.exec = Ex.running then ∃ f es, k = some ⟨w, abs, CellW.seat w != m.get F.RED_STATUS_SEAT, f, es, false, false⟩
  else if CellW.seat w = m.get F.RED_STATUS_SEAT then k = none
  else k = some ⟨w, abs, true, none, [], false, false⟩

/-- A fetch of one lane changes that lane's cell to come alone. -/
theorem fetchCell_lane (p : Main) (b : Img) (abs : Nat) {l : Nat} (hl : l < 8) (m : Main) :
    Fetches m (fetchCell p b abs m l) ∧ (∀ i, i ≠ l → vget (fetchCell p b abs m l).ylm.next i none = vget m.ylm.next i none) ∧
      fetched m b abs l (vget (fetchCell p b abs m l).ylm.next l none) := by
  have put (k : Option Cell) (hk : fetched m b abs l k) {x : Main} (hx : Fetches m x ∧ x.ylm.next = m.ylm.next) :
      Fetches m (putNext l k x) ∧ (∀ i, i ≠ l → vget (putNext l k x).ylm.next i none = vget m.ylm.next i none) ∧
        fetched m b abs l (vget (putNext l k x).ylm.next l none) := by
    refine ⟨hx.1.trans (fetches_putNext l k x), fun i hi => by rw [putNext_ne hi, hx.2], ?_⟩
    rw [putNext_same hl]
    exact hk
  have here : Fetches m m ∧ m.ylm.next = m.ylm.next := ⟨Fetches.refl m, rfl⟩
  unfold fetchCell
  extract_lets w putc cell shadow r
  by_cases h10 : CellW.action w = 10
  · rw [if_pos h10]
    exact put none ((if_pos h10).mpr rfl) here
  rw [if_neg h10]
  by_cases htx : isTx w = false
  · rw [if_pos (by simp [htx])]
    exact put _ ((if_neg h10).mpr ((if_pos htx).mpr rfl)) here
  rw [if_neg (by simp [htx])]
  have hready {k : Option Cell} (h : if m.exec = Ex.running then ∃ f es, k = some ⟨w, abs, shadow, f, es, false, false⟩
      else if CellW.seat w = m.get F.RED_STATUS_SEAT then k = none else k = some ⟨w, abs, true, none, [], false, false⟩) :
      fetched m b abs l k := (if_neg h10).mpr ((if_neg htx).mpr h)
  by_cases hrun : m.exec = Ex.running
  · rw [if_pos hrun]
    split
    · exact put _ (hready ((if_pos hrun).mpr ⟨_, _, rfl⟩)) (fetches_fillCell p b abs l w m)
    · exact put _ (hready ((if_pos hrun).mpr ⟨_, _, rfl⟩)) here
  · rw [if_neg hrun]
    refine put _ (hready ((if_neg hrun).mpr ?_)) here
    by_cases hown : CellW.seat w = m.get F.RED_STATUS_SEAT
    · rw [if_pos hown, if_neg (by simpa [shadow, ownSeat] using hown)]
    · rw [if_neg hown, if_pos (by simpa [shadow, ownSeat] using hown)]

/-! ### The fetch of a slot -/

/-- What the fetch of the other lanes leaves of lane `l`. -/
def FetchSame (l : Nat) (m m' : Main) : Prop := Fetches m m' ∧ vget m'.ylm.next l none = vget m.ylm.next l none

theorem Fetches.fetched {m m' : Main} (h : Fetches m m') (b : Img) (abs l : Nat) (k : Option Cell) : fetched m' b abs l k ↔ fetched m b abs l k := by
  have hexec : m'.exec = m.exec := h.within.get F.YLM_STATUS_EXEC_STATE Nat.one_pos
  unfold Machine.fetched
  rw [hexec, h.within.get F.RED_STATUS_SEAT Nat.one_pos]

/-- A slot is fetched lane by lane. -/
theorem foldl_fetchCell (p : Main) (b : Img) (abs : Nat) (m : Main) :
    Fetches m ((List.range 8).foldl (fetchCell p b abs) m) ∧
      ∀ l, l < 8 → fetched m b abs l (vget ((List.range 8).foldl (fetchCell p b abs) m).ylm.next l none) := by
  have step (l : Nat) (hl : l < 8) (x : Main) := fetchCell_lane p b abs hl x
  have visit (l : Nat) (hl : l < 8) := foldl_visit (S := FetchSame l) (fun x => ⟨Fetches.refl x, rfl⟩)
    (fun h g => ⟨h.1.trans g.1, g.2.trans h.2⟩) (fetchCell p b abs) List.nodup_range (List.mem_range.2 hl)
    (fun i hi hne x => ⟨(step i (List.mem_range.1 hi) x).1, (step i (List.mem_range.1 hi) x).2.1 l hne.symm⟩) m
  refine ⟨?_, fun l hl => ?_⟩
  · obtain ⟨m1, h1, h2⟩ := visit 0 (by decide)
    exact (h1.1.trans (step 0 (by decide) m1).1).trans h2.1
  · obtain ⟨m1, h1, h2⟩ := visit l hl
    rw [h2.2]
    exact (h1.1.fetched b abs l _).1 (step l hl m1).2.2

/-- No cell is to come. -/
def noCells (deferred : Bool) (m : Main) : Main := { m with ylm := { m.ylm with next := Vector.replicate 8 none, deferred := deferred } }

theorem fetchSlot_idle {m : Main} (h : runImg m = none ∨ cellsRun m = false) (abs : Nat) : fetchSlot abs m = noCells false m := by
  unfold fetchSlot
  split
  · next b hb =>
    exact if_neg (ne_true_of_eq_false (h.resolve_left (by rw [hb]; exact Option.some_ne_none b)))
  · rfl

/-- The fetch that was deferred to a boundary is made. -/
def undeferred (m : Main) : Main := { m with ylm := { m.ylm with deferred := false } }

theorem fetchSlot_runs {m : Main} {b : Img} (hb : runImg m = some b) (hr : cellsRun m = true) (abs : Nat) :
    fetchSlot abs m = (List.range 8).foldl (fetchCell (preview abs m) b abs) (undeferred m) := by
  unfold fetchSlot
  rw [hb]
  exact if_pos hr

theorem next_noCells (d : Bool) (m : Main) (l : Fin 8) : (noCells d m).ylm.next[l] = none := by
  unfold noCells
  simp

/-- Settles O4: with no plan running no lane has a cell to come; else the fold over the lanes fetches each. -/
theorem fetchReadsTheNextSlot : Obligations.FetchReadsTheNextSlot := by
  unfold Obligations.FetchReadsTheNextSlot
  intro s abs
  refine ⟨fun h => ?_, fun b hb hr hdue => ?_⟩
  · have hidle (d : Bool) : (∀ l : Fin 8, (noCells d s.main).ylm.next[l] = none) ∧ Reports (fun _ => False) [.ylm] s.main (noCells d s.main) :=
      ⟨next_noCells d s.main, (Frame.ylm _ _ _ (List.mem_singleton_self _)).reports⟩
    refine answersMain_of (f := slotFetch) rfl ?_
    unfold slotFetch
    extract_lets n
    split
    · exact hidle true
    · rw [fetchSlot_idle h]
      exact hidle false
  · refine answersMain_of (f := slotFetch) rfl ?_
    have hfetch : slotFetch s.main = (List.range 8).foldl (fetchCell (preview abs s.main) b abs) (undeferred s.main) := by
      rw [← fetchSlot_runs hb hr]
      exact if_neg fun h => by
        obtain ⟨h1, h2⟩ := hdue h.1
        rcases h.2 with h' | h'
        · exact Bool.false_ne_true (h1.symm.trans h')
        · exact Bool.false_ne_true (h2.symm.trans h')
    obtain ⟨hfetches, hcells⟩ := foldl_fetchCell (preview abs s.main) b abs (undeferred s.main)
    rw [hfetch]
    refine ⟨fun l => ?_, hfetches.cells, hfetches.slot, hfetches.deferred, ?_⟩
    · have h := hcells l l.isLt
      rw [vget_fin] at h
      exact h
    · have hstart : Within [] [6, 8, 9] [.ylm, .ctx, .wav, .upd] s.main (undeferred s.main) := Within.ylm s.main _
      refine (hstart.trans hfetches.within).report fun a ha => ?_
      simpa [inRegs, inBlock] using ha

end Sys2Proof.Machine
end

section
/-!
SUPPORT. The states of the lanes, and what sends and listens on them (R97–R105).
-/
namespace Sys2Proof.Machine

/-! ### A lane's status register -/

/-- The two fields of a lane's status register that hold the same of a radio lane and of a power-line lane. -/
theorem laneState_putPair {f g : Field} (hf : f = F.TLR_LANE_STATUS_STATE ∧ g = F.TLP_LANE_STATUS_STATE ∨
    f = F.TLR_LANE_STATUS_CHAN_NOW ∧ g = F.TLP_LANE_STATUS_CHAN_NOW) (m : Main) (v : Nat) {l k : Nat} (hl : l < 8) (hk : k < 8) (h : k ≠ l) :
    laneState (if l < 4 then m.put f v l else m.put g v (l - 4)) k = laneState m k := by
  have hrow : f.base = 0x050100 ∧ f.stride = 64 ∧ g.base = 0x060100 ∧ g.stride = 64 := by
    rcases hf with ⟨rfl, rfl⟩ | ⟨rfl, rfl⟩ <;> decide
  obtain ⟨hfb, hfs, hgb, hgs⟩ := hrow
  unfold laneState
  by_cases hlow : l < 4
  · rw [if_pos hlow]
    split
    · refine Main.get_put_addr _ _ _ _ _ _ ?_
      unfold Field.addr; rw [hfb, hfs]; simp only [F.TLR_LANE_STATUS_STATE]; omega
    · refine Main.get_put_addr _ _ _ _ _ _ ?_
      unfold Field.addr; rw [hfb, hfs]; simp only [F.TLP_LANE_STATUS_STATE]; omega
  · rw [if_neg hlow]
    split
    · refine Main.get_put_addr _ _ _ _ _ _ ?_
      unfold Field.addr; rw [hgb, hgs]; simp only [F.TLR_LANE_STATUS_STATE]; omega
    · refine Main.get_put_addr _ _ _ _ _ _ ?_
      unfold Field.addr; rw [hgb, hgs]; simp only [F.TLP_LANE_STATUS_STATE]; omega

theorem laneState_setLane_ne (m : Main) (st : Nat) {l k : Nat} (hl : l < 8) (hk : k < 8) (h : k ≠ l) :
    laneState (setLane l st m) k = laneState m k := laneState_putPair (Or.inl ⟨rfl, rfl⟩) m st hl hk h

theorem laneState_setLane_same (m : Main) (l : Nat) {st : Nat} (h : st < 16) : laneState (setLane l st m) l = st := by
  unfold laneState setLane
  split
  · rw [Main.get_put_same _ _ _ _ (by decide)]
    exact Nat.mod_eq_of_lt h
  · rw [Main.get_put_same _ _ _ _ (by decide)]
    exact Nat.mod_eq_of_lt h

theorem laneState_setChan (m : Main) (c : Nat) {l k : Nat} (hl : l < 8) (hk : k < 8) : laneState (setChan l c m) k = laneState m k := by
  by_cases h : k = l
  · subst h
    unfold laneState setChan
    split
    · exact Main.get_put_bits _ _ _ _ _ _ (by decide) (by decide)
    · exact Main.get_put_bits _ _ _ _ _ _ (by decide) (by decide)
  · exact laneState_putPair (Or.inr ⟨rfl, rfl⟩) m c hl hk h

/-- A frame that writes no status register of a lane leaves the states of the lanes. -/
theorem Within.laneState {ws bs : List Nat} {ps : List Part} {m m' : Main} (h : Within ws bs ps m m') {k : Nat} (hk : k < 8)
    (hr : F.TLR_LANE_STATUS_STATE.still 4 ws bs = true := by decide) (hp : F.TLP_LANE_STATUS_STATE.still 4 ws bs = true := by decide) :
    laneState m' k = laneState m k := by
  unfold Machine.laneState
  split
  · next hlow => exact h.get _ hlow hr
  · exact h.get _ (by omega) hp

/-- Registers of a lane beside its status register. -/
theorem laneState_put_other (m : Main) {f : Field} (v i : Nat) {k : Nat} (hk : k < 8)
    (h : ∀ j, j < 4 → f.addr i ≠ 0x050100 + 64 * j ∧ f.addr i ≠ 0x060100 + 64 * j) : laneState (m.put f v i) k = laneState m k := by
  unfold laneState
  split
  · next hlow => exact Main.get_put_addr _ _ _ _ _ _ (h k hlow).1
  · exact Main.get_put_addr _ _ _ _ _ _ (h (k - 4) (by omega)).2

/-! ### What a cell that begins may change -/

/-- The frame of CELL_START. -/
abbrev CellFrame : Main → Main → Prop := Within [0x010040] [4, 5, 6, 8] [.ylm, .lanes, .ctx, .wav]

/-- Lane `k` gives way to lane `l` (R97). -/
def givesWay (l k : Nat) (m m' : Main) : Prop := l < k ∧ k < 4 ∧ laneState m k = 3 ∧ laneState m' k = 1

/-- A step of lane `l` moves no other lane, but that a higher radio lane on the air may give way; the cells stay as they are. -/
structure Begins (l : Nat) (m m' : Main) : Prop where
  within : CellFrame m m'
  ylm : m'.ylm = m.ylm
  others : ∀ k, k < 8 → k ≠ l → laneState m' k = laneState m k ∨ givesWay l k m m'

/-- A step that moves no lane and counts no TX_CELLS. -/
structure Stays (m m' : Main) : Prop where
  within : CellFrame m m'
  ylm : m'.ylm = m.ylm
  state : ∀ k, k < 8 → laneState m' k = laneState m k
  sent : ∀ k, k < 8 → m'.get F.YLM_TX_CELLS k = m.get F.YLM_TX_CELLS k

section
variable {l : Nat} {m m' m'' : Main}

theorem Begins.trans (h : Begins l m m') (g : Begins l m' m'') : Begins l m m'' := by
  refine ⟨h.within.trans g.within, g.ylm.trans h.ylm, fun k hk hne => ?_⟩
  rcases g.others k hk hne with e | ⟨h1, h2, h3, h4⟩
  · rcases h.others k hk hne with e' | ⟨h1, h2, h3, h4⟩
    · exact Or.inl (e.trans e')
    · exact Or.inr ⟨h1, h2, h3, e.trans h4⟩
  · rcases h.others k hk hne with e' | ⟨-, -, -, h5⟩
    · exact Or.inr ⟨h1, h2, e'.symm.trans h3, h4⟩
    · exact absurd (h5.symm.trans h3) (by decide)

theorem Stays.refl (m : Main) : Stays m m := ⟨Within.refl _ _ _ _, rfl, fun _ _ => rfl, fun _ _ => rfl⟩

theorem Stays.trans (h : Stays m m') (g : Stays m' m'') : Stays m m'' :=
  ⟨h.within.trans g.within, g.ylm.trans h.ylm, fun k hk => (g.state k hk).trans (h.state k hk), fun k hk => (g.sent k hk).trans (h.sent k hk)⟩

theorem Stays.begins (h : Stays m m') (l : Nat) : Begins l m m' := ⟨h.within, h.ylm, fun k hk _ => Or.inl (h.state k hk)⟩

theorem Stays.ite {c : Prop} [Decidable c] {a b : Main} (h : Stays m a) (g : Stays m b) : Stays m (if c then a else b) := by
  split
  · exact h
  · exact g

/-- A change of contexts, waves and lane records. -/
theorem Within.stays (h : Within [] [8] [.lanes, .ctx, .wav] m m') : Stays m m' :=
  ⟨h.mono, h.same .ylm, fun _ hk => h.laneState hk, fun _ hk => h.get F.YLM_TX_CELLS hk⟩

theorem Keeps.stays (h : Keeps m m') : Stays m m' := Within.stays (h.within _ _ _)

theorem stays_withLane (l : Nat) (f : Lane → Lane) (m : Main) : Stays m (withLane l f m) := Within.stays (Within.withLane l f m)

theorem stays_emit (m : Main) (o : Output) : Stays m (m.emit o) := (keeps_emit m o).stays

theorem stays_cellTrace (l action : Nat) (c : Cell) (spar : Nat) (m : Main) : Stays m (cellTrace l action c spar m) := (keeps_sky ..).stays

theorem stays_setChan {l : Nat} (hl : l < 8) (c : Nat) (m : Main) : Stays m (setChan l c m) := by
  refine ⟨?_, ?_, fun k hk => laneState_setChan m c hl hk, fun k hk => ?_⟩
  · unfold setChan
    split
    · next h => exact Within.put m F.TLR_LANE_STATUS_CHAN_NOW c h
    · exact Within.put m F.TLP_LANE_STATUS_CHAN_NOW c (by omega : l - 4 < 4)
  · unfold setChan
    split
    · exact Main.put_ylm ..
    · exact Main.put_ylm ..
  · unfold setChan
    split
    · refine Main.get_put_addr _ _ _ _ _ _ ?_
      unfold Field.addr; simp only [F.TLR_LANE_STATUS_CHAN_NOW, F.YLM_TX_CELLS]; omega
    · refine Main.get_put_addr _ _ _ _ _ _ ?_
      unfold Field.addr; simp only [F.TLP_LANE_STATUS_CHAN_NOW, F.YLM_TX_CELLS]; omega

theorem begins_setLane {l : Nat} (hl : l < 8) (st : Nat) (m : Main) : Begins l m (setLane l st m) := by
  refine ⟨?_, ?_, fun k hk hne => Or.inl (laneState_setLane_ne m st hl hk hne)⟩
  · unfold setLane
    split
    · next h => exact Within.put m F.TLR_LANE_STATUS_STATE st h
    · exact Within.put m F.TLP_LANE_STATUS_STATE st (by omega : l - 4 < 4)
  · unfold setLane
    split
    · exact Main.put_ylm ..
    · exact Main.put_ylm ..

theorem sent_setLane {l k : Nat} (st : Nat) (m : Main) (hl : l < 8) (hk : k < 8) :
    (setLane l st m).get F.YLM_TX_CELLS k = m.get F.YLM_TX_CELLS k := by
  unfold setLane
  split
  · refine Main.get_put_addr _ _ _ _ _ _ ?_
    unfold Field.addr; simp only [F.TLR_LANE_STATUS_STATE, F.YLM_TX_CELLS]; omega
  · refine Main.get_put_addr _ _ _ _ _ _ ?_
    unfold Field.addr; simp only [F.TLP_LANE_STATUS_STATE, F.YLM_TX_CELLS]; omega

end

end Sys2Proof.Machine
end

section
namespace Sys2Proof.Machine

/-! ### A lane that transmits, listens or stays idle -/

section
variable {l : Nat}

theorem stays_ylmUnused (hl : l < 8) (m : Main) : Stays m (ylmUnused l m) := by
  refine ⟨Within.count m F.YLM_UNUSED 1 hl, Main.count_ylm .., fun k hk => laneState_put_other m _ _ hk fun j hj => ?_, fun k hk => ?_⟩
  · unfold Field.addr; simp only [F.YLM_UNUSED]; omega
  · refine Main.get_put_addr _ _ _ _ _ _ ?_
    unfold Field.addr; simp only [F.YLM_UNUSED, F.YLM_TX_CELLS]; omega

theorem stays_countCollision {k : Nat} (hk : k < 4) (m : Main) : Stays m (m.count F.TLR_COLLISIONS k) := by
  refine ⟨Within.count m F.TLR_COLLISIONS 1 hk, Main.count_ylm .., fun i hi => laneState_put_other m _ _ hi fun j hj => ?_, fun i hi => ?_⟩
  · unfold Field.addr; simp only [F.TLR_COLLISIONS]; omega
  · refine Main.get_put_addr _ _ _ _ _ _ ?_
    unfold Field.addr; simp only [F.TLR_COLLISIONS, F.YLM_TX_CELLS]; omega

theorem stays_faultSkipped (hl : l < 8) (m : Main) : Stays m (faultSkipped l m) := by
  unfold faultSkipped
  split
  · next h =>
    refine ⟨Within.count m F.TLR_FAULT_SKIPPED 1 h, Main.count_ylm .., fun i hi => laneState_put_other m _ _ hi fun j hj => ?_, fun i hi => ?_⟩
    · unfold Field.addr; simp only [F.TLR_FAULT_SKIPPED]; omega
    · refine Main.get_put_addr _ _ _ _ _ _ ?_
      unfold Field.addr; simp only [F.TLR_FAULT_SKIPPED, F.YLM_TX_CELLS]; omega
  · refine ⟨Within.count m F.TLP_FAULT_SKIPPED 1 (by omega : l - 4 < 4), Main.count_ylm .., fun i hi => laneState_put_other m _ _ hi fun j hj => ?_,
      fun i hi => ?_⟩
    · unfold Field.addr; simp only [F.TLP_FAULT_SKIPPED]; omega
    · refine Main.get_put_addr _ _ _ _ _ _ ?_
      unfold Field.addr; simp only [F.TLP_FAULT_SKIPPED, F.YLM_TX_CELLS]; omega

theorem stays_holdSkipped (m : Main) : Stays m (m.count F.HOLD_SKIPPED) := by
  refine ⟨Within.count m F.HOLD_SKIPPED 1 Nat.one_pos, Main.count_ylm .., fun i hi => laneState_put_other m _ _ hi fun j hj => ?_, fun i hi => ?_⟩
  · unfold Field.addr; simp only [F.HOLD_SKIPPED]; omega
  · refine Main.get_put_addr _ _ _ _ _ _ ?_
    unfold Field.addr; simp only [F.HOLD_SKIPPED, F.YLM_TX_CELLS]; omega

/-- The lane goes to state `st` and on to other things that move no lane. -/
structure Goes (l st : Nat) (m m' : Main) : Prop where
  begins : Begins l m m'
  state : laneState m' l = st
  sent : m'.get F.YLM_TX_CELLS l = m.get F.YLM_TX_CELLS l

theorem goes_setLane (hl : l < 8) {st : Nat} (hst : st < 16) (m : Main) : Goes l st m (setLane l st m) :=
  ⟨begins_setLane hl st m, laneState_setLane_same m l hst, sent_setLane st m hl hl⟩

theorem Goes.stays {st : Nat} {m m' m'' : Main} (h : Goes l st m m') (hl : l < 8) (g : Stays m' m'') : Goes l st m m'' :=
  ⟨h.begins.trans (g.begins l), (g.state l hl).trans h.state, (g.sent l hl).trans h.sent⟩

theorem Stays.goes {st : Nat} {m m' m'' : Main} (h : Stays m m') (hl : l < 8) (g : Goes l st m' m'') : Goes l st m m'' :=
  ⟨(h.begins l).trans g.begins, g.state, g.sent.trans (h.sent l hl)⟩

theorem goes_emptyCell (hl : l < 8) (c : Cell) {m : Main} (h : lanesOn m = true) : Goes l 1 m (emptyCell l c m) := by
  unfold emptyCell
  rw [if_pos h]
  exact ((goes_setLane hl (by decide) m).stays hl (stays_setChan hl _ _)).stays hl (stays_cellTrace ..)

theorem begins_emptyCell (hl : l < 8) (c : Cell) (m : Main) : Begins l m (emptyCell l c m) := by
  by_cases h : lanesOn m = true
  · exact (goes_emptyCell hl c h).begins
  · unfold emptyCell
    rw [if_neg h]
    exact (stays_cellTrace ..).begins l

/-- One lane gives way, where it is on the air under a lane that begins (R97). -/
def yieldStep (b : Img) (l : Nat) (c : Cell) (m : Main) (k : Nat) : Main :=
  match if l < k then txCell m k else none with
  | some d => if laneState m k = 3 ∧ cellsOverlap b l c.start c.word k d.start d.word then setLane k 1 (m.count F.TLR_COLLISIONS k) else m
  | none => m

theorem yieldTo_eq (b : Img) (l : Nat) (c : Cell) (m : Main) :
    yieldTo b l c m = if 4 ≤ l then m else (List.range 4).foldl (yieldStep b l c) m := rfl

theorem yieldStep_begins (b : Img) (hl : l < 8) (c : Cell) {k : Nat} (hk : k < 4) (m : Main) :
    Begins l m (yieldStep b l c m k) ∧ (yieldStep b l c m k).get F.YLM_TX_CELLS l = m.get F.YLM_TX_CELLS l := by
  have stay : Begins l m m ∧ m.get F.YLM_TX_CELLS l = m.get F.YLM_TX_CELLS l := ⟨(Stays.refl m).begins l, rfl⟩
  unfold yieldStep
  split
  · next d hd =>
    split
    · next hc =>
      have hlk : l < k := by
        by_contra hn
        rw [if_neg hn] at hd
        cases hd
      have hcount := stays_countCollision hk m
      have hset := goes_setLane (l := k) (by omega) (by decide : 1 < 16) (m.count F.TLR_COLLISIONS k)
      refine ⟨⟨hcount.within.trans hset.begins.within, hset.begins.ylm.trans hcount.ylm, fun i hi hne => ?_⟩,
        (sent_setLane 1 _ (by omega) hl).trans (hcount.sent l hl)⟩
      by_cases hik : i = k
      · subst hik
        exact Or.inr ⟨hlk, hk, hc.1, hset.state⟩
      · exact Or.inl ((laneState_setLane_ne _ 1 (by omega) hi hik).trans (hcount.state i hi))
    · exact stay
  · exact stay

theorem foldl_relates {α : Type} {R : Main → Main → Prop} (refl : ∀ m, R m m) (trans : ∀ {a b c}, R a b → R b c → R a c)
    (f : Main → α → Main) (t : List α) (h : ∀ x ∈ t, ∀ m, R m (f m x)) (m : Main) : R m (t.foldl f m) := by
  induction t generalizing m with
  | nil => exact refl m
  | cons x t ih => exact trans (h x (List.mem_cons_self ..) m) (ih (fun y hy => h y (List.mem_cons_of_mem _ hy)) _)

theorem yieldTo_begins (b : Img) (hl : l < 8) (c : Cell) (m : Main) :
    Begins l m (yieldTo b l c m) ∧ (yieldTo b l c m).get F.YLM_TX_CELLS l = m.get F.YLM_TX_CELLS l := by
  rw [yieldTo_eq]
  split
  · exact ⟨(Stays.refl m).begins l, rfl⟩
  · exact foldl_relates (R := fun a z => Begins l a z ∧ z.get F.YLM_TX_CELLS l = a.get F.YLM_TX_CELLS l)
      (fun a => ⟨(Stays.refl a).begins l, rfl⟩) (fun h g => ⟨h.1.trans g.1, g.2.trans h.2⟩) _ _
      (fun k hk x => yieldStep_begins b hl c (List.mem_range.1 hk) x) m

/-- What a beacon shows of itself as it goes out (R129). -/
def showBeacon (f : TlpFrame) (m : Main) : Main :=
  let m : Main := { m with ctx := { m.ctx with beaconed := true } }
  (m.put F.TLP_PE_STATUS_QUIET_NOW (lle f.body 6 1)).putBit F.TLP_PE_STATUS_REJOIN_NOW (bitOf (lle f.body 7 1) 0)

theorem stays_putStatus {f : Field} (hf : f.base = 0x061008 ∧ f.stride = 0 ∧ f.fits 1 = true) (v : Nat) (m : Main) : Stays m (m.put f v) := by
  obtain ⟨hb, hs, hfits⟩ := hf
  refine ⟨Within.put m f v Nat.one_pos hfits (Or.inr (by rw [hb]; decide)), Main.put_ylm .., fun i hi => laneState_put_other m _ _ hi fun j hj => ?_,
    fun i hi => ?_⟩
  · unfold Field.addr; rw [hb, hs]; omega
  · refine Main.get_put_addr _ _ _ _ _ _ ?_
    unfold Field.addr; rw [hb, hs]; simp only [F.YLM_TX_CELLS]; omega

theorem stays_showBeacon (f : TlpFrame) (m : Main) : Stays m (showBeacon f m) := by
  have h : Stays m { m with ctx := { m.ctx with beaconed := true } } := Within.stays (Within.ctx m _)
  exact (h.trans (stays_putStatus (by decide) _ _)).trans (stays_putStatus (by decide) _ _)

/-- The antenna of a frame is shown. -/
theorem stays_putAntenna (hl : l < 4) (v : Nat) (m : Main) : Stays m (m.put F.TLR_LANE_STATUS_ANT_TX v l) := by
  refine ⟨Within.put m F.TLR_LANE_STATUS_ANT_TX v hl, Main.put_ylm .., fun k hk => ?_, fun k hk => ?_⟩
  · unfold laneState
    split
    · by_cases h : k = l
      · subst h
        exact Main.get_put_bits _ _ _ _ _ _ (by decide) (by decide)
      · refine Main.get_put_addr _ _ _ _ _ _ ?_
        unfold Field.addr; simp only [F.TLR_LANE_STATUS_ANT_TX, F.TLR_LANE_STATUS_STATE]; omega
    · refine Main.get_put_addr _ _ _ _ _ _ ?_
      unfold Field.addr; simp only [F.TLR_LANE_STATUS_ANT_TX, F.TLP_LANE_STATUS_STATE]; omega
  · refine Main.get_put_addr _ _ _ _ _ _ ?_
    unfold Field.addr; simp only [F.TLR_LANE_STATUS_ANT_TX, F.YLM_TX_CELLS]; omega

/-- The count of TX_CELLS. -/
theorem count_sent (hl : l < 8) (m : Main) : Begins l m (m.count F.YLM_TX_CELLS l) ∧
    laneState (m.count F.YLM_TX_CELLS l) l = laneState m l ∧
    (m.count F.YLM_TX_CELLS l).get F.YLM_TX_CELLS l = (m.get F.YLM_TX_CELLS l + 1) % 2 ^ 32 := by
  have hstate (k : Nat) (hk : k < 8) : laneState (m.count F.YLM_TX_CELLS l) k = laneState m k := by
    refine laneState_put_other m _ _ hk fun j hj => ?_
    unfold Field.addr; simp only [F.YLM_TX_CELLS]; omega
  exact ⟨⟨Within.count m F.YLM_TX_CELLS 1 hl, Main.count_ylm .., fun k hk _ => Or.inl (hstate k hk)⟩, hstate l hl,
    Main.get_put_same _ _ _ _ (by decide)⟩

/-- A frame goes out: the lane transmits, the cell is counted, and the frame's octets are on the air (R30). -/
structure Sends (l : Nat) (o : Output) (m m' : Main) : Prop where
  begins : Begins l m m'
  state : laneState m' l = 3
  sent : m'.get F.YLM_TX_CELLS l = (m.get F.YLM_TX_CELLS l + 1) % 2 ^ 32
  out : o ∈ m'.out

theorem Sends.stays {o : Output} {m m' m'' : Main} (h : Sends l o m m') (hl : l < 8) (g : Stays m' m'') : Sends l o m m'' :=
  ⟨h.begins.trans (g.begins l), (g.state l hl).trans h.state, (g.sent l hl).trans h.sent, g.within.mem h.out⟩

theorem Stays.sends {o : Output} {m m' m'' : Main} (h : Stays m m') (hl : l < 8) (g : Sends l o m' m'') : Sends l o m m'' :=
  ⟨(h.begins l).trans g.begins, g.state, by rw [g.sent, h.sent l hl], g.out⟩

theorem putOnAir_sends (b : Img) (hl : l < 8) (c : Cell) (f : TlpFrame) (plan : Nat × Int × Bool) (m : Main) :
    Sends l (.laneTx l c.start (CellW.chan c.word) ({ f with copy := CellW.seat c.word } : TlpFrame).octets) m (putOnAir b l c f plan m) := by
  unfold putOnAir
  extract_lets e g air m1 m2 m3 m4 m5 ctx beacon m6 m7
  obtain ⟨hyield, hsent⟩ := yieldTo_begins b hl c m
  have h1 : Stays (yieldTo b l c m) m1 := stays_withLane _ _ _
  have hgo : Goes l 3 m1 (setChan l (CellW.chan c.word) (setLane l 3 m1)) := (goes_setLane hl (by decide) m1).stays hl (stays_setChan hl _ _)
  obtain ⟨hcount, hstate, hcounted⟩ := count_sent hl (setChan l (CellW.chan c.word) (setLane l 3 m1))
  have h3 : Stays m2 m3 := by
    show Stays m2 (if l < 4 then _ else m2)
    split
    · next h => exact stays_putAntenna h _ _
    · exact Stays.refl _
  have h4 : Stays m3 m4 := stays_emit _ _
  have h5 : Stays m4 m5 := Stays.ite (stays_emit _ _) (Stays.refl _)
  have h6 : Stays m5 (if g.typ = 0 then showBeacon g m5 else m5) := Stays.ite (stays_showBeacon g m5) (Stays.refl _)
  have h7 : Stays m6 m7 := (keeps_fireIf _ 27 _ (by decide)).stays
  have h8 := (h5.trans (h6.trans h7)).trans (stays_cellTrace l (CellW.action c.word) c g.spar m7)
  have hout : Output.laneTx l c.start (CellW.chan c.word) g.octets ∈ m4.out := List.mem_cons_self ..
  have h23 : Stays m2 m4 := h3.trans h4
  have hm4 : Sends l (.laneTx l c.start (CellW.chan c.word) g.octets) m m4 := by
    refine ⟨(((hyield.trans (h1.begins l)).trans hgo.begins).trans hcount).trans (h23.begins l), ?_, ?_, hout⟩
    · exact (h23.state l hl).trans (hstate.trans hgo.state)
    · rw [h23.sent l hl, hcounted, hgo.sent, h1.sent l hl, hsent]
  exact hm4.stays hl h8

end

end Sys2Proof.Machine
end

section
namespace Sys2Proof.Machine

/-! ### What the first transmit cell of a course leaves as it is -/

/-- `m'` is `m` but that lane `l` has seen a transmit cell of its course, and for contexts, waves and their registers. -/
structure FirstTx (l : Nat) (m m' : Main) : Prop where
  within : Within [] [8] [.lanes, .ctx, .wav] m m'
  other : ∀ n, n ≠ l → laneOf m' n = laneOf m n
  own : laneOf m' l = { laneOf m l with txSeen := (laneOf m' l).txSeen }

section
variable {l : Nat} {m m' : Main}

theorem FirstTx.state (h : FirstTx l m m') {n : Nat} (hn : n < 8) : laneState m' n = laneState m n := h.within.laneState hn

theorem FirstTx.ylm (h : FirstTx l m m') : m'.ylm = m.ylm := h.within.same .ylm

theorem FirstTx.fault (h : FirstTx l m m') {n : Nat} (hn : n < 8) (k : Nat) : laneFault m' n k = laneFault m n k := by
  unfold laneFault liveFaults
  split
  · next hlow => rw [h.within.get F.TLR_LANE_STATUS_FAULT_NOW hlow]
  · rw [h.within.get F.TLP_LANE_STATUS_FAULT_NOW (by omega : n - 4 < 4)]

theorem FirstTx.antFault (h : FirstTx l m m') {n : Nat} (hn : n < 8) : antFault m' n = antFault m n := by
  unfold Machine.antFault
  rw [h.fault hn, h.fault hn, h.fault hn]

theorem FirstTx.sentIn (h : FirstTx l m m') (n abs : Nat) : (laneOf m' n).sentIn abs = (laneOf m n).sentIn abs := by
  by_cases hn : n = l
  · subst hn
    rw [h.own]
    rfl
  · rw [h.other n hn]

theorem FirstTx.skip (h : FirstTx l m m') (n : Nat) : (laneOf m' n).skip = (laneOf m n).skip := by
  by_cases hn : n = l
  · subst hn
    rw [h.own]
  · rw [h.other n hn]

theorem FirstTx.muted (h : FirstTx l m m') : m'.bit F.RED_STATUS_MUTED = m.bit F.RED_STATUS_MUTED := h.within.bit _ 0 Nat.one_pos

theorem FirstTx.txCell (h : FirstTx l m m') {n : Nat} (hn : n < 8) : txCell m' n = txCell m n := by
  unfold Machine.txCell willSend Main.slotNow
  rw [h.state hn, h.sentIn, h.ylm, h.skip, h.muted]

/-- The partner lane of a lane that is on the air sends, whether or not it has seen a transmit cell. -/
theorem FirstTx.partnerSends (h : FirstTx l m m') (hair : Machine.txCell m l ≠ none → laneState m l = 3) {b : Img} {n : Nat}
    (hp : partnerLane n < 8) : partnerSends m' b n = partnerSends m b n := by
  unfold Machine.partnerSends
  dsimp only
  rw [h.txCell hp, h.state hp, h.antFault hp]
  by_cases hk : partnerLane n = l
  · rw [hk]
    cases hc : Machine.txCell m l with
    | none => rfl
    | some c =>
      have h3 := hair (by rw [hc]; exact Option.some_ne_none c)
      simp [h3]
  · rw [h.other _ hk]

theorem FirstTx.setPowerOf (h : FirstTx l m m') {n : Nat} (hn : n < 8) (ant power : Nat) : setPowerOf m' n ant power = setPowerOf m n ant power := by
  have hred : (laneOf m' n).reduced = (laneOf m n).reduced := by
    by_cases hk : n = l
    · subst hk
      rw [h.own]
    · rw [h.other n hk]
  unfold Machine.setPowerOf
  rw [hred, h.fault hn]

theorem FirstTx.thermal (h : FirstTx l m m') (n : Nat) : (laneOf m' n).thermal = (laneOf m n).thermal := by
  by_cases hn : n = l
  · subst hn
    rw [h.own]
  · rw [h.other n hn]

theorem partnerLane_lt {n : Nat} (h : n < 4) : partnerLane n < 8 := by
  unfold partnerLane
  split <;> omega

theorem FirstTx.txPlan (h : FirstTx l m m') (hair : Machine.txCell m l ≠ none → laneState m l = 3) {b : Img} (e : Chan) {n : Nat} (hn : n < 8)
    (first : Bool) : txPlan m' b e n first = txPlan m b e n first := by
  unfold Machine.txPlan
  dsimp only
  split
  · next hlow => rw [h.antFault hn, h.setPowerOf hn, h.setPowerOf hn, h.partnerSends hair (partnerLane_lt hlow)]
  · rw [h.thermal, h.fault hn, h.fault hn]

/-- The lanes below one that transmit in the present slot. -/
theorem FirstTx.sending (h : FirstTx l m m') (hair : Machine.txCell m l ≠ none → laneState m l = 3) (b : Img) {n : Nat} (hn : n ≤ l) (hl : l < 8) :
    sending m' b n = sending m b n := by
  induction n with
  | zero => rfl
  | succ n ih =>
    unfold Machine.sending
    dsimp only
    rw [ih (by omega), h.txCell (by omega), h.state (by omega), h.other n (by omega)]
    split
    · rw [h.txPlan hair _ (by omega)]
    · rfl

theorem FirstTx.collides (h : FirstTx l m m') (hair : Machine.txCell m l ≠ none → laneState m l = 3) (b : Img) (hl : l < 8) (c : Cell) (air : Nat) :
    collides m' b l c air = collides m b l c air := by
  unfold Machine.collides ownSeat
  rw [h.sending hair b (Nat.le_refl l) hl, h.within.get F.RED_STATUS_SEAT Nat.one_pos]

theorem Within.lanesOn {ps : List Part} (h : Within [] [8] ps m m') : lanesOn m' = lanesOn m := by
  unfold Machine.lanesOn cellsRun awake Main.exec Main.mode
  rw [h.get F.YLM_STATUS_EXEC_STATE Nat.one_pos, h.bit F.YLM_CTRL_RUN 0 Nat.one_pos, h.get F.PWR_MODE_MODE Nat.one_pos]

end

/-! ### The steps of CELL_START -/

/-- The cell that begins: a SHADOW cell takes the frame that its partner's seat sends (R41). -/
def resolvedCell (b : Img) (l : Nat) (c : Cell) (m : Main) : Cell :=
  if c.shadow && m.exec == Ex.running then { c with frame := (sourceCell b c.start l c.word).bind fun s => frameOf m s l } else c

theorem resolvedCell_word (b : Img) (l : Nat) (c : Cell) (m : Main) :
    (resolvedCell b l c m).word = c.word ∧ (resolvedCell b l c m).start = c.start ∧ (resolvedCell b l c m).shadow = c.shadow := by
  unfold resolvedCell
  split
  · exact ⟨rfl, rfl, rfl⟩
  · exact ⟨rfl, rfl, rfl⟩

theorem resolvedCell_own (b : Img) (l : Nat) {c : Cell} (h : c.shadow = false) (m : Main) : resolvedCell b l c m = c := by
  unfold resolvedCell
  rw [if_neg (by simp [h])]

/-- A cell that the lane could not tune for is idle (R99). -/
def skippedCell (skip : Bool) (c : Cell) : Cell := { c with idle := c.idle || skip }

theorem skippedCell_false (c : Cell) : skippedCell false c = c := by
  unfold skippedCell
  rw [Bool.or_false]

/-- The cell that was to come is in execution. -/
def takeCell (l : Nat) (c : Cell) (m : Main) : Main :=
  { m with ylm := { m.ylm with next := vmod m.ylm.next l fun _ => none, cells := vmod m.ylm.cells l fun _ => some c } }

/-- What the seat-0 cell of a frame sets going. -/
def seat0Begins (l : Nat) (c : Cell) (m : Main) : Main :=
  if isTx c.word && CellW.seat c.word == 0 && m.exec == Ex.running then beginSeat0 l c m else m

/-- The lane has seen a transmit cell of its course. -/
def seeTx (l : Nat) (m : Main) : Main := withLane l (fun g => { g with txSeen := true }) m

/-- What a lane does with a cell that begins; `skip` says that it could not tune for it (R99). -/
def laneBegins (b : Img) (l : Nat) (skip : Bool) (c : Cell) (m : Main) : Main :=
  if isTx c.word && !c.shadow then ownTx b l (!(laneOf m l).txSeen) c (seeTx l m)
  else if !lanesOn m then m
  else if skip then emptyCell l c m
  else if c.shadow then cellTrace l 9 c 0 (setChan l (CellW.chan c.word) (setLane l 5 m))
  else if isRx c.word then
    withLane l (fun g => { g with rxSeen := true }) (cellTrace l (CellW.action c.word) c 0 (setChan l (CellW.chan c.word) (setLane l 4 m)))
  else emptyCell l c m

/-- The lane no longer skips. -/
def unskip (l : Nat) (m : Main) : Main := withLane l (fun g => { g with skip := false }) m

theorem cellStart_runs {l : Nat} {m : Main} {c : Cell} {b : Img} (hn : vget m.ylm.next l none = some c) (hb : runImg m = some b)
    (hs : c.start = m.slotNow) :
    let k := resolvedCell b l c m
    let m1 := takeCell l (skippedCell (laneOf m l).skip k) m
    cellStart l m = if !cellsRun m1 then unskip l m1 else unskip l (laneBegins b l (laneOf m l).skip k (seat0Begins l k m1)) := by
  intro k m1
  have hk : k.start = m.slotNow := (resolvedCell_word b l c m).2.1.trans hs
  unfold cellStart
  rw [hn, hb]
  exact if_neg (not_not.2 hk)

theorem cellStart_idle {l : Nat} {m : Main} (h : vget m.ylm.next l none = none ∨ ∃ c, vget m.ylm.next l none = some c ∧ c.start ≠ m.slotNow) :
    cellStart l m = m := by
  unfold cellStart
  split
  · next c b hn hb =>
    rcases h with h | ⟨d, hd, hne⟩
    · rw [h] at hn
      cases hn
    · rw [Option.some.inj (hd.symm.trans hn)] at hne
      exact if_pos fun e => hne ((resolvedCell_word b l c m).2.1.symm.trans e)
  · rfl

section
variable {l : Nat}

theorem within_placeBound (lane slot : Nat) (m : Main) : Within [] [8] [.ctx, .wav] m (placeBound lane slot m) := by
  unfold placeBound
  split
  · exact Within.refl _ _ _ _
  · extract_lets wav m1
    have h1 : Within [] [8] [.ctx, .wav] m m1 := Within.wav m _
    split
    · exact h1.trans (within_showWaves _)
    · exact (h1.trans (within_withWave _ _ _)).trans (within_showWaves _)

theorem within_seat0Begins (l : Nat) (c : Cell) (m : Main) : Within [] [8] [.ctx, .wav] m (seat0Begins l c m) := by
  unfold seat0Begins
  exact Within.ite _ ((Within.ctx m _).trans (within_placeBound _ _ _)) (Within.refl _ _ _ _)

theorem begins_quiet (hl : l < 8) (c : Cell) {m m' : Main} (h : Stays m m') : Begins l m (emptyCell l c m') :=
  (h.begins l).trans (begins_emptyCell hl c m')

/-- A cell that is sent as IDLE transmits nothing. -/
theorem ownTx_idle (b : Img) (first : Bool) {c : Cell} (h : c.idle = true) (m : Main) :
    ownTx b l first c m = emptyCell l c (m.emit (.laneIdle l c.start)) := by
  unfold ownTx
  rw [h]

/-- In HOLD a frame is skipped. -/
theorem ownTx_hold (b : Img) (first : Bool) {c : Cell} (h : c.idle = false) {f : TlpFrame} (hf : c.frame = some f) {m : Main} (hm : m.mode = Md.hold) :
    ownTx b l first c m = (m.count F.HOLD_SKIPPED).emit (.laneIdle l c.start) := by
  unfold ownTx
  rw [h, hf]
  exact if_pos hm

/-- A frame with a plan goes out. -/
theorem ownTx_sends {b : Img} {first : Bool} {c : Cell} (h : c.idle = false) {f : TlpFrame} (hf : c.frame = some f) {m : Main} (hm : m.mode ≠ Md.hold)
    (hmute : m.bit F.RED_STATUS_MUTED = false) (hskip : (laneOf m l).skip = false)
    (hcol : collides m b l c (airtime (chanAt b l (CellW.chan c.word)) (psduLen l (16 + f.body.length))) = false)
    {p : Nat × Int × Bool} (hp : txPlan m b (chanAt b l (CellW.chan c.word)) l first = some p) : ownTx b l first c m = putOnAir b l c f p m := by
  unfold ownTx
  rw [h, hf]
  dsimp only
  rw [if_neg hm, if_neg (ne_true_of_eq_false hmute), if_neg (ne_true_of_eq_false hskip), if_neg (ne_true_of_eq_false hcol), hp]

theorem begins_ownTx (b : Img) (hl : l < 8) (first : Bool) (c : Cell) (m : Main) : Begins l m (ownTx b l first c m) := by
  unfold ownTx
  extract_lets quiet e
  split
  · exact begins_quiet hl c (stays_emit m _)
  · exact begins_quiet hl c (stays_ylmUnused hl m)
  · next f _ _ =>
    split
    · exact ((stays_holdSkipped m).trans (stays_emit _ _)).begins l
    · split
      · exact begins_quiet hl c (stays_ylmUnused hl m)
      · split
        · exact begins_quiet hl c (Stays.refl m)
        · split
          · next hcol =>
            have hlow : l < 4 := by
              unfold collides at hcol
              simp only [Bool.and_eq_true, decide_eq_true_eq] at hcol
              exact hcol.1
            exact begins_quiet hl c (stays_countCollision hlow m)
          · split
            · exact begins_quiet hl c (stays_faultSkipped hl m)
            · exact (putOnAir_sends b hl c f _ m).begins

theorem goes_listen (hl : l < 8) {st : Nat} (hst : st < 16) (c : Cell) (action : Nat) (m : Main) :
    Goes l st m (cellTrace l action c 0 (setChan l (CellW.chan c.word) (setLane l st m))) :=
  ((goes_setLane hl hst m).stays hl (stays_setChan hl _ _)).stays hl (stays_cellTrace ..)

theorem begins_laneBegins (b : Img) (hl : l < 8) (skip : Bool) (c : Cell) (m : Main) : Begins l m (laneBegins b l skip c m) := by
  unfold laneBegins
  split
  · exact ((stays_withLane _ _ m).begins l).trans (begins_ownTx b hl _ c _)
  · split
    · exact (Stays.refl m).begins l
    · split
      · exact begins_emptyCell hl c m
      · split
        · exact (goes_listen hl (by decide) c 9 m).begins
        · split
          · exact ((goes_listen hl (by decide) c _ m).stays hl (stays_withLane _ _ _)).begins
          · exact begins_emptyCell hl c m

theorem laneBegins_own (b : Img) (skip : Bool) {c : Cell} (htx : isTx c.word = true) (hs : c.shadow = false) (m : Main) :
    laneBegins b l skip c m = ownTx b l (!(laneOf m l).txSeen) c (seeTx l m) := by
  unfold laneBegins
  rw [if_pos (by simp [htx, hs])]

theorem laneBegins_shadow (b : Img) {c : Cell} (hs : c.shadow = true) {m : Main} (hon : lanesOn m = true) :
    laneBegins b l false c m = cellTrace l 9 c 0 (setChan l (CellW.chan c.word) (setLane l 5 m)) := by
  unfold laneBegins
  rw [if_neg (by simp [hs]), if_neg (by simp [hon]), if_neg Bool.false_ne_true, if_pos hs]

theorem isTx_of_isRx {w : Nat} (h : isRx w = true) : isTx w = false := by
  unfold isRx at h
  unfold isTx
  simp only [Bool.or_eq_true, beq_iff_eq] at h
  rcases h with h | h <;> rw [h] <;> rfl

theorem laneBegins_rx (b : Img) {c : Cell} (hr : isRx c.word = true) (hs : c.shadow = false) {m : Main} (hon : lanesOn m = true) :
    laneBegins b l false c m =
      withLane l (fun g => { g with rxSeen := true }) (cellTrace l (CellW.action c.word) c 0 (setChan l (CellW.chan c.word) (setLane l 4 m))) := by
  unfold laneBegins
  rw [if_neg (by simp [isTx_of_isRx hr]), if_neg (by simp [hon]), if_neg Bool.false_ne_true, if_neg (by simp [hs]), if_pos hr]

end

end Sys2Proof.Machine
end

section
namespace Sys2Proof.Machine

/-! ### CELL_START -/

theorem within_takeCell {ws bs : List Nat} {ps : List Part} (l : Nat) (c : Cell) (m : Main) (h : Part.ylm ∈ ps := by decide) :
    Within ws bs ps m (takeCell l c m) := Within.ylm m _ h

/-- The lane has no further cell to come. -/
theorem airborne_takeCell {l : Nat} (hl : l < 8) (c : Cell) (m : Main) (h : txCell (takeCell l c m) l ≠ none) : laneState (takeCell l c m) l = 3 := by
  by_contra hn
  have hnext : vget (takeCell l c m).ylm.next l none = none := vget_vmod_same _ _ _ hl
  apply h
  unfold txCell willSend
  rw [if_neg hn, hnext]
  rfl

theorem firstTx_seeTx {l : Nat} (hl : l < 8) (c : Cell) (m : Main) : FirstTx l m (seeTx l (seat0Begins l c m)) := by
  have hseat := within_seat0Begins l c m
  have hlanes : (seat0Begins l c m).lanes = m.lanes := hseat.same .lanes
  refine ⟨hseat.mono.trans (Within.withLane l _ _), fun n hn => ?_, ?_⟩
  · exact (vget_vmod_ne _ _ _ (Ne.symm hn)).trans (congrArg (fun v => vget v n Lane.reset) hlanes)
  · have hown : laneOf (seeTx l (seat0Begins l c m)) l = { laneOf m l with txSeen := true } :=
      (vget_vmod_same _ _ _ hl).trans (congrArg (fun v => { vget v l Lane.reset with txSeen := true }) hlanes)
    rw [hown]

theorem cellsRun_of_lanesOn {m : Main} (h : lanesOn m = true) : cellsRun m = true := by
  unfold lanesOn at h
  exact (Bool.and_eq_true_iff.1 h).1

theorem mode_of_lanesOn {m : Main} (h : lanesOn m = true) : m.mode ≠ Md.hold := by
  unfold lanesOn at h
  exact bne_iff_ne.1 (Bool.and_eq_true_iff.1 h).2

section
variable {l : Nat} (hl : l < 8) {m : Main} {c : Cell} {b : Img} (hn : vget m.ylm.next l none = some c) (hb : runImg m = some b)
  (hs : c.start = m.slotNow)
include hl hn hb hs

/-- A cell that begins is the lane's cell in execution, and its lane begins it. -/
theorem cellStart_begins : ∃ k : Cell, (k.word = c.word ∧ k.start = c.start ∧ k.shadow = c.shadow) ∧ Begins l (takeCell l k m) (cellStart l m) := by
  refine ⟨skippedCell (laneOf m l).skip (resolvedCell b l c m), resolvedCell_word b l c m, ?_⟩
  rw [cellStart_runs hn hb hs]
  split
  · exact (stays_withLane ..).begins l
  · exact ((((within_seat0Begins l _ _).mono).stays.begins l).trans (begins_laneBegins b hl _ _ _)).trans ((stays_withLane ..).begins l)

omit hl in
/-- Where cells run, the lane does what its cell says. -/
theorem cellStart_lane (hskip : (laneOf m l).skip = false) (hrun : cellsRun m = true) : cellStart l m =
    unskip l (laneBegins b l false (resolvedCell b l c m)
      (seat0Begins l (resolvedCell b l c m) (takeCell l (resolvedCell b l c m) m))) := by
  have hcells (k : Cell) : cellsRun (takeCell l k m) = true := hrun
  rw [cellStart_runs hn hb hs, hskip]
  rw [skippedCell_false, if_neg (by simp [hcells])]

/-- In HOLD no cell is executed, but frames are counted as skipped, whether or not the lane skips. -/
theorem cellStart_own (hrun : cellsRun m = true) (htx : isTx c.word = true) (hown : c.shadow = false) :
    ∃ m1, FirstTx l (takeCell l (skippedCell (laneOf m l).skip c) m) m1 ∧
      cellStart l m = unskip l (ownTx b l (!(laneOf m l).txSeen) c m1) := by
  have hcells (k : Cell) : cellsRun (takeCell l k m) = true := hrun
  refine ⟨_, firstTx_seeTx hl c _, ?_⟩
  have hseen : laneOf (seat0Begins l c (takeCell l (skippedCell (laneOf m l).skip c) m)) l = laneOf m l :=
    congrArg (fun v => vget v l Lane.reset) ((within_seat0Begins l c (takeCell l (skippedCell (laneOf m l).skip c) m)).same .lanes)
  rw [cellStart_runs hn hb hs]
  rw [resolvedCell_own b l hown, if_neg (by simp [hcells]), laneBegins_own b _ htx hown, hseen]

/-- An idle cell leaves its lane IDLE. -/
theorem cellStart_idles (hon : lanesOn m = true) (htx : isTx c.word = true) (hown : c.shadow = false) (hidle : c.idle = true) :
    laneState (cellStart l m) l = 1 ∧ (cellStart l m).get F.YLM_TX_CELLS l = m.get F.YLM_TX_CELLS l ∧
      Output.laneIdle l c.start ∈ (cellStart l m).out := by
  obtain ⟨m1, hfirst, heq⟩ := cellStart_own hl hn hb hs (cellsRun_of_lanesOn hon) htx hown
  have hempty : Goes l 1 (m1.emit (.laneIdle l c.start)) (emptyCell l c (m1.emit (.laneIdle l c.start))) :=
    goes_emptyCell hl c (((keeps_emit m1 _).within [] [8] []).lanesOn.trans (hfirst.within.lanesOn.trans hon))
  have hgoes : Goes l 1 m1 (cellStart l m) := by
    rw [heq, ownTx_idle b _ hidle]
    exact ((stays_emit m1 _).goes hl hempty).stays hl (stays_withLane ..)
  have hout : Output.laneIdle l c.start ∈ (emptyCell l c (m1.emit (.laneIdle l c.start))).out :=
    hempty.begins.within.mem (List.mem_cons_self ..)
  refine ⟨hgoes.state, hgoes.sent.trans (hfirst.within.get F.YLM_TX_CELLS hl), ?_⟩
  rw [heq, ownTx_idle b _ hidle]
  exact hout

/-- A frame that nothing stops goes out. -/
theorem cellStart_sends (hskip : (laneOf m l).skip = false) (hon : lanesOn m = true) (htx : isTx c.word = true) (hown : c.shadow = false)
    (hidle : c.idle = false) {f : TlpFrame} (hf : c.frame = some f) (hmute : m.bit F.RED_STATUS_MUTED = false)
    (hcol : collides (takeCell l c m) b l c (airtime (chanAt b l (CellW.chan c.word)) (psduLen l (16 + f.body.length))) = false)
    (hplan : (txPlan (takeCell l c m) b (chanAt b l (CellW.chan c.word)) l (!(laneOf m l).txSeen)).isSome) :
    Sends l (.laneTx l c.start (CellW.chan c.word) ({ f with copy := CellW.seat c.word } : TlpFrame).octets) (takeCell l c m) (cellStart l m) := by
  obtain ⟨m1, hfirst, heq⟩ := cellStart_own hl hn hb hs (cellsRun_of_lanesOn hon) htx hown
  rw [hskip, skippedCell_false] at hfirst
  have hair := airborne_takeCell hl c m
  obtain ⟨p, hp⟩ := Option.isSome_iff_exists.1 hplan
  have hmode : m1.mode ≠ Md.hold := mode_of_lanesOn (hfirst.within.lanesOn.trans hon)
  have hsend : ownTx b l (!(laneOf m l).txSeen) c m1 = putOnAir b l c f p m1 :=
    ownTx_sends hidle hf hmode (hfirst.muted.trans hmute) ((hfirst.skip l).trans hskip) ((hfirst.collides hair b hl c _).trans hcol)
      ((hfirst.txPlan hair _ hl _).trans hp)
  rw [heq, hsend]
  exact ((Within.stays hfirst.within).sends hl (putOnAir_sends b hl c f p m1)).stays hl (stays_withLane ..)

theorem cellStart_listens (hskip : (laneOf m l).skip = false) (hon : lanesOn m = true) (hr : isRx c.word = true) (hown : c.shadow = false) :
    laneState (cellStart l m) l = 4 := by
  have hon2 (x : Main) (h : Within [] [8] [.ctx, .wav] (takeCell l c m) x) : lanesOn x = true := h.lanesOn.trans hon
  rw [cellStart_lane hn hb hs hskip (cellsRun_of_lanesOn hon), resolvedCell_own b l hown,
    laneBegins_rx b hr hown (hon2 _ (within_seat0Begins l c _))]
  exact (((goes_listen hl (by decide) c _ _).stays hl (stays_withLane ..)).stays hl (stays_withLane ..)).state

theorem cellStart_shadows (hskip : (laneOf m l).skip = false) (hon : lanesOn m = true) (hsh : c.shadow = true) :
    laneState (cellStart l m) l = 5 := by
  have hon2 (k : Cell) (x : Main) (h : Within [] [8] [.ctx, .wav] (takeCell l k m) x) : lanesOn x = true := h.lanesOn.trans hon
  rw [cellStart_lane hn hb hs hskip (cellsRun_of_lanesOn hon),
    laneBegins_shadow b ((resolvedCell_word b l c m).2.2.trans hsh) (hon2 _ _ (within_seat0Begins l _ _))]
  exact ((goes_listen hl (by decide) _ 9 _).stays hl (stays_withLane ..)).state

/-- In HOLD a frame that would go out is counted and not sent. -/
theorem cellStart_holds (hrun : cellsRun m = true) (hmode : m.mode = Md.hold) (htx : isTx c.word = true) (hown : c.shadow = false)
    (hidle : c.idle = false) {f : TlpFrame} (hf : c.frame = some f) :
    (cellStart l m).get F.HOLD_SKIPPED = (m.get F.HOLD_SKIPPED + 1) % 2 ^ 32 ∧ laneState (cellStart l m) l = laneState m l ∧
      Output.laneIdle l c.start ∈ (cellStart l m).out := by
  obtain ⟨m1, hfirst, heq⟩ := cellStart_own hl hn hb hs hrun htx hown
  have hmode1 : m1.mode = Md.hold := (hfirst.within.get F.PWR_MODE_MODE Nat.one_pos).trans hmode
  have hstays : Stays m1 (unskip l ((m1.count F.HOLD_SKIPPED).emit (.laneIdle l c.start))) :=
    ((stays_holdSkipped m1).trans (stays_emit _ _)).trans (stays_withLane ..)
  rw [heq, ownTx_hold b _ hidle hf hmode1]
  have hget (x : Main) : (unskip l (x.emit (.laneIdle l c.start))).get F.HOLD_SKIPPED = x.get F.HOLD_SKIPPED := rfl
  have hout (x : Main) : Output.laneIdle l c.start ∈ (unskip l (x.emit (.laneIdle l c.start))).out := List.mem_cons_self ..
  refine ⟨?_, (hstays.state l hl).trans (hfirst.state hl), hout _⟩
  have hcount : (m1.count F.HOLD_SKIPPED).get F.HOLD_SKIPPED = (m1.get F.HOLD_SKIPPED + 1) % 2 ^ 32 := Main.get_put_same _ _ _ _ (by decide)
  have hbefore : m1.get F.HOLD_SKIPPED = m.get F.HOLD_SKIPPED := hfirst.within.get F.HOLD_SKIPPED Nat.one_pos
  rw [hget, hcount, hbefore]

end

/-- The cells after CELL_START as the statement gives them. -/
theorem takeCell_eq (l : Fin 8) (c : Cell) (m : Main) : takeCell l c m =
    { m with ylm := { m.ylm with next := m.ylm.next.set l none, cells := m.ylm.cells.set l (some c) } } := by
  unfold takeCell vmod
  rw [dif_pos l.isLt, dif_pos l.isLt]

theorem takeCell_lanes (l : Fin 8) (c : Cell) (m : Main) :
    (takeCell l c m).ylm.next[l] = none ∧ (takeCell l c m).ylm.cells[l] = some c ∧
      ∀ k : Fin 8, k ≠ l → (takeCell l c m).ylm.cells[k] = m.ylm.cells[k] ∧ (takeCell l c m).ylm.next[k] = m.ylm.next[k] := by
  have hne {k : Fin 8} (h : k ≠ l) : (l : Nat) ≠ k := fun e => h (Fin.ext e.symm)
  refine ⟨?_, ?_, fun k hk => ⟨?_, ?_⟩⟩
  · rw [← vget_fin _ _ none]
    exact vget_vmod_same _ _ _ l.isLt
  · rw [← vget_fin _ _ none]
    exact vget_vmod_same _ _ _ l.isLt
  · rw [← vget_fin _ _ none, ← vget_fin _ _ none]
    exact vget_vmod_ne _ _ _ (hne hk)
  · rw [← vget_fin _ _ none, ← vget_fin _ _ none]
    exact vget_vmod_ne _ _ _ (hne hk)

/-- Settles O6: a cell of another slot does not begin; one of this slot is the lane's cell in execution, and the lane does with it what its
kind says. -/
theorem cellsBeginAsFetched : Obligations.CellsBeginAsFetched := by
  unfold Obligations.CellsBeginAsFetched
  intro s l up begun
  refine ⟨fun h => answersMain_of (f := cellStart l) rfl (cellStart_idle (by rwa [vget_fin])), fun c b hn hs hb =>
    answersMain_of (f := cellStart l) rfl ?_⟩
  have hnext : vget s.main.ylm.next l none = some c := (vget_fin ..).trans hn
  have hl := l.isLt
  have hbegun : begun c = takeCell l c s.main := (takeCell_eq l c s.main).symm
  obtain ⟨k, ⟨hword, hstart, hshadow⟩, hbegins⟩ := cellStart_begins hl hnext hb hs
  have hstate (c : Cell) (i : Nat) (hi : i < 8) : laneState (takeCell l c s.main) i = laneState s.main i :=
    (within_takeCell (ws := []) (bs := []) (ps := [.ylm]) l c s.main).laneState hi
  have hylm := hbegins.ylm
  obtain ⟨hnone, hcell, hothers⟩ := takeCell_lanes l k s.main
  refine ⟨by rw [hylm, hnone], ⟨k, by rw [hylm, hcell], hword, hstart, hshadow⟩, fun i hi => ⟨?_, ?_, ?_⟩, fun hon hskip =>
    ⟨cellStart_idles hl hnext hb hs hon, fun f htx hown hidle hf hmute => ?_, cellStart_listens hl hnext hb hs hskip hon,
      cellStart_shadows hl hnext hb hs hskip hon⟩,
    fun f hrun hmode htx hown hidle hf => cellStart_holds hl hnext hb hs hrun hmode htx hown hidle hf, ?_⟩
  · rw [hylm, (hothers i hi).1]
  · rw [hylm, (hothers i hi).2]
  · rcases hbegins.others i i.isLt (fun e => hi (Fin.ext e)) with h | ⟨hlt, hlow, hair, hidle⟩
    · exact Or.inl (h.trans (hstate k i i.isLt))
    · exact Or.inr ⟨hlt, hlow, (hstate k i i.isLt).symm.trans hair, hidle⟩
  · intro e hcol hplan
    rw [hbegun] at hcol hplan
    have hsend := cellStart_sends hl hnext hb hs hskip hon htx hown hidle hf hmute hcol hplan
    have hcount : (takeCell l c s.main).get F.YLM_TX_CELLS l = s.main.get F.YLM_TX_CELLS l :=
      (within_takeCell (ws := []) (bs := []) (ps := [.ylm]) l c s.main).get F.YLM_TX_CELLS hl
    exact ⟨hsend.state, hsend.sent.trans (by rw [hcount]), hsend.out⟩
  · refine ((within_takeCell l k s.main).trans hbegins.within).report fun a ha => ?_
    simpa [inRegs, inBlock, Field.addr, F.HOLD_SKIPPED] using ha

end Sys2Proof.Machine
end

section
/-!
SUPPORT. What the steps of a slot boundary change: the local clock, the cells that end, MUTED and the profile (R26, R41, R54, R425).
-/
namespace Sys2Proof.Machine

/-! ### The local clock -/

/-- What the local clock changes by running. -/
abbrev Runs : Main → Main → Prop := Within [] [0x10] [.time]

theorem runs_setClock (sec ns : Nat) (m : Main) : Runs m (setClock sec ns m) :=
  (((Within.time m _).trans (Within.put _ F.PTP_SEC_LO _ Nat.one_pos)).trans (Within.put _ F.PTP_SEC_HI _ Nat.one_pos)).trans
    (Within.put _ F.PTP_NS _ Nat.one_pos)

theorem runs_runClock (k : Nat) (m : Main) : Runs m (runClock k m) := by
  unfold runClock
  extract_lets c m1 t n m2
  have h1 : Runs m m1 := ((keeps_countSource m 0 k none none).trans (keeps_fireIf _ 63 _ (by decide))).within _ _ _
  exact (h1.trans (runs_setClock _ _ m1)).trans (Within.time m2 _)

theorem runs_reachClock (ns : Nat) (m : Main) : Runs m (reachClock ns m) := Within.ite _ (runs_runClock _ m) (runs_setClock _ _ m)

/-! ### The cells that end -/

/-- The words of SHADOW_MISSED. -/
def missedWords : List Nat := [0x040114, 0x040134, 0x040154, 0x040174, 0x040194, 0x0401B4, 0x0401D4, 0x0401F4]

theorem missed_addr {l : Nat} (hl : l < 8) : F.YLM_SHADOW_MISSED.addr l ∈ missedWords := by
  interval_cases l <;> decide

/-- What the end of lanes' cells may change: those cells, the lanes' states and SHADOW_MISSED. -/
structure Ends (m m' : Main) : Prop where
  within : Within missedWords [5, 6] [.ylm] m m'
  ylm : m'.ylm = { m.ylm with cells := m'.ylm.cells }

theorem Ends.refl (m : Main) : Ends m m := ⟨Within.refl _ _ _ _, rfl⟩

theorem Ends.trans {m m' m'' : Main} (h : Ends m m') (g : Ends m' m'') : Ends m m'' :=
  ⟨h.within.trans g.within, by rw [g.ylm, h.ylm]⟩

theorem Ends.partnerFrame {m m' : Main} (h : Ends m m') (l : Nat) (c : Cell) : partnerFrame m' l c = partnerFrame m l c := by
  unfold Machine.partnerFrame runImg
  rw [h.ylm]

/-- A lane's cell and its count of missed cells stay. -/
structure CellStays (l : Nat) (m m' : Main) : Prop where
  ends : Ends m m'
  cell : vget m'.ylm.cells l none = vget m.ylm.cells l none
  missed : m'.get F.YLM_SHADOW_MISSED l = m.get F.YLM_SHADOW_MISSED l

theorem CellStays.refl (l : Nat) (m : Main) : CellStays l m m := ⟨Ends.refl m, rfl, rfl⟩

theorem CellStays.trans {l : Nat} {m m' m'' : Main} (h : CellStays l m m') (g : CellStays l m' m'') : CellStays l m m'' :=
  ⟨h.ends.trans g.ends, g.cell.trans h.cell, g.missed.trans h.missed⟩

/-- The lane has no cell in execution. -/
def dropCell (l : Nat) (m : Main) : Main := { m with ylm := { m.ylm with cells := vmod m.ylm.cells l fun _ => none } }

theorem ends_dropCell (l : Nat) (m : Main) : Ends m (dropCell l m) := ⟨Within.ylm m _, rfl⟩

theorem missed_dropCell (l i : Nat) (m : Main) : (dropCell l m).get F.YLM_SHADOW_MISSED i = m.get F.YLM_SHADOW_MISSED i := rfl

theorem within_setLane {l : Nat} (hl : l < 8) (st : Nat) (m : Main) : Within [] [5, 6] [] m (setLane l st m) := by
  unfold setLane
  split
  · next h => exact Within.put m F.TLR_LANE_STATUS_STATE st h
  · exact Within.put m F.TLP_LANE_STATUS_STATE st (by omega : l - 4 < 4)

/-- A lane that executes cells is IDLE. -/
def restLane (l : Nat) (m : Main) : Main := if laneState m l = 0 then m else setLane l 1 m

theorem within_restLane {l : Nat} (hl : l < 8) (m : Main) : Within [] [5, 6] [] m (restLane l m) :=
  Within.ite _ (Within.refl _ _ _ _) (within_setLane hl 1 m)

theorem ends_restLane {l : Nat} (hl : l < 8) (m : Main) : Ends m (restLane l m) :=
  have hylm : (restLane l m).ylm = m.ylm := (within_restLane hl m).same .ylm
  ⟨(within_restLane hl m).mono, by rw [hylm]⟩

theorem missed_restLane {l i : Nat} (hl : l < 8) (hi : i < 8) (m : Main) :
    (restLane l m).get F.YLM_SHADOW_MISSED i = m.get F.YLM_SHADOW_MISSED i := (within_restLane hl m).get F.YLM_SHADOW_MISSED hi

theorem ends_missed {l : Nat} (hl : l < 8) (m : Main) : Ends m (m.count F.YLM_SHADOW_MISSED l) :=
  ⟨(Frame.put _ m F.YLM_SHADOW_MISSED _ l (Or.inl (missed_addr hl))).within, by rw [Main.count_ylm]⟩

/-- Whether a cell that ends is counted as missed. -/
def missedCell (m : Main) (l : Nat) (c : Cell) : Bool := c.shadow && partnerFrame m l c && !c.heard && !c.idle

theorem cellEnd_none {abs l : Nat} {m : Main} (h : vget m.ylm.cells l none = none) : cellEnd abs m l = m := by
  unfold cellEnd
  split
  · next hc => exact absurd (hc.symm.trans h) (Option.some_ne_none _)
  · rfl

theorem cellEnd_on {abs l : Nat} {m : Main} {c : Cell} (h : vget m.ylm.cells l none = some c) (ha : abs < c.start + CellW.len c.word) :
    cellEnd abs m l = m := by
  unfold cellEnd
  split
  · next k hk =>
    cases hk.symm.trans h
    exact if_pos ha
  · rfl

theorem cellEnd_over {abs l : Nat} {m : Main} {c : Cell} (h : vget m.ylm.cells l none = some c) (ha : ¬ abs < c.start + CellW.len c.word) :
    cellEnd abs m l = if missedCell (restLane l (dropCell l m)) l c then (restLane l (dropCell l m)).count F.YLM_SHADOW_MISSED l
      else restLane l (dropCell l m) := by
  unfold cellEnd
  split
  · next k hk =>
    cases hk.symm.trans h
    exact if_neg ha
  · next hn => exact absurd (h.symm.trans hn) (Option.some_ne_none _)

theorem ends_cellEnd (abs : Nat) {l : Nat} (hl : l < 8) (m : Main) : Ends m (cellEnd abs m l) := by
  cases hc : vget m.ylm.cells l none with
  | none => rw [cellEnd_none hc]; exact Ends.refl m
  | some c =>
    by_cases ha : abs < c.start + CellW.len c.word
    · rw [cellEnd_on hc ha]; exact Ends.refl m
    · rw [cellEnd_over hc ha]
      have h := (ends_dropCell l m).trans (ends_restLane hl _)
      split
      · exact h.trans (ends_missed hl _)
      · exact h

theorem cells_restLane (l k : Nat) {m : Main} (hl : l < 8) : vget (restLane l m).ylm.cells k none = vget m.ylm.cells k none := by
  have hylm : (restLane l m).ylm = m.ylm := (within_restLane hl m).same .ylm
  rw [hylm]

theorem cellEnd_other (abs : Nat) {l k : Nat} (hl : l < 8) (hk : k < 8) (h : k ≠ l) (m : Main) : CellStays k m (cellEnd abs m l) := by
  refine ⟨ends_cellEnd abs hl m, ?_, ?_⟩ <;> cases hc : vget m.ylm.cells l none with
  | none => rw [cellEnd_none hc]
  | some c => ?_
  all_goals
    by_cases ha : abs < c.start + CellW.len c.word
    · rw [cellEnd_on hc ha]
    rw [cellEnd_over hc ha]
  · have hdrop : vget (restLane l (dropCell l m)).ylm.cells k none = vget m.ylm.cells k none :=
      (cells_restLane l k hl).trans (vget_vmod_ne _ _ _ h.symm)
    split
    · rw [Main.count_ylm]; exact hdrop
    · exact hdrop
  · have hdrop : (restLane l (dropCell l m)).get F.YLM_SHADOW_MISSED k = m.get F.YLM_SHADOW_MISSED k :=
      (missed_restLane hl hk _).trans (missed_dropCell l k m)
    split
    · refine (Main.get_put_addr _ _ _ _ _ _ ?_).trans hdrop
      simp only [Field.addr, F.YLM_SHADOW_MISSED]
      omega
    · exact hdrop

/-- What becomes of a lane's cell at the boundary of slot `abs`, under what `m` shows of the plan. -/
def cellEnded (abs : Nat) (m : Main) (l : Nat) (c : Cell) (m' : Main) : Prop :=
  if abs < c.start + CellW.len c.word then
    vget m'.ylm.cells l none = some c ∧ m'.get F.YLM_SHADOW_MISSED l = m.get F.YLM_SHADOW_MISSED l
  else vget m'.ylm.cells l none = none ∧ m'.get F.YLM_SHADOW_MISSED l =
    (m.get F.YLM_SHADOW_MISSED l + if missedCell m l c then 1 else 0) % 2 ^ 32

theorem missed_lt (m : Main) (i : Nat) : m.get F.YLM_SHADOW_MISSED i < 2 ^ 32 := Main.get_lt m F.YLM_SHADOW_MISSED i

theorem cellEnd_own (abs : Nat) {l : Nat} (hl : l < 8) {m : Main} {c : Cell} (hc : vget m.ylm.cells l none = some c) :
    cellEnded abs m l c (cellEnd abs m l) := by
  by_cases ha : abs < c.start + CellW.len c.word
  · rw [cellEnd_on hc ha]
    exact (if_pos ha).mpr ⟨hc, rfl⟩
  · refine (if_neg ha).mpr ?_
    have hends := (ends_dropCell l m).trans (ends_restLane hl (dropCell l m))
    have hmiss : missedCell (restLane l (dropCell l m)) l c = missedCell m l c := by
      unfold missedCell
      rw [hends.partnerFrame]
    have hcell : vget (restLane l (dropCell l m)).ylm.cells l none = none :=
      (cells_restLane l l hl).trans (vget_vmod_same _ _ _ hl)
    have hcount : (restLane l (dropCell l m)).get F.YLM_SHADOW_MISSED l = m.get F.YLM_SHADOW_MISSED l :=
      (missed_restLane hl hl _).trans (missed_dropCell l l m)
    rw [cellEnd_over hc ha, hmiss]
    cases missedCell m l c with
    | true =>
      rw [if_pos rfl, if_pos rfl, Main.count_ylm]
      refine ⟨hcell, ?_⟩
      rw [← hcount]
      exact Main.get_put_same _ F.YLM_SHADOW_MISSED _ l (by decide)
    | false =>
      rw [if_neg Bool.false_ne_true, if_neg Bool.false_ne_true, Nat.add_zero, Nat.mod_eq_of_lt (missed_lt m l)]
      exact ⟨hcell, hcount⟩

/-- The cells of all lanes end. -/
def cellsEnd (abs : Nat) (m : Main) : Main := (List.range 8).foldl (cellEnd abs) m

theorem ends_cellsEnd (abs : Nat) (m : Main) : Ends m (cellsEnd abs m) := by
  unfold cellsEnd
  have h (l : List Nat) (hl : ∀ x ∈ l, x < 8) : ∀ x, Ends x (l.foldl (cellEnd abs) x) := by
    induction l with
    | nil => exact Ends.refl
    | cons y t ih => exact fun x => (ends_cellEnd abs (hl y (List.mem_cons_self ..)) x).trans (ih (fun z hz => hl z (List.mem_cons_of_mem _ hz)) _)
  exact h _ (fun x hx => List.mem_range.1 hx) m

theorem cellsEnd_lane (abs : Nat) {l : Nat} (hl : l < 8) {m : Main} {c : Cell} (hc : vget m.ylm.cells l none = some c) :
    cellEnded abs m l c (cellsEnd abs m) := by
  obtain ⟨m1, h1, h2⟩ := foldl_visit (S := CellStays l) (CellStays.refl l) CellStays.trans (cellEnd abs) List.nodup_range
    (List.mem_range.2 hl) (fun i hi hne x => cellEnd_other abs (List.mem_range.1 hi) hl hne.symm x) m
  have hend := cellEnd_own abs hl (h1.cell.trans hc)
  unfold cellEnded missedCell at hend ⊢
  rw [h1.ends.partnerFrame, h1.missed] at hend
  unfold cellsEnd
  rw [h2.cell, h2.missed]
  exact hend

/-! ### MUTED -/

theorem within_muteStep (m : Main) : Within [] [0xE] [.red] m (muteStep m) := by
  unfold muteStep
  extract_lets m1 m2 r
  have h1 : Within [] [0xE] [.red] m m1 := Within.ite _
    ((Within.putBit m F.RED_STATUS_MUTED false 0 Nat.one_pos).trans (Within.putBit _ F.RED_STATUS_IN_SYNC true 0 Nat.one_pos)) (Within.refl _ _ _ _)
  have h2 : Within [] [0xE] [.red] m1 m2 := Within.ite _ (Within.putBit m1 F.RED_STATUS_MUTED true 0 Nat.one_pos) (Within.refl _ _ _ _)
  exact (h1.trans h2).trans (Within.red m2 _)

theorem muted_muteStep (m : Main) :
    (muteStep m).bit F.RED_STATUS_MUTED = (m.red.mutePend || (m.bit F.RED_STATUS_MUTED && !m.red.clearPend)) := by
  unfold muteStep
  extract_lets m1 m2 r
  have hset (x : Main) (v : Bool) : (x.putBit F.RED_STATUS_MUTED v).bit F.RED_STATUS_MUTED = v := by
    rw [Main.bit_putBit _ _ _ _ _ _ (by decide) (by decide), if_pos rfl]
  have h1 : m1.bit F.RED_STATUS_MUTED = (m.bit F.RED_STATUS_MUTED && !m.red.clearPend) ∧ m1.red = m.red := by
    show (if m.red.clearPend then _ else m).bit F.RED_STATUS_MUTED = _ ∧ (if m.red.clearPend then _ else m).red = _
    cases m.red.clearPend with
    | true =>
      refine ⟨?_, ?_⟩
      · have hsync := Main.get_put_bits (m.putBit F.RED_STATUS_MUTED false) F.RED_STATUS_IN_SYNC F.RED_STATUS_MUTED
          (putBits ((m.putBit F.RED_STATUS_MUTED false).get F.RED_STATUS_IN_SYNC) 0 1 (natOf true)) 0 0 (by decide) (by decide)
        rw [if_pos rfl, Bool.not_true, Bool.and_false]
        exact (congrArg (bitOf · 0) hsync).trans (hset m false)
      · rw [if_pos rfl, Main.putBit_red, Main.putBit_red]
    | false => exact ⟨by rw [if_neg Bool.false_ne_true, Bool.not_false, Bool.and_true], by rw [if_neg Bool.false_ne_true]⟩
  have h2 : m2.bit F.RED_STATUS_MUTED = (m1.red.mutePend || m1.bit F.RED_STATUS_MUTED) := by
    show (if m1.red.mutePend then _ else m1).bit F.RED_STATUS_MUTED = _
    cases m1.red.mutePend with
    | true => rw [if_pos rfl, Bool.true_or, hset]
    | false => rw [if_neg Bool.false_ne_true, Bool.false_or]
  exact h2.trans (by rw [h1.1, h1.2])

end Sys2Proof.Machine
end

section
/-!
SUPPORT. What the steps of a slot boundary change after the cells have ended: the profile, the inputs, the levels and the waves (R20, R54,
R165, R202, R236).
-/
namespace Sys2Proof.Machine

/-! ### The profile -/

/-- What an event of the almanac changes: YLM_PROFILE, the groups' levels and the order of events. -/
structure Profiles (m m' : Main) : Prop where
  within : Within [0x040020] [] [.ylm] m m'
  ylm : m'.ylm = { m.ylm with groups := m'.ylm.groups, evOrder := m'.ylm.evOrder }

theorem Profiles.refl (m : Main) : Profiles m m := ⟨Within.refl _ _ _ _, rfl⟩

theorem Profiles.trans {m m' m'' : Main} (h : Profiles m m') (g : Profiles m' m'') : Profiles m m'' :=
  ⟨h.within.trans g.within, by rw [g.ylm, h.ylm]⟩

/-- YLM_PROFILE shows a profile and its step. -/
theorem profiles_show (p st : Nat) (m : Main) : Profiles m ((m.put F.YLM_PROFILE_PROFILE p).put F.YLM_PROFILE_STEP st) :=
  ⟨(Within.put m F.YLM_PROFILE_PROFILE p Nat.one_pos).trans (Within.put _ F.YLM_PROFILE_STEP st Nat.one_pos), by rw [Main.put_ylm, Main.put_ylm]⟩

theorem profiles_ylm (m : Main) (g : Sparse GroupPlan) (o : Nat) : Profiles m { m with ylm := { m.ylm with groups := g, evOrder := o } } :=
  ⟨Within.ylm m _, rfl⟩

theorem profiles_applyEvent (b : Img) (e : Nat × Nat × Nat × Nat) (m : Main) : Profiles m (applyEvent b e m) :=
  (profiles_ylm m _ _).trans (profiles_show _ _ _)

theorem profiles_recomputeProfile (abs : Nat) (m : Main) : Profiles m (recomputeProfile abs m) := by
  unfold recomputeProfile
  split
  · exact Profiles.refl m
  · have h (l : List (Nat × Nat × Nat × Nat)) (b : Img) : ∀ x, Profiles x (l.foldl (fun m e => applyEvent b e m) x) := by
      induction l with
      | nil => exact Profiles.refl
      | cons e t ih => exact fun x => (profiles_applyEvent b e x).trans (ih _)
    exact ((profiles_ylm m _ _).trans (profiles_show _ _ _)).trans (h _ _ _)

theorem profiles_almanacDue (abs : Nat) (m : Main) : Profiles m (almanacDue abs m) := by
  unfold almanacDue
  split
  · exact Profiles.refl m
  · extract_lets tai day
    split
    · exact Profiles.refl m
    · split
      · exact profiles_applyEvent _ _ m
      · exact Profiles.refl m

/-! ### Inputs and submitted scales -/

/-- The contexts and the base commands that wait, which inputs not yet due leave alone. -/
def SameLevels (m m' : Main) : Prop := m'.ctx.ctx = m.ctx.ctx ∧ m'.ctx.baseCmds = m.ctx.baseCmds

theorem SameLevels.trans {m m' m'' : Main} (h : SameLevels m m') (g : SameLevels m' m'') : SameLevels m m'' :=
  ⟨g.1.trans h.1, g.2.trans h.2⟩

theorem SameLevels.ofCtx {m m' : Main} (h : m'.ctx = m.ctx) : SameLevels m m' := ⟨by rw [h], by rw [h]⟩

/-- What the inputs that take effect may change: scales, set points and the count of late inputs among the registers. -/
abbrev Applies : Main → Main → Prop := Within [0x0E011C] [9] [.ctx, .pur, .red]

theorem applies_applyInput (i : Input) (m : Main) : Applies m (applyInput i m) := by
  unfold applyInput
  split
  · exact Within.ctx m _
  · next g s ramp _ =>
    extract_lets _ m1
    have h1 : Applies m m1 := Within.ctx m _
    split
    · next hg => exact h1.trans (Within.put m1 F.PUR_SCALE_SCALE _ (Nat.lt_succ_of_le hg))
    · exact h1
  · next l bf _ =>
    split
    · next hl => exact Within.put m F.PUR_HOST_SP _ (Nat.lt_succ_of_le hl)
    · exact Within.refl _ _ _ _
  · exact Within.ctx m _
  · exact Within.refl _ _ _ _
  · exact Within.refl _ _ _ _

theorem applies_late (m : Main) : Applies m (m.count F.RED_CNT 7) :=
  (Frame.put _ m F.RED_CNT _ 7 (Or.inl (by decide))).within

theorem applies_applyInputs (abs : Nat) (m : Main) : Applies m (applyInputs abs m) := by
  unfold applyInputs
  extract_lets due _ m1
  have h1 : Applies m m1 := Within.ctx m _
  refine h1.trans (Within.foldl _ _ (fun i _ x => ?_) m1)
  extract_lets m2 _ m3
  have h3 : Applies x m3 := (applies_applyInput i x).trans (Within.red m2 _)
  split
  · exact h3.trans (applies_late m3)
  · exact h3

/-- Inputs of later slots change no context. -/
theorem levels_applyInputs {abs : Nat} {m : Main} (h : ∀ x ∈ m.ctx.inputs, abs < x.slot) : SameLevels m (applyInputs abs m) := by
  have hnone : (m.ctx.inputs.filter fun i => decide (i.slot ≤ abs)) = [] :=
    List.filter_eq_nil_iff.2 fun i hi => by simpa using h i hi
  unfold applyInputs
  rw [hnone]
  exact ⟨rfl, rfl⟩

/-- A scale that is submitted changes no context. -/
structure Submits (m m' : Main) : Prop where
  within : Within [] [] [.ctx, .pur, .red] m m'
  levels : SameLevels m m'

theorem Submits.refl (m : Main) : Submits m m := ⟨Within.refl _ _ _ _, SameLevels.ofCtx rfl⟩

theorem Submits.trans {m m' m'' : Main} (h : Submits m m') (g : Submits m' m'') : Submits m m'' :=
  ⟨h.within.trans g.within, h.levels.trans g.levels⟩

theorem Submits.foldl (f : Main → Nat → Main) (l : List Nat) (h : ∀ m x, Submits m (f m x)) (m : Main) : Submits m (l.foldl f m) := by
  induction l generalizing m with
  | nil => exact Submits.refl m
  | cons x t ih => exact (h m x).trans (ih _)

theorem levels_acceptInput (k : InputKind) (m : Main) : SameLevels m (acceptInput k m) := by
  obtain ⟨past, h⟩ := acceptInput_eq k m
  rw [h]
  exact ⟨rfl, rfl⟩

/-- A loop group's scale stands as submitted. -/
def markSubmitted (g s : Nat) (m : Main) : Main := { m with pur := { m.pur with submitted := vmod m.pur.submitted g fun _ => s } }

theorem submits_markSubmitted (g s : Nat) (m : Main) : Submits m (markSubmitted g s m) := ⟨Within.pur m _, rfl, rfl⟩

theorem submits_acceptInput (k : InputKind) (m : Main) : Submits m (acceptInput k m) :=
  ⟨Within.mono (ws := []) (bs := []) (Frame.acceptInput _ k m).within, levels_acceptInput k m⟩

theorem submits_submitScale (g s ramp : Nat) (m : Main) : Submits m (submitScale g s ramp m) := by
  unfold submitScale
  split
  · exact Submits.refl m
  · exact (submits_markSubmitted g s m).trans (submits_acceptInput _ _)

theorem submits_submitScales (m : Main) : Submits m (submitScales m) := by
  unfold submitScales
  split
  · exact Submits.refl m
  · split
    · refine Submits.foldl _ _ (fun x l => ?_) m
      split
      · split
        · exact submits_submitScale _ _ _ x
        · exact Submits.refl x
      · exact Submits.refl x
    · exact Submits.foldl _ _ (fun x g => submits_submitScale _ _ _ x) m

/-! ### A slot's update -/

theorem within_updateModel (abs : Nat) (m : Main) : Within [] [7] [.pur] m (updateModel abs m) := by
  unfold updateModel
  extract_lets e m1 old
  have h1 : Within [] [7] [.pur] m m1 := by
    refine Within.foldl _ _ (fun f hf x => ?_) m
    have hf4 : f < 4 := List.mem_range.1 hf
    exact ((((Within.put x F.CTX_MODEL0_NOW_LO _ hf4).trans (Within.put _ F.CTX_MODEL1_NOW_HI _ hf4)).trans
      (Within.put _ F.CTX_MODEL1_LIT_COUNT _ hf4)).trans (Within.put _ F.CTX_MODEL2_TGT_LO _ hf4)).trans (Within.put _ F.CTX_MODEL3_TGT_HI _ hf4)
  exact h1.trans (Within.pur m1 _)

/-- The base commands and the wave entries that wait beyond slot `abs`. -/
def takeDue (abs : Nat) (m : Main) : Main := { m with
  ctx := { m.ctx with baseCmds := m.ctx.baseCmds.filter fun e => decide (abs < e.at') }
  wav := { m.wav with store := m.wav.store.filter fun e => decide (abs < e.1.at') } }

/-- Every live lantern takes steps 1 to 5 of R165 with the commands and entries that are due in `m`. -/
def stepLevels (abs : Nat) (m : Main) : Sparse Ctx :=
  smap (fun _ => Ctx.blank) (fun i c => if c.live then
    slotStep abs ((m.ctx.baseCmds.filter fun e => decide (e.at' ≤ abs)).filter fun e => e.lantern == i)
      ((m.wav.store.filter fun e => decide (e.1.at' ≤ abs)).filter fun e => e.1.lantern == i) c else c) m.ctx.ctx

def withLevels (c : Sparse Ctx) (m : Main) : Main := { m with ctx := { m.ctx with ctx := c } }

theorem slotUpdate_eq (abs : Nat) (m : Main) : slotUpdate abs m =
    updateModel abs ((withLevels (stepLevels abs m) (takeDue abs m)).put F.WAV_STORE_PENDING
      ((withLevels (stepLevels abs m) (takeDue abs m)).wav.store.length + (withLevels (stepLevels abs m) (takeDue abs m)).wav.reserved)) := rfl

/-- What a slot's update may change: the power model, the shown length of the wave store, the contexts and the store. -/
structure Updates (m m' : Main) : Prop where
  within : Within [] [7, 8] [.ctx, .wav, .pur] m m'
  waves : m'.wav.ctxs = m.wav.ctxs

theorem updates_slotUpdate (abs : Nat) (m : Main) : Updates m (slotUpdate abs m) ∧ (slotUpdate abs m).ctx.ctx = stepLevels abs m := by
  rw [slotUpdate_eq]
  generalize hn : (withLevels (stepLevels abs m) (takeDue abs m)).wav.store.length + (withLevels (stepLevels abs m) (takeDue abs m)).wav.reserved = n
  have h1 : Within [] [7, 8] [.ctx, .wav, .pur] m (withLevels (stepLevels abs m) (takeDue abs m)) :=
    ((Within.ctx m _).trans (Within.wav _ _)).trans (Within.ctx _ _)
  have h2 : Within [] [7, 8] [.ctx, .wav, .pur] (withLevels (stepLevels abs m) (takeDue abs m)) _ :=
    Within.put _ F.WAV_STORE_PENDING n Nat.one_pos
  have h3 := within_updateModel abs ((withLevels (stepLevels abs m) (takeDue abs m)).put F.WAV_STORE_PENDING n)
  have hwav := h3.same .wav
  have hctx := h3.same .ctx
  refine ⟨⟨(h1.trans h2).trans h3.mono, ?_⟩, ?_⟩
  · rw [hwav, Main.put_wav]
    rfl
  · rw [hctx, Main.put_ctx]
    rfl

/-! ### The waves that have ended -/

def freed (abs : Nat) (m : Main) : Main := { m with wav := { m.wav with
  ctxs := m.wav.ctxs.map fun c => if c.state = 3 ∧ c.endSlot ≤ abs then WaveCtx.free else c
  bound := m.wav.bound.filter fun x => decide (abs ≤ x.slot + 200) } }

theorem within_keepLast (abs : Nat) (m : Main) : Within [] [] [.red] m (keepLast abs m) := by
  unfold keepLast
  split
  · exact Within.red m _
  · exact Within.refl _ _ _ _

/-- A wave in RUNNING whose END_SLOT has come is FREE. -/
theorem keepLast_freeWaves (abs : Nat) (m : Main) : Within [] [8] [.wav, .red] m (keepLast abs (freeWaves abs m)) ∧
    (keepLast abs (freeWaves abs m)).wav.ctxs = m.wav.ctxs.map fun c => if c.state = 3 ∧ c.endSlot ≤ abs then WaveCtx.free else c := by
  have hshow : Within [] [8] [] (freed abs m) (freeWaves abs m) := within_showWaves _
  have hkeep := within_keepLast abs (freeWaves abs m)
  have hwav := hkeep.same .wav
  have hwav' := hshow.same .wav
  refine ⟨((Within.wav m _).trans hshow.mono).trans hkeep.mono, ?_⟩
  rw [hwav, hwav']
  rfl

end Sys2Proof.Machine
end

section
/-!
O7: a slot boundary ends cells, frees waves and moves the lanterns' levels (R39, R41, R165, R202, R421, R425).
-/
namespace Sys2Proof.Machine

/-! ### The slot that begins -/

/-- The slot is shown, and the local clock has come to it. -/
def beginSlot (abs : Nat) (m : Main) : Main :=
  ({ reachClock (10000000 * abs) m with ylm := { m.ylm with slot := abs } } : Main).put F.YLM_COURSE_SLOT (abs % 100)

theorem ylm_beginSlot (abs : Nat) (m : Main) : (beginSlot abs m).ylm = { m.ylm with slot := abs } := by
  unfold beginSlot
  rw [Main.put_ylm]

theorem within_beginSlot (abs : Nat) (m : Main) : Within [0x04001C] [0x10] [.time, .ylm] m (beginSlot abs m) :=
  ((runs_reachClock _ m).mono.trans (Within.ylm _ _)).trans (Within.put _ F.YLM_COURSE_SLOT _ Nat.one_pos)

theorem slot_beginSlot (abs : Nat) (m : Main) : (beginSlot abs m).get F.YLM_COURSE_SLOT = abs % 100 := by
  unfold beginSlot
  rw [Main.get_put_same _ _ _ _ (by decide)]
  exact Nat.mod_eq_of_lt (by simp only [F.YLM_COURSE_SLOT]; omega)

/-! ### What follows the cells' end -/

/-- The profile of the slot, computed anew after a jump of the clock, and the scales of the slot that ends. -/
def slotProfile (abs : Nat) (jump : Bool) (m : Main) : Main := keepScales (if jump then recomputeProfile abs m else almanacDue abs m)

/-- The inputs and the scales of the slot. -/
def slotInputs (abs : Nat) (m : Main) : Main := submitScales (applyInputs abs m)

/-- The levels of the slot, with a plan in execution. -/
def slotLevels (abs : Nat) (m : Main) : Main := if m.exec = Ex.noPlan ∨ m.exec = Ex.loading then m else slotUpdate abs m

/-- The fetch that was deferred to the boundary. -/
def slotFetches (abs : Nat) (m : Main) : Main := if m.ylm.deferred then fetchSlot abs m else m

theorem slotBoundary_awake {abs : Nat} {m : Main} (h : awake m = true) : slotBoundary abs m =
    slotFetches abs (keepLast abs (freeWaves abs (slotLevels abs (slotInputs abs
      (slotProfile abs (abs != m.slotNow + 1 && abs != m.slotNow) (muteStep (cellsEnd abs (beginSlot abs m)))))))) := by
  unfold slotBoundary
  exact if_neg (by simp [h])

theorem slotBoundary_asleep {abs : Nat} {m : Main} (h : awake m = false) : slotBoundary abs m = m := by
  unfold slotBoundary
  exact if_pos (by simp [h])

/-- What a boundary may change after the cells have ended. -/
structure Turns (m m' : Main) : Prop where
  within : Within [0x040020, 0x0E011C] [6, 7, 8, 9] [.ylm, .ctx, .wav, .pur, .red, .upd] m m'
  cells : m'.ylm.cells = m.ylm.cells
  slot : m'.ylm.slot = m.ylm.slot
  deferred : m'.ylm.deferred = m.ylm.deferred

section
variable {m m' m'' : Main}

theorem Turns.trans (h : Turns m m') (g : Turns m' m'') : Turns m m'' :=
  ⟨h.within.trans g.within, g.cells.trans h.cells, g.slot.trans h.slot, g.deferred.trans h.deferred⟩

theorem Turns.ofYlm (h : Within [0x040020, 0x0E011C] [6, 7, 8, 9] [.ylm, .ctx, .wav, .pur, .red, .upd] m m') (hy : m'.ylm = m.ylm) : Turns m m' :=
  ⟨h, by rw [hy], by rw [hy], by rw [hy]⟩

theorem Profiles.turns (h : Profiles m m') : Turns m m' := ⟨h.within.mono, by rw [h.ylm], by rw [h.ylm], by rw [h.ylm]⟩

end

theorem turns_keepScales (m : Main) : Turns m (keepScales m) := Turns.ofYlm (Within.ctx m _) rfl

theorem ctx_keepScales (m : Main) : ∃ v, (keepScales m).ctx = { m.ctx with prevScale := v } := ⟨_, rfl⟩

theorem profiles_slotProfile (abs : Nat) (jump : Bool) (m : Main) : Profiles m (if jump then recomputeProfile abs m else almanacDue abs m) := by
  split
  · exact profiles_recomputeProfile abs m
  · exact profiles_almanacDue abs m

theorem turns_slotProfile (abs : Nat) (jump : Bool) (m : Main) :
    Turns m (slotProfile abs jump m) ∧ (∃ v, (slotProfile abs jump m).ctx = { m.ctx with prevScale := v }) ∧ (slotProfile abs jump m).wav = m.wav := by
  unfold slotProfile
  have hp := profiles_slotProfile abs jump m
  have hk := turns_keepScales (if jump then recomputeProfile abs m else almanacDue abs m)
  obtain ⟨v, hv⟩ := ctx_keepScales (if jump then recomputeProfile abs m else almanacDue abs m)
  have hctx := hp.within.same .ctx
  have hwav := hp.within.same .wav
  exact ⟨hp.turns.trans hk, ⟨v, hv.trans (congrArg (fun c : CtxSt => { c with prevScale := v }) hctx)⟩, hwav⟩

theorem turns_slotInputs (abs : Nat) (m : Main) : Turns m (slotInputs abs m) ∧ (slotInputs abs m).wav = m.wav := by
  have h1 := applies_applyInputs abs m
  have h2 := submits_submitScales (applyInputs abs m)
  have hylm1 := h1.same .ylm
  have hylm2 := h2.within.same .ylm
  have hwav1 := h1.same .wav
  have hwav2 := h2.within.same .wav
  exact ⟨Turns.ofYlm (h1.mono.trans h2.within.mono) (hylm2.trans hylm1), hwav2.trans hwav1⟩

theorem levels_slotInputs {abs : Nat} {m : Main} (h : ∀ x ∈ m.ctx.inputs, abs < x.slot) : SameLevels m (slotInputs abs m) :=
  (levels_applyInputs h).trans (submits_submitScales _).levels

theorem turns_slotLevels (abs : Nat) (m : Main) : Turns m (slotLevels abs m) ∧ (slotLevels abs m).wav.ctxs = m.wav.ctxs := by
  unfold slotLevels
  split
  · exact ⟨Turns.ofYlm (Within.refl _ _ _ _) rfl, rfl⟩
  · obtain ⟨hup, -⟩ := updates_slotUpdate abs m
    have hylm := hup.within.same .ylm
    exact ⟨Turns.ofYlm hup.within.mono hylm, hup.waves⟩

theorem slotLevels_runs {abs : Nat} {m : Main} (h : Ex.listen ≤ m.exec) : (slotLevels abs m).ctx.ctx = stepLevels abs m := by
  have hexec : ¬ (m.exec = Ex.noPlan ∨ m.exec = Ex.loading) := by
    rintro (e | e) <;> rw [e] at h <;> exact absurd h (by decide)
  unfold slotLevels
  rw [if_neg hexec]
  exact (updates_slotUpdate abs m).2

theorem turns_slotFetches (abs : Nat) (m : Main) : Within [] [6, 8, 9] [.ylm, .ctx, .wav, .upd] m (slotFetches abs m) ∧
    (slotFetches abs m).ylm.cells = m.ylm.cells ∧ (slotFetches abs m).ylm.slot = m.ylm.slot := by
  unfold slotFetches
  split
  · by_cases h : runImg m = none ∨ cellsRun m = false
    · rw [fetchSlot_idle h]
      exact ⟨Within.ylm m _, rfl, rfl⟩
    · obtain ⟨hb, hr⟩ := not_or.1 h
      obtain ⟨b, hb⟩ := Option.ne_none_iff_exists'.1 hb
      rw [fetchSlot_runs hb (Bool.eq_true_of_not_eq_false hr)]
      obtain ⟨hf, -⟩ := foldl_fetchCell (preview abs m) b abs (undeferred m)
      have h1 : Within [] [6, 8, 9] [.ylm, .ctx, .wav, .upd] m (undeferred m) := Within.ylm m _
      exact ⟨h1.trans hf.within, hf.cells, hf.slot⟩
  · exact ⟨Within.refl _ _ _ _, rfl, rfl⟩

theorem slotFetches_none {abs : Nat} {m : Main} (h : m.ylm.deferred = false) : slotFetches abs m = m :=
  if_neg (by rw [h]; exact Bool.false_ne_true)

/-! ### The boundary -/

/-- The state in which the cells have ended and MUTED has its value. -/
def slotBegun (abs : Nat) (m : Main) : Main := muteStep (cellsEnd abs (beginSlot abs m))

/-- What the beginning of the slot may change. -/
theorem within_slotBegun (abs : Nat) (m : Main) :
    Within (0x04001C :: missedWords) [5, 6, 0xE, 0x10] [.time, .ylm, .red] m (slotBegun abs m) :=
  ((within_beginSlot abs m).mono.trans (ends_cellsEnd abs _).within.mono).trans (within_muteStep _).mono

theorem ylm_slotBegun (abs : Nat) (m : Main) :
    (slotBegun abs m).ylm = { m.ylm with slot := abs, cells := (cellsEnd abs (beginSlot abs m)).ylm.cells } := by
  have hmute := (within_muteStep (cellsEnd abs (beginSlot abs m))).same .ylm
  have hends := (ends_cellsEnd abs (beginSlot abs m)).ylm
  rw [ylm_beginSlot] at hends
  exact hmute.trans hends

theorem partnerFrame_beginSlot (abs : Nat) (m : Main) (l : Nat) (c : Cell) : partnerFrame (beginSlot abs m) l c = partnerFrame m l c := by
  unfold partnerFrame runImg
  rw [ylm_beginSlot]

theorem slotBegun_lane (abs : Nat) {l : Nat} (hl : l < 8) {m : Main} {c : Cell} (hc : vget m.ylm.cells l none = some c) :
    cellEnded abs m l c (slotBegun abs m) := by
  have hmute := within_muteStep (cellsEnd abs (beginSlot abs m))
  have hcell : vget (beginSlot abs m).ylm.cells l none = some c := by rw [ylm_beginSlot]; exact hc
  have hend := cellsEnd_lane abs hl hcell
  have hylm : (slotBegun abs m).ylm = (cellsEnd abs (beginSlot abs m)).ylm := hmute.same .ylm
  unfold cellEnded missedCell at hend ⊢
  rw [partnerFrame_beginSlot, (within_beginSlot abs m).get F.YLM_SHADOW_MISSED hl] at hend
  rw [hylm, show (slotBegun abs m).get F.YLM_SHADOW_MISSED l = _ from hmute.get F.YLM_SHADOW_MISSED hl]
  exact hend

theorem muted_slotBegun (abs : Nat) (m : Main) :
    (slotBegun abs m).bit F.RED_STATUS_MUTED = (m.red.mutePend || (m.bit F.RED_STATUS_MUTED && !m.red.clearPend)) := by
  have hbegin := within_beginSlot abs m
  have hends := (ends_cellsEnd abs (beginSlot abs m)).within
  have hred : (cellsEnd abs (beginSlot abs m)).red = m.red := (hends.same .red).trans (hbegin.same .red)
  have hmuted : (cellsEnd abs (beginSlot abs m)).bit F.RED_STATUS_MUTED = m.bit F.RED_STATUS_MUTED :=
    (hends.bit F.RED_STATUS_MUTED 0 Nat.one_pos).trans (hbegin.bit F.RED_STATUS_MUTED 0 Nat.one_pos)
  rw [← hred, ← hmuted]
  exact muted_muteStep _

/-- The state before the waves that have ended are freed. -/
def slotTurned (abs : Nat) (jump : Bool) (m : Main) : Main := slotLevels abs (slotInputs abs (slotProfile abs jump m))

theorem turns_slotTurned (abs : Nat) (jump : Bool) (m : Main) :
    Turns m (slotTurned abs jump m) ∧ (slotTurned abs jump m).wav.ctxs = m.wav.ctxs := by
  obtain ⟨h1, -, w1⟩ := turns_slotProfile abs jump m
  obtain ⟨h2, w2⟩ := turns_slotInputs abs (slotProfile abs jump m)
  obtain ⟨h3, w3⟩ := turns_slotLevels abs (slotInputs abs (slotProfile abs jump m))
  exact ⟨(h1.trans h2).trans h3, by rw [← w1, ← w2]; exact w3⟩

/-- With no input due the levels are those that the commands and wave entries of the slot give. -/
theorem levels_slotTurned {abs : Nat} {jump : Bool} {m : Main} (hexec : Ex.listen ≤ m.exec) (hin : ∀ x ∈ m.ctx.inputs, abs < x.slot) :
    (slotTurned abs jump m).ctx.ctx = stepLevels abs m := by
  obtain ⟨h1, ⟨v, hv⟩, w1⟩ := turns_slotProfile abs jump m
  obtain ⟨h2, w2⟩ := turns_slotInputs abs (slotProfile abs jump m)
  have hinputs : (slotProfile abs jump m).ctx.inputs = m.ctx.inputs := by rw [hv]
  have l1 : SameLevels m (slotProfile abs jump m) := ⟨by rw [hv], by rw [hv]⟩
  have hexec' : (slotInputs abs (slotProfile abs jump m)).exec = m.exec := (h1.trans h2).within.get F.YLM_STATUS_EXEC_STATE Nat.one_pos
  obtain ⟨hctx, hcmd⟩ := l1.trans (levels_slotInputs (hinputs ▸ hin))
  refine (slotLevels_runs (hexec' ▸ hexec)).trans ?_
  unfold stepLevels
  rw [hctx, hcmd, w2, w1]

/-- The state in which the waves that have ended are free. -/
def slotSettled (abs : Nat) (jump : Bool) (m : Main) : Main := keepLast abs (freeWaves abs (slotTurned abs jump m))

theorem turns_slotSettled (abs : Nat) (jump : Bool) (m : Main) : Turns m (slotSettled abs jump m) := by
  have hfree := (keepLast_freeWaves abs (slotTurned abs jump m)).1
  have hylm := hfree.same .ylm
  exact (turns_slotTurned abs jump m).1.trans (Turns.ofYlm hfree.mono hylm)

theorem waves_slotSettled (abs : Nat) (jump : Bool) (m : Main) {w : Fin 256} (hs : m.wav.ctxs[w].state = 3) (he : m.wav.ctxs[w].endSlot ≤ abs) :
    (slotSettled abs jump m).wav.ctxs[w] = WaveCtx.free := by
  have hfreed := (keepLast_freeWaves abs (slotTurned abs jump m)).2
  rw [(turns_slotTurned abs jump m).2] at hfreed
  rw [show (slotSettled abs jump m).wav.ctxs = _ from hfreed, Fin.getElem_fin, Vector.getElem_map]
  exact if_pos ⟨hs, he⟩

theorem levels_slotSettled {abs : Nat} {jump : Bool} {m : Main} (hexec : Ex.listen ≤ m.exec) (hin : ∀ x ∈ m.ctx.inputs, abs < x.slot) :
    (slotSettled abs jump m).ctx.ctx = stepLevels abs m := by
  have hctx : (slotSettled abs jump m).ctx = (slotTurned abs jump m).ctx := (keepLast_freeWaves abs (slotTurned abs jump m)).1.same .ctx
  rw [hctx]
  exact levels_slotTurned hexec hin

/-- What a boundary may change after the slot has begun. -/
theorem within_slotEnds (abs : Nat) (jump : Bool) (m : Main) :
    Within [0x040020, 0x0E011C] [6, 7, 8, 9] [.ylm, .ctx, .wav, .pur, .red, .upd] m (slotFetches abs (slotSettled abs jump m)) :=
  (turns_slotSettled abs jump m).within.trans (turns_slotFetches abs _).1.mono

theorem missedCell_eq_true {m : Main} {l : Nat} {c : Cell} :
    missedCell m l c = true ↔ c.shadow ∧ partnerFrame m l c = true ∧ c.heard = false ∧ c.idle = false := by
  unfold missedCell
  simp [and_assoc]

/-- The blocks that a slot boundary writes. -/
theorem boundary_blocks {a : Nat} (h : inRegs [] [4, 5, 6, 7, 8, 9, 0xE, 0x10] a) :
    inBlock 4 a ∨ inBlock 5 a ∨ inBlock 6 a ∨ inBlock 7 a ∨ inBlock 8 a ∨ inBlock 9 a ∨ inBlock 0x0E a ∨ inBlock 0x10 a := by
  simpa [inRegs, inBlock] using h

/-- What a slot boundary may change. -/
theorem within_slotBoundary (abs : Nat) (jump : Bool) (m : Main) :
    Within [] [4, 5, 6, 7, 8, 9, 0xE, 0x10] [.time, .ylm, .ctx, .wav, .pur, .red, .upd] m (slotFetches abs (slotSettled abs jump (slotBegun abs m))) :=
  (within_slotBegun abs m).mono.trans (within_slotEnds abs jump _).mono

/-- Settles O7: what the slot's beginning leaves (`slotBegun`) the later steps keep, and with nothing deferred they end with the levels and
the waves of `slotSettled`. -/
theorem slotBoundaryEndsCells : Obligations.SlotBoundaryEndsCells := by
  unfold Obligations.SlotBoundaryEndsCells
  intro s abs
  refine ⟨fun h => answersMain_of (f := slotBoundary abs) rfl (slotBoundary_asleep h), fun h => answersMain_of (f := slotBoundary abs) rfl ?_⟩
  have hrun : slotBoundary abs s.main = slotFetches abs (slotSettled abs (abs != s.main.slotNow + 1 && abs != s.main.slotNow) (slotBegun abs s.main)) :=
    slotBoundary_awake h
  rw [hrun]
  generalize (abs != s.main.slotNow + 1 && abs != s.main.slotNow) = jump
  have hbegun := within_slotBegun abs s.main
  have hends := within_slotEnds abs jump (slotBegun abs s.main)
  have hturns := turns_slotSettled abs jump (slotBegun abs s.main)
  obtain ⟨-, hcells, hslot⟩ := turns_slotFetches abs (slotSettled abs jump (slotBegun abs s.main))
  have hylm := ylm_slotBegun abs s.main
  refine ⟨?_, ?_, fun l c hc => ?_, ?_, fun hd => ?_, ?_⟩
  · exact hslot.trans (hturns.slot.trans (by rw [hylm]))
  · rw [hends.get F.YLM_COURSE_SLOT Nat.one_pos]
    have hmuted := within_muteStep (cellsEnd abs (beginSlot abs s.main))
    have hcellsEnd := (ends_cellsEnd abs (beginSlot abs s.main)).within
    exact (hmuted.get F.YLM_COURSE_SLOT Nat.one_pos).trans ((hcellsEnd.get F.YLM_COURSE_SLOT Nat.one_pos).trans (slot_beginSlot abs s.main))
  · have hlane := slotBegun_lane abs l.isLt (by rw [vget_fin]; exact hc)
    unfold cellEnded at hlane
    rw [hends.get F.YLM_SHADOW_MISSED l.isLt, hcells, hturns.cells]
    simp only [missedCell_eq_true] at hlane
    rw [vget_fin] at hlane
    exact hlane
  · rw [hends.bit F.RED_STATUS_MUTED 0 Nat.one_pos]
    exact muted_slotBegun abs s.main
  · have hctx : (slotBegun abs s.main).ctx = s.main.ctx := hbegun.same .ctx
    have hwav : (slotBegun abs s.main).wav = s.main.wav := hbegun.same .wav
    have hexec : (slotBegun abs s.main).exec = s.main.exec := hbegun.get F.YLM_STATUS_EXEC_STATE Nat.one_pos
    rw [slotFetches_none (hturns.deferred.trans (by rw [hylm]; exact hd))]
    refine ⟨fun w hw he => waves_slotSettled abs jump _ (by rw [hwav]; exact hw) (by rw [hwav]; exact he), fun he hin => ?_⟩
    rw [levels_slotSettled (by rw [hexec]; exact he) (by rw [hctx]; exact hin)]
    unfold stepLevels
    rw [hctx, hwav]
  · exact (within_slotBoundary abs jump s.main).report fun _ ha => boundary_blocks ha

end Sys2Proof.Machine
end

section
/-!
SUPPORT. What a bundle that is put in force changes (R41, R57, R58, R64, R77, R169, R210, R236, R249, R396, R412, R543).
-/
namespace Sys2Proof.Machine

theorem Within.rdg {ws bs : List Nat} {ps : List Part} (m : Main) (v : Rdg) (h : Part.rdg ∈ ps := by decide) :
    Within ws bs ps m { m with rdg := v } :=
  Within.parts rfl (fun p hp _ _ => by cases p <;> first | rfl | exact absurd h hp) (List.suffix_refl _)

/-! ### The contexts -/

theorem within_withCtx (i : Nat) (f : Ctx → Ctx) (m : Main) : Within [] [] [.ctx] m (withCtx i f m) := Within.ctx m _

theorem within_loadCtxs (b : Img) (keep : Bool) (m : Main) : Within [] [] [.ctx] m (loadCtxs b keep m) := by
  unfold loadCtxs
  extract_lets n _ m1 _ m2
  have h1 : Within [] [] [.ctx] m m1 := Within.ite _ (Within.ctx m _) (Within.ctx m _)
  have h2 : Within [] [] [.ctx] m1 m2 := Within.ctx m1 _
  exact (h1.trans h2).trans (Within.foldl _ _ (fun i _ x => (within_withCtx i _ x).trans (Within.ctx _ _)) m2)

/-! ### The role and the mode -/

/-- What a change of mode writes. -/
theorem within_setMode (new cause : Nat) (m : Main) : Within [] [0, 1] [] m (setMode new cause m) := by
  unfold setMode
  extract_lets old m1
  have h1 : Within [] [0, 1] [] m m1 :=
    ((Within.put m F.PWR_MODE_CAUSE cause Nat.one_pos).trans (Within.put _ F.PWR_MODE_PREV old Nat.one_pos)).trans
      (Within.put _ F.PWR_MODE_MODE new Nat.one_pos)
  have h2 : Within [] [0, 1] [] m1 (showMode m1) := Within.put m1 F.GLB_STATUS_MODE _ Nat.one_pos
  refine Within.ite _ (Within.refl _ _ _ _) ((h1.trans h2).trans ?_)
  exact (((keeps_record ..).trans (keeps_sky ..)).trans (keeps_fire 0 _ (by decide))).within _ _ _

theorem within_followRole (m : Main) : Within [] [0, 1] [] m (followRole m) :=
  Within.ite _ (within_setMode _ _ m) (Within.refl _ _ _ _)

theorem within_setRole (role : Nat) (m : Main) : Within [] [0xE] [.red] m (setRole role m) :=
  (Within.red m _).trans (Within.putBit _ F.RED_STATUS_ACTIVE _ 0 Nat.one_pos)

theorem within_keepSubmitted (m : Main) : Within [] [] [.pur] m (keepSubmitted m) := Within.pur m _

/-- What a change of role may write. -/
abbrev Roles : Main → Main → Prop := Within [] [0, 1, 0xE] [.ctx, .pur, .red]

theorem roles_loadPair (b : Img) (m : Main) : Roles m (loadPair b m) := by
  unfold loadPair
  extract_lets two seat other m0 _ m1 m2
  have h1 : Roles m m1 := Within.ite _ (Within.refl _ _ _ _)
    (((Within.putBit m F.RED_STATUS_PARTNER_UP false 0 Nat.one_pos).trans (Within.putBit _ F.RED_STATUS_IN_SYNC false 0 Nat.one_pos)).trans
      (Within.red _ _))
  have h2 : Roles m1 m2 :=
    ((Within.putBit m1 F.RED_STATUS_PAIRED two 0 Nat.one_pos).trans (Within.put _ F.RED_STATUS_SEAT seat Nat.one_pos)).trans
      (Within.put _ F.RED_STATUS_PARTNER other Nat.one_pos)
  have h3 : Roles m2 (if m2.red.role = 1 then keepSubmitted m2 else m2) := Within.ite _ (within_keepSubmitted m2).mono (Within.refl _ _ _ _)
  refine (h1.trans h2).trans (Within.ite _ (Within.refl _ _ _ _) ?_)
  exact ((h3.trans (Within.putBit _ F.RED_STATUS_MUTED false 0 Nat.one_pos)).trans (within_setRole 2 _).mono).trans (within_followRole _).mono

/-! ### The loops and the ports -/

theorem within_withLoop (l : Nat) (f : PLoop → PLoop) (m : Main) : Within [] [9] [.pur] m (withLoop l f m) := Within.pur m _

theorem within_setLoop {l : Nat} (hl : l < 16) (st : Nat) (m : Main) : Within [] [9] [.pur] m (setLoop l st m) :=
  ((Within.put m F.PUR_LOOP_STATUS_STATE st hl).trans (Within.putBit _ F.PUR_STATUS_RUNNING _ l Nat.one_pos)).trans
    (Within.putBit _ F.PUR_STATUS_FROZEN _ l Nat.one_pos)

theorem within_stopLoops (m : Main) : Within [] [9] [.pur] m (stopLoops m) := by
  refine Within.foldl _ _ (fun l hl x => ?_) m
  have hl16 : l < 16 := List.mem_range.1 hl
  exact ((((((Within.put x F.PUR_LOOP_STATUS_CAUSE 0 hl16).trans (Within.putBit _ F.PUR_LOOP_STATUS_SRC_FAULT false 0 hl16)).trans
    (Within.putBit _ F.PUR_LOOP_STATUS_SP_FAST false 0 hl16)).trans (Within.putBit _ F.PUR_LOOP_STATUS_CAP_UNREACH false 0 hl16)).trans
    (Within.putBit _ F.PUR_LOOP_STATUS_FB_INVALID false 0 hl16))).trans (within_setLoop hl16 _ _)

theorem within_showOut (b : Img) (o : Nat) {l : Nat} (hl : l < 16) (m : Main) : Within [] [9] [.pur] m (showOut b o l m) := by
  unfold showOut
  extract_lets y m1
  have h1 : Within [] [9] [.pur] m m1 := Within.put m F.PUR_OUT _ hl
  exact h1.trans (Within.ite _ (Within.refl _ _ _ _) (Within.put m1 F.PUR_DEST_VAL _ hl))

theorem within_startLoop (b : Img) (o y : Nat) {l : Nat} (hl : l < 16) (m : Main) : Within [] [9] [.pur] m (startLoop b o l y m) :=
  ((((Within.put m F.PUR_LOOP_STATUS_CAUSE 0 hl).trans (Within.putBit _ F.PUR_LOOP_STATUS_SP_FAST false 0 hl)).trans
    (within_withLoop l _ _)).trans (within_setLoop hl _ _)).trans (within_showOut b o hl _)

theorem within_startLoops (m : Main) : Within [] [9] [.pur] m (startLoops m) := by
  have hstop := within_stopLoops m
  unfold startLoops
  extract_lets stopped
  split
  · refine Within.ite _ hstop (hstop.trans (Within.foldl _ _ (fun l hl x => ?_) stopped))
    have hl16 : l < 16 := List.mem_range.1 hl
    split
    · exact (within_withLoop l _ x).trans (within_startLoop _ _ _ hl16 _)
    · exact Within.refl _ _ _ _
  · exact hstop

theorem within_loadScales (b : Img) (m : Main) : Within [] [9] [.pur] m (loadScales b m) := by
  refine Within.foldl _ _ (fun g hg x => ?_) m
  have hg16 : g < 16 := List.mem_range.1 hg
  extract_lets named
  exact Within.ite _ (Within.refl _ _ _ _) ((Within.pur x _).trans (Within.put _ F.PUR_SCALE_SCALE 4096 hg16))

theorem within_showRoutes (m : Main) : Within [] [0xD] [.rdg] m (showRoutes m) :=
  ((Within.put m F.RDG_PORT_STATUS_PLANNED _ (n := 2) (by decide)).trans
    (Within.put _ F.RDG_PORT_STATUS_PLANNED _ (n := 2) (by decide))).trans (Within.put _ F.RDG_RT _ Nat.one_pos)

theorem within_setPort {p : Nat} (hp : p < 2) (st : Nat) (m : Main) : Within [] [0xD] [.rdg] m (setPort p st m) := by
  unfold setPort
  extract_lets old m1 m2
  have h1 : Within [] [0xD] [.rdg] m m1 := (Within.put m F.RDG_PORT_STATUS_STATE st hp).trans (Within.rdg _ _)
  have h2 : Within [] [0xD] [.rdg] m1 m2 := (keeps_fireIf _ 46 m1 (by decide)).within _ _ _
  refine Within.ite _ (Within.refl _ _ _ _) ((h1.trans h2).trans (Within.ite _ ?_ (Within.refl _ _ _ _)))
  exact ((keeps_fire 47 m2 (by decide)).trans (keeps_record ..)).within _ _ _

theorem within_recheckPorts (m : Main) : Within [] [0xD] [.rdg] m (recheckPorts m) :=
  (within_showRoutes m).trans (Within.foldl _ _ (fun _ hp _ => Within.ite _ (within_setPort (List.mem_range.1 hp) _ _) (Within.refl _ _ _ _)) _)

/-! ### The offset and the template -/

theorem within_utcOffset (tai : Nat) (m : Main) : Within [0x040008, 0x040028] [] [.time] m (utcOffset tai m) := by
  unfold utcOffset
  extract_lets off kept src _ m1 m2
  have h2 : Within [0x040008, 0x040028] [] [.time] m m2 := (Within.time m _).trans (Within.put _ F.YLM_STATUS_UTC_SRC _ Nat.one_pos)
  exact Within.ite _ h2 (h2.trans (Within.putBit m2 F.YLM_ERR_UTC_FALLBACK true 0 Nat.one_pos))

theorem within_showTemplate (m : Main) : Within [0x04001C] [] [] m (showTemplate m) := Within.put m F.YLM_COURSE_TEMPLATE _ Nat.one_pos

end Sys2Proof.Machine
end

section
/-!
SUPPORT. A bundle that is put in force (R57, R58, R64, R74, R77, R118, R210), and the entry to LISTEN (R563).
-/
namespace Sys2Proof.Machine

/-! ### Lines of the status and error words -/

/-- The offset in force writes UTC_SRC and UTC_FALLBACK alone. -/
theorem get_utcOffset (tai : Nat) (m : Main) (f : Field) (i : Nat) (h : f.lo + f.width ≤ 6 ∨ 7 ≤ f.lo ∧ f.lo + f.width ≤ 12) :
    (utcOffset tai m).get f i = m.get f i := by
  unfold utcOffset
  extract_lets off kept src _ m1 m2
  have h2 : m2.get f i = m.get f i := Main.get_put_bits m1 F.YLM_STATUS_UTC_SRC f _ 0 i (by decide) (by
    simp only [F.YLM_STATUS_UTC_SRC]; omega)
  split
  · exact h2
  · refine (Main.get_put_bits m2 F.YLM_ERR_UTC_FALLBACK f _ 0 i (by decide) ?_).trans h2
    simp only [F.YLM_ERR_UTC_FALLBACK]
    omega

/-- The plan's own lines of YLM_STATUS lie above its low byte. -/
theorem get_showPlan (m : Main) (f : Field) (i : Nat) (h : f.lo + f.width ≤ 8) : (showPlan m).get f i = m.get f i := by
  have one (x : Main) (g : Field) (v : Nat) (hg : 8 ≤ g.lo ∧ g.lo + g.width ≤ 32 := by decide) : (x.put g v).get f i = x.get f i :=
    Main.get_put_bits x g f v 0 i hg.2 (Or.inl (h.trans hg.1))
  unfold showPlan
  dsimp only
  split
  · exact (one _ F.YLM_STATUS_PROBATION _).trans ((one _ F.YLM_STATUS_RUN_BANK _).trans ((one _ F.YLM_STATUS_RUN_EPOCH _).trans
      (one m F.YLM_STATUS_PREV_EPOCH _)))
  · exact (one _ F.YLM_STATUS_PROBATION _).trans ((one _ F.YLM_STATUS_RUN_BANK _).trans ((one _ F.YLM_STATUS_RUN_EPOCH _).trans
      (one m F.YLM_STATUS_PREV_EPOCH _)))

/-- YLM_STATUS shows the bundle of bank `r` as the one that runs. -/
structure ShowsRun (m : Main) (r epoch : Nat) (probation : Bool) : Prop where
  epoch : m.get F.YLM_STATUS_RUN_EPOCH = epoch
  bank : m.get F.YLM_STATUS_RUN_BANK = r
  probation : m.bit F.YLM_STATUS_PROBATION = probation

theorem Within.showsRun {ws bs : List Nat} {ps : List Part} {m m' : Main} {r epoch : Nat} {p : Bool} (h : Within ws bs ps m m')
    (hs : ShowsRun m r epoch p) (hw : F.YLM_STATUS_RUN_EPOCH.still 1 ws bs = true := by decide) : ShowsRun m' r epoch p where
  epoch := (h.get F.YLM_STATUS_RUN_EPOCH Nat.one_pos hw).trans hs.epoch
  bank := (h.get F.YLM_STATUS_RUN_BANK Nat.one_pos hw).trans hs.bank
  probation := (h.bit F.YLM_STATUS_PROBATION 0 Nat.one_pos hw).trans hs.probation

/-- The executor's state stands in lines of its own. -/
theorem ShowsRun.setExec {m : Main} {r epoch : Nat} {p : Bool} (h : ShowsRun m r epoch p) (st : Nat) : ShowsRun (setExec st m) r epoch p where
  epoch := (Main.get_put_bits m F.YLM_STATUS_EXEC_STATE _ st 0 0 (by decide) (by decide)).trans h.epoch
  bank := (Main.get_put_bits m F.YLM_STATUS_EXEC_STATE _ st 0 0 (by decide) (by decide)).trans h.bank
  probation := (congrArg (bitOf · 0) (Main.get_put_bits m F.YLM_STATUS_EXEC_STATE F.YLM_STATUS_PROBATION st 0 0 (by decide) (by decide))).trans
    h.probation

/-- The lines that show a running bundle. -/
def showRun (e r : Nat) (p : Bool) (m : Main) : Main :=
  ((m.put F.YLM_STATUS_RUN_EPOCH e).put F.YLM_STATUS_RUN_BANK r).putBit F.YLM_STATUS_PROBATION p

theorem showsRun_showRun {e r : Nat} (he : e < 256) (hr : r < 2) (p : Bool) (m : Main) : ShowsRun (showRun e r p m) r e p := by
  have hlast (x : Main) (f : Field) (h : 10 ≤ f.lo ∨ f.lo + f.width ≤ 9) : (x.putBit F.YLM_STATUS_PROBATION p).get f = x.get f :=
    Main.get_put_bits x F.YLM_STATUS_PROBATION f _ 0 0 (by decide) h.symm
  refine ⟨?_, ?_, ?_⟩
  · refine (hlast _ F.YLM_STATUS_RUN_EPOCH (by decide)).trans ?_
    refine (Main.get_put_bits _ F.YLM_STATUS_RUN_BANK F.YLM_STATUS_RUN_EPOCH r 0 0 (by decide) (by decide)).trans ?_
    exact (Main.get_put_same m F.YLM_STATUS_RUN_EPOCH e 0 (by decide)).trans (Nat.mod_eq_of_lt he)
  · refine (hlast _ F.YLM_STATUS_RUN_BANK (by decide)).trans ?_
    exact (Main.get_put_same _ F.YLM_STATUS_RUN_BANK r 0 (by decide)).trans (Nat.mod_eq_of_lt hr)
  · exact (Main.bit_putBit _ F.YLM_STATUS_PROBATION p 0 0 0 (by decide) (by decide)).trans (if_pos rfl)

theorem bankEpoch_lt (m : Main) (b : Nat) : bankEpoch m b < 256 := epoch_lt _

/-- The epoch that YLM_STATUS shows as the previous one. -/
def prevShown (m : Main) : Nat := match bankIn m Bk.previous with | some b => bankEpoch m b | none => 0

/-- The lines of the bundle that runs, if any. -/
def showRunning (m : Main) : Main :=
  match m.ylm.run with
  | some b => showRun (bankEpoch m b) b (bankState m b == Bk.probation) m
  | none => showRun 0 0 false m

theorem showPlan_eq (m : Main) : showPlan m = showRunning (m.put F.YLM_STATUS_PREV_EPOCH (prevShown m)) := rfl

theorem showRunning_some {m : Main} {r : Fin 2} (h : m.ylm.run = some r) :
    showRunning m = showRun (bankEpoch m r) r (bankState m r == Bk.probation) m := by
  unfold showRunning
  rw [h]

/-- The plan's lines show the bundle that runs. -/
theorem showsRun_showPlan {m : Main} {r : Fin 2} (h : m.ylm.run = some r) :
    ShowsRun (showPlan m) r (bankEpoch m r) (bankState m r == Bk.probation) := by
  rw [showPlan_eq]
  generalize prevShown m = prev
  have hstate : bankState (m.put F.YLM_STATUS_PREV_EPOCH prev) r = bankState m r :=
    (Within.put (ws := [0x040008]) (bs := []) (ps := []) m F.YLM_STATUS_PREV_EPOCH prev Nat.one_pos).bankState r.isLt
  have hepoch : bankEpoch (m.put F.YLM_STATUS_PREV_EPOCH prev) r = bankEpoch m r := by
    unfold bankEpoch
    rw [bankOf_put]
  rw [showRunning_some (by rw [Main.put_ylm]; exact h), hstate, hepoch]
  exact showsRun_showRun (bankEpoch_lt m r) r.isLt _ _

/-! ### A bundle is loaded -/

/-- What stands before the lines that show a bundle, and what stands behind them. -/
def planBehind (b : Img) (keep : Bool) (m : Main) : Main :=
  let m := loadPair b (loadCtxs b keep m)
  let m := m.put F.WAV_TABLE_ENTRIES (if (sect b 11).isSome then wavEntries b else 0)
  recomputeProfile m.slotNow (utcOffset m.course m)

def planAhead (b : Img) (m : Main) : Main := recheckPorts (startLoops (loadScales b (showTemplate m)))

theorem loadPlan_eq (b : Img) (keep : Bool) (m : Main) : loadPlan b keep m = planAhead b (showPlan (planBehind b keep m)) := rfl

/-- What loading a bundle leaves of the executor: all but the groups' levels and the order of events. -/
structure Loads (m m' : Main) : Prop where
  within : Within [0x040008, 0x04001C, 0x040020, 0x040028] [0, 1, 8, 9, 0xD, 0xE] [.time, .ylm, .ctx, .pur, .rdg, .red] m m'
  ylm : m'.ylm = { m.ylm with groups := m'.ylm.groups, evOrder := m'.ylm.evOrder }

theorem Loads.trans {m m' m'' : Main} (h : Loads m m') (g : Loads m' m'') : Loads m m'' :=
  ⟨h.within.trans g.within, by rw [g.ylm, h.ylm]⟩

theorem Loads.ofYlm {m m' : Main} (h : Within [0x040008, 0x04001C, 0x040020, 0x040028] [0, 1, 8, 9, 0xD, 0xE] [.time, .ylm, .ctx, .pur, .rdg, .red] m m')
    (hy : m'.ylm = m.ylm) : Loads m m' := ⟨h, by rw [hy]⟩

theorem Loads.bankOf {m m' : Main} (h : Loads m m') (b : Nat) : bankOf m' b = bankOf m b := by
  unfold Machine.bankOf
  rw [h.ylm]

theorem Loads.bankEpoch {m m' : Main} (h : Loads m m') (b : Nat) : bankEpoch m' b = bankEpoch m b := by
  unfold Machine.bankEpoch
  rw [h.bankOf]

theorem loads_planBehind (b : Img) (keep : Bool) (m : Main) : Loads m (planBehind b keep m) := by
  unfold planBehind
  extract_lets m1 m2
  have hctxs := within_loadCtxs b keep m
  have h1 : Within [] [0, 1, 0xE] [.ctx, .pur, .red] m m1 := hctxs.mono.trans (roles_loadPair b _)
  have hylm1 : m1.ylm = m.ylm := h1.same .ylm
  have h2 : Within [] [8] [] m1 m2 := Within.put m1 F.WAV_TABLE_ENTRIES _ Nat.one_pos
  have hylm2 : m2.ylm = m1.ylm := h2.same .ylm
  have h3 := within_utcOffset m2.course m2
  have hylm3 : (utcOffset m2.course m2).ylm = m2.ylm := h3.same .ylm
  have h4 := profiles_recomputeProfile m2.slotNow (utcOffset m2.course m2)
  exact (((Loads.ofYlm h1.mono hylm1).trans (Loads.ofYlm h2.mono hylm2)).trans (Loads.ofYlm h3.mono hylm3)).trans ⟨h4.within.mono, h4.ylm⟩

/-- Lines that the offset in force does not write stay. -/
theorem get_planBehind (b : Img) (keep : Bool) (m : Main) (f : Field) (h : f.lo + f.width ≤ 6 ∨ 7 ≤ f.lo ∧ f.lo + f.width ≤ 12)
    (hw : f.still 1 [0x040020] [0, 1, 8, 0xE] = true) : (planBehind b keep m).get f = m.get f := by
  unfold planBehind
  extract_lets m1 m2
  have hctxs := within_loadCtxs b keep m
  have h1 : Within [0x040020] [0, 1, 8, 0xE] [.ylm, .ctx, .pur, .red] m m1 := hctxs.mono.trans (roles_loadPair b _).mono
  have h2 : Within [0x040020] [0, 1, 8, 0xE] [.ylm, .ctx, .pur, .red] m1 m2 := Within.put m1 F.WAV_TABLE_ENTRIES _ Nat.one_pos
  have h4 : Within [0x040020] [0, 1, 8, 0xE] [.ylm, .ctx, .pur, .red] (utcOffset m2.course m2) (recomputeProfile m2.slotNow (utcOffset m2.course m2)) :=
    (profiles_recomputeProfile _ _).within.mono
  exact (h4.get f Nat.one_pos hw).trans ((get_utcOffset _ m2 f 0 h).trans ((h1.trans h2).get f Nat.one_pos hw))

theorem within_planAhead (b : Img) (m : Main) : Within [0x04001C] [9, 0xD] [.pur, .rdg] m (planAhead b m) :=
  (((within_showTemplate m).mono.trans (within_loadScales b _).mono).trans (within_startLoops _).mono).trans (within_recheckPorts _).mono

theorem loads_loadPlan (b : Img) (keep : Bool) (m : Main) : Loads m (loadPlan b keep m) := by
  rw [loadPlan_eq]
  have h1 := within_showPlan (planBehind b keep m)
  have hylm1 : (showPlan (planBehind b keep m)).ylm = (planBehind b keep m).ylm := h1.same .ylm
  have h2 := within_planAhead b (showPlan (planBehind b keep m))
  have hylm2 : (planAhead b (showPlan (planBehind b keep m))).ylm = (showPlan (planBehind b keep m)).ylm := h2.same .ylm
  exact ((loads_planBehind b keep m).trans (Loads.ofYlm h1.mono hylm1)).trans (Loads.ofYlm h2.mono hylm2)

/-- The executor's state and the error bits of a switch and a rollback stay when a bundle is loaded. -/
theorem get_loadPlan (b : Img) (keep : Bool) (m : Main) (f : Field) (h : f.lo + f.width ≤ 6 ∨ 7 ≤ f.lo ∧ f.lo + f.width ≤ 8)
    (hb : f.still 1 [0x040020] [0, 1, 8, 0xE] = true := by decide)
    (ha : f.still 1 [0x04001C] [9, 0xD] = true := by decide) :
    (loadPlan b keep m).get f = m.get f := by
  rw [loadPlan_eq, (within_planAhead b _).get f Nat.one_pos ha, get_showPlan _ f 0 (by omega)]
  exact get_planBehind b keep m f (by omega) hb

theorem exec_loadPlan (b : Img) (keep : Bool) (m : Main) : (loadPlan b keep m).exec = m.exec :=
  get_loadPlan b keep m F.YLM_STATUS_EXEC_STATE (by decide)

theorem showsRun_loadPlan (b : Img) (keep : Bool) {m : Main} {r : Fin 2} (h : m.ylm.run = some r) :
    ShowsRun (loadPlan b keep m) r (bankEpoch m r) (bankState m r == Bk.probation) := by
  have hbehind := loads_planBehind b keep m
  have hrun : (planBehind b keep m).ylm.run = some r := by rw [hbehind.ylm]; exact h
  have hshow := showsRun_showPlan hrun
  rw [hbehind.bankEpoch, hbehind.within.bankState r.isLt] at hshow
  rw [loadPlan_eq]
  exact (within_planAhead b _).showsRun hshow

/-! ### The edge between two epochs -/

theorem within_discardWaves (m : Main) : Within [] [8] [.wav] m (discardWaves m) := by
  unfold discardWaves
  extract_lets gone waves m1
  have h1 : Within [] [8] [.wav] m m1 := within_wavCount m _
  exact (h1.trans (Within.wav m1 _)).trans (within_showWaves _)

/-- The accepted previous epoch, the chains that end and the fetch that is made anew. -/
def edgeParts (old : Option Nat) (m : Main) : Main := { m with
  ctx := { m.ctx with prevEpoch := old, epochAt := m.course, push := none }
  upd := { m.upd with chains := [], sched := [] }
  ylm := { m.ylm with deferred := true } }

theorem within_edgeParts (old : Option Nat) (m : Main) : Within [] [] [.ylm, .ctx, .upd] m (edgeParts old m) := by
  refine Within.parts rfl (fun p hp _ _ => ?_) (List.suffix_refl _)
  cases p with
  | ylm | ctx | upd => exact absurd (by decide) hp
  | _ => rfl

theorem keeps_epochEdge (old : Option Nat) (bank how : Nat) (m : Main) : Keeps (edgeParts old (discardWaves m)) (epochEdge old bank how m) :=
  (keeps_record ..).trans (keeps_fire 24 _ (by decide))

/-- What the edge between two epochs may change. -/
theorem within_epochEdge (old : Option Nat) (bank how : Nat) (m : Main) : Within [] [8] [.ylm, .ctx, .wav, .upd] m (epochEdge old bank how m) :=
  ((within_discardWaves m).mono.trans (within_edgeParts old _).mono).trans ((keeps_epochEdge old bank how m).within _ _ _)

theorem ylm_epochEdge (old : Option Nat) (bank how : Nat) (m : Main) : (epochEdge old bank how m).ylm = { m.ylm with deferred := true } := by
  have hwaves : (discardWaves m).ylm = m.ylm := (within_discardWaves m).same .ylm
  rw [(keeps_epochEdge old bank how m).ylm]
  exact congrArg (fun y : Ylm => { y with deferred := true }) hwaves

theorem prevEpoch_epochEdge (old : Option Nat) (bank how : Nat) (m : Main) : (epochEdge old bank how m).ctx.prevEpoch = old := by
  rw [(keeps_epochEdge old bank how m).ctx]
  rfl

theorem pends_epochEdge (old : Option Nat) (bank how : Nat) (m : Main) : pends (epochEdge old bank how m) 24 = true :=
  pends_fire 24 _ (by decide) rfl

/-! ### The entry to LISTEN -/

theorem within_setExec (st : Nat) (m : Main) : Within [0x040008] [] [] m (setExec st m) := Within.put m F.YLM_STATUS_EXEC_STATE st Nat.one_pos

theorem exec_setExec {st : Nat} (h : st < 16) (m : Main) : (setExec st m).exec = st :=
  (Main.get_put_same m F.YLM_STATUS_EXEC_STATE st 0 (by decide)).trans (Nat.mod_eq_of_lt h)

theorem within_allLanes (st : Nat) (m : Main) : Within [] [5, 6] [] m (allLanes st m) :=
  Within.foldl _ _ (fun _ hl x => within_setLane (List.mem_range.1 hl) st x) m

/-- What the entry to LISTEN notes. -/
def listenParts (m : Main) : Main := { m with
  ylm := { m.ylm with listenAt := m.course, deferred := true }
  eav := { m.eav with started := true } }

theorem within_listenParts (m : Main) : Within [] [] [.ylm, .eav] m (listenParts m) := by
  refine Within.parts rfl (fun p hp _ _ => ?_) (List.suffix_refl _)
  cases p with
  | ylm | eav => exact absurd (by decide) hp
  | _ => rfl

theorem enterListen_eq (m : Main) : enterListen m =
    if lanesOn (setExec Ex.listen (listenParts m)) then allLanes 1 (setExec Ex.listen (listenParts m)) else setExec Ex.listen (listenParts m) := rfl

theorem lanesStart (m : Main) : Within [] [5, 6] [] (setExec Ex.listen (listenParts m)) (enterListen m) := by
  rw [enterListen_eq]
  exact Within.ite _ (within_allLanes 1 _) (Within.refl _ _ _ _)

theorem within_enterListen (m : Main) : Within [0x040008] [5, 6] [.ylm, .eav] m (enterListen m) :=
  ((within_listenParts m).mono.trans (within_setExec _ _).mono).trans (lanesStart m).mono

theorem ylm_enterListen (m : Main) : (enterListen m).ylm = { m.ylm with listenAt := m.course, deferred := true } := by
  have hlanes : (enterListen m).ylm = (setExec Ex.listen (listenParts m)).ylm := (lanesStart m).same .ylm
  have hexec : (setExec Ex.listen (listenParts m)).ylm = (listenParts m).ylm := (within_setExec _ _).same .ylm
  exact hlanes.trans hexec

theorem showsRun_enterListen {m : Main} {r e : Nat} {p : Bool} (h : ShowsRun m r e p) : ShowsRun (enterListen m) r e p :=
  (lanesStart m).showsRun (((within_listenParts m).showsRun h).setExec _)

/-- What the entry to LISTEN leaves: the plan that runs, and its banks. -/
structure Listens (m m' : Main) : Prop where
  within : Within [0x040008] [5, 6] [.ylm, .eav] m m'
  ylm : m'.ylm = { m.ylm with listenAt := m'.ylm.listenAt, deferred := m'.ylm.deferred }

theorem listens_listenStep (m : Main) : Listens m (listenStep m) := by
  unfold listenStep
  split
  · exact ⟨within_enterListen m, by rw [ylm_enterListen]⟩
  · exact ⟨Within.refl _ _ _ _, rfl⟩

theorem showsRun_listenStep {m : Main} {r e : Nat} {p : Bool} (h : ShowsRun m r e p) : ShowsRun (listenStep m) r e p := by
  unfold listenStep
  split
  · exact showsRun_enterListen h
  · exact h

end Sys2Proof.Machine
end

section
/-!
O14: a switch puts the armed bank in PROBATION, and a rollback the PREVIOUS bank in RUNNING (R60, R62, R66, R71, R72, R74, R118).
-/
namespace Sys2Proof.Machine

/-! ### The banks move -/

/-- The words of the banks' states and of the probation. -/
abbrev stateWords : List Nat := [0x04000C, 0x040010, 0x040024]

theorem within_setBank {b : Nat} (hb : b < 2) (st : Nat) (m : Main) : Within stateWords [] [] m (setBank b st m) := by
  refine (Frame.put [] m F.YLM_BANK_STATE_STATE st b (Or.inl ?_)).within
  rcases (by omega : b = 0 ∨ b = 1) with rfl | rfl <;> decide

/-- The switch's instant has been passed. -/
def markJumped (m : Main) : Main := if switchAt m < m.course then m.putBit F.YLM_ERR_SWITCH_JUMPED true else m

theorem within_markJumped (m : Main) : Within [0x040028] [] [] m (markJumped m) :=
  Within.ite _ (Within.putBit m F.YLM_ERR_SWITCH_JUMPED true 0 Nat.one_pos) (Within.refl _ _ _ _)

theorem markJumped_jumped {m : Main} (h : switchAt m < m.course) : (markJumped m).bit F.YLM_ERR_SWITCH_JUMPED = true := by
  unfold markJumped
  rw [if_pos h, Main.bit_putBit m F.YLM_ERR_SWITCH_JUMPED true 0 0 0 (by decide) (by decide), if_pos rfl]

/-- The bank that ran is PREVIOUS. -/
def leaveRun (old : Option (Fin 2)) (m : Main) : Main :=
  match old with
  | some r => if bankState m r = Bk.running ∨ bankState m r = Bk.probation then setBank r Bk.previous m else m
  | none => m

theorem within_leaveRun (old : Option (Fin 2)) (m : Main) : Within stateWords [] [] m (leaveRun old m) := by
  unfold leaveRun
  split
  · next r => exact Within.ite _ (within_setBank r.isLt _ m) (Within.refl _ _ _ _)
  · exact Within.refl _ _ _ _

theorem leaveRun_previous {m : Main} {r : Fin 2} (h : bankState m r = Bk.running ∨ bankState m r = Bk.probation) :
    bankState (leaveRun (some r) m) r = Bk.previous := by
  have hmove : leaveRun (some r) m = setBank r Bk.previous m := if_pos h
  rw [hmove]
  exact bankState_setBank_same _ _ (by decide)

/-- The banks and the probation of a switch to bank `k`. -/
def switchBanks (k : Nat) (m : Main) : Main :=
  (setBank k Bk.probation (leaveRun m.ylm.run (markJumped m))).put F.YLM_PROBATION_REMAIN (Hdr.probation (bankOf m k).img)

/-- What the executor notes of a switch to bank `k`, from the bundle `old`. -/
def switchRun (k : Nat) (old : Option (Fin 2)) (m : Main) : Main := { m with ylm := { m.ylm with
  run := some (bankFin k), idle := old.map fun r => (r, true), pairConf := false, armNoPlan := false,
  oldCourses := if old.isSome then m.ylm.sinceSwitch else 0, sinceSwitch := 0 } }

/-- A switch to bank `k`, before the executor's state. -/
def switched (k : Nat) (m : Main) : Main :=
  epochEdge (runEpoch m) k 0 (loadPlan (bankOf m k).img m.ylm.run.isSome (switchRun k m.ylm.run (switchBanks k m)))

theorem epochSwitch_due {m : Main} {k : Nat} (hk : bankIn m Bk.armed = some k) (hd : switchDue m m.course = true) :
    epochSwitch m = if m.exec == Ex.noPlan then listenStep (setExec Ex.loading (switched k m)) else switched k m := by
  unfold epochSwitch
  rw [hk]
  dsimp only
  rw [if_neg (by simp [hd])]
  rfl

theorem epochSwitch_undue {m : Main} (h : ∀ k, bankIn m Bk.armed = some k → switchDue m m.course = false) : epochSwitch m = m := by
  unfold epochSwitch
  split
  · rfl
  · next k hk => exact if_pos (by simp [h k hk])

theorem within_remain (v : Nat) (m : Main) : Within stateWords [] [] m (m.put F.YLM_PROBATION_REMAIN v) :=
  Within.put m F.YLM_PROBATION_REMAIN v Nat.one_pos

theorem bankState_remain (v : Nat) (m : Main) {b : Nat} (hb : b < 2) : bankState (m.put F.YLM_PROBATION_REMAIN v) b = bankState m b :=
  (Within.put (ws := [0x040024]) (bs := []) (ps := []) m F.YLM_PROBATION_REMAIN v Nat.one_pos).bankState hb

/-- The banks' states move after the error bit is set. -/
theorem switchBanks_moves {k : Nat} (hk : k < 2) (m : Main) : Within stateWords [] [] (markJumped m) (switchBanks k m) :=
  ((within_leaveRun _ _).trans (within_setBank hk _ _)).trans (within_remain _ _)

theorem within_switchBanks {k : Nat} (hk : k < 2) (m : Main) : Within (0x040028 :: stateWords) [] [] m (switchBanks k m) :=
  (within_markJumped m).mono.trans (switchBanks_moves hk m).mono

theorem switchBanks_probation {k : Nat} (hk : k < 2) (m : Main) : bankState (switchBanks k m) k = Bk.probation :=
  (bankState_remain _ _ hk).trans (bankState_setBank_same _ _ (by decide))

theorem switchBanks_previous {k : Nat} {r : Fin 2} {m : Main} (hr : m.ylm.run = some r) (hne : k ≠ r)
    (h : bankState m r = Bk.running ∨ bankState m r = Bk.probation) : bankState (switchBanks k m) r = Bk.previous := by
  have hmark : bankState (markJumped m) r = bankState m r := (within_markJumped m).bankState r.isLt
  refine (bankState_remain _ _ r.isLt).trans ((bankState_setBank_ne _ _ hne).trans ?_)
  rw [hr]
  exact leaveRun_previous (by rw [hmark]; exact h)

theorem switchBanks_remain (k : Nat) (m : Main) :
    (switchBanks k m).get F.YLM_PROBATION_REMAIN = Hdr.probation (bankOf m k).img % 4096 :=
  Main.get_put_same _ F.YLM_PROBATION_REMAIN _ 0 (by decide)

theorem switchBanks_jumped {k : Nat} {m : Main} (hk : k < 2) (h : switchAt m < m.course) :
    (switchBanks k m).bit F.YLM_ERR_SWITCH_JUMPED = true := by
  exact ((switchBanks_moves hk m).bit F.YLM_ERR_SWITCH_JUMPED 0 Nat.one_pos).trans (markJumped_jumped h)

/-! ### A bundle in force -/

/-- `m'` is `x` with the bundle of bank `r`, which runs in `x`, put in force after the epoch `old`. -/
structure InForce (old : Option Nat) (r : Fin 2) (x m' : Main) : Prop where
  within : Within [0x040008, 0x04001C, 0x040020, 0x040028] [0, 1, 5, 6, 8, 9, 0xD, 0xE] [.time, .ylm, .ctx, .wav, .pur, .eav, .rdg, .red, .upd] x m'
  banks : m'.ylm.banks = x.ylm.banks
  run : m'.ylm.run = x.ylm.run
  rollback : m'.ylm.rollback = x.ylm.rollback
  shows : ShowsRun m' r (bankEpoch x r) (bankState x r == Bk.probation)
  prevEpoch : m'.ctx.prevEpoch = old
  pend : pends m' 24 = true
  errors : ∀ f ∈ [F.YLM_ERR_SWITCH_JUMPED, F.YLM_ERR_ROLLBACK_CMD, F.YLM_ERR_ROLLBACK_AUTO], m'.bit f = x.bit f

theorem inForce_epochEdge (old : Option Nat) (b : Img) (keep : Bool) (bank how : Nat) {r : Fin 2} {x : Main} (h : x.ylm.run = some r) :
    InForce old r x (epochEdge old bank how (loadPlan b keep x)) := by
  have hload := loads_loadPlan b keep x
  have hedge := within_epochEdge old bank how (loadPlan b keep x)
  have hylm := ylm_epochEdge old bank how (loadPlan b keep x)
  have hylm' : (epochEdge old bank how (loadPlan b keep x)).ylm =
      { x.ylm with groups := (loadPlan b keep x).ylm.groups, evOrder := (loadPlan b keep x).ylm.evOrder, deferred := true } := by
    rw [hylm, hload.ylm]
  refine ⟨hload.within.mono.trans hedge.mono, ?_, ?_, ?_, hedge.showsRun (showsRun_loadPlan b keep h), prevEpoch_epochEdge ..,
    pends_epochEdge .., fun f hf => ?_⟩
  · rw [hylm']
  · rw [hylm']
  · rw [hylm']
  · have hget (g : Field) (hg : g.lo + g.width ≤ 6 ∨ 7 ≤ g.lo ∧ g.lo + g.width ≤ 8) (h1 : g.still 1 [0x040020] [0, 1, 8, 0xE] = true)
        (h2 : g.still 1 [0x04001C] [9, 0xD] = true) (h3 : g.still 1 [] [8] = true) :
        (epochEdge old bank how (loadPlan b keep x)).bit g = x.bit g :=
      (hedge.bit g 0 Nat.one_pos h3).trans (congrArg (bitOf · 0) (get_loadPlan b keep x g hg h1 h2))
    simp only [List.mem_cons, List.not_mem_nil, or_false] at hf
    rcases hf with rfl | rfl | rfl
    · exact hget _ (by decide) (by decide) (by decide) (by decide)
    · exact hget _ (by decide) (by decide) (by decide) (by decide)
    · exact hget _ (by decide) (by decide) (by decide) (by decide)

/-- The first bundle of a module without a plan goes on to LISTEN. -/
theorem InForce.listens {old : Option Nat} {r : Fin 2} {x m' : Main} (h : InForce old r x m') : InForce old r x (listenStep (setExec Ex.loading m')) := by
  have hexec := within_setExec Ex.loading m'
  have hylm : (setExec Ex.loading m').ylm = m'.ylm := hexec.same .ylm
  have hlisten := listens_listenStep (setExec Ex.loading m')
  have hboth : Within [0x040008] [5, 6] [.ylm, .eav] m' (listenStep (setExec Ex.loading m')) := hexec.mono.trans hlisten.within
  have hctx : (listenStep (setExec Ex.loading m')).ctx = m'.ctx := hboth.same .ctx
  refine ⟨h.within.trans hboth.mono, ?_, ?_, ?_, showsRun_listenStep (h.shows.setExec _), by rw [hctx]; exact h.prevEpoch,
    hboth.pend 24 (by decide) h.pend, fun f hf => ?_⟩
  · rw [hlisten.ylm, hylm]; exact h.banks
  · rw [hlisten.ylm, hylm]; exact h.run
  · rw [hlisten.ylm, hylm]; exact h.rollback
  · refine Eq.trans ?_ (h.errors f hf)
    simp only [List.mem_cons, List.not_mem_nil, or_false] at hf
    rcases hf with rfl | rfl | rfl
    · exact hboth.bit _ 0 Nat.one_pos
    · exact hboth.bit _ 0 Nat.one_pos
    · exact hboth.bit _ 0 Nat.one_pos

/-! ### The rollback -/

/-- The banks, the probation and the error bit of a rollback from bank `r` to bank `p`. -/
def rollBanks (r p : Nat) (commanded : Bool) (m : Main) : Main :=
  ((setBank p Bk.running (setBank r (if commanded then Bk.verified else Bk.failed) m)).put F.YLM_PROBATION_REMAIN 0).putBit
    (if commanded then F.YLM_ERR_ROLLBACK_CMD else F.YLM_ERR_ROLLBACK_AUTO) true

/-- What the executor notes of a rollback to bank `p`. -/
def rollRun (p : Nat) (m : Main) : Main := { m with ylm := { m.ylm with
  run := some (bankFin p), idle := none, rollback := none, sinceSwitch := 0, oldCourses := 0 } }

theorem rollbackBoundary_due {m : Main} {commanded : Bool} {r : Fin 2} {p : Nat} (hb : m.ylm.rollback = some (0, commanded))
    (hr : m.ylm.run = some r) (hp : bankIn m Bk.previous = some p) : rollbackBoundary m =
      epochEdge (runEpoch m) p (if commanded then 2 else 1) (loadPlan (bankOf m p).img true (rollRun p (rollBanks r p commanded m))) := by
  unfold rollbackBoundary
  rw [hb, hr, hp]
  exact if_neg (by simp)

theorem rollbackBoundary_none {m : Main} (h : m.ylm.rollback = none) : rollbackBoundary m = m := by
  unfold rollbackBoundary
  rw [h]

theorem rollbackBoundary_early {m : Main} {left : Nat} {commanded : Bool} (h : m.ylm.rollback = some (left, commanded)) (hl : left ≠ 0) :
    rollbackBoundary m = m := by
  unfold rollbackBoundary
  split
  · next h' _ _ =>
    cases h'.symm.trans h
    exact if_pos hl
  · rfl

theorem within_rollError (commanded : Bool) (m : Main) :
    Within [0x040028] [] [] m (m.putBit (if commanded then F.YLM_ERR_ROLLBACK_CMD else F.YLM_ERR_ROLLBACK_AUTO) true) := by
  cases commanded with
  | true => exact Within.putBit m F.YLM_ERR_ROLLBACK_CMD true 0 Nat.one_pos
  | false => exact Within.putBit m F.YLM_ERR_ROLLBACK_AUTO true 0 Nat.one_pos

theorem within_rollBanks {r p : Nat} (hr : r < 2) (hp : p < 2) (commanded : Bool) (m : Main) :
    Within (0x040028 :: stateWords) [] [] m (rollBanks r p commanded m) :=
  (((within_setBank hr _ m).trans (within_setBank hp _ _)).trans (within_remain _ _)).mono.trans (within_rollError commanded _).mono

/-- The states that a rollback leaves, and what it shows of itself. -/
theorem rollBanks_states {r p : Nat} (hr : r < 2) (hp : p < 2) (hne : r ≠ p) (commanded : Bool) (m : Main) :
    bankState (rollBanks r p commanded m) p = Bk.running ∧
      bankState (rollBanks r p commanded m) r = (if commanded then Bk.verified else Bk.failed) ∧
      (rollBanks r p commanded m).get F.YLM_PROBATION_REMAIN = 0 ∧
      (rollBanks r p commanded m).bit (if commanded then F.YLM_ERR_ROLLBACK_CMD else F.YLM_ERR_ROLLBACK_AUTO) = true := by
  have herr (x : Main) := within_rollError commanded x
  refine ⟨?_, ?_, ?_, ?_⟩
  · exact ((herr _).bankState hp).trans ((bankState_remain _ _ hp).trans (bankState_setBank_same _ _ (by decide)))
  · refine ((herr _).bankState hr).trans ((bankState_remain _ _ hr).trans ((bankState_setBank_ne _ _ hne.symm).trans ?_))
    exact bankState_setBank_same _ _ (by cases commanded <;> decide)
  · exact ((herr _).get F.YLM_PROBATION_REMAIN Nat.one_pos).trans (Main.get_put_same _ F.YLM_PROBATION_REMAIN 0 0 (by decide))
  · unfold rollBanks
    cases commanded with
    | true => exact (Main.bit_putBit _ F.YLM_ERR_ROLLBACK_CMD true 0 0 0 (by decide) (by decide)).trans (if_pos rfl)
    | false => exact (Main.bit_putBit _ F.YLM_ERR_ROLLBACK_AUTO true 0 0 0 (by decide) (by decide)).trans (if_pos rfl)

/-! ### The obligation -/

/-- The blocks that a switch or a rollback writes. -/
theorem force_blocks {a : Nat} (h : inRegs [] [0, 1, 4, 5, 6, 8, 9, 0xD, 0xE] a) :
    inBlock 0 a ∨ inBlock 1 a ∨ inBlock 4 a ∨ inBlock 5 a ∨ inBlock 6 a ∨ inBlock 8 a ∨ inBlock 9 a ∨ inBlock 0x0D a ∨ inBlock 0x0E a := by
  simpa [inRegs, inBlock] using h

/-- What a switch and a rollback keep and write, before and after the bundle is put in force. -/
theorem InForce.framed {old : Option Nat} {r : Fin 2} {m x m' : Main} (h : InForce old r x m')
    (hx : Within (0x040028 :: stateWords) [] [.ylm] m x) (hb : x.ylm.banks = m.ylm.banks) :
    m'.ylm.banks = m.ylm.banks ∧ m'.key = m.key ∧
      Reports (fun a => inBlock 0 a ∨ inBlock 1 a ∨ inBlock 4 a ∨ inBlock 5 a ∨ inBlock 6 a ∨ inBlock 8 a ∨ inBlock 9 a ∨ inBlock 0x0D a ∨
        inBlock 0x0E a) [.time, .ylm, .ctx, .wav, .pur, .eav, .rdg, .red, .upd] m m' := by
  have hall : Within [] [0, 1, 4, 5, 6, 8, 9, 0xD, 0xE] [.time, .ylm, .ctx, .wav, .pur, .eav, .rdg, .red, .upd] m m' :=
    hx.mono.trans h.within.mono
  exact ⟨h.banks.trans hb, hall.same .key, hall.report fun _ ha => force_blocks ha⟩

theorem bankEpoch_congr {m x : Main} (h : x.ylm.banks = m.ylm.banks) (b : Nat) : bankEpoch x b = bankEpoch m b := by
  unfold bankEpoch bankOf
  rw [h]

theorem banks_switchRun (k : Nat) (old : Option (Fin 2)) (m : Main) : (switchRun k old m).ylm.banks = m.ylm.banks := rfl

theorem banks_rollRun (p : Nat) (m : Main) : (rollRun p m).ylm.banks = m.ylm.banks := rfl

/-- The state in which the bundle of bank `k` runs, before it is loaded. -/
def switchStart (k : Nat) (m : Main) : Main := switchRun k m.ylm.run (switchBanks k m)

theorem within_switchStart {k : Nat} (hk : k < 2) (m : Main) : Within (0x040028 :: stateWords) [] [.ylm] m (switchStart k m) :=
  (within_switchBanks hk m).mono.trans (Within.ylm _ _)

theorem banks_switchStart {k : Nat} (hk : k < 2) (m : Main) : (switchStart k m).ylm.banks = m.ylm.banks := by
  have hylm : (switchBanks k m).ylm = m.ylm := (within_switchBanks hk m).same .ylm
  exact (banks_switchRun k m.ylm.run _).trans (congrArg Ylm.banks hylm)

theorem bankState_switchStart (k : Nat) (m : Main) (b : Nat) : bankState (switchStart k m) b = bankState (switchBanks k m) b := rfl

theorem get_switchStart (k : Nat) (m : Main) (f : Field) : (switchStart k m).get f = (switchBanks k m).get f := rfl

theorem inForce_epochSwitch {m : Main} {k : Nat} (hk : bankIn m Bk.armed = some k) (hd : switchDue m m.course = true) :
    InForce (runEpoch m) (bankFin k) (switchStart k m) (epochSwitch m) := by
  have h : InForce (runEpoch m) (bankFin k) (switchStart k m) (switched k m) := inForce_epochEdge _ _ _ _ _ rfl
  rw [epochSwitch_due hk hd]
  split
  · exact h.listens
  · exact h

/-- The state in which the bundle of bank `p` runs, before it is loaded. -/
def rollStart (r p : Nat) (commanded : Bool) (m : Main) : Main := rollRun p (rollBanks r p commanded m)

theorem within_rollStart {r p : Nat} (hr : r < 2) (hp : p < 2) (commanded : Bool) (m : Main) :
    Within (0x040028 :: stateWords) [] [.ylm] m (rollStart r p commanded m) :=
  (within_rollBanks hr hp commanded m).mono.trans (Within.ylm _ _)

theorem banks_rollStart {r p : Nat} (hr : r < 2) (hp : p < 2) (commanded : Bool) (m : Main) :
    (rollStart r p commanded m).ylm.banks = m.ylm.banks := by
  have hylm : (rollBanks r p commanded m).ylm = m.ylm := (within_rollBanks hr hp commanded m).same .ylm
  exact (banks_rollRun p _).trans (congrArg Ylm.banks hylm)

theorem bankState_rollStart (r p : Nat) (commanded : Bool) (m : Main) (b : Nat) :
    bankState (rollStart r p commanded m) b = bankState (rollBanks r p commanded m) b := rfl

theorem get_rollStart (r p : Nat) (commanded : Bool) (m : Main) (f : Field) :
    (rollStart r p commanded m).get f = (rollBanks r p commanded m).get f := rfl

/-- A switch that is due (R60, R62, R66, R74). -/
theorem epochSwitch_switches {m : Main} {k : Nat} (hk : bankIn m Bk.armed = some k) (hd : switchDue m m.course = true) :
    let m' := epochSwitch m
    bankState m' k = Bk.probation ∧ m'.ylm.run = some (bankFin k) ∧
      m'.get F.YLM_PROBATION_REMAIN = Hdr.probation (bankOf m k).img % 4096 ∧
      m'.get F.YLM_STATUS_RUN_EPOCH = bankEpoch m k ∧ m'.get F.YLM_STATUS_RUN_BANK = k ∧ m'.bit F.YLM_STATUS_PROBATION = true ∧
      (∀ r : Fin 2, m.ylm.run = some r → bankState m r = Bk.running ∨ bankState m r = Bk.probation → bankState m' r = Bk.previous) ∧
      m'.ctx.prevEpoch = m.ylm.run.map (bankEpoch m ·) ∧ pends m' 24 = true ∧
      (switchAt m < m.course → m'.bit F.YLM_ERR_SWITCH_JUMPED = true) := by
  obtain ⟨hk2, harmed⟩ := bankIn_some hk
  have hforce := inForce_epochSwitch hk hd
  have hshows := hforce.shows
  rw [bankFin_val hk2, bankEpoch_congr (banks_switchStart hk2 m), bankState_switchStart, switchBanks_probation hk2] at hshows
  have hstate {b : Nat} (hb : b < 2) : bankState (epochSwitch m) b = bankState (switchBanks k m) b :=
    (hforce.within.bankState hb).trans (bankState_switchStart k m b)
  refine ⟨(hstate hk2).trans (switchBanks_probation hk2 m), hforce.run, ?_, hshows.epoch, hshows.bank, hshows.probation, fun r hr hold => ?_,
    hforce.prevEpoch, hforce.pend, fun hj => ?_⟩
  · exact (hforce.within.get F.YLM_PROBATION_REMAIN Nat.one_pos).trans ((get_switchStart k m _).trans (switchBanks_remain k m))
  · have hne : k ≠ r := by
      rintro rfl
      rw [harmed] at hold
      exact absurd hold (by decide)
    exact (hstate r.isLt).trans (switchBanks_previous hr hne hold)
  · exact (hforce.errors _ (List.mem_cons_self ..)).trans ((congrArg (bitOf · 0) (get_switchStart k m _)).trans (switchBanks_jumped hk2 hj))

/-- A rollback at its boundary (R60, R71, R72, R74). -/
theorem rollbackBoundary_rolls {m : Main} {commanded : Bool} {r : Fin 2} {p : Nat} (hb : m.ylm.rollback = some (0, commanded))
    (hr : m.ylm.run = some r) (hp : bankIn m Bk.previous = some p) (hne : r.val ≠ p) :
    let m' := rollbackBoundary m
    bankState m' p = Bk.running ∧ bankState m' r = (if commanded then Bk.verified else Bk.failed) ∧
      m'.ylm.run = some (bankFin p) ∧ m'.ylm.rollback = none ∧ m'.get F.YLM_PROBATION_REMAIN = 0 ∧
      m'.bit (if commanded then F.YLM_ERR_ROLLBACK_CMD else F.YLM_ERR_ROLLBACK_AUTO) = true ∧
      m'.get F.YLM_STATUS_RUN_EPOCH = bankEpoch m p ∧ m'.get F.YLM_STATUS_RUN_BANK = p ∧
      m'.ctx.prevEpoch = some (bankEpoch m r) ∧ pends m' 24 = true := by
  obtain ⟨hp2, -⟩ := bankIn_some hp
  have hforce : InForce (runEpoch m) (bankFin p) (rollStart r p commanded m) (rollbackBoundary m) := by
    rw [rollbackBoundary_due hb hr hp]
    exact inForce_epochEdge _ _ _ _ _ rfl
  obtain ⟨hrun, hleft, hremain, herr⟩ := rollBanks_states r.isLt hp2 hne commanded m
  have hshows := hforce.shows
  rw [bankFin_val hp2, bankEpoch_congr (banks_rollStart r.isLt hp2 commanded m)] at hshows
  have hstate {b : Nat} (h2 : b < 2) : bankState (rollbackBoundary m) b = bankState (rollBanks r p commanded m) b :=
    (hforce.within.bankState h2).trans (bankState_rollStart r p commanded m b)
  refine ⟨(hstate hp2).trans hrun, (hstate r.isLt).trans hleft, hforce.run, hforce.rollback, ?_, ?_, hshows.epoch, hshows.bank, ?_, hforce.pend⟩
  · exact (hforce.within.get F.YLM_PROBATION_REMAIN Nat.one_pos).trans ((get_rollStart r p commanded m _).trans hremain)
  · refine (hforce.errors _ ?_).trans ((congrArg (bitOf · 0) (get_rollStart r p commanded m _)).trans herr)
    cases commanded <;> decide
  · rw [hforce.prevEpoch]
    unfold runEpoch
    rw [hr]
    rfl

/-- Settles O14: the banks move first, and the bundle that then runs is put in force (`InForce`) with event 24 as the last step. -/
theorem switchAndRollback : Obligations.SwitchAndRollback := by
  unfold Obligations.SwitchAndRollback
  intro s
  refine ⟨fun h => answersMain_of (f := epochSwitch) rfl (epochSwitch_undue h),
    fun k hk hd => answersMain_of (f := epochSwitch) rfl ⟨?_, epochSwitch_switches hk hd⟩,
    fun h => answersMain_of (f := rollbackBoundary) rfl (rollbackBoundary_none h),
    fun left commanded hb => ⟨fun hl => answersMain_of (f := rollbackBoundary) rfl (rollbackBoundary_early hb hl), ?_⟩⟩
  · have hk2 := (bankIn_some hk).1
    exact (inForce_epochSwitch hk hd).framed (within_switchStart hk2 _) (banks_switchStart hk2 _)
  · rintro r p rfl hr hp hne
    have hp2 := (bankIn_some hp).1
    refine answersMain_of (f := rollbackBoundary) rfl ⟨?_, rollbackBoundary_rolls hb hr hp hne⟩
    rw [rollbackBoundary_due hb hr hp]
    exact (inForce_epochEdge _ _ _ _ _ rfl : InForce _ (bankFin p) (rollStart r p commanded s.main) _).framed
      (within_rollStart r.isLt hp2 _ _) (banks_rollStart r.isLt hp2 _ _)

end Sys2Proof.Machine
end

section
/-!
SUPPORT. The load at power-up (R75), the end of LISTEN (R62, R129, R562) and the host switch RUN (R77).
-/
namespace Sys2Proof.Machine

/-! ### The load at power-up -/

/-- What a load at power-up may change, with the bundles in the banks as they were. -/
structure PowerLoads (m m' : Main) : Prop where
  within : Within [] [0, 1, 4, 8, 9, 0xD, 0xE] [.time, .ylm, .ctx, .pur, .rdg, .red] m m'
  banks : m'.ylm.banks = m.ylm.banks

theorem PowerLoads.trans {m m' m'' : Main} (h : PowerLoads m m') (g : PowerLoads m' m'') : PowerLoads m m'' :=
  ⟨h.within.trans g.within, g.banks.trans h.banks⟩

/-- A bank is REFUSED with a code. -/
def bankRefused (m : Main) (b code : Nat) : Prop := bankState m b = Bk.refused ∧ m.get F.YLM_BANK_STATE_REFUSE_CODE b = code

theorem Within.bankRefused {ws bs : List Nat} {ps : List Part} {m m' : Main} (h : Within ws bs ps m m') {b code : Nat} (hb : b < 2)
    (hr : bankRefused m b code) (hs : F.YLM_BANK_STATE_STATE.still 2 ws bs = true := by decide)
    (hc : F.YLM_BANK_STATE_REFUSE_CODE.still 2 ws bs = true := by decide) : bankRefused m' b code :=
  ⟨(h.bankState hb hs).trans hr.1, (h.get F.YLM_BANK_STATE_REFUSE_CODE hb hc).trans hr.2⟩

/-- The bundle of bank `k` is the one that runs. -/
def runs (k : Nat) (m : Main) : Main := { m with ylm := { m.ylm with run := some (bankFin k) } }

theorem within_runs (k : Nat) (m : Main) : Within [] [] [.ylm] m (runs k m) := Within.ylm m _

theorem loadBank_eq (k : Nat) (m : Main) : loadBank k m = loadPlan (bankOf m k).img (m.get F.PWR_RESET_KIND == 5) (runs k m) := rfl

/-- A bank that is loaded runs, and the states of the banks stay. -/
theorem loadBank_loads {k : Nat} (hk : k < 2) (m : Main) :
    Within [0x040008, 0x04001C, 0x040020, 0x040028] [0, 1, 8, 9, 0xD, 0xE] [.time, .ylm, .ctx, .pur, .rdg, .red] m (loadBank k m) ∧
      (loadBank k m).ylm.banks = m.ylm.banks ∧ (loadBank k m).exec = m.exec ∧ (loadBank k m).ylm.run = some (bankFin k) ∧
      (loadBank k m).get F.YLM_STATUS_RUN_EPOCH = bankEpoch m k := by
  rw [loadBank_eq]
  generalize (m.get F.PWR_RESET_KIND == 5) = keep
  have hload := loads_loadPlan (bankOf m k).img keep (runs k m)
  have hshow := showsRun_loadPlan (bankOf m k).img keep (m := runs k m) (r := bankFin k) rfl
  have hexec : (runs k m).exec = m.exec := (within_runs k m).get F.YLM_STATUS_EXEC_STATE Nat.one_pos
  refine ⟨(within_runs k m).mono.trans hload.within, by rw [hload.ylm]; rfl, (exec_loadPlan _ _ _).trans hexec, by rw [hload.ylm]; rfl, ?_⟩
  refine hshow.epoch.trans ?_
  rw [bankFin_val hk]
  rfl

/-- No bundle runs. -/
def runsNone (m : Main) : Main := { m with ylm := { m.ylm with run := none } }

theorem noPlan_eq (m : Main) : noPlan m = showPlan (setExec Ex.noPlan (runsNone m)) := rfl

theorem noPlan_stays (m : Main) :
    Within [0x040008] [] [.ylm] m (noPlan m) ∧ (noPlan m).ylm.banks = m.ylm.banks ∧ (noPlan m).exec = Ex.noPlan ∧ (noPlan m).ylm.run = none := by
  rw [noPlan_eq]
  have h1 : Within [0x040008] [] [.ylm] m (runsNone m) := Within.ylm m _
  have h2 := within_setExec Ex.noPlan (runsNone m)
  have h3 := within_showPlan (setExec Ex.noPlan (runsNone m))
  have hylm2 : (setExec Ex.noPlan (runsNone m)).ylm = (runsNone m).ylm := h2.same .ylm
  have hylm3 : (showPlan (setExec Ex.noPlan (runsNone m))).ylm = (setExec Ex.noPlan (runsNone m)).ylm := h3.same .ylm
  refine ⟨(h1.trans h2.mono).trans h3.mono, by rw [hylm3, hylm2]; rfl, ?_, by rw [hylm3, hylm2]; rfl⟩
  exact (get_showPlan _ F.YLM_STATUS_EXEC_STATE 0 (by decide)).trans (exec_setExec (by decide) _)

/-- A bank that does not verify at power-up is REFUSED, and no probation is left. -/
def refuseFirst (k code : Nat) (m : Main) : Main := (refuseBank k code m).put F.YLM_PROBATION_REMAIN 0

theorem within_refuseBank {k : Nat} (hk : k < 2) (code : Nat) (m : Main) : Within stateWords [] [] m (refuseBank k code m) := by
  have one (x : Main) (f : Field) (v : Nat) (hf : f.base = 0x04000C ∧ f.stride = 4) : Within stateWords [] [] x (x.put f v k) := by
    refine (Frame.put [] x f v k (Or.inl ?_)).within
    unfold Field.addr
    rw [hf.1, hf.2]
    rcases (by omega : k = 0 ∨ k = 1) with rfl | rfl <;> decide
  exact ((one m F.YLM_BANK_STATE_STATE _ (by decide)).trans (one _ F.YLM_BANK_STATE_REFUSE_CODE _ (by decide))).trans
    (one _ F.YLM_BANK_STATE_EPOCH _ (by decide))

/-- The registers of one bank hold nothing of the other. -/
theorem get_refuseBank_ne {k j : Nat} (h : k ≠ j) (code : Nat) (m : Main) (f : Field) (hf : f.base = 0x04000C ∧ f.stride = 4) :
    (refuseBank k code m).get f j = m.get f j := by
  have one (x : Main) (g : Field) (v : Nat) (hg : g.base = 0x04000C ∧ g.stride = 4) : (x.put g v k).get f j = x.get f j := by
    refine Main.get_put_addr _ _ _ _ _ _ ?_
    unfold Field.addr
    rw [hg.1, hg.2, hf.1, hf.2]
    omega
  exact (one _ F.YLM_BANK_STATE_EPOCH _ (by decide)).trans ((one _ F.YLM_BANK_STATE_REFUSE_CODE _ (by decide)).trans
    (one m F.YLM_BANK_STATE_STATE _ (by decide)))

theorem bankRefused_refuseBank (k : Nat) {code : Nat} (hc : code < 256) (m : Main) : bankRefused (refuseBank k code m) k code :=
  refuseBank_refused k hc m

theorem within_refuseFirst {k : Nat} (hk : k < 2) (code : Nat) (m : Main) : Within stateWords [] [] m (refuseFirst k code m) :=
  (within_refuseBank hk code m).trans (within_remain 0 _)

theorem bankRefused_refuseFirst {k : Nat} (hk : k < 2) {code : Nat} (hc : code < 256) (m : Main) : bankRefused (refuseFirst k code m) k code :=
  (Within.put (ws := [0x040024]) (bs := []) (ps := []) _ F.YLM_PROBATION_REMAIN 0 Nat.one_pos).bankRefused hk (bankRefused_refuseBank k hc m)

theorem bankState_refuseFirst_ne {k j : Nat} (hj : j < 2) (h : k ≠ j) (code : Nat) (m : Main) : bankState (refuseFirst k code m) j = bankState m j :=
  (bankState_remain 0 _ hj).trans (get_refuseBank_ne h code m F.YLM_BANK_STATE_STATE (by decide))

/-- The bank that a power-up loads first (R75). -/
def firstBank (m : Main) : Option Nat := match bankIn m Bk.probation with | some k => some k | none => bankIn m Bk.running

theorem firstBank_some {m : Main} {k : Nat} (h : firstBank m = some k) : k < 2 ∧ bankState m k ≠ Bk.previous := by
  have hof {st : Nat} (hk : bankIn m st = some k) (hst : st ≠ Bk.previous) : k < 2 ∧ bankState m k ≠ Bk.previous := by
    obtain ⟨h1, h2⟩ := bankIn_some hk
    exact ⟨h1, by rw [h2]; exact hst⟩
  unfold firstBank at h
  split at h
  · next j hj =>
    cases h
    exact hof hj (by decide)
  · exact hof h (by decide)

/-- The bank PREVIOUS, or none, after the first is refused. -/
def loadSecond (o : Option Nat) (m : Main) : Main :=
  match o with
  | none => noPlan m
  | some p => if refusalCode m (bankOf m p) = 0 then loadBank p (setBank p Bk.running m) else noPlan (refuseBank p (refusalCode m (bankOf m p)) m)

/-- The bank that is loaded first. -/
def loadFirst (o : Option Nat) (m : Main) : Main :=
  match o with
  | none => noPlan m
  | some k => if refusalCode m (bankOf m k) = 0 then loadBank k m else
      loadSecond (bankIn (refuseFirst k (refusalCode m (bankOf m k)) m) Bk.previous) (refuseFirst k (refusalCode m (bankOf m k)) m)

theorem loadSecond_verifies {p : Nat} {m : Main} (h : refusalCode m (bankOf m p) = 0) : loadSecond (some p) m = loadBank p (setBank p Bk.running m) :=
  if_pos h

theorem loadSecond_fails {p : Nat} {m : Main} (h : refusalCode m (bankOf m p) ≠ 0) :
    loadSecond (some p) m = noPlan (refuseBank p (refusalCode m (bankOf m p)) m) := if_neg h

theorem loadFirst_verifies {k : Nat} {m : Main} (h : refusalCode m (bankOf m k) = 0) : loadFirst (some k) m = loadBank k m := if_pos h

theorem loadFirst_fails {k : Nat} {m : Main} (h : refusalCode m (bankOf m k) ≠ 0) : loadFirst (some k) m =
    loadSecond (bankIn (refuseFirst k (refusalCode m (bankOf m k)) m) Bk.previous) (refuseFirst k (refusalCode m (bankOf m k)) m) := if_neg h

theorem planLoadComplete_loads {m : Main} (he : m.exec = Ex.loading) (hr : m.ylm.run = none) : planLoadComplete m = loadFirst (firstBank m) m := by
  unfold planLoadComplete
  rw [if_neg (by simp [he, hr])]
  split
  · next h =>
    have hfirst : firstBank m = none := h
    rw [hfirst]
    rfl
  · next k h =>
    have hfirst : firstBank m = some k := h
    rw [hfirst]
    extract_lets code m1
    by_cases hc : code = 0
    · rw [if_pos hc, loadFirst_verifies hc]
    · rw [if_neg hc, loadFirst_fails hc]
      show _ = loadSecond (bankIn m1 Bk.previous) m1
      generalize m1 = x
      split
      · next hp =>
        rw [hp]
        rfl
      · next p hp =>
        rw [hp]
        rfl

theorem planLoadComplete_idle {m : Main} (h : m.exec ≠ Ex.loading ∨ m.ylm.run.isSome) : planLoadComplete m = m := if_pos h

/-- The refusal of the first bank leaves the bank PREVIOUS as it is. -/
theorem previous_refuseFirst {m : Main} {k code : Nat} (hk : k < 2) (hc : code < 256) (hs : bankState m k ≠ Bk.previous) :
    bankIn (refuseFirst k code m) Bk.previous = bankIn m Bk.previous := by
  have hstate (j : Nat) (hj : j < 2) : bankState (refuseFirst k code m) j = Bk.previous ↔ bankState m j = Bk.previous := by
    by_cases h : k = j
    · subst h
      rw [(bankRefused_refuseFirst hk hc m).1]
      exact iff_of_false (by decide) hs
    · rw [bankState_refuseFirst_ne hj h]
  rw [bankIn_eq, bankIn_eq]
  simp only [hstate 0 (by decide), hstate 1 (by decide)]

theorem refusalCode_refuseFirst {k : Nat} (hk : k < 2) (code : Nat) (m : Main) (b : Nat) :
    refusalCode (refuseFirst k code m) (bankOf (refuseFirst k code m) b) = refusalCode m (bankOf m b) := by
  have h := within_refuseFirst hk code m
  have h4 : Within [] [4] [.ylm] m (refuseFirst k code m) := h.mono
  rw [h4.refusalCode, h.bankOf]

/-- A register write of a bank is within what a load may change. -/
theorem PowerLoads.ofWithin {m m' : Main} (h : Within stateWords [] [] m m') : PowerLoads m m' := by
  have hylm : m'.ylm = m.ylm := h.same .ylm
  exact ⟨h.mono, by rw [hylm]⟩

theorem powerLoads_noPlan (m : Main) : PowerLoads m (noPlan m) := ⟨(noPlan_stays m).1.mono, (noPlan_stays m).2.1⟩

theorem powerLoads_loadBank {k : Nat} (hk : k < 2) (m : Main) : PowerLoads m (loadBank k m) := ⟨(loadBank_loads hk m).1.mono, (loadBank_loads hk m).2.1⟩

theorem powerLoads_loadSecond {o : Option Nat} (ho : ∀ p, o = some p → p < 2) (m : Main) : PowerLoads m (loadSecond o m) := by
  cases o with
  | none => exact powerLoads_noPlan m
  | some p =>
    have hp := ho p rfl
    by_cases h : refusalCode m (bankOf m p) = 0
    · rw [loadSecond_verifies h]
      exact (PowerLoads.ofWithin (within_setBank hp _ m)).trans (powerLoads_loadBank hp _)
    · rw [loadSecond_fails h]
      exact (PowerLoads.ofWithin (within_refuseBank hp _ m)).trans (powerLoads_noPlan _)

theorem powerLoads_loadFirst {o : Option Nat} (ho : ∀ k, o = some k → k < 2) (m : Main) : PowerLoads m (loadFirst o m) := by
  cases o with
  | none => exact powerLoads_noPlan m
  | some k =>
    have hk := ho k rfl
    by_cases h : refusalCode m (bankOf m k) = 0
    · rw [loadFirst_verifies h]
      exact powerLoads_loadBank hk m
    · rw [loadFirst_fails h]
      exact (PowerLoads.ofWithin (within_refuseFirst hk _ m)).trans (powerLoads_loadSecond (fun p hp => (bankIn_some hp).1) _)

/-- What becomes of the bank PREVIOUS, or of the module without one, once another bank has been refused. -/
theorem loadSecond_outcome {o : Option Nat} (ho : ∀ p, o = some p → p < 2) (x : Main) :
    (o = none → (loadSecond o x).exec = Ex.noPlan ∧ (loadSecond o x).ylm.run = none) ∧
    ∀ p, o = some p → if refusalCode x (bankOf x p) = 0 then
        bankState (loadSecond o x) p = Bk.running ∧ (loadSecond o x).ylm.run = some (bankFin p) ∧ (loadSecond o x).exec = x.exec
      else bankState (loadSecond o x) p = Bk.refused ∧ (loadSecond o x).exec = Ex.noPlan ∧ (loadSecond o x).ylm.run = none := by
  refine ⟨?_, ?_⟩
  · rintro rfl
    obtain ⟨-, -, he, hr⟩ := noPlan_stays x
    exact ⟨he, hr⟩
  · rintro p rfl
    have hp := ho p rfl
    split
    · next h =>
      rw [loadSecond_verifies h]
      obtain ⟨hw, -, he, hr, -⟩ := loadBank_loads hp (setBank p Bk.running x)
      exact ⟨(hw.bankState hp).trans (bankState_setBank_same x p (by decide)), hr,
        he.trans ((within_setBank hp Bk.running x).get F.YLM_STATUS_EXEC_STATE Nat.one_pos)⟩
    · next h =>
      rw [loadSecond_fails h]
      obtain ⟨hw, -, he, hr⟩ := noPlan_stays (refuseBank p (refusalCode x (bankOf x p)) x)
      exact ⟨(hw.bankState hp).trans (bankRefused_refuseBank p (refusalCode_lt _ _) x).1, he, hr⟩

/-- The bank that was refused first stays so. -/
theorem bankRefused_loadSecond {o : Option Nat} (ho : ∀ p, o = some p → p < 2) {x : Main} {k code : Nat} (hk : k < 2) (hr : bankRefused x k code)
    (hne : ∀ p, o = some p → p ≠ k) : bankRefused (loadSecond o x) k code := by
  cases o with
  | none => exact (noPlan_stays x).1.bankRefused hk hr
  | some p =>
    have hp := ho p rfl
    have hpk := hne p rfl
    by_cases h : refusalCode x (bankOf x p) = 0
    · rw [loadSecond_verifies h]
      refine (loadBank_loads hp _).1.bankRefused hk ⟨(bankState_setBank_ne x _ hpk).trans hr.1, ?_⟩
      refine (Main.get_put_addr x F.YLM_BANK_STATE_STATE F.YLM_BANK_STATE_REFUSE_CODE _ _ _ ?_).trans hr.2
      simp only [Field.addr, F.YLM_BANK_STATE_STATE, F.YLM_BANK_STATE_REFUSE_CODE]
      omega
    · rw [loadSecond_fails h]
      exact (noPlan_stays _).1.bankRefused hk ⟨(get_refuseBank_ne hpk _ x F.YLM_BANK_STATE_STATE (by decide)).trans hr.1,
        (get_refuseBank_ne hpk _ x F.YLM_BANK_STATE_REFUSE_CODE (by decide)).trans hr.2⟩

/-- What a load at power-up leaves where its first bank does not verify (R75). -/
theorem loadFirst_refuses {m : Main} {k : Nat} (hk : firstBank m = some k) (hbad : refusalCode m (bankOf m k) ≠ 0) :
    let m' := loadFirst (some k) m
    bankRefused m' k (refusalCode m (bankOf m k)) ∧ (bankIn m Bk.previous = none → m'.exec = Ex.noPlan ∧ m'.ylm.run = none) ∧
      ∀ p, bankIn m Bk.previous = some p → if refusalCode m (bankOf m p) = 0 then
          bankState m' p = Bk.running ∧ m'.ylm.run = some (bankFin p) ∧ m'.exec = m.exec
        else bankState m' p = Bk.refused ∧ m'.exec = Ex.noPlan ∧ m'.ylm.run = none := by
  obtain ⟨hk2, hstate⟩ := firstBank_some hk
  have hcode := refusalCode_lt m (bankOf m k)
  have hbank (p : Nat) (hp : bankIn m Bk.previous = some p) : p < 2 := (bankIn_some hp).1
  have hout := loadSecond_outcome hbank (refuseFirst k (refusalCode m (bankOf m k)) m)
  have hexec : (refuseFirst k (refusalCode m (bankOf m k)) m).exec = m.exec :=
    (within_refuseFirst hk2 _ m).get F.YLM_STATUS_EXEC_STATE Nat.one_pos
  simp only [refusalCode_refuseFirst hk2, hexec] at hout
  rw [loadFirst_fails hbad, previous_refuseFirst hk2 hcode hstate]
  refine ⟨bankRefused_loadSecond hbank hk2 (bankRefused_refuseFirst hk2 hcode m) fun p hp he => ?_, hout⟩
  exact hstate (he ▸ (bankIn_some hp).2)

end Sys2Proof.Machine
end

section
/-!
O15: the executor loads a bank that verifies, leaves LISTEN after two courses, and has RUN as its host switch (R62, R75–R77, R129, R562).
-/
namespace Sys2Proof.Machine

/-! ### The end of LISTEN -/

theorem roles_changeRole (role cause : Nat) (m : Main) : Roles m (changeRole role cause m) := by
  unfold changeRole
  extract_lets changed mutes _ m1 m2 m3 m4 m5 _ m6 m7
  have h1 : Roles m m1 := (Within.red m _).trans (within_setRole role _).mono
  have h2 : Roles m1 m2 := Within.ite _ (Within.putBit m1 F.RED_STATUS_MUTED false 0 Nat.one_pos)
    (Within.ite _ (Within.putBit m1 F.RED_STATUS_MUTED true 0 Nat.one_pos) (Within.refl _ _ _ _))
  have h3 : Roles m2 m3 := (Within.put m2 F.RED_STATUS_CAUSE cause Nat.one_pos).trans
    (((keeps_record ..).trans (keeps_fire 49 _ (by decide))).within _ _ _)
  have h4 : Roles m3 m4 := Within.ite _ ((keeps_record ..).within _ _ _) (Within.refl _ _ _ _)
  have h5 : Roles m4 m5 := Within.ite _ (within_keepSubmitted m4).mono (Within.refl _ _ _ _)
  have h6 : Roles m5 m6 := Within.ite _ (Within.ctx m5 _) (Within.refl _ _ _ _)
  have h7 : Roles m6 m7 := Within.ite _ (submits_acceptInput _ m6).within.mono (Within.refl _ _ _ _)
  have h8 : Roles m7 (followRole m7) := (within_followRole m7).mono
  exact (h1.trans h2).trans (Within.ite _ (Within.refl _ _ _ _) (((((h3.trans h4).trans h5).trans h6).trans h7).trans h8))

/-- A module without a partner is ACTIVE. -/
def takeAlone (m : Main) : Main := followRole (setRole 2 (if m.red.role = 1 then keepSubmitted m else m))

theorem within_takeAlone (m : Main) : Within [] [0, 1, 0xE] [.pur, .red] m (takeAlone m) := by
  have h1 : Within [] [0, 1, 0xE] [.pur, .red] m (if m.red.role = 1 then keepSubmitted m else m) :=
    Within.ite _ (within_keepSubmitted m).mono (Within.refl _ _ _ _)
  exact (h1.trans (within_setRole 2 _).mono).trans (within_followRole _).mono

theorem takeRole_alone {m : Main} (h : paired m = false) : takeRole m = takeAlone m := if_pos (by simp [h])

theorem roles_takeRole (m : Main) : Roles m (takeRole m) := by
  unfold takeRole
  refine Within.ite _ (within_takeAlone m).mono (Within.ite _ (roles_changeRole 1 8 m) (Within.ite _ ?_ (Within.refl _ _ _ _)))
  split
  · exact roles_changeRole _ 1 m
  · exact Within.refl _ _ _ _

/-- The beacons begin, and the cells of the slot to come are fetched anew. -/
def leaveListen (m : Main) : Main := { m with
  ylm := { m.ylm with deferred := true, fresh := false }
  ctx := { m.ctx with quiet := 3, beaconed := false, rejoin := if m.ylm.fresh then 60 else 0 } }

theorem within_leaveListen (m : Main) : Within [] [] [.ylm, .ctx] m (leaveListen m) := by
  refine Within.parts rfl (fun p hp _ _ => ?_) (List.suffix_refl _)
  cases p with
  | ylm | ctx => exact absurd (by decide) hp
  | _ => rfl

/-- The executor's state after LISTEN, by RUN. -/
def afterListen (m : Main) : Main := setExec (if m.bit F.YLM_CTRL_RUN then Ex.running else Ex.halted) (leaveListen m)

theorem within_afterListen (m : Main) : Within [0x040008] [] [.ylm, .ctx] m (afterListen m) :=
  (within_leaveListen m).mono.trans (within_setExec _ _).mono

theorem exec_afterListen (m : Main) : (afterListen m).exec = if m.bit F.YLM_CTRL_RUN then Ex.running else Ex.halted :=
  exec_setExec (by split <;> decide) _

theorem listenEnd_early {m : Main} (h : m.exec ≠ Ex.listen ∨ m.course < m.ylm.listenAt + 2) : listenEnd m = m := if_pos h

theorem bit_leaveListen (m : Main) (f : Field) : (leaveListen m).bit f = m.bit f := rfl

theorem listenEnd_over {m : Main} (he : m.exec = Ex.listen) (hc : m.ylm.listenAt + 2 ≤ m.course) : listenEnd m = takeRole (afterListen m) := by
  unfold listenEnd
  rw [if_neg (by simp only [he, ne_eq, not_true_eq_false, false_or]; omega)]
  show takeRole (setExec (if (leaveListen m).bit F.YLM_CTRL_RUN then _ else _) (leaveListen m)) = _
  rw [bit_leaveListen]
  rfl

theorem ctx_afterListen (m : Main) : (afterListen m).ctx.quiet = 3 ∧ (afterListen m).ctx.rejoin = if m.ylm.fresh then 60 else 0 := by
  have hctx : (afterListen m).ctx = (leaveListen m).ctx := (within_setExec _ (leaveListen m)).same .ctx
  rw [hctx]
  exact ⟨rfl, rfl⟩

theorem ylm_afterListen (m : Main) : (afterListen m).ylm = { m.ylm with deferred := true, fresh := false } :=
  (within_setExec _ (leaveListen m)).same .ylm

/-- The blocks that the end of LISTEN writes. -/
theorem listen_blocks {a : Nat} (h : inRegs [] [0, 1, 4, 0xE] a) : inBlock 0 a ∨ inBlock 1 a ∨ inBlock 4 a ∨ inBlock 0x0E a := by
  simpa [inRegs, inBlock] using h

theorem listenEnd_outcome {m : Main} (he : m.exec = Ex.listen) (hc : m.ylm.listenAt + 2 ≤ m.course) :
    let m' := listenEnd m
    m'.exec = (if m.bit F.YLM_CTRL_RUN then Ex.running else Ex.halted) ∧ m'.ylm.banks = m.ylm.banks ∧ m'.ylm.run = m.ylm.run ∧
      (paired m = false → m'.ctx.quiet = 3 ∧ m'.ctx.rejoin = (if m.ylm.fresh then 60 else 0)) ∧
      Reports (fun a => inBlock 0 a ∨ inBlock 1 a ∨ inBlock 4 a ∨ inBlock 0x0E a) [.ylm, .ctx, .pur, .red] m m' := by
  have hrole := roles_takeRole (afterListen m)
  have hylm : (takeRole (afterListen m)).ylm = (afterListen m).ylm := hrole.same .ylm
  rw [listenEnd_over he hc]
  refine ⟨(hrole.get F.YLM_STATUS_EXEC_STATE Nat.one_pos).trans (exec_afterListen m), by rw [hylm, ylm_afterListen],
    by rw [hylm, ylm_afterListen], fun hp => ?_, ?_⟩
  · have hpaired : paired (afterListen m) = false := ((within_afterListen m).bit F.RED_STATUS_PAIRED 0 Nat.one_pos).trans hp
    have hctx : (takeAlone (afterListen m)).ctx = (afterListen m).ctx := (within_takeAlone _).same .ctx
    rw [takeRole_alone hpaired, hctx]
    exact ctx_afterListen m
  · have hall : Within [] [0, 1, 4, 0xE] [.ylm, .ctx, .pur, .red] m (takeRole (afterListen m)) := (within_afterListen m).mono.trans hrole.mono
    exact hall.report fun _ ha => listen_blocks ha

/-! ### RUN -/

theorem Frame.setLane {l : Nat} (hl : l < 8) (st : Nat) (m : Main) : Frame (inRegs [] [5, 6]) [] m (setLane l st m) := by
  unfold Machine.setLane
  split
  · next h => exact Frame.putIn m F.TLR_LANE_STATUS_STATE st h
  · exact Frame.putIn m F.TLP_LANE_STATUS_STATE st (by omega : l - 4 < 4)

theorem Frame.allLanes (st : Nat) (m : Main) : Frame (inRegs [] [5, 6]) [] m (allLanes st m) :=
  Frame.foldl _ _ (fun _ hl x => Frame.setLane (List.mem_range.1 hl) st x) m

theorem laneState_allLanes {l : Nat} (hl : l < 8) {st : Nat} (hst : st < 16) (m : Main) : laneState (allLanes st m) l = st := by
  obtain ⟨m1, -, h⟩ := foldl_visit (S := fun x y => laneState y l = laneState x l) (fun _ => rfl) (fun h g => g.trans h)
    (fun x k => setLane k st x) List.nodup_range (List.mem_range.2 hl)
    (fun k hk hne x => laneState_setLane_ne x st (List.mem_range.1 hk) hl hne.symm) m
  exact h.trans (laneState_setLane_same m1 l hst)

theorem Frame.setExec (st : Nat) (m : Main) : Frame (inRegs [0x040008] []) [] m (setExec st m) := Frame.putIn m F.YLM_STATUS_EXEC_STATE st Nat.one_pos

/-- What a write of RUN may change. -/
abbrev RunWrites : Main → Main → Prop := Frame (inRegs [0x040004, 0x040008] [5, 6]) [.ylm]

/-- RUN holds a value. -/
def setRun (on : Bool) (m : Main) : Main := m.putBit F.YLM_CTRL_RUN on

theorem runWrites_setRun (on : Bool) (m : Main) : RunWrites m (setRun on m) := Frame.putIn m F.YLM_CTRL_RUN _ Nat.one_pos

theorem run_setRun (on : Bool) (m : Main) : (setRun on m).bit F.YLM_CTRL_RUN = on :=
  (Main.bit_putBit m F.YLM_CTRL_RUN on 0 0 0 (by decide) (by decide)).trans (if_pos rfl)

theorem exec_setRun (on : Bool) (m : Main) : (setRun on m).exec = m.exec :=
  Main.get_put_addr m F.YLM_CTRL_RUN F.YLM_STATUS_EXEC_STATE _ 0 0 (by decide)

/-- No lane has a cell to come. -/
def dropNext (m : Main) : Main := { m with ylm := { m.ylm with next := Vector.replicate 8 none } }

/-- A RUNNING executor halts, and one in LISTEN goes on. -/
def haltRunning (m : Main) : Main := if m.exec = Ex.running then setExec Ex.halted m else m

theorem Frame.haltRunning (m : Main) : Frame (inRegs [0x040008] []) [] m (haltRunning m) := by
  unfold Machine.haltRunning
  split
  · exact Frame.setExec _ m
  · exact Frame.refl _ _ m

theorem exec_haltRunning (m : Main) : (haltRunning m).exec = if m.exec = Ex.running then Ex.halted else m.exec := by
  unfold haltRunning
  split
  · exact exec_setExec (by decide) m
  · rfl

/-- The lanes stop with the cells. -/
def stopCells (m : Main) : Main := allLanes 1 (haltRunning (dropNext m))

theorem runWrites_stopCells (m : Main) : RunWrites m (stopCells m) :=
  ((Frame.ylm _ m _ (by decide)).trans (Frame.haltRunning (dropNext m)).widen).trans (Frame.allLanes 1 _).widen

theorem stopCells_stops (m : Main) : (stopCells m).bit F.YLM_CTRL_RUN = m.bit F.YLM_CTRL_RUN ∧
    (stopCells m).exec = (if m.exec = Ex.running then Ex.halted else m.exec) ∧
    ∀ l : Fin 8, (stopCells m).ylm.next[l] = none ∧ laneState (stopCells m) l = 1 := by
  have hlanes := (Frame.allLanes 1 (haltRunning (dropNext m))).within
  have hhalt := (Frame.haltRunning (dropNext m)).within
  have hylm : (stopCells m).ylm = (dropNext m).ylm := (hlanes.same .ylm).trans (hhalt.same .ylm)
  refine ⟨?_, ?_, fun l => ⟨?_, laneState_allLanes l.isLt (by decide) _⟩⟩
  · exact (hlanes.bit F.YLM_CTRL_RUN 0 Nat.one_pos).trans (hhalt.bit F.YLM_CTRL_RUN 0 Nat.one_pos)
  · exact (hlanes.get F.YLM_STATUS_EXEC_STATE Nat.one_pos).trans (exec_haltRunning (dropNext m))
  · rw [hylm]
    unfold dropNext
    simp

theorem runWrite_ignored {m : Main} (h : m.mode ≠ Md.commission) : runWrite false m = m := if_pos (by simp [h])

theorem runWrite_off {m : Main} (h : m.mode = Md.commission) : runWrite false m =
    if m.exec = Ex.running ∨ m.exec = Ex.listen then stopCells (setRun false m) else setRun false m := by
  unfold runWrite
  rw [if_neg (by simp [h])]
  show (if !false ∧ ((setRun false m).exec = Ex.running ∨ (setRun false m).exec = Ex.listen) then stopCells (setRun false m)
    else if _ ∧ _ then _ else setRun false m) = _
  rw [exec_setRun]
  by_cases hrun : m.exec = Ex.running ∨ m.exec = Ex.listen
  · rw [if_pos hrun, if_pos ⟨rfl, hrun⟩]
  · rw [if_neg hrun, if_neg fun h => hrun h.2, if_neg fun h => Bool.false_ne_true h.1]

theorem runWrite_on (m : Main) : runWrite true m = if m.exec = Ex.halted then setExec Ex.running (setRun true m) else setRun true m := by
  unfold runWrite
  rw [if_neg (by simp)]
  show (if !true ∧ _ then _ else if true ∧ (setRun true m).exec = Ex.halted then setExec Ex.running (setRun true m) else setRun true m) = _
  rw [exec_setRun, if_neg fun h => Bool.false_ne_true h.1]
  simp only [true_and]

theorem runWrites_runWrite (on : Bool) (m : Main) : RunWrites m (runWrite on m) := by
  cases on with
  | true =>
    rw [runWrite_on]
    split
    · exact (runWrites_setRun true m).trans (Frame.setExec _ _).widen
    · exact runWrites_setRun true m
  | false =>
    by_cases h : m.mode = Md.commission
    · rw [runWrite_off h]
      split
      · exact (runWrites_setRun false m).trans (runWrites_stopCells _)
      · exact runWrites_setRun false m
    · rw [runWrite_ignored h]
      exact Frame.refl _ _ m

/-- RUN of 1 starts a HALTED executor. -/
theorem runWrite_starts (m : Main) : (runWrite true m).bit F.YLM_CTRL_RUN = true ∧
    (runWrite true m).exec = if m.exec = Ex.halted then Ex.running else m.exec := by
  rw [runWrite_on]
  split
  · exact ⟨((within_setExec _ (setRun true m)).bit F.YLM_CTRL_RUN 0 Nat.one_pos).trans (run_setRun true m), exec_setExec (by decide) _⟩
  · exact ⟨run_setRun true m, exec_setRun true m⟩

/-- RUN of 0 in COMMISSION halts a RUNNING executor and stops the lanes. -/
theorem runWrite_halts {m : Main} (h : m.mode = Md.commission) : (runWrite false m).bit F.YLM_CTRL_RUN = false ∧
    (runWrite false m).exec = (if m.exec = Ex.running then Ex.halted else m.exec) ∧
    (m.exec = Ex.running ∨ m.exec = Ex.listen → ∀ l : Fin 8, (runWrite false m).ylm.next[l] = none ∧ laneState (runWrite false m) l = 1) := by
  rw [runWrite_off h]
  split
  · obtain ⟨hrun, hexec, hlanes⟩ := stopCells_stops (setRun false m)
    rw [exec_setRun] at hexec
    exact ⟨hrun.trans (run_setRun false m), hexec, fun _ => hlanes⟩
  · next hidle =>
    refine ⟨run_setRun false m, ?_, fun hrun => absurd hrun hidle⟩
    rw [exec_setRun, if_neg fun he => hidle (Or.inl he)]

/-- The blocks that a write of RUN writes. -/
theorem run_blocks {a : Nat} (h : inRegs [0x040004, 0x040008] [5, 6] a) : inBlock 4 a ∨ inBlock 5 a ∨ inBlock 6 a := by
  simp only [inRegs, List.mem_cons, List.not_mem_nil, or_false] at h
  unfold inBlock
  omega

/-- A write of RUN through the host's port. -/
theorem runAccess_outcome (on : Bool) (m : Main) :
    let m' := runWrite on (accessed m)
    Frame (fun a => inBlock 4 a ∨ inBlock 5 a ∨ inBlock 6 a) [.host, .ylm] m m' ∧
      (on = false → m.mode ≠ Md.commission → m'.bit F.YLM_CTRL_RUN = m.bit F.YLM_CTRL_RUN ∧ m'.exec = m.exec) ∧
      (on = true ∨ m.mode = Md.commission → m'.bit F.YLM_CTRL_RUN = on ∧
        m'.exec = (if on = false ∧ m.exec = Ex.running then Ex.halted else if on = true ∧ m.exec = Ex.halted then Ex.running else m.exec) ∧
        (on = false → m.exec = Ex.running ∨ m.exec = Ex.listen → ∀ l : Fin 8, m'.ylm.next[l] = none ∧ laneState m' l = 1)) := by
  have hexec : (accessed m).exec = m.exec := rfl
  have hmode : (accessed m).mode = m.mode := rfl
  have hframe := runWrites_runWrite on (accessed m)
  refine ⟨(Frame.accessed _ m (by decide)).trans (hframe.mono (fun _ ha => run_blocks ha) (by decide)), ?_, ?_⟩
  · rintro rfl hc
    rw [runWrite_ignored (by rw [hmode]; exact hc)]
    exact ⟨rfl, rfl⟩
  · cases on with
    | true =>
      intro _
      obtain ⟨hrun, hex⟩ := runWrite_starts (accessed m)
      refine ⟨hrun, ?_, fun h => absurd h.symm Bool.false_ne_true⟩
      rw [hex, hexec, if_neg fun h : true = false ∧ _ => Bool.false_ne_true h.1.symm]
      simp only [true_and]
    | false =>
      intro h
      obtain ⟨hrun, hex, hlanes⟩ := runWrite_halts (m := accessed m) (by rw [hmode]; exact h.resolve_left Bool.false_ne_true)
      rw [hexec] at hex hlanes
      refine ⟨hrun, ?_, fun _ => hlanes⟩
      rw [hex, if_neg fun h : false = true ∧ _ => Bool.false_ne_true h.1]
      simp only [true_and]

/-! ### The obligation -/

/-- The blocks that a load at power-up writes. -/
theorem load_blocks {a : Nat} (h : inRegs [] [0, 1, 4, 8, 9, 0xD, 0xE] a) :
    inBlock 0 a ∨ inBlock 1 a ∨ inBlock 4 a ∨ inBlock 8 a ∨ inBlock 9 a ∨ inBlock 0x0D a ∨ inBlock 0x0E a := by
  simpa [inRegs, inBlock] using h

/-- A first bank that verifies runs (R75). -/
theorem loadFirst_runs {m : Main} {k : Nat} (hk : k < 2) (hgood : refusalCode m (bankOf m k) = 0) :
    let m' := loadFirst (some k) m
    m'.exec = m.exec ∧ m'.ylm.run = some (bankFin k) ∧ m'.get F.YLM_STATUS_RUN_EPOCH = bankEpoch m k ∧
      ∀ j : Fin 2, bankState m' j = bankState m j := by
  rw [loadFirst_verifies hgood]
  obtain ⟨hw, -, he, hr, hepoch⟩ := loadBank_loads hk m
  exact ⟨he, hr, hepoch, fun j => hw.bankState j.isLt⟩

/-- Settles O15: the load by whether its first bank verifies, the end of LISTEN by the two courses, and RUN by its value and the mode. -/
theorem executorLoadsAndListens : Obligations.ExecutorLoadsAndListens := by
  unfold Obligations.ExecutorLoadsAndListens
  intro s first bad
  have hfirst : first = firstBank s.main := rfl
  refine ⟨fun h => answersMain_of (f := planLoadComplete) rfl (planLoadComplete_idle h), fun he hr => ?_,
    fun h => answersMain_of (f := listenEnd) rfl (listenEnd_early h),
    fun he hc => answersMain_of (f := listenEnd) rfl (listenEnd_outcome he hc), fun on h => ?_⟩
  · refine answersMain_of (f := planLoadComplete) rfl ?_
    rw [planLoadComplete_loads he hr]
    have hload := powerLoads_loadFirst (o := firstBank s.main) (fun k hk => (firstBank_some hk).1) s.main
    refine ⟨hload.banks, hload.within.report fun _ ha => load_blocks ha, fun hn => ?_, fun k hk => ?_⟩
    · obtain ⟨-, -, hexec, hrun⟩ := noPlan_stays s.main
      rw [← hfirst, hn]
      exact ⟨hexec, hrun⟩
    · rw [← hfirst, hk]
      have hk' : firstBank s.main = some k := hk
      split
      · next hgood =>
        obtain ⟨hexec, hrest⟩ := loadFirst_runs (firstBank_some hk').1 hgood
        exact ⟨hexec.trans he, hrest⟩
      · next hbad =>
        obtain ⟨⟨hstate, hcode⟩, hnone, hprev⟩ := loadFirst_refuses hk' hbad
        rw [he] at hprev
        exact ⟨hstate, hcode, hnone, hprev⟩
  · refine answersMain_of (f := hostAccess 0x04 (runWrite on)) rfl ?_
    rw [hostAccess_reaches h]
    exact runAccess_outcome on s.main

end Sys2Proof.Machine
end

section
/-!
SUPPORT. What ends with a course: its metrics and digest, the lamps-out estimate, the lanes' faults and the held lines (R68, R104, R245,
R340, R422).
-/
namespace Sys2Proof.Machine

/-! ### The plan that runs -/

/-- The bundle that runs, the banks and the slot stay. -/
structure PlanStays (m m' : Main) : Prop where
  run : m'.ylm.run = m.ylm.run
  banks : m'.ylm.banks = m.ylm.banks
  slot : m'.ylm.slot = m.ylm.slot
  underrun : m'.ylm.underrun = m.ylm.underrun

section
variable {m m' m'' : Main}

theorem PlanStays.refl (m : Main) : PlanStays m m := ⟨rfl, rfl, rfl, rfl⟩

theorem PlanStays.trans (h : PlanStays m m') (g : PlanStays m' m'') : PlanStays m m'' :=
  ⟨g.run.trans h.run, g.banks.trans h.banks, g.slot.trans h.slot, g.underrun.trans h.underrun⟩

theorem PlanStays.ofYlm (h : m'.ylm = m.ylm) : PlanStays m m' := ⟨by rw [h], by rw [h], by rw [h], by rw [h]⟩

theorem PlanStays.runImg (h : PlanStays m m') : runImg m' = runImg m := by
  unfold Machine.runImg
  rw [h.run, h.banks]

end

/-! ### The course that ends -/

theorem within_keepDigest (m : Main) : Within [] [] [.red] m (keepDigest m) := by
  unfold keepDigest
  extract_lets _ m1 r
  have h1 : Within [] [] [.red] m m1 := by
    show Within [] [] [.red] m (match runImg m with | some b => _ | none => m)
    split
    · exact Within.ite _ (Within.red m _) (Within.refl _ _ _ _)
    · exact Within.refl _ _ _ _
  exact h1.trans (Within.red m1 _)

/-- The metrics of the course just ended begin anew. -/
theorem courseMetrics_stays (m : Main) : Within [0x040024] [] [.ylm] m (courseMetrics m) ∧ PlanStays m (courseMetrics m) := by
  unfold courseMetrics
  split
  · exact ⟨Within.ylm m _, rfl, rfl, rfl, rfl⟩
  · split
    · exact ⟨Within.ylm m _, rfl, rfl, rfl, rfl⟩
    · extract_lets y m1
      have h1 : Within [0x040024] [] [.ylm] m m1 := Within.ylm m _
      have p1 : PlanStays m m1 := ⟨rfl, rfl, rfl, rfl⟩
      split
      · exact ⟨h1.trans (Within.put m1 F.YLM_PROBATION_REMAIN _ Nat.one_pos), p1.trans (PlanStays.ofYlm (Main.put_ylm ..))⟩
      · exact ⟨h1, p1⟩

theorem within_lampsEstimate {f : Nat} (hf : f < 4) (sum : Int) (n med : Nat) (m : Main) : Within [] [9] [] m (lampsEstimate f sum n med m) :=
  (Within.put m F.PUR_FEEDER0_RESID _ hf).trans (Within.put _ F.PUR_FEEDER1_LAMPS_OUT _ hf)

theorem within_lampsOut (m : Main) : Within [] [9] [.pur] m (lampsOut m) := by
  unfold lampsOut
  extract_lets mask m1
  have h1 : Within [] [9] [.pur] m m1 := by
    refine Within.foldl _ _ (fun f hf x => ?_) m
    have hf4 : f < 4 := List.mem_range.1 hf
    extract_lets n med x1
    have hx : Within [] [9] [.pur] x x1 := Within.put x F.PUR_FEEDER1_MEDIAN _ hf4
    exact hx.trans (Within.ite _ (Within.refl _ _ _ _) (within_lampsEstimate hf4 _ n med x1).mono)
  exact h1.trans (Within.pur m1 _)

theorem within_showReduced {l : Nat} (hl : l < 8) (m : Main) : Within [] [5, 6] [] m (showReduced l m) := by
  unfold showReduced
  split
  · next h => exact Within.putBit m F.TLR_LANE_STATUS_TX_REDUCED _ 0 h
  · exact Within.putBit m F.TLP_LANE_STATUS_TX_REDUCED _ 0 (by omega : l - 4 < 4)

/-- A live fault of a lane and its latch. -/
def putLaneFault (l k : Nat) (on : Bool) (m : Main) : Main :=
  if l < 4 then
    (if on then (m.putBit F.TLR_LANE_STATUS_FAULT_NOW on l k).putBit F.TLR_FAULT_FAULT_LATCH true l k else m.putBit F.TLR_LANE_STATUS_FAULT_NOW on l k)
  else
    (if on then (m.putBit F.TLP_LANE_STATUS_FAULT_NOW on (l - 4) k).putBit F.TLP_FAULT_FAULT_LATCH true (l - 4) k
      else m.putBit F.TLP_LANE_STATUS_FAULT_NOW on (l - 4) k)

theorem within_putLaneFault {l : Nat} (hl : l < 8) (k : Nat) (on : Bool) (m : Main) : Within [] [5, 6] [] m (putLaneFault l k on m) := by
  unfold putLaneFault
  split
  · next h =>
    have h1 : Within [] [5, 6] [] m (m.putBit F.TLR_LANE_STATUS_FAULT_NOW on l k) := Within.putBit m F.TLR_LANE_STATUS_FAULT_NOW on k h
    exact Within.ite _ (h1.trans (Within.putBit _ F.TLR_FAULT_FAULT_LATCH true k h)) h1
  · have h : l - 4 < 4 := by omega
    have h1 : Within [] [5, 6] [] m (m.putBit F.TLP_LANE_STATUS_FAULT_NOW on (l - 4) k) := Within.putBit m F.TLP_LANE_STATUS_FAULT_NOW on k h
    exact Within.ite _ (h1.trans (Within.putBit _ F.TLP_FAULT_FAULT_LATCH true k h)) h1

theorem setLaneFault_eq (l k : Nat) (on : Bool) (m : Main) : setLaneFault l k on m =
    if laneFault m l k = on then m else
      fireIf (on || liveFaults (putLaneFault l k on m) l == 0) (if l < 4 then 29 else 30) (showReduced l (putLaneFault l k on m)) := rfl

theorem within_setLaneFault {l : Nat} (hl : l < 8) (k : Nat) (on : Bool) (m : Main) : Within [] [5, 6] [] m (setLaneFault l k on m) := by
  rw [setLaneFault_eq]
  refine Within.ite _ (Within.refl _ _ _ _) (((within_putLaneFault hl k on m).trans (within_showReduced hl _)).trans ?_)
  exact (keeps_fireIf _ _ _ (by split <;> decide)).within _ _ _

theorem within_laneCourse {l : Nat} (hl : l < 8) (loud : Nat) (m : Main) : Within [] [5, 6] [.lanes] m (laneCourse loud m l) :=
  (within_setLaneFault hl _ _ m).mono.trans (Within.withLane _ _ _)

theorem within_putLineFault (line : Nat) (on : Bool) (m : Main) : Within [] [0xC] [] m (putLineFault line on m) :=
  Within.ite _ (Within.put m F.GBL_LINEFLT_LO _ Nat.one_pos) (Within.put m F.GBL_LINEFLT_HI _ Nat.one_pos)

theorem within_setGblFault (bit : Nat) (on : Bool) (m : Main) : Within [] [0xC] [] m (setGblFault bit on m) := by
  unfold setGblFault
  extract_lets was m1 m2
  have h1 : Within [] [0xC] [] m m1 := Within.putBit m F.GBL_FAULT_LIVE on bit Nat.one_pos
  have h2 : Within [] [0xC] [] m1 m2 := Within.ite _ (Within.putBit m1 F.GBL_FAULT_LATCH true bit Nat.one_pos) (Within.refl _ _ _ _)
  exact (h1.trans h2).trans ((keeps_fireIf _ 45 m2 (by decide)).within _ _ _)

theorem within_lineRetries (good : Nat) (m : Main) : Within [] [0xC] [] m (lineRetries good m) := by
  unfold lineRetries
  extract_lets m1
  have h1 : Within [] [0xC] [] m m1 :=
    Within.foldl _ _ (fun l _ x => Within.ite _ (within_putLineFault l false x) (Within.refl _ _ _ _)) m
  exact h1.trans (Within.ite _ (Within.refl _ _ _ _) (Within.ite _ (within_setGblFault 2 false m1) (Within.refl _ _ _ _)))

theorem within_signCourse (good : Nat) (m : Main) : Within [] [0xC] [.gbl] m (signCourse good m) :=
  (Within.gbl m _).trans (within_lineRetries good _).mono

/-- The marks of the course that ended are cleared. -/
def clearMarks (m : Main) : Main := { m with
  ylm := { m.ylm with underrun := false }
  wav := { m.wav with held := [], evt31 := false, evt32 := false }
  log := { m.log with evt59 := false } }

theorem within_clearMarks (m : Main) : Within [] [] [.ylm, .wav] m (clearMarks m) := by
  refine Within.parts rfl (fun p hp _ hl => ?_) (List.suffix_refl _)
  cases p with
  | ylm | wav => exact absurd (by decide) hp
  | log => exact absurd rfl hl
  | _ => rfl

/-- The lanes and the gable port at the end of a course. -/
def portsEnd (loud lines : Nat) (m : Main) : Main := signCourse lines ((List.range 8).foldl (laneCourse loud) m)

theorem within_portsEnd (loud lines : Nat) (m : Main) : Within [] [5, 6, 0xC] [.lanes, .gbl] m (portsEnd loud lines m) := by
  have hlanes : Within [] [5, 6] [.lanes] m ((List.range 8).foldl (laneCourse loud) m) :=
    Within.foldl _ _ (fun l hl x => within_laneCourse (List.mem_range.1 hl) loud x) m
  exact hlanes.mono.trans (within_signCourse lines _).mono

theorem courseEnd_eq (loud lines : Nat) (m : Main) :
    courseEnd loud lines m = portsEnd loud lines (clearMarks (lampsOut (courseMetrics (keepDigest (fireIf m.ylm.underrun 26 m))))) := rfl

/-- What the end of a course may change. -/
abbrev CourseEnds : Main → Main → Prop := Within [0x040024] [5, 6, 9, 0xC] [.ylm, .lanes, .wav, .pur, .gbl, .red]

/-- What ends with a course changes nothing of the plan, and leaves no underrun. -/
theorem courseEnd_stays (loud lines : Nat) (m : Main) :
    CourseEnds (fireIf m.ylm.underrun 26 m) (courseEnd loud lines m) ∧ (courseEnd loud lines m).ylm.run = m.ylm.run ∧
      (courseEnd loud lines m).ylm.banks = m.ylm.banks ∧ (courseEnd loud lines m).ylm.underrun = false := by
  rw [courseEnd_eq]
  have hfire := keeps_fireIf m.ylm.underrun 26 m (by decide)
  generalize fireIf m.ylm.underrun 26 m = m0 at hfire ⊢
  have h1 := within_keepDigest m0
  have y1 : (keepDigest m0).ylm = m0.ylm := h1.same .ylm
  obtain ⟨h2, p2⟩ := courseMetrics_stays (keepDigest m0)
  have h3 := within_lampsOut (courseMetrics (keepDigest m0))
  have y3 : (lampsOut (courseMetrics (keepDigest m0))).ylm = (courseMetrics (keepDigest m0)).ylm := h3.same .ylm
  have hstay : PlanStays m (lampsOut (courseMetrics (keepDigest m0))) :=
    (((PlanStays.ofYlm hfire.ylm).trans (PlanStays.ofYlm y1)).trans p2).trans (PlanStays.ofYlm y3)
  have h4 := within_clearMarks (lampsOut (courseMetrics (keepDigest m0)))
  have hbefore : CourseEnds m0 (clearMarks (lampsOut (courseMetrics (keepDigest m0)))) :=
    ((h1.mono.trans h2.mono).trans h3.mono).trans h4.mono
  generalize lampsOut (courseMetrics (keepDigest m0)) = m3 at hstay hbefore ⊢
  have h5 := within_portsEnd loud lines (clearMarks m3)
  have y5 : (portsEnd loud lines (clearMarks m3)).ylm = { m3.ylm with underrun := false } := h5.same .ylm
  refine ⟨hbefore.trans h5.mono, ?_, ?_, ?_⟩
  · rw [y5]; exact hstay.run
  · rw [y5]; exact hstay.banks
  · rw [y5]

end Sys2Proof.Machine
end

section
/-!
O3: a course boundary shows the course that begins and closes the underruns of the one that ended (R26, R27, R46, R49).
-/
namespace Sys2Proof.Machine

/-! ### What follows the display of the course -/

/-- What a course boundary may change after YLM_COURSE shows the course, with the plan that runs as it was. -/
structure Follows (m m' : Main) : Prop where
  within : Within (0x010004 :: 0x040008 :: 0x040020 :: 0x040028 :: stateWords) [5, 6, 0xF] [.time, .ylm, .lanes, .ctx, .eav, .pwr] m m'
  stays : PlanStays m m'

section
variable {m m' m'' : Main}

theorem Follows.refl (m : Main) : Follows m m := ⟨Within.refl _ _ _ _, PlanStays.refl m⟩

theorem Follows.trans (h : Follows m m') (g : Follows m' m'') : Follows m m'' := ⟨h.within.trans g.within, h.stays.trans g.stays⟩

theorem Follows.ite {c : Prop} [Decidable c] (h : Follows m m') : Follows m (if c then m' else m) := by
  split
  · exact h
  · exact Follows.refl m

theorem Follows.ofYlm (h : Within (0x010004 :: 0x040008 :: 0x040020 :: 0x040028 :: stateWords) [5, 6, 0xF] [.time, .ylm, .lanes, .ctx, .eav, .pwr] m m')
    (hy : m'.ylm = m.ylm) : Follows m m' := ⟨h, PlanStays.ofYlm hy⟩

theorem Profiles.follows (h : Profiles m m') : Follows m m' :=
  ⟨h.within.mono, by rw [h.ylm], by rw [h.ylm], by rw [h.ylm], by rw [h.ylm]⟩

theorem Keeps.follows (h : Keeps m m') : Follows m m' := Follows.ofYlm (h.within _ _ _) h.ylm

end

theorem follows_utcStep (tai : Nat) (jump : Bool) (m : Main) : Follows m (utcStep tai jump m) := by
  unfold utcStep
  extract_lets old m1
  have h1 := within_utcOffset tai m
  have y1 : m1.ylm = m.ylm := h1.same .ylm
  exact (Follows.ofYlm h1.mono y1).trans (Follows.ite (profiles_recomputeProfile _ m1).follows)

theorem follows_ctx (m : Main) (c : CtxSt) : Follows m { m with ctx := c } := Follows.ofYlm (Within.ctx m c) rfl

theorem within_courseContexts (m : Main) : Within [] [] [.ctx] m (courseContexts m) := by
  unfold courseContexts
  extract_lets m1 _ m2
  have h1 : Within [] [] [.ctx] m m1 := Within.foldl _ _ (fun i _ x => within_withCtx i _ x) m
  have h2 : Within [] [] [.ctx] m1 m2 := Within.ctx m1 _
  refine (h1.trans h2).trans ?_
  split
  · exact Within.ctx m2 _
  · exact Within.refl _ _ _ _

theorem within_zoneIntervals (tai : Nat) (m : Main) : Within [] [] [.ctx] m (zoneIntervals tai m) := by
  have one (k : Nat) (x : Main) : Within [] [] [.ctx] x (zoneInterval k x) := Within.ctx x _
  unfold zoneIntervals
  refine Within.ite _ (Within.refl _ _ _ _) ?_
  extract_lets u m1 m2
  have h1 : Within [] [] [.ctx] m m1 := Within.ite _ (one 0 m) (Within.refl _ _ _ _)
  have h2 : Within [] [] [.ctx] m1 m2 := Within.ite _ (one 1 m1) (Within.refl _ _ _ _)
  exact (h1.trans h2).trans (Within.ite _ (one 2 m2) (Within.refl _ _ _ _))

theorem follows_almanacLow (tai : Nat) (m : Main) : Follows m (almanacLow tai m) := by
  unfold almanacLow
  split
  · exact Follows.refl m
  · extract_lets day m1 low m2
    have h1 : Follows m m1 := Follows.ofYlm (Within.putBit m F.YLM_STATUS_ALMANAC_END _ 0 Nat.one_pos) (Main.put_ylm ..)
    have h2 : Follows m1 m2 := Follows.ofYlm (Within.putBit m1 F.YLM_STATUS_ALMANAC_LOW low 0 Nat.one_pos) (Main.put_ylm ..)
    have h3 (v : Option Int) : Follows m2 { m2 with ylm := { m2.ylm with lowDay := v } } := ⟨Within.ylm m2 _, rfl, rfl, rfl, rfl⟩
    exact (h1.trans h2).trans (Follows.ite ((h3 _).trans (keeps_record ..).follows))

theorem within_airtime {l : Nat} (hl : l < 8) (whole : Bool) (air : Nat) (m : Main) : Within [] [5, 6] [.lanes] m
    (if !whole then m else if l < 4 then m.put F.TLR_AIRTIME_HOUR air l else m.put F.TLP_AIRTIME_HOUR air (l - 4)) := by
  refine Within.ite _ (Within.refl _ _ _ _) ?_
  split
  · next h => exact Within.put m F.TLR_AIRTIME_HOUR air h
  · exact Within.put m F.TLP_AIRTIME_HOUR air (by omega : l - 4 < 4)

theorem follows_airtimeHour (m : Main) : Follows m (airtimeHour m) := by
  unfold airtimeHour
  extract_lets whole _ m1
  have h1 : Follows m m1 := ⟨Within.ylm m _, rfl, rfl, rfl, rfl⟩
  have hlanes {x : Main} (h : Within [] [5, 6] [.lanes] m1 x) : Follows m1 x := Follows.ofYlm h.mono (h.same .ylm)
  refine h1.trans (hlanes (Within.foldl _ _ (fun l hl x => ?_) m1))
  exact (Within.withLane l _ x).trans (within_airtime (List.mem_range.1 hl) whole _ _)

theorem within_discipline (m : Main) : Within [] [0xF] [.time] m (discipline m) :=
  Within.ite _ (Within.putBit m F.RTC_TRIM_AUTO true 0 Nat.one_pos)
    (Within.ite _ ((Within.putBit m F.RTC_TRIM_AUTO false 0 Nat.one_pos).trans (Within.time _ _)) (Within.refl _ _ _ _))

theorem follows_setBank {k : Nat} (hk : k < 2) (st : Nat) (m : Main) : Follows m (setBank k st m) :=
  Follows.ofYlm (within_setBank hk st m).mono (Main.put_ylm ..)

/-- The arm and the schedule push end. -/
def endArm (m : Main) : Main := { m with
  ylm := { m.ylm with idle := none, pairConf := false, armNoPlan := false }
  ctx := { m.ctx with push := none } }

theorem follows_endArm (m : Main) : Follows m (endArm m) := by
  refine ⟨Within.parts rfl (fun p hp _ _ => ?_) (List.suffix_refl _), rfl, rfl, rfl, rfl⟩
  cases p with
  | ylm | ctx => exact absurd (by decide) hp
  | _ => rfl

theorem unarm_eq (k : Nat) (m : Main) : unarm k m = setBank k Bk.verified (endArm m) := rfl

theorem follows_unarm {k : Nat} (hk : k < 2) (m : Main) : Follows m (unarm k m) := by
  rw [unarm_eq]
  exact (follows_endArm m).trans (follows_setBank hk _ _)

theorem follows_error (m : Main) (f : Field) (hf : f.base = 0x040028 ∧ f.stride = 0) (on : Bool) : Follows m (m.putBit f on) := by
  refine Follows.ofYlm (Frame.put _ m f _ 0 (Or.inl ?_)).within (Main.put_ylm ..)
  unfold Field.addr
  rw [hf.1, hf.2]
  decide

theorem follows_jumpedArm (m : Main) : Follows m (jumpedArm m) := by
  unfold jumpedArm
  split
  · exact Follows.refl m
  · next k hk =>
    split
    · exact Follows.refl m
    · extract_lets late missing m1 m2
      have h1 : Follows m m1 := follows_unarm (bankIn_some hk).1 m
      have h2 : Follows m1 m2 := Follows.ite (follows_error m1 F.YLM_ERR_ARM_LATE (by decide) true)
      exact (h1.trans h2).trans (Follows.ite (follows_error m2 F.YLM_ERR_PAIR_MISMATCH (by decide) true))

theorem follows_listenStep (m : Main) : Follows m (listenStep m) := by
  have h := listens_listenStep m
  exact ⟨h.within.mono, by rw [h.ylm], by rw [h.ylm], by rw [h.ylm], by rw [h.ylm]⟩

theorem follows_dayStep (m : Main) : Follows m (dayStep m) := by
  unfold dayStep
  extract_lets d
  have h1 : Follows m (m.put F.PWR_MODE_DAY_BLOCK d) := Follows.ofYlm (Within.put m F.PWR_MODE_DAY_BLOCK d Nat.one_pos) (Main.put_ylm ..)
  exact h1.trans (Follows.ofYlm (Within.pwr _ _) rfl)

/-- What a course boundary does after YLM_COURSE shows the course. -/
def courseFollows (tai : Nat) (jump : Bool) (m : Main) : Main :=
  let m := utcStep tai jump m
  let m := if m.bit F.SKY_CTRL_TRACE_EN then skyQueue m 0xFF tai else m
  let m := zoneIntervals tai (almanacLow tai (quietStep (courseContexts m)))
  let m := if tai % 3600 = 0 then airtimeHour m else m
  let m := if !leapCourse m tai && decide (utcOf m tai % 900 = 0) && servo m != Sv.unset then timeAnchor m else m
  dayStep (listenStep (jumpedArm (discipline m)))

theorem follows_courseFollows (tai : Nat) (jump : Bool) (m : Main) : Follows m (courseFollows tai jump m) := by
  have ofCtx {x y : Main} (h : Within [] [] [.ctx] x y) : Follows x y := Follows.ofYlm h.mono (h.same .ylm)
  have ofTime {x y : Main} (h : Within [] [0xF] [.time] x y) : Follows x y := Follows.ofYlm h.mono (h.same .ylm)
  unfold courseFollows
  extract_lets m1 m2 m3 m4 m5
  have h1 : Follows m m1 := follows_utcStep tai jump m
  have h2 : Follows m1 m2 := Follows.ite (keeps_skyQueue m1 0xFF tai).follows
  have h3 : Follows m2 m3 := (((ofCtx (within_courseContexts m2)).trans (follows_ctx _ _)).trans (follows_almanacLow tai _)).trans
    (ofCtx (within_zoneIntervals tai _))
  have h4 : Follows m3 m4 := Follows.ite (follows_airtimeHour m3)
  have h5 : Follows m4 m5 := Follows.ite (keeps_record ..).follows
  exact ((((((((h1.trans h2).trans h3).trans h4).trans h5).trans (ofTime (within_discipline m5))).trans (follows_jumpedArm _)).trans
    (follows_listenStep _))).trans (follows_dayStep _)

/-! ### The course that begins -/

/-- The clock and the executor's count come to the course of TAI second `tai`. -/
def courseComes (tai : Nat) (jump : Bool) (m : Main) : Main :=
  countBoundary { reachClock (1000000000 * tai) m with ylm := { (reachClock (1000000000 * tai) m).ylm with
    slot := 100 * tai, built := (reachClock (1000000000 * tai) m).ylm.built.filter fun x => decide (100 * tai ≤ x.1 + 200),
    hourWhole := (reachClock (1000000000 * tai) m).ylm.hourWhole && !jump } }

theorem courseBegin_eq (tai : Nat) (m : Main) : courseBegin tai m =
    courseFollows tai (100 * tai != m.slotNow + 1) (showCourse tai (courseComes tai (100 * tai != m.slotNow + 1) m)) := rfl

theorem within_countBoundary (m : Main) : Within [] [] [.ylm, .pwr] m (countBoundary m) := by
  refine Within.parts rfl (fun p hp _ _ => ?_) (List.suffix_refl _)
  cases p with
  | ylm | pwr => exact absurd (by decide) hp
  | _ => rfl

theorem within_courseComes (tai : Nat) (jump : Bool) (m : Main) : Within [] [0x10] [.time, .ylm, .pwr] m (courseComes tai jump m) :=
  ((runs_reachClock _ m).mono.trans (Within.ylm _ _)).trans (within_countBoundary _).mono

theorem ylm_courseComes (tai : Nat) (jump : Bool) (m : Main) : (courseComes tai jump m).ylm.slot = 100 * tai ∧
    (courseComes tai jump m).ylm.run = m.ylm.run ∧ (courseComes tai jump m).ylm.banks = m.ylm.banks ∧
    (courseComes tai jump m).ylm.underrun = m.ylm.underrun := by
  have hylm : (reachClock (1000000000 * tai) m).ylm = m.ylm := (runs_reachClock _ m).same .ylm
  unfold courseComes countBoundary
  rw [hylm]
  exact ⟨rfl, rfl, rfl, rfl⟩

theorem within_showCourse (tai : Nat) (m : Main) : Within [0x04001C] [] [] m (showCourse tai m) :=
  ((Within.put m F.YLM_COURSE_POSITION _ Nat.one_pos).trans (Within.put _ F.YLM_COURSE_SLOT 0 Nat.one_pos)).trans (within_showTemplate _)

/-- The position and the slot of a course that begins. -/
def courseLine (tai : Nat) (m : Main) : Main := (m.put F.YLM_COURSE_POSITION (tai % 3600)).put F.YLM_COURSE_SLOT 0

theorem showCourse_eq (tai : Nat) (m : Main) : showCourse tai m = showTemplate (courseLine tai m) := rfl

theorem ylm_courseLine (tai : Nat) (m : Main) : (courseLine tai m).ylm = m.ylm := by
  unfold courseLine
  rw [Main.put_ylm, Main.put_ylm]

theorem get_showTemplate (m : Main) (f : Field) (h : f.lo + f.width ≤ 20) : (showTemplate m).get f = m.get f :=
  Main.get_put_bits m F.YLM_COURSE_TEMPLATE f _ 0 0 (by decide) (Or.inl h)

/-- The template that the hour sequence table names for the course, 0 without a plan. -/
def templateShown (m : Main) : Nat :=
  match runImg m with
  | some b => templateAt b (m.course % 3600)
  | none => 0

theorem templateShown_some {m : Main} {b : Img} (h : runImg m = some b) : templateShown m = templateAt b (m.course % 3600) := by
  unfold templateShown
  rw [h]

theorem showTemplate_eq (m : Main) : showTemplate m = m.put F.YLM_COURSE_TEMPLATE (templateShown m) := rfl

theorem template_showTemplate {m : Main} {b : Img} (h : runImg m = some b) :
    (showTemplate m).get F.YLM_COURSE_TEMPLATE = templateAt b (m.course % 3600) % 64 := by
  rw [showTemplate_eq]
  exact (Main.get_put_same m F.YLM_COURSE_TEMPLATE _ 0 (by decide)).trans (congrArg (· % 64) (templateShown_some h))

/-- YLM_COURSE at the start of a course (R26, R49). -/
theorem showCourse_shows (tai : Nat) {m : Main} (hs : m.ylm.slot = 100 * tai) :
    (showCourse tai m).get F.YLM_COURSE_POSITION = tai % 3600 ∧ (showCourse tai m).get F.YLM_COURSE_SLOT = 0 ∧
      ∀ b, runImg m = some b → (showCourse tai m).get F.YLM_COURSE_TEMPLATE = templateAt b (tai % 3600) % 64 := by
  rw [showCourse_eq]
  refine ⟨?_, ?_, fun b hb => ?_⟩
  · refine (get_showTemplate _ F.YLM_COURSE_POSITION (by decide)).trans ?_
    refine (Main.get_put_bits _ F.YLM_COURSE_SLOT F.YLM_COURSE_POSITION 0 0 0 (by decide) (by decide)).trans ?_
    refine (Main.get_put_same m F.YLM_COURSE_POSITION _ 0 (by decide)).trans (Nat.mod_eq_of_lt ?_)
    simp only [F.YLM_COURSE_POSITION]
    omega
  · exact (get_showTemplate _ F.YLM_COURSE_SLOT (by decide)).trans (Main.get_put_same _ F.YLM_COURSE_SLOT 0 0 (by decide))
  · have hrun : runImg (courseLine tai m) = some b := by
      unfold runImg
      rw [ylm_courseLine]
      exact hb
    have hcourse : (courseLine tai m).course = tai := by
      unfold Main.course
      rw [ylm_courseLine, hs]
      omega
    rw [template_showTemplate hrun, hcourse]

/-! ### The obligation -/

/-- The blocks that a course boundary writes, beside DAY_BLOCK. -/
theorem course_blocks {a : Nat} (h : inRegs [0x010004] [4, 5, 6, 9, 0xC, 0xF, 0x10] a) :
    a = F.PWR_MODE_DAY_BLOCK.addr 0 ∨ inBlock 4 a ∨ inBlock 5 a ∨ inBlock 6 a ∨ inBlock 9 a ∨ inBlock 0x0C a ∨ inBlock 0x0F a ∨ inBlock 0x10 a := by
  simpa [inRegs, inBlock, Field.addr, F.PWR_MODE_DAY_BLOCK] using h

theorem courseBoundary_awake {tai loud lines : Nat} {m : Main} (h : awake m = true) :
    courseBoundary tai loud lines m = courseBegin tai (courseEnd loud lines m) := if_pos h

theorem courseBoundary_asleep {tai loud lines : Nat} {m : Main} (h : awake m = false) : courseBoundary tai loud lines m = m :=
  if_neg (by rw [h]; exact Bool.false_ne_true)

/-- What a course boundary may change after event 26. -/
theorem within_course (tai loud lines : Nat) (m : Main) :
    Within [0x010004] [4, 5, 6, 9, 0xC, 0xF, 0x10] [.time, .ylm, .lanes, .ctx, .wav, .pur, .eav, .gbl, .red, .pwr]
      (fireIf m.ylm.underrun 26 m) (courseBegin tai (courseEnd loud lines m)) := by
  rw [courseBegin_eq]
  exact (((courseEnd_stays loud lines m).1.mono.trans (within_courseComes tai _ _).mono).trans (within_showCourse tai _).mono).trans
    (follows_courseFollows tai _ _).within.mono

theorem pends_underrun {m : Main} (hu : m.ylm.underrun = true) (he : m.bit F.YLM_CTRL_EVT26_EN = true) :
    pends (fireIf m.ylm.underrun 26 m) 26 = true := by
  rw [hu]
  exact pends_fire 26 m (by decide) he

/-- What a course boundary shows and closes. -/
theorem courseBegin_shows (tai loud lines : Nat) (m : Main) :
    let m' := courseBegin tai (courseEnd loud lines m)
    m'.slotNow = 100 * tai ∧ m'.get F.YLM_COURSE_POSITION = tai % 3600 ∧ m'.get F.YLM_COURSE_SLOT = 0 ∧
      (∀ b, runImg m = some b → m'.get F.YLM_COURSE_TEMPLATE = templateAt b (tai % 3600) % 64) ∧ m'.ylm.underrun = false := by
  rw [courseBegin_eq]
  generalize (100 * tai != (courseEnd loud lines m).slotNow + 1) = jump
  obtain ⟨-, hrun, hbanks, hunder⟩ := courseEnd_stays loud lines m
  obtain ⟨cslot, crun, cbanks, cunder⟩ := ylm_courseComes tai jump (courseEnd loud lines m)
  obtain ⟨hpos, hslot, htemp⟩ := showCourse_shows tai cslot
  have hshow := within_showCourse tai (courseComes tai jump (courseEnd loud lines m))
  have hylm : (showCourse tai (courseComes tai jump (courseEnd loud lines m))).ylm = (courseComes tai jump (courseEnd loud lines m)).ylm :=
    hshow.same .ylm
  obtain ⟨hw, hstay⟩ := follows_courseFollows tai jump (showCourse tai (courseComes tai jump (courseEnd loud lines m)))
  refine ⟨?_, (hw.get _ Nat.one_pos).trans hpos, (hw.get _ Nat.one_pos).trans hslot, fun b hb => (hw.get _ Nat.one_pos).trans (htemp b ?_), ?_⟩
  · exact hstay.slot.trans (by rw [hylm]; exact cslot)
  · unfold runImg at hb ⊢
    rw [crun, cbanks, hrun, hbanks]
    exact hb
  · exact hstay.underrun.trans (by rw [hylm]; exact cunder.trans hunder)

/-- Settles O3: event 26 comes first and stays pending, YLM_COURSE is shown next, and what follows (`Follows`) leaves it and the plan. -/
theorem courseBegins : Obligations.CourseBegins := by
  unfold Obligations.CourseBegins
  intro s tai loud lines
  refine ⟨fun h => answersMain_of (f := courseBoundary tai loud lines) rfl (courseBoundary_asleep h),
    fun h => answersMain_of (f := courseBoundary tai loud lines) rfl ?_⟩
  rw [courseBoundary_awake h]
  have hfire := keeps_fireIf s.main.ylm.underrun 26 s.main (by decide)
  have hall := within_course tai loud lines s.main
  obtain ⟨hslot, hpos, hcell, htemp, hunder⟩ := courseBegin_shows tai loud lines s.main
  exact ⟨hslot, hpos, hcell, htemp, fun hu he => hall.pend 26 (by decide) (pends_underrun hu he), hunder,
    ((hfire.within _ _ _).trans hall).report fun _ ha => course_blocks ha⟩

end Sys2Proof.Machine
end

section
/-!
SUPPORT. A lane's own registers (R108): what a write of one of their fields leaves as it was, and what a step of one lane may change (R107).
-/
namespace Sys2Proof.Machine

/-! ### The registers of a lane -/

/-- The first address of the lanes of lane `l`'s kind. -/
def laneBase (l : Nat) : Nat := if l < 4 then 0x050100 else 0x060100

/-- A field of lane `l`'s own registers (R108). -/
structure Field.ofLane (l : Nat) (f : Field) : Prop where
  stride : f.stride = 64
  low : laneBase l ≤ f.base
  high : f.base < laneBase l + 64

/-- A lane's number among those of its kind, and how many fault bits it has (R104). -/
def laneInst (l : Nat) : Nat := if l < 4 then l else l - 4
def faultWidth (l : Nat) : Nat := if l < 4 then 7 else 4

/-- The fields that radio lanes and power-line lanes have alike: STATE, TX_REDUCED, a live fault bit, its latch, FAULT_SKIPPED. -/
def stateField (l : Nat) : Field := ⟨laneBase l, 64, 0, 4⟩
def reducedField (l : Nat) : Field := ⟨laneBase l, 64, 4, 1⟩
def faultBit (l k : Nat) : Field := ⟨laneBase l, 64, 8 + k, 1⟩
def latchBit (l k : Nat) : Field := ⟨laneBase l + 4, 64, k, 1⟩
def skippedField (l : Nat) : Field := ⟨laneBase l + 16, 64, 0, 32⟩

/-! ### Fields of one register, and single bits of a field -/

/-- Bit `k` of a field, as a field of its own. -/
def Field.sub (f : Field) (k : Nat) : Field := ⟨f.base, f.stride, f.lo + k, 1⟩

/-- Two fields of registers repeated at one stride lie in different registers or in different bits. -/
abbrev Field.apart (f g : Field) : Prop :=
  f.stride = g.stride ∧ (f.base ≠ g.base ∨ f.lo + f.width ≤ 32 ∧ (g.lo + g.width ≤ f.lo ∨ f.lo + f.width ≤ g.lo))

theorem Main.get_put_apart {f g : Field} (h : f.apart g) (m : Main) (v i : Nat) : (m.put f v i).get g i = m.get g i := by
  obtain ⟨hs, hb | ⟨hw, hb⟩⟩ := h
  · refine Main.get_put_addr _ _ _ _ _ _ ?_
    unfold Field.addr
    rw [hs]
    omega
  · exact Main.get_put_bits _ _ _ _ _ _ hw hb

theorem bitOf_eq_testBit (x i : Nat) : bitOf x i = x.testBit i := by
  rw [Nat.testBit_eq_decide_div_mod_eq]
  rfl

theorem putBits_putBits (x lo w k v : Nat) (hk : k < w) :
    putBits x lo w (putBits (x / 2 ^ lo % 2 ^ w) k 1 v) = putBits x (lo + k) 1 v := by
  apply Nat.eq_of_testBit_eq
  intro j
  rw [testBit_putBits, testBit_putBits, testBit_putBits, Nat.testBit_mod_two_pow, Nat.testBit_div_two_pow]
  by_cases hin : lo ≤ j ∧ j < lo + w
  · rw [if_pos hin]
    by_cases hj : j = lo + k
    · rw [if_pos (by omega), if_pos (by omega), show j - lo - k = j - (lo + k) by omega]
    · rw [if_neg (by omega), if_neg (by omega), decide_eq_true (by omega : j - lo < w), Bool.true_and, show j - lo + lo = j by omega]
  · rw [if_neg hin, if_neg (by omega)]

/-- A bit that is put is a field of one bit that is put. -/
theorem Main.putBit_eq_put (m : Main) {f : Field} (on : Bool) (i : Nat) {k : Nat} (hk : k < f.width) :
    m.putBit f on i k = m.put (f.sub k) (natOf on) i := by
  unfold Main.putBit Main.put Main.get
  rw [putBits_putBits _ _ _ _ _ hk]
  rfl

theorem Main.bit_eq_get (m : Main) {f : Field} (i : Nat) {k : Nat} (hk : k < f.width) : m.bit f i k = bitOf (m.get (f.sub k) i) 0 := by
  unfold Main.bit Main.get
  rw [bitOf_mod _ _ _ hk, bitOf_mod _ _ _ (show 0 < (f.sub k).width from Nat.one_pos)]
  simp only [bitOf_eq_testBit, Nat.testBit_div_two_pow, Field.sub]
  rw [Nat.zero_add, Nat.add_comm]
  rfl

/-! ### Places of the registers -/

/-- The addresses of lane `l`'s own registers. -/
def laneAddr (l a : Nat) : Prop :=
  (l < 4 ∧ 0x050100 + 64 * l ≤ a ∧ a < 0x050140 + 64 * l) ∨ (4 ≤ l ∧ 0x060100 + 64 * (l - 4) ≤ a ∧ a < 0x060140 + 64 * (l - 4))

section
variable {l k : Nat}

theorem laneInst_radio (h : l < 4) : laneInst l = l := if_pos h
theorem laneInst_line (h : 4 ≤ l) : laneInst l = l - 4 := if_neg (by omega)
theorem faultWidth_radio (h : l < 4) : faultWidth l = 7 := if_pos h
theorem faultWidth_le (l : Nat) : faultWidth l ≤ 7 := by
  unfold faultWidth
  split <;> decide

theorem Field.ofLane_radio (h : l < 4) {f : Field} (hf : f.stride = 64 ∧ 0x050100 ≤ f.base ∧ f.base < 0x050140 := by decide) : f.ofLane l := by
  obtain ⟨hs, hlow, hhigh⟩ := hf
  have hbase : laneBase l = 0x050100 := if_pos h
  exact ⟨hs, by omega, by omega⟩

theorem Field.ofLane_line (h : 4 ≤ l) {f : Field} (hf : f.stride = 64 ∧ 0x060100 ≤ f.base ∧ f.base < 0x060140 := by decide) : f.ofLane l := by
  obtain ⟨hs, hlow, hhigh⟩ := hf
  have hbase : laneBase l = 0x060100 := if_neg (by omega)
  exact ⟨hs, by omega, by omega⟩

theorem Field.ofLane.addr {f : Field} (h : f.ofLane l) : laneAddr l (f.addr (laneInst l)) := by
  obtain ⟨hs, hlow, hhigh⟩ := h
  unfold laneAddr Field.addr
  rw [hs]
  unfold laneBase at hlow hhigh
  unfold laneInst
  split at hlow
  · next h => rw [if_pos h] at hhigh ⊢; omega
  · next h => rw [if_neg h] at hhigh ⊢; omega

/-- The registers of the lanes lie in blocks that no report writes. -/
theorem not_reporting_of_laneAddr (hl : l < 8) {a : Nat} (h : laneAddr l a) : reportAddr a = false ∧ 0x18 ≤ a := by
  have hb : a / 65536 = 5 ∨ a / 65536 = 6 := by
    unfold laneAddr at h
    omega
  refine ⟨reporting_of_not ?_, by omega⟩
  unfold reporting
  omega

theorem stateField_ofLane (l : Nat) : (stateField l).ofLane l := ⟨rfl, Nat.le_refl _, Nat.lt_add_of_pos_right (by decide)⟩
theorem reducedField_ofLane (l : Nat) : (reducedField l).ofLane l := ⟨rfl, Nat.le_refl _, Nat.lt_add_of_pos_right (by decide)⟩
theorem faultBit_ofLane (l k : Nat) : (faultBit l k).ofLane l := ⟨rfl, Nat.le_refl _, Nat.lt_add_of_pos_right (by decide)⟩
theorem latchBit_ofLane (l k : Nat) : (latchBit l k).ofLane l := ⟨rfl, Nat.le_add_right .., Nat.add_lt_add_left (by decide) _⟩
theorem skippedField_ofLane (l : Nat) : (skippedField l).ofLane l := ⟨rfl, Nat.le_add_right .., Nat.add_lt_add_left (by decide) _⟩

/-! ### What a lane shows, by its registers -/

/-- The latched bit of a lane's fault (R104), and FAULT_SKIPPED. -/
def laneLatch (m : Main) (l k : Nat) : Bool := if l < 4 then m.bit F.TLR_FAULT_FAULT_LATCH l k else m.bit F.TLP_FAULT_FAULT_LATCH (l - 4) k
def laneSkipped (m : Main) (l : Nat) : Nat := if l < 4 then m.get F.TLR_FAULT_SKIPPED l else m.get F.TLP_FAULT_SKIPPED (l - 4)

/-- A field of a radio lane and one of a power-line lane, where they stand at the same place. -/
theorem get_byKind (m : Main) (l : Nat) {fr fp f : Field} (hr : l < 4 → fr = f) (hp : ¬ l < 4 → fp = f) :
    (if l < 4 then m.get fr l else m.get fp (l - 4)) = m.get f (laneInst l) := by
  unfold laneInst
  split
  · next h => rw [hr h]
  · next h => rw [hp h]

theorem laneState_eq_get (m : Main) (l : Nat) : laneState m l = m.get (stateField l) (laneInst l) :=
  get_byKind m l (fun h => by unfold stateField laneBase; rw [if_pos h]; rfl) (fun h => by unfold stateField laneBase; rw [if_neg h]; rfl)

theorem laneSkipped_eq_get (m : Main) (l : Nat) : laneSkipped m l = m.get (skippedField l) (laneInst l) :=
  get_byKind m l (fun h => by unfold skippedField laneBase; rw [if_pos h]; rfl) (fun h => by unfold skippedField laneBase; rw [if_neg h]; rfl)

theorem faultBit_radio (h : l < 4) (k : Nat) : F.TLR_LANE_STATUS_FAULT_NOW.sub k = faultBit l k := by
  unfold faultBit laneBase; rw [if_pos h]; rfl

theorem faultBit_line (h : ¬ l < 4) (k : Nat) : F.TLP_LANE_STATUS_FAULT_NOW.sub k = faultBit l k := by
  unfold faultBit laneBase; rw [if_neg h]; rfl

theorem latchBit_radio (h : l < 4) (k : Nat) : F.TLR_FAULT_FAULT_LATCH.sub k = latchBit l k := by
  unfold latchBit laneBase Field.sub; rw [if_pos h, show F.TLR_FAULT_FAULT_LATCH.lo + k = k from Nat.zero_add k]; rfl

theorem latchBit_line (h : ¬ l < 4) (k : Nat) : F.TLP_FAULT_FAULT_LATCH.sub k = latchBit l k := by
  unfold latchBit laneBase Field.sub; rw [if_neg h, show F.TLP_FAULT_FAULT_LATCH.lo + k = k from Nat.zero_add k]; rfl

theorem laneFault_eq_get (m : Main) (hk : k < faultWidth l) : laneFault m l k = bitOf (m.get (faultBit l k) (laneInst l)) 0 := by
  unfold laneFault liveFaults faultWidth laneInst at *
  split at hk
  · next h => rw [if_pos h, if_pos h, ← faultBit_radio h]; exact Main.bit_eq_get m _ hk
  · next h => rw [if_neg h, if_neg h, ← faultBit_line h]; exact Main.bit_eq_get m _ hk

theorem laneLatch_eq_get (m : Main) (hk : k < faultWidth l) : laneLatch m l k = bitOf (m.get (latchBit l k) (laneInst l)) 0 := by
  unfold laneLatch faultWidth laneInst at *
  split at hk
  · next h => rw [if_pos h, if_pos h, ← latchBit_radio h]; exact Main.bit_eq_get m _ hk
  · next h => rw [if_neg h, if_neg h, ← latchBit_line h]; exact Main.bit_eq_get m _ hk

/-! ### What a step of one lane may change -/

/-- `m'` is `m` but for the fields `fs` of lane `l`'s own registers, the lane's record and reports; every pending event still pends. -/
structure LaneStep (l : Nat) (fs : List Field) (m m' : Main) : Prop where
  reports : Reports (laneAddr l) [.lanes] m m'
  others : ∀ k, k ≠ l → laneOf m' k = laneOf m k
  pend : ∀ n, n < 64 → pends m n = true → pends m' n = true
  field : ∀ g : Field, g.ofLane l → (∀ f ∈ fs, f.apart g) → m'.get g (laneInst l) = m.get g (laneInst l)

variable {fs fs' : List Field} {m m' m'' : Main}

theorem LaneStep.refl (l : Nat) (fs : List Field) (m : Main) : LaneStep l fs m m :=
  ⟨Frame.refl _ _ _, fun _ _ => rfl, fun _ _ h => h, fun _ _ _ => rfl⟩

theorem LaneStep.trans (h : LaneStep l fs m m') (g : LaneStep l fs m' m'') : LaneStep l fs m m'' :=
  ⟨h.reports.trans g.reports, fun k hk => (g.others k hk).trans (h.others k hk), fun n hn hp => g.pend n hn (h.pend n hn hp),
    fun f hf ha => (g.field f hf ha).trans (h.field f hf ha)⟩

theorem LaneStep.mono (h : LaneStep l fs m m') (hs : fs ⊆ fs') : LaneStep l fs' m m' :=
  ⟨h.reports, h.others, h.pend, fun g hg ha => h.field g hg fun f hf => ha f (hs hf)⟩

/-- Steps one after the other write what either writes. -/
theorem LaneStep.append (h : LaneStep l fs m m') (g : LaneStep l fs' m' m'') : LaneStep l (fs ++ fs') m m'' :=
  (h.mono (List.subset_append_left ..)).trans (g.mono (List.subset_append_right ..))

theorem LaneStep.ite {c : Prop} [Decidable c] {a b : Main} (h : LaneStep l fs m a) (g : LaneStep l fs m b) : LaneStep l fs m (if c then a else b) := by
  split
  · exact h
  · exact g

theorem Keeps.laneStep (hl : l < 8) (h : Keeps m m') : LaneStep l [] m m' :=
  ⟨h.reports _ _, fun k _ => by unfold laneOf; rw [h.lanes], h.pend, fun g hg _ => h.get g _ (not_reporting_of_laneAddr hl hg.addr).1⟩

theorem LaneStep.put (hl : l < 8) {f : Field} (hf : f.ofLane l) (v : Nat) (m : Main) : LaneStep l [f] m (m.put f v (laneInst l)) := by
  refine ⟨(Frame.put _ m f v _ hf.addr).reports, fun _ _ => rfl, fun n hn hp => ?_,
    fun g _ ha => Main.get_put_apart (ha f (List.mem_singleton_self f)) _ _ _⟩
  unfold Main.put
  rwa [pends_setWord_ne m _ (fun k hk e => ?_) hn]
  have haddr := (not_reporting_of_laneAddr hl hf.addr).2
  rw [e] at haddr
  unfold Field.addr at haddr
  simp only [F.GLB_EVT_PEND] at haddr
  omega

theorem LaneStep.withLane (l : Nat) (f : Lane → Lane) (m : Main) : LaneStep l [] m (withLane l f m) :=
  ⟨(Frame.withLane _ m l f (by decide)).reports, fun _ hk => vget_vmod_ne _ _ _ hk.symm, fun _ _ h => h, fun _ _ _ => rfl⟩

theorem laneOf_withLane (hl : l < 8) (f : Lane → Lane) (m : Main) : laneOf (withLane l f m) l = f (laneOf m l) := vget_vmod_same _ _ _ hl

end

end Sys2Proof.Machine
end

section
/-!
SUPPORT. The fault bits of a lane with their latches, TX_REDUCED and events (R104, R106).
-/
namespace Sys2Proof.Machine

/-! ### Steps that move fault bits alone -/

/-- What a move of the fault bits `ks` writes: TX_REDUCED, the bits and their latches. -/
def faultFields (l : Nat) (ks : List Nat) : List Field := reducedField l :: ks.flatMap fun k => [faultBit l k, latchBit l k]

/-- A step of lane `l` that moves no fault bits but `ks`. -/
abbrev FaultStep (l : Nat) (ks : List Nat) : Main → Main → Prop := LaneStep l (faultFields l ks)

section
variable {l k : Nat} {ks ks' : List Nat} {m m' m'' : Main}

theorem faultFields_subset (h : ks ⊆ ks') : faultFields l ks ⊆ faultFields l ks' := by
  intro f hf
  simp only [faultFields, List.mem_cons, List.mem_flatMap] at hf ⊢
  exact hf.imp id fun ⟨k, hk, hf⟩ => ⟨k, h hk, hf⟩

theorem FaultStep.widen (h : FaultStep l ks m m') (hs : ks ⊆ ks' := by decide) : FaultStep l ks' m m' := h.mono (faultFields_subset hs)

/-- A step that writes none of the lane's registers. -/
theorem LaneStep.faultStep (h : LaneStep l [] m m') (ks : List Nat) : FaultStep l ks m m' := h.mono (List.nil_subset _)

theorem faultFields_apart {g : Field} (hr : (reducedField l).apart g)
    (hks : ∀ k ∈ ks, (faultBit l k).apart g ∧ (latchBit l k).apart g) : ∀ f ∈ faultFields l ks, f.apart g := by
  intro f hf
  simp only [faultFields, List.mem_cons, List.mem_flatMap, List.not_mem_nil, or_false] at hf
  obtain rfl | ⟨k, hk, rfl | rfl⟩ := hf
  · exact hr
  · exact (hks k hk).1
  · exact (hks k hk).2

/-- A field of the lane that holds neither TX_REDUCED nor faults nor latches stays. -/
theorem FaultStep.get (h : FaultStep l ks m m') {g : Field} (hg : g.ofLane l)
    (hstatus : g.base ≠ laneBase l ∨ g.lo + g.width ≤ 4 ∨ 5 ≤ g.lo ∧ g.lo + g.width ≤ 8) (hlatch : g.base ≠ laneBase l + 4)
    (hks : ∀ j ∈ ks, j < 7 := by decide) : m'.get g (laneInst l) = m.get g (laneInst l) := by
  have hs := hg.stride
  refine h.field g hg (faultFields_apart ?_ fun j hj => ?_)
  · simp only [Field.apart, reducedField]; omega
  · have hj7 := hks j hj
    simp only [Field.apart, faultBit, latchBit]; omega

theorem FaultStep.state (h : FaultStep l ks m m') (hks : ∀ j ∈ ks, j < 7 := by decide) : laneState m' l = laneState m l := by
  rw [laneState_eq_get, laneState_eq_get]
  exact h.get (stateField_ofLane l) (Or.inr (Or.inl (Nat.le_refl _))) (by simp only [stateField]; omega) hks

theorem FaultStep.skipped (h : FaultStep l ks m m') (hks : ∀ j ∈ ks, j < 7 := by decide) : laneSkipped m' l = laneSkipped m l := by
  rw [laneSkipped_eq_get, laneSkipped_eq_get]
  exact h.get (skippedField_ofLane l) (Or.inl (by simp only [skippedField]; omega)) (by simp only [skippedField]; omega) hks

/-- A fault bit stays in a step of its lane that writes other fields. -/
theorem LaneStep.fault {fs : List Field} (h : LaneStep l fs m m') (hk : k < faultWidth l) (hf : ∀ f ∈ fs, f.apart (faultBit l k)) :
    laneFault m' l k = laneFault m l k := by
  rw [laneFault_eq_get m hk, laneFault_eq_get m' hk, h.field _ (faultBit_ofLane l k) hf]

theorem LaneStep.latch {fs : List Field} (h : LaneStep l fs m m') (hk : k < faultWidth l) (hf : ∀ f ∈ fs, f.apart (latchBit l k)) :
    laneLatch m' l k = laneLatch m l k := by
  rw [laneLatch_eq_get m hk, laneLatch_eq_get m' hk, h.field _ (latchBit_ofLane l k) hf]

/-- Other fault bits stay. -/
theorem FaultStep.fault (h : FaultStep l ks m m') (hk : k < faultWidth l) (hks : ∀ j ∈ ks, j < 7 ∧ j ≠ k := by decide) :
    laneFault m' l k = laneFault m l k := by
  refine LaneStep.fault h hk (faultFields_apart ?_ fun j hj => ?_)
  · simp only [Field.apart, true_and, reducedField, faultBit]; omega
  · obtain ⟨hlt, hne⟩ := hks j hj
    simp only [Field.apart, true_and, faultBit, latchBit]; omega

/-- And so do their latches. -/
theorem FaultStep.latch (h : FaultStep l ks m m') (hk : k < faultWidth l) (hks : ∀ j ∈ ks, j < 7 ∧ j ≠ k := by decide) :
    laneLatch m' l k = laneLatch m l k := by
  have hk7 : k < 7 := Nat.lt_of_lt_of_le hk (faultWidth_le l)
  refine LaneStep.latch h hk (faultFields_apart ?_ fun j hj => ?_)
  · simp only [Field.apart, true_and, reducedField, latchBit]; omega
  · obtain ⟨hlt, hne⟩ := hks j hj
    simp only [Field.apart, true_and, faultBit, latchBit]; omega

/-- A step that moves no fault bit. -/
theorem FaultStep.still (h : FaultStep l [] m m') (hk : k < faultWidth l) :
    laneFault m' l k = laneFault m l k ∧ laneLatch m' l k = laneLatch m l k :=
  ⟨h.fault hk fun _ hj => absurd hj List.not_mem_nil, h.latch hk fun _ hj => absurd hj List.not_mem_nil⟩

/-! ### A fault bit that moves -/

theorem showReduced_eq_put (l : Nat) (m : Main) : ∃ v, showReduced l m = m.put (reducedField l) v (laneInst l) := by
  unfold showReduced reducedField laneBase laneInst
  split
  · exact ⟨_, rfl⟩
  · exact ⟨_, rfl⟩

theorem faultStep_showReduced (hl : l < 8) (m : Main) : FaultStep l [] m (showReduced l m) := by
  obtain ⟨v, hv⟩ := showReduced_eq_put l m
  rw [hv]
  exact LaneStep.put hl (reducedField_ofLane l) v m

/-- The live bit, and where it is set its latch, as fields of their own. -/
theorem putLaneFault_eq_put (hk : k < faultWidth l) (on : Bool) (m : Main) : putLaneFault l k on m =
    if on then (m.put (faultBit l k) (natOf on) (laneInst l)).put (latchBit l k) (natOf true) (laneInst l)
    else m.put (faultBit l k) (natOf on) (laneInst l) := by
  unfold putLaneFault faultWidth laneInst at *
  split at hk
  · next h =>
    rw [if_pos h, if_pos h, ← faultBit_radio h, ← latchBit_radio h, Main.putBit_eq_put _ _ _ (show k < F.TLR_FAULT_FAULT_LATCH.width from hk),
      Main.putBit_eq_put _ _ _ (show k < F.TLR_LANE_STATUS_FAULT_NOW.width from hk)]
  · next h =>
    rw [if_neg h, if_neg h, ← faultBit_line h, ← latchBit_line h, Main.putBit_eq_put _ _ _ (show k < F.TLP_FAULT_FAULT_LATCH.width from hk),
      Main.putBit_eq_put _ _ _ (show k < F.TLP_LANE_STATUS_FAULT_NOW.width from hk)]

theorem faultStep_putLaneFault (hl : l < 8) (hk : k < faultWidth l) (on : Bool) (m : Main) : FaultStep l [k] m (putLaneFault l k on m) := by
  rw [putLaneFault_eq_put hk]
  have hbit : FaultStep l [k] m (m.put (faultBit l k) (natOf on) (laneInst l)) :=
    (LaneStep.put hl (faultBit_ofLane l k) _ m).mono (by simp [faultFields])
  exact LaneStep.ite (hbit.trans ((LaneStep.put hl (latchBit_ofLane l k) _ _).mono (by simp [faultFields]))) hbit

theorem laneFault_putLaneFault (hk : k < faultWidth l) (on : Bool) (m : Main) : laneFault (putLaneFault l k on m) l k = on := by
  have hk7 : k < 7 := Nat.lt_of_lt_of_le hk (faultWidth_le l)
  have hput (v : Nat) : (m.put (faultBit l k) v (laneInst l)).get (faultBit l k) (laneInst l) = v % 2 :=
    Main.get_put_same _ _ _ _ (by simp only [faultBit]; omega)
  rw [laneFault_eq_get _ hk, putLaneFault_eq_put hk]
  cases on
  · exact congrArg (bitOf · 0) (hput _)
  · rw [if_pos rfl, Main.get_put_apart (by simp only [Field.apart, true_and, faultBit, latchBit]; omega)]
    exact congrArg (bitOf · 0) (hput _)

theorem laneLatch_putLaneFault (hk : k < faultWidth l) (m : Main) : laneLatch (putLaneFault l k true m) l k = true := by
  have hk7 : k < 7 := Nat.lt_of_lt_of_le hk (faultWidth_le l)
  rw [laneLatch_eq_get _ hk, putLaneFault_eq_put hk, if_pos rfl, Main.get_put_same _ _ _ _ (by simp only [latchBit]; omega)]
  show bitOf (natOf true % 2 ^ 1) 0 = true
  decide

theorem laneEvent_lt (l : Nat) : (if l < 4 then 29 else 30) < 64 := by
  split <;> decide

/-- Where the bit moves, TX_REDUCED and the event follow the live bit and its latch. -/
theorem setLaneFault_moves (hl : l < 8) {on : Bool} (h : laneFault m l k ≠ on) : FaultStep l [] (putLaneFault l k on m) (setLaneFault l k on m) := by
  rw [setLaneFault_eq, if_neg h]
  exact (faultStep_showReduced hl _).trans (((keeps_fireIf _ _ _ (laneEvent_lt l)).laneStep hl).faultStep _)

theorem faultStep_setLaneFault (hl : l < 8) (hk : k < faultWidth l) (on : Bool) (m : Main) : FaultStep l [k] m (setLaneFault l k on m) := by
  by_cases h : laneFault m l k = on
  · rw [setLaneFault_eq, if_pos h]
    exact LaneStep.refl _ _ _
  · exact (faultStep_putLaneFault hl hk on m).trans ((setLaneFault_moves hl h).widen (List.nil_subset _))

/-- The live bit stands as it was put. -/
theorem laneFault_setLaneFault (hl : l < 8) (hk : k < faultWidth l) (on : Bool) (m : Main) : laneFault (setLaneFault l k on m) l k = on := by
  by_cases h : laneFault m l k = on
  · rwa [setLaneFault_eq, if_pos h]
  · exact ((setLaneFault_moves hl h).still hk).1.trans (laneFault_putLaneFault hk on m)

theorem laneOf_setLaneFault (hl : l < 8) (k : Nat) (on : Bool) (m : Main) (i : Nat) : laneOf (setLaneFault l k on m) i = laneOf m i := by
  have hlanes : (setLaneFault l k on m).lanes = m.lanes := (within_setLaneFault hl k on m).same .lanes
  unfold laneOf
  rw [hlanes]

theorem laneOf_showReduced (l : Nat) (m : Main) (i : Nat) : laneOf (showReduced l m) i = laneOf m i := by
  obtain ⟨v, hv⟩ := showReduced_eq_put l m
  rw [hv]
  rfl

/-! ### A fault that rises -/

/-- The event of a lane's faults is enabled (R106). -/
def laneEventOn (m : Main) (l : Nat) : Bool := if l < 4 then m.bit F.TLR_CTRL_EVT_EN else m.bit F.TLP_LANE_CTRL_EVT_EN

/-- Fault `k` of lane `l` is set after a step; where it was clear it is latched, and the lane's event pends where it is enabled. -/
structure Risen (l k : Nat) (m m' : Main) : Prop where
  fault : laneFault m' l k = true
  rise : laneFault m l k = false → laneLatch m' l k = true ∧ (laneEventOn m l = true → pends m' (if l < 4 then 29 else 30) = true)

theorem LaneStep.eventOn {fs : List Field} (h : LaneStep l fs m m') : laneEventOn m' l = laneEventOn m l := by
  have hword {a : Nat} (ha : a = 0x050000 ∨ a = 0x060000) : m'.word a = m.word a := by
    refine h.reports.1 a ?_
    unfold laneAddr reporting
    omega
  unfold laneEventOn Main.bit Main.get
  rw [show F.TLR_CTRL_EVT_EN.addr 0 = 0x050000 from rfl, show F.TLP_LANE_CTRL_EVT_EN.addr 0 = 0x060000 from rfl,
    hword (Or.inl rfl), hword (Or.inr rfl)]

theorem pends_laneEvent (h : laneEventOn m l = true) : pends (fire (if l < 4 then 29 else 30) m) (if l < 4 then 29 else 30) = true := by
  refine pends_fire _ m (laneEvent_lt l) ?_
  unfold laneEventOn at h
  split at h
  · next hlow => rw [if_pos hlow]; exact h
  · next hlow => rw [if_neg hlow]; exact h

theorem risen_setLaneFault (hl : l < 8) (hk : k < faultWidth l) (m : Main) : Risen l k m (setLaneFault l k true m) := by
  refine ⟨laneFault_setLaneFault hl hk true m, fun hclear => ?_⟩
  have hne : laneFault m l k ≠ true := by
    rw [hclear]
    exact Bool.false_ne_true
  refine ⟨((setLaneFault_moves hl hne).still hk).2.trans (laneLatch_putLaneFault hk m), fun hon => ?_⟩
  rw [setLaneFault_eq, if_neg hne, Bool.true_or]
  refine pends_laneEvent ?_
  rw [(faultStep_showReduced hl _).eventOn, (faultStep_putLaneFault hl hk true m).eventOn, hon]

/-- What came before the rise left the bit as it was. -/
theorem Risen.after {fs : List Field} (h : Risen l k m' m'') (g : LaneStep l fs m m') (hsame : laneFault m' l k = laneFault m l k) :
    Risen l k m m'' := by
  refine ⟨h.fault, fun hclear => ?_⟩
  rw [← g.eventOn]
  exact h.rise (hsame.trans hclear)

/-- What comes after the rise leaves the bit and its latch. -/
theorem Risen.before {fs : List Field} (h : Risen l k m m') (g : LaneStep l fs m' m'') (hfault : laneFault m'' l k = laneFault m' l k)
    (hlatch : laneLatch m'' l k = laneLatch m' l k) : Risen l k m m'' := by
  refine ⟨hfault.trans h.fault, fun hclear => ?_⟩
  obtain ⟨hl, hp⟩ := h.rise hclear
  exact ⟨hlatch.trans hl, fun hon => g.pend _ (laneEvent_lt l) (hp hon)⟩

end
end Sys2Proof.Machine
end

section
/-!
SUPPORT. The steps of LANE_RETUNE, TX_FRAME_DONE and LANE_THERMAL: what each does to the lane's record, faults and registers (R99, R101–R105).
-/
namespace Sys2Proof.Machine

section
variable {l k : Nat} {m m' : Main}

/-! ### The lane's state and FAULT_SKIPPED -/

theorem laneStep_setLane (hl : l < 8) (st : Nat) (m : Main) : LaneStep l [stateField l] m (setLane l st m) := by
  have heq : setLane l st m = m.put (stateField l) st (laneInst l) := by
    unfold setLane stateField laneBase laneInst
    split <;> rfl
  rw [heq]
  exact LaneStep.put hl (stateField_ofLane l) st m

theorem faultSkipped_eq_put (l : Nat) (m : Main) : faultSkipped l m = m.put (skippedField l) (laneSkipped m l + 1) (laneInst l) := by
  unfold faultSkipped laneSkipped skippedField laneBase laneInst
  split <;> rfl

theorem laneStep_faultSkipped (hl : l < 8) (m : Main) : LaneStep l [skippedField l] m (faultSkipped l m) := by
  rw [faultSkipped_eq_put]
  exact LaneStep.put hl (skippedField_ofLane l) _ m

theorem laneSkipped_faultSkipped (m : Main) : laneSkipped (faultSkipped l m) l = (laneSkipped m l + 1) % 2 ^ 32 := by
  rw [laneSkipped_eq_get (faultSkipped l m), faultSkipped_eq_put]
  exact Main.get_put_same _ (skippedField l) _ _ (Nat.le_refl 32)

theorem laneOf_faultSkipped (l : Nat) (m : Main) (i : Nat) : laneOf (faultSkipped l m) i = laneOf m i := by
  unfold laneOf
  rw [faultSkipped_eq_put, Main.put_lanes]

theorem laneOf_setLane (l st : Nat) (m : Main) (i : Nat) : laneOf (setLane l st m) i = laneOf m i := by
  unfold setLane
  split <;> rfl

/-- The fields of the lanes stand in other bits than the faults. -/
theorem apart_fault {f : Field} (h : f = stateField l ∨ f = skippedField l) (k : Nat) : f.apart (faultBit l k) ∧ f.apart (latchBit l k) := by
  rcases h with rfl | rfl
  · simp only [Field.apart, true_and, stateField, faultBit, latchBit]; omega
  · simp only [Field.apart, true_and, skippedField, faultBit, latchBit]; omega

/-! ### LANE_RETUNE -/

/-- A lane has been found unable to tune: SYNTH_UNLOCK rises, and the cell that is skipped is counted (R99). -/
structure Untuned (l : Nat) (m m' : Main) : Prop where
  risen : Risen l 0 m m'
  skip : (laneOf m' l).skip = true
  counted : laneSkipped m' l = (laneSkipped m l + 1) % 2 ^ 32

/-- A lane has tuned: SYNTH_UNLOCK is clear and no cell is skipped. -/
structure Tuned (l : Nat) (m m' : Main) : Prop where
  fault : laneFault m' l 0 = false
  skip : (laneOf m' l).skip = false
  counted : laneSkipped m' l = laneSkipped m l

/-- A lane that could not tune skips its next cell (R99). -/
def skipNext (l : Nat) (m : Main) : Main := withLane l (fun g => { g with skip := true }) m

/-- What a retune does to a lane. -/
def retuned (l : Nat) (locked : Bool) (m : Main) : Main :=
  if 4 ≤ l then setLane l 2 m
  else if locked then setLaneFault l 0 false (unskip l (setLane l 2 m))
  else setLaneFault l 0 true (faultSkipped l (skipNext l (setLane l 2 m)))

theorem laneRetune_none (h : vget m.ylm.next l none = none) (locked : Bool) : laneRetune l locked m = m := by
  unfold laneRetune
  rw [h]

theorem laneRetune_some (h : (vget m.ylm.next l none).isSome = true) (hon : lanesOn m = true) (locked : Bool) :
    laneRetune l locked m = retuned l locked m := by
  obtain ⟨c, hc⟩ := Option.isSome_iff_exists.1 h
  unfold laneRetune
  rw [hc]
  exact if_neg (by simp [hon])

theorem zero_lt_faultWidth (l : Nat) : 0 < faultWidth l := by
  unfold faultWidth
  split <;> decide

/-- Up to the fault bit, a retune moves no fault. -/
theorem laneStep_skips (hl : l < 8) (m : Main) :
    LaneStep l [stateField l, skippedField l] m (faultSkipped l (skipNext l (setLane l 2 m))) :=
  (((laneStep_setLane hl 2 m).append (LaneStep.withLane l _ _)).append (laneStep_faultSkipped hl _)).mono (by simp)

theorem laneStep_unskips (hl : l < 8) (m : Main) : LaneStep l [stateField l] m (unskip l (setLane l 2 m)) :=
  ((laneStep_setLane hl 2 m).append (LaneStep.withLane l _ _)).mono (by simp)

theorem laneStep_retuned (hl : l < 8) (locked : Bool) (m : Main) :
    LaneStep l ([stateField l, skippedField l] ++ faultFields l [0]) m (retuned l locked m) := by
  refine LaneStep.ite ((laneStep_setLane hl 2 m).mono (by simp)) (LaneStep.ite ?_ ?_)
  · exact ((laneStep_unskips hl m).append (faultStep_setLaneFault hl (zero_lt_faultWidth l) _ _)).mono (by simp)
  · exact (laneStep_skips hl m).append (faultStep_setLaneFault hl (zero_lt_faultWidth l) _ _)

theorem laneState_faultSkipped (hl : l < 8) (m : Main) : laneState (faultSkipped l m) l = laneState m l :=
  (stays_faultSkipped hl m).state l hl

theorem laneState_retuned (hl : l < 8) (locked : Bool) (m : Main) : laneState (retuned l locked m) l = 2 := by
  have hset : laneState (setLane l 2 m) l = 2 := laneState_setLane_same m l (by decide)
  unfold retuned
  split
  · exact hset
  · split
    · exact (faultStep_setLaneFault hl (zero_lt_faultWidth l) _ _).state.trans hset
    · exact (faultStep_setLaneFault hl (zero_lt_faultWidth l) _ _).state.trans ((laneState_faultSkipped hl _).trans hset)

theorem retuned_unlocked (hl : l < 4) (m : Main) : Untuned l m (retuned l false m) := by
  have hl8 : l < 8 := by omega
  have hzero := zero_lt_faultWidth l
  have hbefore := laneStep_skips hl8 m
  unfold retuned
  rw [if_neg (by omega), if_neg Bool.false_ne_true]
  refine ⟨(risen_setLaneFault hl8 hzero _).after hbefore (hbefore.fault hzero fun f hf => (apart_fault (by simpa using hf) 0).1), ?_, ?_⟩
  · rw [laneOf_setLaneFault hl8, laneOf_faultSkipped]
    exact congrArg Lane.skip (laneOf_withLane hl8 _ _)
  · rw [(faultStep_setLaneFault hl8 hzero _ _).skipped, laneSkipped_faultSkipped]
    have hset : laneSkipped (skipNext l (setLane l 2 m)) l = laneSkipped m l := by
      rw [laneSkipped_eq_get, laneSkipped_eq_get]
      refine (laneStep_setLane hl8 2 m).field _ (skippedField_ofLane l) ?_
      simp [Field.apart, stateField, skippedField]
    rw [hset]

theorem retuned_locked (hl : l < 4) (m : Main) : Tuned l m (retuned l true m) := by
  have hl8 : l < 8 := by omega
  have hzero := zero_lt_faultWidth l
  unfold retuned
  rw [if_neg (by omega), if_pos rfl]
  refine ⟨laneFault_setLaneFault hl8 hzero _ _, ?_, ?_⟩
  · rw [laneOf_setLaneFault hl8]
    exact congrArg Lane.skip (laneOf_withLane hl8 _ _)
  · rw [(faultStep_setLaneFault hl8 hzero _ _).skipped, laneSkipped_eq_get, laneSkipped_eq_get]
    exact (laneStep_unskips hl8 m).field _ (skippedField_ofLane l) (by simp [Field.apart, stateField, skippedField])

/-! ### Low power or current, and three frames in a row (R104) -/

/-- The frames in a row with too little, this one counted. -/
def countLow (l : Nat) (low : Bool) (m : Main) : Main := withLane l (fun g => { g with lowRun := if low then g.lowRun + 1 else 0 }) m

theorem lowRun_high (l k : Nat) (m : Main) : lowRun l k false m = setLaneFault l k false (countLow l false m) := rfl

theorem lowRun_low (l k : Nat) (m : Main) : lowRun l k true m =
    if 3 ≤ (laneOf (countLow l true m) l).lowRun then setLaneFault l k true (countLow l true m) else countLow l true m := rfl

theorem faultStep_lowRun (hl : l < 8) (hk : k < faultWidth l) (low : Bool) (m : Main) : FaultStep l [k] m (lowRun l k low m) := by
  have hcount : FaultStep l [k] m (countLow l low m) := (LaneStep.withLane l _ m).faultStep _
  cases low
  · exact hcount.trans (faultStep_setLaneFault hl hk false _)
  · rw [lowRun_low]
    exact LaneStep.ite (hcount.trans (faultStep_setLaneFault hl hk true _)) hcount

theorem laneOf_lowRun (hl : l < 8) (k : Nat) (low : Bool) (m : Main) :
    laneOf (lowRun l k low m) l = { laneOf m l with lowRun := if low then (laneOf m l).lowRun + 1 else 0 } := by
  cases low
  · rw [lowRun_high, laneOf_setLaneFault hl]
    exact laneOf_withLane hl _ m
  · rw [lowRun_low]
    split
    · rw [laneOf_setLaneFault hl]
      exact laneOf_withLane hl _ m
    · exact laneOf_withLane hl _ m

theorem lowRun_clears (hl : l < 8) (hk : k < faultWidth l) (m : Main) : laneFault (lowRun l k false m) l k = false :=
  laneFault_setLaneFault hl hk false _

theorem lowRun_rises (hl : l < 8) (hk : k < faultWidth l) (h : 2 ≤ (laneOf m l).lowRun) : Risen l k m (lowRun l k true m) := by
  have hthree : 3 ≤ (laneOf (countLow l true m) l).lowRun := by
    rw [show laneOf (countLow l true m) l = _ from laneOf_withLane hl _ m]
    exact Nat.succ_le_succ h
  rw [lowRun_low, if_pos hthree]
  exact (risen_setLaneFault hl hk _).after (LaneStep.withLane l _ m) rfl

/-! ### The antenna's faults (R102, R103) -/

/-- The bits of the antenna's faults. -/
def antennaFaults : List Nat := [1, 2, 3]

theorem antennaFault_lt (hl : l < 4) (hk : k ∈ antennaFaults) : k < faultWidth l := by
  rw [faultWidth_radio hl]
  simp only [antennaFaults, List.mem_cons, List.not_mem_nil, or_false] at hk
  omega

/-- The probes in a row with 10 dB or more, this one counted. -/
def probesGood (l rloss : Nat) (m : Main) : Nat := if 40 ≤ rloss then (laneOf m l).goodProbes + 1 else 0

def countProbe (l rloss : Nat) (m : Main) : Main := withLane l (fun g => { g with goodProbes := probesGood l rloss m }) m

/-- The third good probe in a row clears the counts. -/
def freeAntenna (l : Nat) (m : Main) : Main :=
  withLane l (fun g => { g with goodProbes := 0, notOk := Vector.replicate 2 0, reduced := Vector.replicate 2 false }) m

def clearAntenna (l : Nat) (m : Main) : Main := showReduced l (setLaneFault l 3 false (setLaneFault l 2 false (setLaneFault l 1 false m)))

theorem probeDone_eq (l rloss : Nat) (m : Main) : probeDone l rloss m =
    if probesGood l rloss m < 3 then countProbe l rloss m else clearAntenna l (freeAntenna l (countProbe l rloss m)) := rfl

theorem faultStep_clearAntenna (hl : l < 4) (m : Main) : FaultStep l antennaFaults m (clearAntenna l m) := by
  have hl8 : l < 8 := by omega
  have hmove {k : Nat} (hk : k ∈ antennaFaults) (x : Main) : FaultStep l antennaFaults x (setLaneFault l k false x) :=
    (faultStep_setLaneFault hl8 (antennaFault_lt hl hk) false x).widen (List.cons_subset.2 ⟨hk, List.nil_subset _⟩)
  exact (((hmove (by decide) _).trans (hmove (by decide) _)).trans (hmove (by decide) _)).trans
    ((faultStep_showReduced hl8 _).widen (List.nil_subset _))

theorem laneFault_clearAntenna (hl : l < 4) (hk : k ∈ antennaFaults) (m : Main) : laneFault (clearAntenna l m) l k = false := by
  have hl8 : l < 8 := by omega
  have hw {j : Nat} (hj : j ∈ antennaFaults) : j < faultWidth l := antennaFault_lt hl hj
  have hkeep {i j : Nat} (hi : i ∈ antennaFaults) (hj : j ∈ antennaFaults) (hne : i < 7 ∧ i ≠ j) (x : Main) :
      laneFault (setLaneFault l i false x) l j = laneFault x l j :=
    (faultStep_setLaneFault hl8 (hw hi) false x).fault (hw hj) (by simpa using hne)
  unfold clearAntenna
  rw [((faultStep_showReduced hl8 _).still (hw hk)).1]
  simp only [antennaFaults, List.mem_cons, List.not_mem_nil, or_false] at hk
  rcases hk with rfl | rfl | rfl
  · rw [hkeep (by decide) (by decide) (by decide), hkeep (by decide) (by decide) (by decide), laneFault_setLaneFault hl8 (hw (by decide))]
  · rw [hkeep (by decide) (by decide) (by decide), laneFault_setLaneFault hl8 (hw (by decide))]
  · exact laneFault_setLaneFault hl8 (hw (by decide)) false _

theorem laneOf_clearAntenna (hl : l < 8) (m : Main) : laneOf (clearAntenna l m) l = laneOf m l := by
  unfold clearAntenna
  rw [laneOf_showReduced, laneOf_setLaneFault hl, laneOf_setLaneFault hl, laneOf_setLaneFault hl]

theorem faultStep_probeDone (hl : l < 4) (rloss : Nat) (m : Main) : FaultStep l antennaFaults m (probeDone l rloss m) := by
  have hcount : FaultStep l antennaFaults m (countProbe l rloss m) := (LaneStep.withLane l _ m).faultStep _
  rw [probeDone_eq]
  exact LaneStep.ite hcount ((hcount.trans ((LaneStep.withLane l _ _).faultStep _)).trans (faultStep_clearAntenna hl _))

/-- A probe leaves the frames in a row with low power, and those that were not OK where it does not clear them. -/
structure ProbeLeaves (g g' : Lane) : Prop where
  low : g'.lowRun = g.lowRun
  notOk : g'.notOk = g.notOk ∨ g'.notOk = Vector.replicate 2 0

theorem laneOf_probeDone (hl : l < 8) (rloss : Nat) (m : Main) : ProbeLeaves (laneOf m l) (laneOf (probeDone l rloss m) l) := by
  have hcount : laneOf (countProbe l rloss m) l = { laneOf m l with goodProbes := probesGood l rloss m } := laneOf_withLane hl _ m
  rw [probeDone_eq]
  split
  · rw [hcount]
    exact ⟨rfl, Or.inl rfl⟩
  · have hfree : laneOf (freeAntenna l (countProbe l rloss m)) l = _ := laneOf_withLane hl _ _
    rw [laneOf_clearAntenna hl, hfree, hcount]
    exact ⟨rfl, Or.inr rfl⟩

/-- A probe that is not good moves no register. -/
theorem probeDone_bad {rloss : Nat} (h : rloss < 40) (l : Nat) (m : Main) :
    probeDone l rloss m = withLane l (fun g => { g with goodProbes := 0 }) m := by
  have hzero : probesGood l rloss m = 0 := if_neg (by omega)
  rw [probeDone_eq, if_pos (by omega)]
  unfold countProbe
  rw [hzero]

theorem probeDone_clears (hl : l < 4) {rloss : Nat} (h : 40 ≤ rloss) (hg : 2 ≤ (laneOf m l).goodProbes) (hk : k ∈ antennaFaults) :
    laneFault (probeDone l rloss m) l k = false := by
  have hthree : ¬ probesGood l rloss m < 3 := by
    unfold probesGood
    rw [if_pos h]
    omega
  rw [probeDone_eq, if_neg hthree]
  exact laneFault_clearAntenna hl hk _

/-- A frame that was not OK is counted for its antenna, whose power is reduced. -/
def countNotOk (l ant : Nat) (m : Main) : Main :=
  showReduced l (withLane l (fun g => { g with notOk := vmod g.notOk ant (· + 1), reduced := vmod g.reduced ant fun _ => true }) m)

theorem antennaClass_bad {c : Nat} (hc : c ≠ 0) (l ant : Nat) (m : Main) : antennaClass l ant c m =
    if 3 ≤ vget (laneOf (countNotOk l ant m) l).notOk ant 0 then setLaneFault l (classBit c) true (countNotOk l ant m) else countNotOk l ant m :=
  if_neg hc

theorem classBit_mem (c : Nat) : classBit c ∈ antennaFaults := by
  unfold classBit
  split <;> decide

theorem faultStep_countNotOk (hl : l < 8) (ant : Nat) (m : Main) : FaultStep l [] m (countNotOk l ant m) :=
  ((LaneStep.withLane l _ m).faultStep _).trans (faultStep_showReduced hl _)

theorem laneOf_countNotOk (hl : l < 8) (ant : Nat) (m : Main) : laneOf (countNotOk l ant m) l =
    { laneOf m l with notOk := vmod (laneOf m l).notOk ant (· + 1), reduced := vmod (laneOf m l).reduced ant fun _ => true } := by
  unfold countNotOk
  rw [laneOf_showReduced]
  exact laneOf_withLane hl _ m

theorem faultStep_antennaClass (hl : l < 4) (ant c : Nat) (m : Main) : FaultStep l antennaFaults m (antennaClass l ant c m) := by
  have hl8 : l < 8 := by omega
  by_cases hc : c = 0
  · subst hc
    exact (LaneStep.withLane l _ m).faultStep _
  · have hcount : FaultStep l antennaFaults m (countNotOk l ant m) := (faultStep_countNotOk hl8 ant m).widen (List.nil_subset _)
    rw [antennaClass_bad hc]
    refine LaneStep.ite (hcount.trans ((faultStep_setLaneFault hl8 (antennaFault_lt hl (classBit_mem c)) true _).widen ?_)) hcount
    exact List.cons_subset.2 ⟨classBit_mem c, List.nil_subset _⟩

theorem laneOf_antennaClass_bad (hl : l < 8) {c : Nat} (hc : c ≠ 0) (ant : Nat) (m : Main) : laneOf (antennaClass l ant c m) l =
    { laneOf m l with notOk := vmod (laneOf m l).notOk ant (· + 1), reduced := vmod (laneOf m l).reduced ant fun _ => true } := by
  rw [antennaClass_bad hc]
  split
  · rw [laneOf_setLaneFault hl, laneOf_countNotOk hl]
  · exact laneOf_countNotOk hl ant m

theorem laneOf_antennaClass_ok (hl : l < 8) (ant : Nat) (m : Main) : laneOf (antennaClass l ant 0 m) l =
    { laneOf m l with notOk := vmod (laneOf m l).notOk ant fun _ => 0 } := laneOf_withLane hl _ m

theorem antennaClass_rises (hl : l < 4) {c : Nat} (hc : c ≠ 0) {ant : Nat} (ha : ant < 2) (h : 2 ≤ vget (laneOf m l).notOk ant 0) :
    Risen l (classBit c) m (antennaClass l ant c m) := by
  have hl8 : l < 8 := by omega
  have hk := antennaFault_lt hl (classBit_mem c)
  have hthree : 3 ≤ vget (laneOf (countNotOk l ant m) l).notOk ant 0 := by
    rw [laneOf_countNotOk hl8]
    exact (vget_vmod_same _ _ _ ha).symm ▸ Nat.succ_le_succ h
  have hcount := faultStep_countNotOk hl8 ant m
  rw [antennaClass_bad hc, if_pos hthree]
  exact (risen_setLaneFault hl8 hk _).after hcount (hcount.still hk).1

/-! ### TX_REDUCED of a radio lane -/

theorem any_of_vget {n i : Nat} {v : Vector Bool n} (h : vget v i false = true) : v.any id = true := by
  unfold vget at h
  rw [Vector.any_eq_true]
  obtain ⟨b, hb⟩ : ∃ b, v[i]? = some b := by
    cases hv : v[i]? with
    | none => rw [hv] at h; cases h
    | some b => exact ⟨b, rfl⟩
  obtain ⟨hi, hb'⟩ := Vector.getElem?_eq_some_iff.1 hb
  rw [hb] at h
  exact ⟨i, hi, hb'.trans h⟩

theorem reduced_showReduced (hl : l < 4) {ant : Nat} (h : vget (laneOf m l).reduced ant false = true) :
    (showReduced l m).bit F.TLR_LANE_STATUS_TX_REDUCED l = true := by
  unfold showReduced
  rw [if_pos hl, Main.bit_putBit _ _ _ _ _ _ (by decide) (by decide), any_of_vget h]
  rfl

theorem laneOf_putLaneFault (hl : l < 8) (k : Nat) (on : Bool) (m : Main) (i : Nat) : laneOf (putLaneFault l k on m) i = laneOf m i := by
  have hlanes : (putLaneFault l k on m).lanes = m.lanes := (within_putLaneFault hl k on m).same .lanes
  unfold laneOf
  rw [hlanes]

/-- Power that is reduced for an antenna stays shown as a fault rises or clears. -/
theorem reduced_setLaneFault (hl : l < 4) {ant : Nat} (h : vget (laneOf m l).reduced ant false = true)
    (hb : m.bit F.TLR_LANE_STATUS_TX_REDUCED l = true) (k : Nat) (on : Bool) :
    (setLaneFault l k on m).bit F.TLR_LANE_STATUS_TX_REDUCED l = true := by
  rw [setLaneFault_eq]
  by_cases hmoves : laneFault m l k = on
  · rwa [if_pos hmoves]
  · have haddr : reportAddr (F.TLR_LANE_STATUS_TX_REDUCED.addr l) = false :=
      (not_reporting_of_laneAddr (by omega) (laneInst_radio hl ▸ (Field.ofLane_radio hl (f := F.TLR_LANE_STATUS_TX_REDUCED)).addr)).1
    rw [if_neg hmoves, (keeps_fireIf _ _ _ (laneEvent_lt l)).bit _ _ _ haddr]
    exact reduced_showReduced hl (ant := ant) (by rwa [laneOf_putLaneFault (by omega)])

theorem antennaClass_reduces (hl : l < 4) {c : Nat} (hc : c ≠ 0) {ant : Nat} (ha : ant < 2) (m : Main) :
    (antennaClass l ant c m).bit F.TLR_LANE_STATUS_TX_REDUCED l = true := by
  have hl8 : l < 8 := by omega
  have hrec : vget (laneOf (countNotOk l ant m) l).reduced ant false = true := by
    rw [laneOf_countNotOk hl8]
    exact vget_vmod_same _ _ _ ha
  have hshown : (countNotOk l ant m).bit F.TLR_LANE_STATUS_TX_REDUCED l = true :=
    reduced_showReduced hl (ant := ant) (by rwa [countNotOk, laneOf_showReduced] at hrec)
  rw [antennaClass_bad hc]
  split
  · exact reduced_setLaneFault hl hrec hshown _ _
  · exact hshown

end
end Sys2Proof.Machine
end

section
/-!
SUPPORT. TX_FRAME_DONE of a radio lane and of a power-line lane, and LANE_THERMAL, as the stages that they go through (R101–R105).
-/
namespace Sys2Proof.Machine

/-! ### Measurement registers -/

section
variable {l k : Nat} {ks : List Nat} {m m' : Main}

theorem laneBase_radio (h : l < 4) : laneBase l = 0x050100 := if_pos h
theorem laneBase_line (h : 4 ≤ l) : laneBase l = 0x060100 := if_neg (by omega)

theorem LaneStep.putRadio (hl : l < 4) {f : Field} (v : Nat) (m : Main) (hf : f.stride = 64 ∧ 0x050100 ≤ f.base ∧ f.base < 0x050140 := by decide) :
    LaneStep l [f] m (m.put f v l) := by
  have h := LaneStep.put (by omega : l < 8) (Field.ofLane_radio hl hf) v m
  rwa [laneInst_radio hl] at h

theorem LaneStep.putLine (hl : 4 ≤ l) (hl8 : l < 8) {f : Field} (v : Nat) (m : Main)
    (hf : f.stride = 64 ∧ 0x060100 ≤ f.base ∧ f.base < 0x060140 := by decide) : LaneStep l [f] m (m.put f v (l - 4)) := by
  have h := LaneStep.put hl8 (Field.ofLane_line hl hf) v m
  rwa [laneInst_line hl] at h

/-- A fault that moves leaves the measurement registers, which stand behind the latches. -/
theorem FaultStep.measure (h : FaultStep l ks m m') {g : Field} (hg : g.ofLane l) (hb : laneBase l + 8 ≤ g.base)
    (hks : ∀ j ∈ ks, j < 7 := by decide) :
    m'.get g (laneInst l) = m.get g (laneInst l) :=
  h.get hg (Or.inl (by omega)) (by omega) hks

theorem FaultStep.radio (h : FaultStep l ks m m') (hl : l < 4) {g : Field}
    (hg : g.stride = 64 ∧ 0x050108 ≤ g.base ∧ g.base < 0x050140 := by decide) (hks : ∀ j ∈ ks, j < 7 := by decide) :
    m'.get g l = m.get g l := by
  obtain ⟨hs, hlow, hhigh⟩ := hg
  have := h.measure (Field.ofLane_radio hl ⟨hs, by omega, hhigh⟩) (by rw [laneBase_radio hl]; exact hlow) hks
  rwa [laneInst_radio hl] at this

theorem FaultStep.line (h : FaultStep l ks m m') (hl : 4 ≤ l) {g : Field}
    (hg : g.stride = 64 ∧ 0x060108 ≤ g.base ∧ g.base < 0x060140 := by decide) (hks : ∀ j ∈ ks, j < 7 := by decide) :
    m'.get g (l - 4) = m.get g (l - 4) := by
  obtain ⟨hs, hlow, hhigh⟩ := hg
  have := h.measure (Field.ofLane_line hl ⟨hs, by omega, hhigh⟩) (by rw [laneBase_line hl]; exact hlow) hks
  rwa [laneInst_line hl] at this

/-- A field that saturates shows what was put into it. -/
theorem get_put_min (m : Main) {f : Field} (v i : Nat) {top : Nat} (hf : f.lo + f.width ≤ 32) (ht : top < 2 ^ f.width) :
    (m.put f (min v top) i).get f i = min v top := by
  rw [Main.get_put_same _ _ _ _ hf]
  exact Nat.mod_eq_of_lt (by omega)

/-- A lane that goes idle and then shows measurements has moved no fault. -/
theorem LaneStep.idle_fault {fs : List Field} (h : LaneStep l (stateField l :: fs) m m') (hk : k < faultWidth l)
    (hfs : ∀ f ∈ fs, f.stride = 64 ∧ f.base ≠ laneBase l) : laneFault m' l k = laneFault m l k := by
  refine h.fault hk fun f hf => ?_
  rcases List.mem_cons.1 hf with rfl | hf
  · exact (apart_fault (Or.inl rfl) k).1
  · obtain ⟨hs, hb⟩ := hfs f hf
    exact ⟨hs, Or.inl hb⟩

/-- It is idle. -/
theorem idle_of_laneStep {fs : List Field} (h : LaneStep l fs (setLane l 1 m) m') (hfs : ∀ f ∈ fs, f.stride = 64 ∧ f.base ≠ laneBase l) :
    laneState m' l = 1 := by
  rw [laneState_eq_get, h.field _ (stateField_ofLane l) fun f hf => ⟨(hfs f hf).1, Or.inl (hfs f hf).2⟩, ← laneState_eq_get]
  exact laneState_setLane_same m l (by decide)

end

/-! ### A radio frame (R101–R104) -/

theorem classOfTx_ok {rloss : Nat} (h : 24 ≤ rloss) (short : Bool) : classOfTx rloss short = 0 := by
  unfold classOfTx
  rw [if_neg (by omega), if_neg (by omega)]

theorem classOfTx_bad {rloss : Nat} (h : rloss < 24) (short : Bool) : classOfTx rloss short ≠ 0 := by
  unfold classOfTx
  split
  · split <;> decide
  · decide

theorem classOfTx_lt (rloss : Nat) (short : Bool) : classOfTx rloss short < 4 := by
  unfold classOfTx
  split
  · split <;> decide
  · split <;> decide

theorem classBit_classOfTx {rloss : Nat} (h : rloss < 24) (short : Bool) :
    classBit (classOfTx rloss short) = if rloss < 4 then (if short then 2 else 1) else 3 := by
  unfold classOfTx
  split
  · split <;> rfl
  · rfl

section
variable (l : Nat) (fwd : Int) (rloss : Nat) (short : Bool) (m : Main)

/-- The lane is idle and shows the frame's measurements. -/
def radioMeasured : Main :=
  (((setLane l 1 m).put F.TLR_RFMEAS_FWD (min fwd.toNat 255) l).put F.TLR_RFMEAS_RLOSS (min rloss 255) l).put F.TLR_RFMEAS_CLASS
    (classOfTx rloss short) l

/-- Its class is counted for its antenna. -/
def radioClassed : Main :=
  antennaClass l ((radioMeasured l fwd rloss short m).get F.TLR_LANE_STATUS_ANT_TX l) (classOfTx rloss short) (radioMeasured l fwd rloss short m)

/-- A probe is counted. -/
def radioProbed : Main :=
  if (laneOf m l).wasProbe then probeDone l rloss (radioClassed l fwd rloss short m) else radioClassed l fwd rloss short m

/-- And so is low power, of a frame that was OK. -/
def radioEnd : Main :=
  if classOfTx rloss short ≠ 0 then withLane l (fun g => { g with lowRun := 0 }) (radioProbed l fwd rloss short m)
  else lowRun l 4 (decide (fwd + 6 < (laneOf m l).setPower)) (radioProbed l fwd rloss short m)

end

def radioMeasures : List Field := [F.TLR_RFMEAS_FWD, F.TLR_RFMEAS_RLOSS, F.TLR_RFMEAS_CLASS]

section
variable {l k : Nat} {fwd : Int} {rloss : Nat} {short : Bool} {m : Main}

theorem txFrameDone_radio (hl : l < 4) (h : laneState m l = 3) : txFrameDone l (.radio fwd rloss short) m = radioEnd l fwd rloss short m := by
  unfold txFrameDone
  rw [if_neg (not_not.2 h)]
  show (if l < 4 then radioDone l fwd rloss short (setLane l 1 m) else setLane l 1 m) = _
  rw [if_pos hl]
  unfold radioEnd radioProbed
  rw [← laneOf_setLane l 1 m l]
  rfl

theorem radioMeasures_apart (hl : l < 4) : ∀ f ∈ radioMeasures, f.stride = 64 ∧ f.base ≠ laneBase l := by
  rw [laneBase_radio hl]
  decide

theorem laneStep_measures (hl : l < 4) : LaneStep l radioMeasures (setLane l 1 m) (radioMeasured l fwd rloss short m) :=
  ((LaneStep.putRadio hl _ _).append (LaneStep.putRadio hl _ _)).append (LaneStep.putRadio hl _ _)

theorem laneStep_radioMeasured (hl : l < 4) : LaneStep l (stateField l :: radioMeasures) m (radioMeasured l fwd rloss short m) :=
  (laneStep_setLane (by omega) 1 m).append (laneStep_measures hl)

theorem laneOf_radioMeasured (l : Nat) : laneOf (radioMeasured l fwd rloss short m) l = laneOf m l := by
  unfold laneOf radioMeasured
  rw [Main.put_lanes, Main.put_lanes, Main.put_lanes]
  exact laneOf_setLane l 1 m l

theorem antenna_radioMeasured (hl : l < 4) :
    (radioMeasured l fwd rloss short m).get F.TLR_LANE_STATUS_ANT_TX l = m.get F.TLR_LANE_STATUS_ANT_TX l := by
  have h := (laneStep_radioMeasured (fwd := fwd) (rloss := rloss) (short := short) (m := m) hl).field F.TLR_LANE_STATUS_ANT_TX (Field.ofLane_radio hl) ?_
  · rwa [laneInst_radio hl] at h
  · unfold stateField
    rw [laneBase_radio hl]
    decide

/-- TLR_RFMEAS shows a frame's measurements (R101). -/
structure RadioShown (l : Nat) (fwd : Int) (rloss c : Nat) (m : Main) : Prop where
  fwd : m.get F.TLR_RFMEAS_FWD l = min fwd.toNat 255
  rloss : m.get F.TLR_RFMEAS_RLOSS l = min rloss 255
  cls : m.get F.TLR_RFMEAS_CLASS l = c

theorem measures_radioMeasured (l : Nat) : RadioShown l fwd rloss (classOfTx rloss short) (radioMeasured l fwd rloss short m) := by
  unfold radioMeasured
  refine ⟨?_, ?_, ?_⟩
  · rw [Main.get_put_apart (by decide), Main.get_put_apart (by decide)]
    exact get_put_min _ _ _ (by decide) (by decide)
  · rw [Main.get_put_apart (by decide)]
    exact get_put_min _ _ _ (by decide) (by decide)
  · rw [Main.get_put_same _ _ _ _ (by decide)]
    exact Nat.mod_eq_of_lt (classOfTx_lt rloss short)

theorem faultStep_radioClassed (hl : l < 4) : FaultStep l antennaFaults (radioMeasured l fwd rloss short m) (radioClassed l fwd rloss short m) :=
  faultStep_antennaClass hl _ _ _

theorem faultStep_radioProbed (hl : l < 4) : FaultStep l antennaFaults (radioClassed l fwd rloss short m) (radioProbed l fwd rloss short m) :=
  LaneStep.ite (faultStep_probeDone hl _ _) (LaneStep.refl _ _ _)

theorem four_lt_faultWidth (hl : l < 4) : 4 < faultWidth l := by
  rw [faultWidth_radio hl]
  decide

theorem faultStep_radioEnd (hl : l < 4) : FaultStep l [4] (radioProbed l fwd rloss short m) (radioEnd l fwd rloss short m) :=
  LaneStep.ite ((LaneStep.withLane l _ _).faultStep _) (faultStep_lowRun (by omega) (four_lt_faultWidth hl) _ _)

/-- From its measurement on, a frame moves the antenna's faults and TX_LOW alone. -/
theorem faultStep_radio (hl : l < 4) : FaultStep l [1, 2, 3, 4] (radioMeasured l fwd rloss short m) (radioEnd l fwd rloss short m) :=
  ((faultStep_radioClassed hl).widen.trans (faultStep_radioProbed hl).widen).trans (faultStep_radioEnd hl).widen

theorem laneStep_radioEnd (hl : l < 4) :
    LaneStep l ((stateField l :: radioMeasures) ++ faultFields l [1, 2, 3, 4]) m (radioEnd l fwd rloss short m) :=
  (laneStep_radioMeasured hl).append (faultStep_radio hl)

theorem laneState_radioEnd (hl : l < 4) : laneState (radioEnd l fwd rloss short m) l = 1 :=
  (faultStep_radio hl).state.trans (idle_of_laneStep (laneStep_measures hl) (radioMeasures_apart hl))

theorem measures_radioEnd (hl : l < 4) : RadioShown l fwd rloss (classOfTx rloss short) (radioEnd l fwd rloss short m) := by
  have h : FaultStep l [1, 2, 3, 4] (radioMeasured l fwd rloss short m) (radioEnd l fwd rloss short m) := faultStep_radio hl
  obtain ⟨hfwd, hrloss, hclass⟩ := measures_radioMeasured (fwd := fwd) (rloss := rloss) (short := short) (m := m) l
  exact ⟨(h.radio hl).trans hfwd, (h.radio hl).trans hrloss, (h.radio hl).trans hclass⟩

/-- Neither the class nor a probe touches the frames in a row with low power. -/
theorem lowRun_radioProbed (hl : l < 8) : (laneOf (radioProbed l fwd rloss short m) l).lowRun = (laneOf m l).lowRun := by
  have hclassed : (laneOf (radioClassed l fwd rloss short m) l).lowRun = (laneOf m l).lowRun := by
    unfold radioClassed
    by_cases hc : classOfTx rloss short = 0
    · rw [hc, laneOf_antennaClass_ok hl, laneOf_radioMeasured]
    · rw [laneOf_antennaClass_bad hl hc, laneOf_radioMeasured]
  unfold radioProbed
  split
  · exact (laneOf_probeDone hl rloss _).low.trans hclassed
  · exact hclassed

theorem notOk_radioEnd (hl : l < 8) : (laneOf (radioEnd l fwd rloss short m) l).notOk = (laneOf (radioProbed l fwd rloss short m) l).notOk := by
  unfold radioEnd
  split
  · rw [laneOf_withLane hl]
  · rw [laneOf_lowRun hl]

/-- An OK frame ends its antenna's run. -/
theorem radioEnd_ok (hl : l < 4) (h : 24 ≤ rloss) {ant : Nat} (ha : ant < 2) (hant : m.get F.TLR_LANE_STATUS_ANT_TX l = ant) :
    vget (laneOf (radioEnd l fwd rloss short m) l).notOk ant 0 = 0 := by
  have hl8 : l < 8 := by omega
  have hclassed : vget (laneOf (radioClassed l fwd rloss short m) l).notOk ant 0 = 0 := by
    unfold radioClassed
    rw [classOfTx_ok h, laneOf_antennaClass_ok hl8, antenna_radioMeasured hl, hant]
    exact vget_vmod_same _ _ _ ha
  rw [notOk_radioEnd hl8]
  unfold radioProbed
  split
  · rcases (laneOf_probeDone hl8 rloss (radioClassed l fwd rloss short m)).notOk with e | e
    · rw [e, hclassed]
    · rw [e]
      simp [vget, ha]
  · exact hclassed

/-- A step of the lane's record alone, which leaves what stands of its antennas. -/
structure RecordStep (l : Nat) (m m' : Main) : Prop where
  step : LaneStep l [] m m'
  regs : m'.regs = m.regs
  notOk : (laneOf m' l).notOk = (laneOf m l).notOk
  reduced : (laneOf m' l).reduced = (laneOf m l).reduced

/-- A frame that was not OK has been counted for its antenna, whose power is reduced; the third in a row sets the fault of its class (R102). -/
structure NotOkCounted (l ant c : Nat) (m m' : Main) : Prop where
  notOk : vget (laneOf m' l).notOk ant 0 = vget (laneOf m l).notOk ant 0 + 1
  reduced : vget (laneOf m' l).reduced ant false = true
  shown : m'.bit F.TLR_LANE_STATUS_TX_REDUCED l = true
  risen : 2 ≤ vget (laneOf m l).notOk ant 0 → Risen l (classBit c) m m'

/-- After a frame that is not OK neither a probe nor low power moves a register. -/
theorem radioEnd_bad (hl : l < 8) (h : rloss < 24) : RecordStep l (radioClassed l fwd rloss short m) (radioEnd l fwd rloss short m) := by
  unfold radioEnd radioProbed
  rw [if_pos (classOfTx_bad h short)]
  split
  · rw [probeDone_bad (by omega)]
    refine ⟨(LaneStep.withLane l _ _).trans (LaneStep.withLane l _ _), ?_, ?_, ?_⟩
    · rw [withLane_regs, withLane_regs]
    · rw [laneOf_withLane hl, laneOf_withLane hl]
    · rw [laneOf_withLane hl, laneOf_withLane hl]
  · refine ⟨LaneStep.withLane l _ _, withLane_regs .., ?_, ?_⟩
    · rw [laneOf_withLane hl]
    · rw [laneOf_withLane hl]

theorem radioEnd_notOk (hl : l < 4) (h : rloss < 24) {ant : Nat} (ha : ant < 2) (hant : m.get F.TLR_LANE_STATUS_ANT_TX l = ant) :
    NotOkCounted l ant (classOfTx rloss short) m (radioEnd l fwd rloss short m) := by
  have hl8 : l < 8 := by omega
  have hc := classOfTx_bad h short
  have hantenna : (radioMeasured l fwd rloss short m).get F.TLR_LANE_STATUS_ANT_TX l = ant := (antenna_radioMeasured hl).trans hant
  have hclassed : radioClassed l fwd rloss short m = antennaClass l ant (classOfTx rloss short) (radioMeasured l fwd rloss short m) := by
    unfold radioClassed
    rw [hantenna]
  obtain ⟨hstep, hregs, hnotOk, hreduced⟩ := radioEnd_bad (fwd := fwd) (short := short) (m := m) hl8 h
  have hbit : (radioEnd l fwd rloss short m).bit F.TLR_LANE_STATUS_TX_REDUCED l =
      (radioClassed l fwd rloss short m).bit F.TLR_LANE_STATUS_TX_REDUCED l := by
    unfold Main.bit Main.get Main.word
    rw [hregs]
  refine ⟨?_, ?_, ?_, fun hrun => ?_⟩
  · rw [hnotOk, hclassed, laneOf_antennaClass_bad hl8 hc, laneOf_radioMeasured]
    exact vget_vmod_same _ _ _ ha
  · rw [hreduced, hclassed, laneOf_antennaClass_bad hl8 hc]
    exact vget_vmod_same _ _ _ ha
  · rw [hbit, hclassed]
    exact antennaClass_reduces hl hc ha _
  have hk := antennaFault_lt hl (classBit_mem (classOfTx rloss short))
  have hrise : Risen l (classBit (classOfTx rloss short)) (radioMeasured l fwd rloss short m) (radioClassed l fwd rloss short m) := by
    rw [hclassed]
    exact antennaClass_rises hl hc ha (by rwa [laneOf_radioMeasured])
  have hstill := (hstep.faultStep []).still hk
  exact (hrise.before hstep hstill.1 hstill.2).after (laneStep_radioMeasured hl) ((laneStep_radioMeasured hl).idle_fault hk (radioMeasures_apart hl))

/-- The third good probe in a row clears the antenna's faults (R103). -/
theorem radioEnd_clears (hl : l < 4) (hp : (laneOf m l).wasProbe = true) (h : 40 ≤ rloss) (hg : 2 ≤ (laneOf m l).goodProbes)
    (hk : k ∈ antennaFaults) : laneFault (radioEnd l fwd rloss short m) l k = false := by
  have hgood : 2 ≤ (laneOf (radioClassed l fwd rloss short m) l).goodProbes := by
    unfold radioClassed
    rw [classOfTx_ok (by omega), laneOf_antennaClass_ok (by omega), laneOf_radioMeasured]
    exact hg
  have hend : FaultStep l [4] (radioProbed l fwd rloss short m) (radioEnd l fwd rloss short m) := faultStep_radioEnd hl
  have hne : k ≠ 4 := by
    rintro rfl
    exact absurd hk (by decide)
  rw [hend.fault (antennaFault_lt hl hk) (by simpa using hne.symm)]
  unfold radioProbed
  rw [if_pos hp]
  exact probeDone_clears hl h hgood hk

/-- An OK frame ends with its power looked at. -/
theorem radioEnd_power (h : 24 ≤ rloss) (l : Nat) :
    radioEnd l fwd rloss short m = lowRun l 4 (decide (fwd + 6 < (laneOf m l).setPower)) (radioProbed l fwd rloss short m) :=
  if_neg (not_not.2 (classOfTx_ok h short))

/-- The third OK frame in a row with low power sets TX_LOW (R104). -/
theorem radioEnd_low (hl : l < 4) (h : 24 ≤ rloss) (hlow : fwd + 6 < (laneOf m l).setPower) (hrun : 2 ≤ (laneOf m l).lowRun) :
    Risen l 4 m (radioEnd l fwd rloss short m) := by
  have hl8 : l < 8 := by omega
  have hk := four_lt_faultWidth hl
  have hbefore : FaultStep l antennaFaults (radioMeasured l fwd rloss short m) (radioProbed l fwd rloss short m) :=
    (faultStep_radioClassed hl).trans (faultStep_radioProbed hl)
  rw [radioEnd_power h, decide_eq_true hlow]
  refine ((lowRun_rises hl8 hk ?_).after hbefore (hbefore.fault hk)).after (laneStep_radioMeasured hl)
    ((laneStep_radioMeasured hl).idle_fault hk (radioMeasures_apart hl))
  rwa [lowRun_radioProbed hl8]

theorem radioEnd_high (hl : l < 4) (h : 24 ≤ rloss) (hhigh : ¬ fwd + 6 < (laneOf m l).setPower) :
    laneFault (radioEnd l fwd rloss short m) l 4 = false := by
  rw [radioEnd_power h, decide_eq_false hhigh]
  exact lowRun_clears (by omega) (four_lt_faultWidth hl) _

end

/-! ### A power-line frame (R104, R105) -/

section
variable (l peak pct : Nat) (anyLimit : Bool) (m : Main)

/-- The lane is idle and shows the driver's measurements. -/
def lineMeasured : Main :=
  ((setLane l 1 m).put F.TLP_DRVMEAS_PEAK_MA (min peak 65535) (l - 4)).put F.TLP_DRVMEAS_LIMIT_PCT (min pct 255) (l - 4)

/-- The frames in a row in current limit, this one counted. -/
def countLimited : Main := withLane l (fun g => { g with limitRun := g.limitRun + 1 }) (lineMeasured l peak pct m)

def lineLimited : Main :=
  if 20 < pct then
    if 3 ≤ (laneOf (countLimited l peak pct m) l).limitRun then setLaneFault l 0 true (countLimited l peak pct m) else countLimited l peak pct m
  else withLane l (fun g => { g with limitRun := 0 }) (lineMeasured l peak pct m)

/-- The probes in a row without current limit, this one counted. -/
def probesFree : Nat := if anyLimit then 0 else (laneOf m l).goodProbes + 1

def countFree : Main :=
  withLane l (fun g => { g with goodProbes := if probesFree l anyLimit m < 3 then probesFree l anyLimit m else 0 }) (lineLimited l peak pct m)

def lineProbed : Main :=
  if (laneOf m l).wasProbe then
    if 3 ≤ probesFree l anyLimit m then setLaneFault l 0 false (countFree l peak pct anyLimit m) else countFree l peak pct anyLimit m
  else lineLimited l peak pct m

def lineEnd : Main := lowRun l 1 (decide (peak < 20)) (lineProbed l peak pct anyLimit m)

end

def lineMeasures : List Field := [F.TLP_DRVMEAS_PEAK_MA, F.TLP_DRVMEAS_LIMIT_PCT]

section
variable {l peak pct : Nat} {anyLimit : Bool} {m : Main}

theorem txFrameDone_line (hl : 4 ≤ l) (h : laneState m l = 3) : txFrameDone l (.line peak pct anyLimit) m = lineEnd l peak pct anyLimit m := by
  unfold txFrameDone
  rw [if_neg (not_not.2 h)]
  show (if 4 ≤ l then lineDone l peak pct anyLimit (setLane l 1 m) else setLane l 1 m) = _
  rw [if_pos hl]
  unfold lineEnd lineProbed countFree probesFree
  rw [← laneOf_setLane l 1 m l]
  rfl

theorem lineMeasures_apart (hl : 4 ≤ l) : ∀ f ∈ lineMeasures, f.stride = 64 ∧ f.base ≠ laneBase l := by
  rw [laneBase_line hl]
  decide

theorem laneStep_lineMeasures (hl : 4 ≤ l) (hl8 : l < 8) : LaneStep l lineMeasures (setLane l 1 m) (lineMeasured l peak pct m) :=
  (LaneStep.putLine hl hl8 _ _).append (LaneStep.putLine hl hl8 _ _)

theorem laneStep_lineMeasured (hl : 4 ≤ l) (hl8 : l < 8) : LaneStep l (stateField l :: lineMeasures) m (lineMeasured l peak pct m) :=
  (laneStep_setLane hl8 1 m).append (laneStep_lineMeasures hl hl8)

theorem laneOf_lineMeasured (l : Nat) : laneOf (lineMeasured l peak pct m) l = laneOf m l := by
  unfold laneOf lineMeasured
  rw [Main.put_lanes, Main.put_lanes]
  exact laneOf_setLane l 1 m l

/-- TLP_DRVMEAS shows a frame's measurements (R105). -/
structure LineShown (l peak pct : Nat) (m : Main) : Prop where
  peak : m.get F.TLP_DRVMEAS_PEAK_MA (l - 4) = min peak 65535
  pct : m.get F.TLP_DRVMEAS_LIMIT_PCT (l - 4) = min pct 255

theorem measures_lineMeasured (l : Nat) : LineShown l peak pct (lineMeasured l peak pct m) := by
  unfold lineMeasured
  refine ⟨?_, get_put_min _ _ _ (by decide) (by decide)⟩
  rw [Main.get_put_apart (by decide)]
  exact get_put_min _ _ _ (by decide) (by decide)

theorem one_lt_faultWidth (l : Nat) : 1 < faultWidth l := by
  unfold faultWidth
  split <;> decide

theorem faultStep_lineLimited (hl : l < 8) : FaultStep l [0] (lineMeasured l peak pct m) (lineLimited l peak pct m) := by
  have hcount : FaultStep l [0] (lineMeasured l peak pct m) (countLimited l peak pct m) := (LaneStep.withLane l _ _).faultStep _
  exact LaneStep.ite (LaneStep.ite (hcount.trans (faultStep_setLaneFault hl (zero_lt_faultWidth l) _ _)) hcount) ((LaneStep.withLane l _ _).faultStep _)

theorem faultStep_lineProbed (hl : l < 8) : FaultStep l [0] (lineLimited l peak pct m) (lineProbed l peak pct anyLimit m) := by
  have hcount : FaultStep l [0] (lineLimited l peak pct m) (countFree l peak pct anyLimit m) := (LaneStep.withLane l _ _).faultStep _
  exact LaneStep.ite (LaneStep.ite (hcount.trans (faultStep_setLaneFault hl (zero_lt_faultWidth l) _ _)) hcount) (LaneStep.refl _ _ _)

theorem faultStep_lineEnd (hl : l < 8) : FaultStep l [1] (lineProbed l peak pct anyLimit m) (lineEnd l peak pct anyLimit m) :=
  faultStep_lowRun hl (one_lt_faultWidth l) _ _

/-- From its measurement on, a frame moves DRV_SHORT and COUPLING_OPEN alone. -/
theorem faultStep_line (hl : l < 8) : FaultStep l [0, 1] (lineMeasured l peak pct m) (lineEnd l peak pct anyLimit m) :=
  ((faultStep_lineLimited hl).widen.trans (faultStep_lineProbed hl).widen).trans (faultStep_lineEnd hl).widen

theorem laneStep_lineEnd (hl : 4 ≤ l) (hl8 : l < 8) :
    LaneStep l ((stateField l :: lineMeasures) ++ faultFields l [0, 1]) m (lineEnd l peak pct anyLimit m) :=
  (laneStep_lineMeasured hl hl8).append (faultStep_line hl8)

theorem laneState_lineEnd (hl : 4 ≤ l) (hl8 : l < 8) : laneState (lineEnd l peak pct anyLimit m) l = 1 :=
  (faultStep_line hl8).state.trans (idle_of_laneStep (laneStep_lineMeasures hl hl8) (lineMeasures_apart hl))

theorem measures_lineEnd (hl : 4 ≤ l) (hl8 : l < 8) : LineShown l peak pct (lineEnd l peak pct anyLimit m) := by
  have h : FaultStep l [0, 1] (lineMeasured l peak pct m) (lineEnd l peak pct anyLimit m) := faultStep_line hl8
  obtain ⟨hpeak, hpct⟩ := measures_lineMeasured (peak := peak) (pct := pct) (m := m) l
  exact ⟨(h.line hl).trans hpeak, (h.line hl).trans hpct⟩

/-- The third frame in a row in current limit sets DRV_SHORT (R104). -/
theorem lineEnd_limited (hl : 4 ≤ l) (hl8 : l < 8) (hp : (laneOf m l).wasProbe = false) (h : 20 < pct) (hrun : 2 ≤ (laneOf m l).limitRun) :
    Risen l 0 m (lineEnd l peak pct anyLimit m) := by
  have hk := zero_lt_faultWidth l
  have hthree : 3 ≤ (laneOf (countLimited l peak pct m) l).limitRun := by
    unfold countLimited
    rw [laneOf_withLane hl8, laneOf_lineMeasured]
    exact Nat.succ_le_succ hrun
  have hprobed : lineProbed l peak pct anyLimit m = setLaneFault l 0 true (countLimited l peak pct m) := by
    unfold lineProbed lineLimited
    rw [if_neg (by rw [hp]; exact Bool.false_ne_true), if_pos h, if_pos hthree]
  have hend : FaultStep l [1] (lineProbed l peak pct anyLimit m) (lineEnd l peak pct anyLimit m) := faultStep_lineEnd hl8
  have hrise : Risen l 0 (countLimited l peak pct m) (lineProbed l peak pct anyLimit m) := by
    rw [hprobed]
    exact risen_setLaneFault hl8 hk _
  have hcount : LaneStep l [] (lineMeasured l peak pct m) (countLimited l peak pct m) := LaneStep.withLane l _ _
  exact ((hrise.before hend (hend.fault hk) (hend.latch hk)).after hcount ((hcount.faultStep []).still hk).1).after (laneStep_lineMeasured hl hl8)
    ((laneStep_lineMeasured hl hl8).idle_fault hk (lineMeasures_apart hl))

/-- The third probe in a row without current limit clears it (R105). -/
theorem lineEnd_clears (hl8 : l < 8) (hp : (laneOf m l).wasProbe = true) (hg : 2 ≤ (laneOf m l).goodProbes) :
    laneFault (lineEnd l peak pct false m) l 0 = false := by
  have hk := zero_lt_faultWidth l
  have hend : FaultStep l [1] (lineProbed l peak pct false m) (lineEnd l peak pct false m) := faultStep_lineEnd hl8
  have hthree : 3 ≤ probesFree l false m := Nat.succ_le_succ hg
  rw [hend.fault hk]
  unfold lineProbed
  rw [if_pos hp, if_pos hthree]
  exact laneFault_setLaneFault hl8 hk false _

/-- Neither current limit nor a probe touches the frames in a row with low current. -/
theorem lowRun_lineProbed (hl : l < 8) : (laneOf (lineProbed l peak pct anyLimit m) l).lowRun = (laneOf m l).lowRun := by
  have hlimited : (laneOf (lineLimited l peak pct m) l).lowRun = (laneOf m l).lowRun := by
    have hcount : (laneOf (countLimited l peak pct m) l).lowRun = (laneOf m l).lowRun := by
      unfold countLimited
      rw [laneOf_withLane hl, laneOf_lineMeasured]
    unfold lineLimited
    split
    · split
      · rw [laneOf_setLaneFault hl, hcount]
      · exact hcount
    · rw [laneOf_withLane hl, laneOf_lineMeasured]
  have hfree : (laneOf (countFree l peak pct anyLimit m) l).lowRun = (laneOf m l).lowRun := by
    unfold countFree
    rw [laneOf_withLane hl, hlimited]
  unfold lineProbed
  split
  · split
    · rw [laneOf_setLaneFault hl, hfree]
    · exact hfree
  · exact hlimited

/-- COUPLING_OPEN follows the frames in a row with low current (R104). -/
theorem lineEnd_low (hl : 4 ≤ l) (hl8 : l < 8) (h : peak < 20) (hrun : 2 ≤ (laneOf m l).lowRun) : Risen l 1 m (lineEnd l peak pct anyLimit m) := by
  have hk := one_lt_faultWidth l
  have hbefore : FaultStep l [0] (lineMeasured l peak pct m) (lineProbed l peak pct anyLimit m) :=
    (faultStep_lineLimited hl8).trans (faultStep_lineProbed hl8)
  unfold lineEnd
  rw [decide_eq_true h]
  refine ((lowRun_rises hl8 hk ?_).after hbefore (hbefore.fault hk)).after (laneStep_lineMeasured hl hl8)
    ((laneStep_lineMeasured hl hl8).idle_fault hk (lineMeasures_apart hl))
  rwa [lowRun_lineProbed hl8]

theorem lineEnd_high (hl8 : l < 8) (h : 20 ≤ peak) : laneFault (lineEnd l peak pct anyLimit m) l 1 = false := by
  unfold lineEnd
  rw [decide_eq_false (by omega)]
  exact lowRun_clears hl8 (one_lt_faultWidth l) _

end

/-! ### LANE_THERMAL (R104) -/

/-- The thermal fault bit of a lane's amplifier or driver. -/
def thermalBit (l : Nat) : Nat := if l < 4 then 6 else 2

/-- How a lane stands at `t` °C: 0 cool, 1 reduced, 2 stopped. -/
def thermalNow (l : Nat) (t : Int) (was : Nat) : Nat :=
  if l < 4 then (if 125 < t then 1 else if t < 115 then 0 else was)
  else if 140 < t then 2 else if t < 115 then 0 else if 125 < t then max was 1 else was

def heated (l : Nat) (t : Int) (m : Main) : Main := withLane l (fun g => { g with thermal := thermalNow l t (laneOf m l).thermal }) m

section
variable {l : Nat} {t : Int} {m : Main}

theorem laneThermal_eq (l : Nat) (t : Int) (m : Main) :
    laneThermal l t m = showReduced l (setLaneFault l (thermalBit l) (thermalNow l t (laneOf m l).thermal != 0) (heated l t m)) := rfl

theorem thermalBit_lt (l : Nat) : thermalBit l < faultWidth l := by
  unfold thermalBit faultWidth
  split <;> decide

theorem thermalNow_cool (l : Nat) (h : t < 115) (was : Nat) : thermalNow l t was = 0 := by
  unfold thermalNow
  by_cases hl : l < 4
  · rw [if_pos hl, if_neg (by omega), if_pos h]
  · rw [if_neg hl, if_neg (by omega), if_pos h]

theorem thermalNow_hot (l : Nat) (h : 125 < t) (was : Nat) : thermalNow l t was ≠ 0 := by
  unfold thermalNow
  by_cases hl : l < 4
  · rw [if_pos hl, if_pos h]
    decide
  · rw [if_neg hl]
    by_cases hstop : 140 < t
    · rw [if_pos hstop]
      decide
    · rw [if_neg hstop, if_neg (by omega), if_pos h]
      omega

theorem laneStep_laneThermal (hl : l < 8) : LaneStep l (faultFields l [thermalBit l]) m (laneThermal l t m) := by
  rw [laneThermal_eq]
  exact (((LaneStep.withLane l _ m).faultStep _).trans (faultStep_setLaneFault hl (thermalBit_lt l) _ _)).trans
    ((faultStep_showReduced hl _).widen (List.nil_subset _))

/-- Below 115 °C the fault clears. -/
theorem laneThermal_cool (hl : l < 8) (h : t < 115) : laneFault (laneThermal l t m) l (thermalBit l) = false := by
  rw [laneThermal_eq, thermalNow_cool l h, ((faultStep_showReduced hl _).still (thermalBit_lt l)).1]
  exact laneFault_setLaneFault hl (thermalBit_lt l) false _

/-- Above 125 °C it rises. -/
theorem laneThermal_hot (hl : l < 8) (h : 125 < t) : Risen l (thermalBit l) m (laneThermal l t m) := by
  have hshow := faultStep_showReduced hl (setLaneFault l (thermalBit l) true (heated l t m))
  obtain ⟨hfault, hlatch⟩ := hshow.still (thermalBit_lt l)
  rw [laneThermal_eq, (bne_iff_ne ..).2 (thermalNow_hot l h _)]
  exact ((risen_setLaneFault hl (thermalBit_lt l) _).before hshow hfault hlatch).after (LaneStep.withLane l _ m) rfl

theorem thermal_laneThermal (hl : l < 8) : (laneOf (laneThermal l t m) l).thermal = thermalNow l t (laneOf m l).thermal := by
  rw [laneThermal_eq, laneOf_showReduced, laneOf_setLaneFault hl]
  exact congrArg Lane.thermal (laneOf_withLane hl _ m)

end

end Sys2Proof.Machine
end

section
/-!
SUPPORT. The faults of the lanes (R99, R101–R107): the obligation.
-/
namespace Sys2Proof.Machine

theorem lane_fin (m : Main) (l : Fin 8) : m.lanes[l] = laneOf m l := (vget_fin m.lanes l Lane.reset).symm

/-- The frame of a step of one lane, with the lanes by their records. -/
theorem LaneStep.framed {l : Fin 8} {fs : List Field} {m m' : Main} (h : LaneStep l fs m m') :
    Reports (laneAddr l) [.lanes] m m' ∧ ∀ k : Fin 8, k ≠ l → m'.lanes[k] = m.lanes[k] := by
  refine ⟨h.reports, fun k hk => ?_⟩
  rw [lane_fin, lane_fin]
  exact h.others k fun e => hk (Fin.ext e)

/-- Settles O8: a retune by whether it is locked, a sent frame by its kind's stages, and the temperature by its two limits. -/
theorem laneFaultsFollowTheFrames : Obligations.LaneFaultsFollowTheFrames := by
  unfold Obligations.LaneFaultsFollowTheFrames
  intro s l skipped latched evtOn own framed risen
  have hl := l.isLt
  have hrisen {k : Nat} {m : Main} (h : Risen l k s.main m) : risen m k := ⟨h.fault, h.rise⟩
  refine ⟨fun locked => ⟨fun hnone => ?_, fun hsome hon => ?_⟩, fun x hne => ?_, fun fwd rloss short hlow htx => ?_,
    fun peak pct anyLimit hhigh htx => ?_, fun t => ?_⟩
  · refine answersMain_of (f := laneRetune l locked) rfl (laneRetune_none ?_ locked)
    rwa [vget_fin]
  · refine answersMain_of (f := laneRetune l locked) rfl ?_
    rw [laneRetune_some (by rwa [vget_fin]) hon, lane_fin]
    refine ⟨(laneStep_retuned hl locked s.main).framed, laneState_retuned hl locked s.main, fun hlow hun => ?_, fun hlow hlk => ?_⟩
    · subst hun
      obtain ⟨hrise, hskip, hcount⟩ := retuned_unlocked hlow s.main
      exact ⟨hrisen hrise, hskip, hcount⟩
    · subst hlk
      obtain ⟨hclear, hskip, hcount⟩ := retuned_locked hlow s.main
      exact ⟨hclear, hskip, hcount⟩
  · exact answersMain_of (f := txFrameDone l x) rfl (if_pos hne)
  · refine answersMain_of (f := txFrameDone l (.radio fwd rloss short)) rfl ?_
    rw [txFrameDone_radio hlow htx]
    simp only [lane_fin, ← vget_fin _ _ (0 : Nat), ← vget_fin _ _ false]
    obtain ⟨hfwd, hrloss, hclass⟩ := measures_radioEnd (fwd := fwd) (rloss := rloss) (short := short) (m := s.main) hlow
    refine ⟨(laneStep_radioEnd hlow).framed, laneState_radioEnd hlow, hfwd, hrloss, hclass, fun ant hant => ⟨fun hok => ?_, fun hbad => ?_⟩,
      fun hp hgood hrun k hk hk3 => ?_, fun hok => ?_⟩
    · exact radioEnd_ok hlow hok ant.isLt hant
    · obtain ⟨hnotOk, hreduced, hshown, hrise⟩ := radioEnd_notOk (fwd := fwd) (short := short) hlow hbad ant.isLt hant
      rw [classBit_classOfTx hbad] at hrise
      exact ⟨hnotOk, hreduced, hshown, fun hrun => hrisen (hrise hrun)⟩
    · refine radioEnd_clears hlow hp hgood hrun ?_
      simp only [antennaFaults, List.mem_cons, List.not_mem_nil, or_false]
      omega
    · split
      · next hpower => exact fun hrun => hrisen (radioEnd_low hlow hok hpower hrun)
      · next hpower => exact radioEnd_high hlow hok hpower
  · refine answersMain_of (f := txFrameDone l (.line peak pct anyLimit)) rfl ?_
    rw [txFrameDone_line hhigh htx]
    simp only [lane_fin]
    obtain ⟨hpeak, hpct⟩ := measures_lineEnd (peak := peak) (pct := pct) (anyLimit := anyLimit) (m := s.main) hhigh hl
    refine ⟨(laneStep_lineEnd hhigh hl).framed, laneState_lineEnd hhigh hl, hpeak, hpct,
      fun hp hover hrun => hrisen (lineEnd_limited hhigh hl hp hover hrun),
      fun hp hfree _ hrun => ?_, fun hlow hrun => hrisen (lineEnd_low hhigh hl hlow hrun), fun hpk => lineEnd_high hl hpk⟩
    subst hfree
    exact lineEnd_clears hl hp hrun
  · refine answersMain_of (f := laneThermal l t) rfl ⟨(laneStep_laneThermal hl).framed, fun hcool => laneThermal_cool hl hcool,
      fun hhot => hrisen (laneThermal_hot hl hhot), fun hhigh hstop => ?_⟩
    rw [lane_fin, thermal_laneThermal hl]
    unfold thermalNow
    rw [if_neg (by omega), if_pos hstop]

end Sys2Proof.Machine
end

section
/-!
SUPPORT. A received frame and its gutter (R98, R100, R172–R174).
-/
namespace Sys2Proof.Machine

/-- A counter of a whole register reads one more. -/
theorem Main.get_count_same (m : Main) {f : Field} (i : Nat) (hf : f.lo = 0 ∧ f.width = 32 := by decide) :
    (m.count f i).get f i = (m.get f i + 1) % 2 ^ 32 := by
  unfold Main.count
  rw [Main.get_put_same _ _ _ _ (by omega), hf.2]

theorem Main.get_count_apart {f g : Field} (h : f.apart g) (m : Main) (i : Nat) : (m.count f i).get g i = m.get g i := by
  unfold Main.count
  exact Main.get_put_apart h _ _ _

theorem get_withLane (l : Nat) (f : Lane → Lane) (m : Main) (g : Field) (i : Nat) : (withLane l f m).get g i = m.get g i := by
  unfold Main.get Main.word
  rw [withLane_regs]

theorem gutter_count (m : Main) (f : Field) (i n k : Nat) : gutter (m.count f i n) k = gutter m k := by
  unfold gutter
  rw [Main.count_ctx]

/-! ### A packet's place in a gutter (R174) -/

section
variable {l : Nat} {octets : List Byte} {m : Main}

theorem within_showGutter (hl : l < 8) (m : Main) : Within [] [7] [.ctx] m (showGutter l m) :=
  ((Within.put m F.GUT_STATUS_PACKETS _ hl).trans (Within.put _ F.GUT_STATUS_FILL _ hl)).trans (Within.putBit _ F.GUT_STATUS_MARKED _ 0 hl)

theorem within_withGutter (hl : l < 8) (f : Gutter → Gutter) (m : Main) : Within [] [7] [.ctx] m (withGutter l f m) :=
  (Within.ctx m _).trans (within_showGutter hl _)

theorem ctx_withGutter (l : Nat) (f : Gutter → Gutter) (m : Main) : (withGutter l f m).ctx = { m.ctx with gutters := vmod m.ctx.gutters l f } := rfl

/-- A field of GUT beside GUT_STATUS. -/
theorem get_withGutter (l : Nat) (f : Gutter → Gutter) (m : Main) {g : Field} (hg : g.stride = 16 ∧ 0x070100 < g.base := by decide) :
    (withGutter l f m).get g l = m.get g l := by
  obtain ⟨hs, hb⟩ := hg
  have hapart {f : Field} (hf : f.stride = 16 ∧ f.base = 0x070100) : f.apart g := ⟨hf.1.trans hs.symm, Or.inl (by omega)⟩
  unfold withGutter showGutter Main.putBit
  rw [Main.get_put_apart (hapart (by decide)), Main.get_put_apart (hapart (by decide)), Main.get_put_apart (hapart (by decide))]
  rfl

/-- A packet that fits is put at the gutter's tail, and counted. -/
def storePacket (l : Nat) (octets : List Byte) (slot course link : Nat) (m : Main) : Main :=
  (withGutter l (fun g => { g with stages := g.stages ++ packetStages (decide (4 ≤ l)) octets slot course link }) m).count F.GUT_PACKETS_IN l

theorem gutterPut_overflows (h : 128 < (gutter m l).stages.length + packetWords octets.length) (slot course link : Nat) :
    gutterPut l octets slot course link m = m.count F.GUT_OVERFLOW l := if_pos h

theorem gutterPut_fits (h : (gutter m l).stages.length + packetWords octets.length ≤ 128) (slot course link : Nat) :
    gutterPut l octets slot course link m =
      sky (storePacket l octets slot course link m) 0x03 (l * 2 ^ 29 + octets.length % 512 * 65536 + lle octets 0 1 % 16) (some l) :=
  if_neg (Nat.not_lt.2 h)

theorem within_storePacket (hl : l < 8) (octets : List Byte) (slot course link : Nat) (m : Main) :
    Within [] [7] [.ctx] m (storePacket l octets slot course link m) :=
  (within_withGutter hl _ m).trans (Within.count _ F.GUT_PACKETS_IN 1 hl)

theorem within_gutterPut (hl : l < 8) (octets : List Byte) (slot course link : Nat) (m : Main) :
    Within [] [7] [.ctx] m (gutterPut l octets slot course link m) := by
  by_cases h : 128 < (gutter m l).stages.length + packetWords octets.length
  · rw [gutterPut_overflows h]
    exact Within.count m F.GUT_OVERFLOW 1 hl
  · rw [gutterPut_fits (by omega)]
    exact (within_storePacket hl octets slot course link m).trans ((keeps_sky ..).within _ _ _)

theorem gutter_storePacket (l : Nat) (octets : List Byte) (slot course link : Nat) (m : Main) (k : Nat) :
    gutter (storePacket l octets slot course link m) k =
      vget (vmod m.ctx.gutters l fun g => { g with stages := g.stages ++ packetStages (decide (4 ≤ l)) octets slot course link }) k Gutter.empty := by
  unfold storePacket
  rw [gutter_count]
  unfold gutter
  rw [ctx_withGutter]

theorem gutter_sky (m : Main) (src data : Nat) (lane lantern : Option Nat) (k : Nat) : gutter (sky m src data lane lantern) k = gutter m k := by
  unfold gutter
  rw [(keeps_sky ..).ctx]

/-- Another lane's gutter stays. -/
theorem gutter_gutterPut_ne {k : Nat} (hk : k ≠ l) (octets : List Byte) (slot course link : Nat) (m : Main) :
    gutter (gutterPut l octets slot course link m) k = gutter m k := by
  by_cases h : 128 < (gutter m l).stages.length + packetWords octets.length
  · rw [gutterPut_overflows h, gutter_count]
  · rw [gutterPut_fits (by omega), gutter_sky, gutter_storePacket]
    exact vget_vmod_ne _ _ _ hk.symm

/-- Lane `l`'s gutter has taken a packet at its tail. -/
structure TakesPacket (l : Nat) (ws : List Stage) (m m' : Main) : Prop where
  gutter : gutter m' l = { gutter m l with stages := (gutter m l).stages ++ ws }
  counted : m'.get F.GUT_PACKETS_IN l = (m.get F.GUT_PACKETS_IN l + 1) % 2 ^ 32

/-- It has discarded one. -/
structure DropsPacket (l : Nat) (m m' : Main) : Prop where
  gutter : gutter m' l = gutter m l
  counted : m'.get F.GUT_OVERFLOW l = (m.get F.GUT_OVERFLOW l + 1) % 2 ^ 32

theorem gutterPut_takes (hl : l < 8) (h : (gutter m l).stages.length + packetWords octets.length ≤ 128) (slot course link : Nat) :
    TakesPacket l (packetStages (decide (4 ≤ l)) octets slot course link) m (gutterPut l octets slot course link m) := by
  rw [gutterPut_fits h]
  refine ⟨?_, ?_⟩
  · rw [gutter_sky, gutter_storePacket]
    exact vget_vmod_same _ _ _ hl
  · rw [((keeps_sky ..).within [] [] []).get F.GUT_PACKETS_IN hl]
    unfold storePacket
    rw [Main.get_count_same, get_withGutter]

theorem gutterPut_drops (h : 128 < (gutter m l).stages.length + packetWords octets.length) (slot course link : Nat) :
    DropsPacket l m (gutterPut l octets slot course link m) := by
  rw [gutterPut_overflows h]
  exact ⟨gutter_count .., Main.get_count_same m l⟩

end

/-! ### RX_FRAME -/

section
variable (b : Img) (l : Nat) (c : Nat × Nat) (x : RxFrame) (m : Main)

/-- The cell in execution is one that the lane could not tune for (R99). -/
def rxSkipped : Bool := (vget m.ylm.cells l none).any fun k => k.start == c.1 && k.idle

/-- The cell is of the partner's seat (R41). -/
def inShadow : Bool := isTx c.2 && CellW.seat c.2 != ownSeat m

/-- A frame cut by the end of its cell, and one that fails its check. -/
def countTruncated : Main := if l < 4 then m.count F.TLR_RX_TRUNCATED l else m.count F.TLP_RX_TRUNCATED (l - 4)
def countFailed : Main := if l < 4 then m.count F.TLR_RX_FCS_FAIL l else m.count F.TLP_RX_RS_FAIL (l - 4)

/-- A frame that a lane has decoded is counted. -/
def decodedFrame : Main := withLane l (fun g => { g with decoded := true }) (m.count F.YLM_RX_FRAMES l)

/-- DIV_RX shows the antenna that brought it (R100). -/
def showDiverse : Main := if l < 4 then m.putBit F.TLR_LANE_STATUS_DIV_RX (diverse m b l c.2 x) l else m

/-- The partner's frame has been heard in its cell. -/
def hearCell (o : Option Cell) : Option Cell := o.map fun k => if k.start = c.1 then { k with heard := true } else k

/-- A SHADOW cell in which the partner's frame is heard. -/
def hearShadow (shadow : Bool) : Main :=
  if shadow && ownDownlink b (sealedFrame x.octets) then
    ({ m with ylm := { m.ylm with cells := vmod m.ylm.cells l (hearCell c) } } : Main).count F.YLM_SHADOW_HEARD l
  else m

/-- A good frame before it goes to the gutter. -/
def rxShown : Main := hearShadow b l c x (showDiverse b l c x (decodedFrame l m)) (inShadow c m)

def rxGood : Main := gutterPut l x.octets (x.slot % 100) (x.slot / 100) x.link (rxShown b l c x m)

end

section
variable {b : Img} {l : Nat} {x : RxFrame} {m : Main}

theorem rxFrame_run (h : runImg m = some b) : rxFrame l x m =
    let c := cellAt b x.slot l
    if !lanesOn m || rxSkipped l c m || !(isRx c.2 || inShadow c m) then m
    else if x.pastEnd && !goesOn b l c then countTruncated l m
    else if !x.good then countFailed l m
    else rxGood b l c x m := by
  unfold rxFrame
  rw [h]
  rfl

theorem rxFrame_idle (h : runImg m = none ∨ lanesOn m = false) : rxFrame l x m = m := by
  cases hb : runImg m with
  | none =>
    unfold rxFrame
    rw [hb]
  | some b =>
    have hoff : lanesOn m = false := h.resolve_left (by rw [hb]; exact Option.some_ne_none b)
    rw [rxFrame_run hb]
    exact if_pos (by rw [hoff]; rfl)

/-- Outside the receive and SHADOW cells nothing is received. -/
theorem rxFrame_outside (hb : runImg m = some b) (h : (isRx (cellAt b x.slot l).2 || inShadow (cellAt b x.slot l) m) = false) :
    rxFrame l x m = m := by
  rw [rxFrame_run hb]
  exact if_pos (by rw [h]; simp)

theorem rxFrame_inside (hb : runImg m = some b) (hon : lanesOn m = true) (hs : rxSkipped l (cellAt b x.slot l) m = false)
    (h : (isRx (cellAt b x.slot l).2 || inShadow (cellAt b x.slot l) m) = true) : rxFrame l x m =
    if x.pastEnd && !goesOn b l (cellAt b x.slot l) then countTruncated l m
    else if !x.good then countFailed l m
    else rxGood b l (cellAt b x.slot l) x m := by
  rw [rxFrame_run hb]
  exact if_neg (by rw [hon, hs, h]; decide)

theorem within_countTruncated (hl : l < 8) : Within [] [4, 5, 6, 7] [.ylm, .lanes, .ctx] m (countTruncated l m) := by
  unfold countTruncated
  split
  · next h => exact Within.count m F.TLR_RX_TRUNCATED 1 h
  · exact Within.count m F.TLP_RX_TRUNCATED 1 (by omega : l - 4 < 4)

theorem within_countFailed (hl : l < 8) : Within [] [4, 5, 6, 7] [.ylm, .lanes, .ctx] m (countFailed l m) := by
  unfold countFailed
  split
  · next h => exact Within.count m F.TLR_RX_FCS_FAIL 1 h
  · exact Within.count m F.TLP_RX_RS_FAIL 1 (by omega : l - 4 < 4)

/-- A frame is lost and counted, in `fr` on a radio lane and in `fp` on a power line. -/
structure LosesFrame (fr fp : Field) (l : Nat) (m m' : Main) : Prop where
  ctx : m'.ctx = m.ctx
  radio : l < 4 → m'.get fr l = (m.get fr l + 1) % 2 ^ 32
  line : 4 ≤ l → m'.get fp (l - 4) = (m.get fp (l - 4) + 1) % 2 ^ 32

theorem losesFrame_count (m : Main) (l : Nat) {fr fp : Field} (hr : fr.lo = 0 ∧ fr.width = 32 := by decide)
    (hp : fp.lo = 0 ∧ fp.width = 32 := by decide) : LosesFrame fr fp l m (if l < 4 then m.count fr l else m.count fp (l - 4)) := by
  split
  · exact ⟨Main.count_ctx .., fun _ => Main.get_count_same m l hr, fun h => by omega⟩
  · exact ⟨Main.count_ctx .., fun h => by omega, fun _ => Main.get_count_same m (l - 4) hp⟩

theorem countTruncated_loses (l : Nat) (m : Main) : LosesFrame F.TLR_RX_TRUNCATED F.TLP_RX_TRUNCATED l m (countTruncated l m) := losesFrame_count m l

theorem countFailed_loses (l : Nat) (m : Main) : LosesFrame F.TLR_RX_FCS_FAIL F.TLP_RX_RS_FAIL l m (countFailed l m) := losesFrame_count m l

/-! ### A good frame -/

theorem within_decodedFrame (hl : l < 8) (m : Main) : Within [] [4] [.lanes] m (decodedFrame l m) :=
  (Within.count m F.YLM_RX_FRAMES 1 hl).trans (Within.withLane l _ _)

theorem within_showDiverse (b : Img) (l : Nat) (c : Nat × Nat) (x : RxFrame) (m : Main) : Within [] [5] [] m (showDiverse b l c x m) := by
  unfold showDiverse
  split
  · next h => exact Within.putBit m F.TLR_LANE_STATUS_DIV_RX _ 0 h
  · exact Within.refl _ _ _ _

theorem within_hearShadow (b : Img) (hl : l < 8) (c : Nat × Nat) (x : RxFrame) (m : Main) (shadow : Bool) :
    Within [] [4] [.ylm] m (hearShadow b l c x m shadow) :=
  Within.ite _ ((Within.ylm m _).trans (Within.count _ F.YLM_SHADOW_HEARD 1 hl)) (Within.refl _ _ _ _)

theorem within_rxShown (b : Img) (hl : l < 8) (c : Nat × Nat) (x : RxFrame) (m : Main) : Within [] [4, 5] [.ylm, .lanes] m (rxShown b l c x m) :=
  ((within_decodedFrame hl m).mono.trans (within_showDiverse b l c x _).mono).trans (within_hearShadow b hl c x _ _).mono

theorem within_rxGood (b : Img) (hl : l < 8) (c : Nat × Nat) (x : RxFrame) (m : Main) :
    Within [] [4, 5, 6, 7] [.ylm, .lanes, .ctx] m (rxGood b l c x m) :=
  (within_rxShown b hl c x m).mono.trans (within_gutterPut hl ..).mono

/-- A good frame is counted once; its SHADOW cell is counted in another register. -/
theorem frames_rxGood (b : Img) (hl : l < 8) (c : Nat × Nat) (x : RxFrame) (m : Main) :
    (rxGood b l c x m).get F.YLM_RX_FRAMES l = (m.get F.YLM_RX_FRAMES l + 1) % 2 ^ 32 := by
  have hhear (m : Main) (shadow : Bool) : (hearShadow b l c x m shadow).get F.YLM_RX_FRAMES l = m.get F.YLM_RX_FRAMES l := by
    unfold hearShadow
    split
    · rw [Main.get_count_apart (by decide)]
      rfl
    · rfl
  have hcount : (decodedFrame l m).get F.YLM_RX_FRAMES l = (m.get F.YLM_RX_FRAMES l + 1) % 2 ^ 32 := by
    unfold decodedFrame
    rw [get_withLane, Main.get_count_same]
  unfold rxGood rxShown
  rw [(within_gutterPut hl ..).get F.YLM_RX_FRAMES hl, hhear, (within_showDiverse ..).get F.YLM_RX_FRAMES hl, hcount]

theorem partnerLane_ne (l : Nat) : partnerLane l ≠ l := by
  unfold partnerLane
  split <;> omega

theorem laneOf_decodedFrame {k : Nat} (hk : k ≠ l) (m : Main) : laneOf (decodedFrame l m) k = laneOf m k := by
  unfold decodedFrame
  rw [(LaneStep.withLane l _ _).others k hk]
  unfold laneOf
  rw [Main.count_lanes]

/-- A radio lane shows the antenna that brought the frame (R100). -/
theorem diverse_rxGood (b : Img) (hl : l < 4) (c : Nat × Nat) (x : RxFrame) (m : Main) :
    (rxGood b l c x m).bit F.TLR_LANE_STATUS_DIV_RX l = diverse m b l c.2 x := by
  have hl8 : l < 8 := by omega
  have hpartner : diverse (decodedFrame l m) b l c.2 x = diverse m b l c.2 x := by
    unfold diverse
    rw [laneOf_decodedFrame (partnerLane_ne l)]
  unfold rxGood rxShown
  rw [(within_gutterPut hl8 ..).bit F.TLR_LANE_STATUS_DIV_RX 0 hl, (within_hearShadow b hl8 c x _ _).bit F.TLR_LANE_STATUS_DIV_RX 0 hl]
  unfold showDiverse
  rw [if_pos hl, Main.bit_putBit _ _ _ _ _ _ (by decide) (by decide), if_pos rfl, hpartner]

theorem ctx_rxShown (b : Img) (hl : l < 8) (c : Nat × Nat) (x : RxFrame) (m : Main) : (rxShown b l c x m).ctx = m.ctx :=
  (within_rxShown b hl c x m).same .ctx

theorem gutter_rxShown (b : Img) (hl : l < 8) (c : Nat × Nat) (x : RxFrame) (m : Main) (k : Nat) : gutter (rxShown b l c x m) k = gutter m k := by
  unfold gutter
  rw [ctx_rxShown b hl]

/-- A good frame that fits enters the lane's gutter whole. -/
theorem rxGood_takes (b : Img) (hl : l < 8) (c : Nat × Nat) (h : (gutter m l).stages.length + packetWords x.octets.length ≤ 128) :
    TakesPacket l (packetStages (decide (4 ≤ l)) x.octets (x.slot % 100) (x.slot / 100) x.link) m (rxGood b l c x m) := by
  obtain ⟨htail, hcount⟩ := gutterPut_takes (m := rxShown b l c x m) hl (by rwa [gutter_rxShown b hl]) (x.slot % 100) (x.slot / 100) x.link
  rw [gutter_rxShown b hl] at htail
  rw [(within_rxShown b hl c x m).get F.GUT_PACKETS_IN hl] at hcount
  exact ⟨htail, hcount⟩

/-- One that does not is discarded whole. -/
theorem rxGood_drops (b : Img) (hl : l < 8) (c : Nat × Nat) (h : 128 < (gutter m l).stages.length + packetWords x.octets.length) :
    DropsPacket l m (rxGood b l c x m) := by
  obtain ⟨hsame, hcount⟩ := gutterPut_drops (m := rxShown b l c x m) (by rwa [gutter_rxShown b hl]) (x.slot % 100) (x.slot / 100) x.link
  rw [gutter_rxShown b hl] at hsame
  rw [(within_rxShown b hl c x m).get F.GUT_OVERFLOW hl] at hcount
  exact ⟨hsame, hcount⟩

theorem rxGood_others (b : Img) (hl : l < 8) (c : Nat × Nat) (x : RxFrame) (m : Main) {k : Nat} (hk : k ≠ l) :
    gutter (rxGood b l c x m) k = gutter m k :=
  (gutter_gutterPut_ne hk ..).trans (gutter_rxShown b hl c x m k)

end

/-! ### The obligation -/

theorem gutter_fin (m : Main) (l : Fin 8) : m.ctx.gutters[l] = gutter m l := (vget_fin m.ctx.gutters l Gutter.empty).symm

theorem rx_blocks {a : Nat} (h : inRegs [] [4, 5, 6, 7] a) : inBlock 4 a ∨ inBlock 5 a ∨ inBlock 6 a ∨ inBlock 7 a := by
  simpa [inRegs, inBlock] using h

/-- A receive cell or a cell of the partner's seat. -/
theorem rxCell_iff (c : Nat × Nat) (m : Main) :
    (isRx c.2 || inShadow c m) = true ↔ isRx c.2 = true ∨ isTx c.2 = true ∧ CellW.seat c.2 ≠ m.get F.RED_STATUS_SEAT := by
  unfold inShadow ownSeat
  rw [Bool.or_eq_true, Bool.and_eq_true, bne_iff_ne]

theorem rxSkipped_false {l : Fin 8} {c : Nat × Nat} {m : Main} (h : ∀ k, m.ylm.cells[l] = some k → k.start = c.1 → k.idle = false) :
    rxSkipped l c m = false := by
  unfold rxSkipped
  rw [vget_fin]
  cases hk : m.ylm.cells[l] with
  | none => rfl
  | some k =>
    by_cases hs : k.start = c.1
    · simp [h k hk hs]
    · simp [hs]

/-- Settles O9: a frame outside the lane's receive cells changes nothing; inside, a cut or failed frame counts alone, and a good one goes the
way of `rxGood`. -/
theorem receivedFramesReachTheGutter : Obligations.ReceivedFramesReachTheGutter := by
  unfold Obligations.ReceivedFramesReachTheGutter
  intro s l x
  refine ⟨fun h => answersMain_of (f := rxFrame l x) rfl (rxFrame_idle h), fun b hb hon => ?_⟩
  intro c shadow up g words
  refine ⟨fun h => ?_, fun h hcell => ?_⟩
  · exact answersMain_of (f := rxFrame l x) rfl (rxFrame_outside hb (Bool.eq_false_iff.2 fun hin => h ((rxCell_iff c s.main).1 hin)))
  · refine answersMain_of (f := rxFrame l x) rfl ?_
    rw [rxFrame_inside hb hon (rxSkipped_false hcell) ((rxCell_iff c s.main).2 h)]
    have hl := l.isLt
    by_cases hcut : x.pastEnd = true ∧ goesOn b l c = false
    · obtain ⟨hctx, hradio, hline⟩ := countTruncated_loses l s.main
      rw [if_pos hcut, if_pos (by rw [hcut.1, hcut.2]; rfl)]
      exact ⟨(within_countTruncated hl).report fun _ => rx_blocks, fun k _ => by rw [hctx], hctx, hradio, hline⟩
    · rw [if_neg hcut, if_neg (by simpa using hcut)]
      by_cases hbad : x.good = false
      · obtain ⟨hctx, hradio, hline⟩ := countFailed_loses l s.main
        rw [if_pos hbad, if_pos (by rw [hbad]; rfl)]
        exact ⟨(within_countFailed hl).report fun _ => rx_blocks, fun k _ => by rw [hctx], hctx, hradio, hline⟩
      · rw [if_neg hbad, if_neg (by simpa using hbad)]
        refine ⟨(within_rxGood b hl c x s.main).report fun _ => rx_blocks, fun k hk => ?_, frames_rxGood b hl c x s.main,
          fun hlow => diverse_rxGood b hlow c x s.main, ?_⟩
        · rw [gutter_fin, gutter_fin]
          exact rxGood_others b hl c x s.main fun e => hk (Fin.ext e)
        · simp only [g, gutter_fin]
          split
          · next hfits => exact ⟨(rxGood_takes b hl c hfits).gutter, (rxGood_takes b hl c hfits).counted⟩
          · next hfull => exact ⟨(rxGood_drops b hl c (by omega)).gutter, (rxGood_drops b hl c (by omega)).counted⟩

end Sys2Proof.Machine
end

section
/-!
SUPPORT. A packet read again from its mark (R118, R178, R179). Where a mark stands from before, MARK leaves it, and REWIND goes back to
it and not to the packet's beginning: the MIC is then tried on octets other than those that the checks saw. RX_FRAME, which takes up
to 511 octets, leaves such a mark with a frame of more than the 76 words of R173: its first PACKET_RELEASE ends before the EOP word and
releases nothing.
-/
namespace Sys2Proof.Machine

/-! ### The two readings of a head packet -/

/-- The words that MARK and READ take from gutter `l` (R178), and the gutter after that. -/
def headRead (m : Main) (l : Nat) : List Stage × Gutter := (gutter m l).setMark.readPacket 76

/-- The packet that the checks see, and the one that the retry under the previous epoch's key sees. -/
def headPacket (m : Main) (l : Nat) : Packet := packetOf (headRead m l).1 m.course
def rereadPacket (m : Main) (l : Nat) : Packet := packetOf ((headRead m l).2.rewind.readPacket 76).1 m.course

/-- The gutter whose turn it is holds a clean packet that passes checks 2 to 7 in RUNNING, names the previous epoch and fails its MIC
under the running one; read again, it opens as `x`, which is no JOIN. -/
structure Retried (m : Main) (l : Nat) (b : Img) (x : TlpFrame) : Prop where
  pick : pickGutter m = some l
  exec : m.exec = Ex.running
  plan : runImg m = some b
  clean : (headRead m l).1.any Stage.poison = false
  passes : intakeFail m b (headPacket m l) (rxFields (headPacket m l)) = none
  closed : openRx m (headPacket m l) (Hdr.epoch b) = none
  previous : epochKind m b (rxFields (headPacket m l)) (headPacket m l).rxCourse = 2
  opens : openRx m (rereadPacket m l) (rxFields (headPacket m l)).epoch = some x
  typ : x.typ ≠ 0xB

/-- The obligation has such a packet count as heard from the lantern that the first reading names. -/
theorem Retried.heard {m : Main} {l : Nat} {b : Img} {x : TlpFrame} (h : Retried m l b x) (hl : l < 8)
    (hob : Obligations.PacketsAreCheckedInOrder) (us : Nat) :
    (ctxOf (packetRelease none none us m) ((rxFields (headPacket m l)).sender % 8192)).lastHeard =
      (headPacket m l).rxCourse % 2 ^ 32 := by
  obtain ⟨m', hstep, -, -, -, -, -, -, hrun⟩ := (hob ⟨m, Dormer.reset, []⟩ none none us).2 ⟨l, hl⟩ h.pick
  have hm' : packetRelease none none us m = m' := congrArg State.main (Host.Outcome.next.inj hstep)
  have hclaim := hrun b h.exec h.plan
  obtain ⟨-, -, -, hclean, hpasses, hclosed, hprevious, hopens, htyp⟩ := h
  simp only [rereadPacket, headPacket, headRead] at hclean hpasses hclosed hprevious hopens ⊢
  simp only [hclean, Bool.false_eq_true, if_false, hpasses, hclosed, hprevious, if_true, hopens] at hclaim
  obtain ⟨-, -, hclaim⟩ := hclaim
  rw [if_neg htyp] at hclaim
  obtain ⟨hheard, -⟩ := hclaim
  rw [hm']
  exact hheard

/-! ### A gutter whose mark stands at its second packet -/

/-- A frame of TYPE 0xC and lantern 5 in epoch 1, with JK set, which no key opens. -/
def headFrame : List Byte := [0xC, 1, 0, 0, 5, 0xC0, 1, 0] ++ zeros 16

/-- A frame of SENDER 7 and TYPE 0 in epoch 1, without a body; its last 8 octets are its MIC under K_NET 1 in course 1. -/
def markedFrame : List Byte := [0, 1, 1, 0, 7, 0, 1, 0, 255, 134, 106, 167, 122, 244, 132, 240]

/-- The two frames in a gutter, both received in course 1, with the mark at the second's header word. -/
def staleGutter : Gutter := ⟨packetStages false headFrame 0 1 0 ++ packetStages false markedFrame 0 1 0, 0, some 7, false⟩

/-- A module in RUNNING in course 1, under a plan of epoch 0 that follows one of epoch 1, with K_NET 1 and these packets on lane 0. -/
def staleMark : Main :=
  { Main.reset.put F.YLM_STATUS_EXEC_STATE Ex.running with
    ylm := { Ylm.reset with run := some 0, slot := 100 }
    ctx := { CtxSt.reset with prevEpoch := some 1, gutters := CtxSt.reset.gutters.set 0 staleGutter }
    key := { KeySt.reset with work := Vector.replicate 4 (some ⟨1, 0⟩) } }

/-- The checks see the first frame, from lantern 5 in course 1, and only its MIC fails. -/
theorem staleMark_checks :
    pickGutter staleMark = some 0 ∧ staleMark.exec = Ex.running ∧ runImg staleMark = some [] ∧
    (headRead staleMark 0).1.any Stage.poison = false ∧
    intakeFail staleMark [] (headPacket staleMark 0) (rxFields (headPacket staleMark 0)) = none ∧
    openRx staleMark (headPacket staleMark 0) (Hdr.epoch []) = none ∧
    epochKind staleMark [] (rxFields (headPacket staleMark 0)) (headPacket staleMark 0).rxCourse = 2 ∧
    (headPacket staleMark 0).rxCourse = 1 ∧ (rxFields (headPacket staleMark 0)).sender % 8192 = 5 := by decide +kernel

/-- The retry sees the second frame, which opens. -/
theorem staleMark_reopens :
    (openRx staleMark (rereadPacket staleMark 0) (rxFields (headPacket staleMark 0)).epoch).map TlpFrame.typ = some 0 := by decide +kernel

theorem staleMark_retried : ∃ x, Retried staleMark 0 [] x := by
  obtain ⟨x, hopens, htyp⟩ := Option.map_eq_some_iff.1 staleMark_reopens
  obtain ⟨hpick, hexec, hplan, hclean, hpasses, hclosed, hprevious, -, -⟩ := staleMark_checks
  exact ⟨x, hpick, hexec, hplan, hclean, hpasses, hclosed, hprevious, hopens, by rw [htyp]; decide⟩

/-- Lantern 5 is not heard: PACKET_RELEASE takes the frame that opened, which is lantern 7's. -/
theorem staleMark_unheard : (ctxOf (packetRelease none none 0 staleMark) 5).lastHeard = 0 := by decide +kernel

/-- Refutes O16: the statement takes the lantern from the packet's first reading, and the model from the reading whose MIC holds. The two
differ in `staleMark`, where a retry reads another packet than the one that was checked. -/
theorem not_packetsAreCheckedInOrder : ¬ Obligations.PacketsAreCheckedInOrder := by
  intro hob
  obtain ⟨x, hretried⟩ := staleMark_retried
  obtain ⟨-, -, -, -, -, -, -, hcourse, hsender⟩ := staleMark_checks
  have hheard := hretried.heard (by decide) hob 0
  rw [hsender, hcourse, staleMark_unheard] at hheard
  exact absurd hheard (by decide)

end Sys2Proof.Machine
end

section
/-!
SUPPORT. The write-back of an upload buffer (R365, R366) with any number of records, and the ring's event after it (R368).
-/
namespace Sys2Proof.Machine

/-! ### The posted writes of a buffer's write-back -/

/-- The write-back of a descriptor with records puts out its posted writes in their order (R365). -/
theorem putBack_records_out (m : Main) (r pos : Nat) (d : Desc) (rep : Reply) (records : Nat) :
    (backWrites (payloadMost m) (descAddr m r pos) r d rep records).reverse <:+: (putBack m r pos (some d) rep records).out := by
  have hposts : (backTail (descAddr m r pos) d.raw rep records (backData r d rep.data m)).out =
      (backWrites (payloadMost m) (descAddr m r pos) r d rep records).reverse ++ m.out := by
    show Output.dmaDone 11 :: (hostWrites 11 _ _ (hostWrites 11 _ _ _)).out = _
    rw [hostWrites_out, hostWrites_out, hostWrites_payload, backData_payload, backData_out]
    simp only [backWrites, wrote, Desc.flags, List.reverse_append, List.append_assoc, List.reverse_cons, List.reverse_nil,
      List.nil_append, List.cons_append]
  have htrace : (backTail (descAddr m r pos) d.raw rep records (backData r d rep.data m)).out <:+
      (putBack m r pos (some d) rep records).out := (keeps_sky _ _ _ _ _).out
  exact List.IsInfix.trans ⟨[], m.out, hposts.symm⟩ htrace.isInfix

/-! ### The progress of a channel -/

/-- The channel's progress words lie above the block of the rings. -/
theorem word_dmaMoved (r moved : Nat) (w : SgWalk) (m : Main) {a : Nat} (h : a < 0x030000) : (dmaMoved r moved w m).word a = m.word a := by
  have hput (x : Main) (f : Field) (v i : Nat) (hf : 0x030000 ≤ f.base) : (x.put f v i).word a = x.word a :=
    Main.word_setWord_ne _ _ (by unfold Field.addr; omega)
  unfold dmaMoved Main.count Main.put64
  simp only [hput _ F.DMA_CH_STATE_SEG _ _ (by decide), hput _ F.DMA_CH_STATE_HOPS _ _ (by decide), hput _ F.DMA_REMAIN _ _ (by decide),
    hput _ F.DMA_CUR_ADDR_LO _ _ (by decide), hput _ F.DMA_CUR_ADDR_HI _ _ (by decide), hput _ F.DMA_BYTES _ _ (by decide)]

theorem ringOf_dmaMoved (q moved : Nat) (w : SgWalk) (m : Main) (r : Nat) : ringOf (dmaMoved q moved w m) r = ringOf m r := by
  have hhost : (dmaMoved q moved w m).host = m.host := by
    unfold dmaMoved Main.count Main.put64
    rw [Main.put_host, Main.put_host, Main.put_host, Main.put_host, Main.put_host, Main.put_host]
  unfold ringOf
  rw [hhost]

theorem ringPos_dmaMoved (q moved : Nat) (w : SgWalk) (m : Main) {r : Nat} (hr : r < 32) (n : Nat) :
    ringPos (dmaMoved q moved w m) r n = ringPos m r n := by
  have haddr : F.HST_RING_CFG_SIZE_LOG2.addr r < 0x030000 := by
    unfold Field.addr
    simp only [F.HST_RING_CFG_SIZE_LOG2]
    omega
  unfold ringPos ringSize Main.get
  rw [word_dmaMoved _ _ _ _ haddr]

/-! ### The ring's event -/

/-- The ring's event moves only the hold-off of a ring (R368). -/
theorem ringOf_ringEvent (m : Main) {r n : Nat} (hr : r < 32) (hn : n < 64) :
    ∃ holding held, ringOf (ringEvent m r n) r = { ringOf m r with holding := holding, held := held } := by
  unfold ringEvent
  split
  · exact ⟨_, _, (signals_fire n m hn).ringOf r⟩
  · split
    · exact ⟨_, _, ringOf_withRing_same m _ hr⟩
    · exact ⟨_, _, ((signals_fire n _ hn).ringOf r).trans (ringOf_withRing_same m _ hr)⟩

/-! ### The buffer in fill ends -/

/-- The buffer in fill is no longer the ring's, but for the `rest` of the free buffers. -/
def fillFreed (u : Nat) (rest : List (Nat × Desc)) (m : Main) : Main :=
  withRing m (8 + u) fun g => { g with free := rest, fill := [], wb := g.wb + 1 }

/-- The state from which the buffer in fill is written back: its channel shows its progress. -/
def fillTaken (u : Nat) (d : Desc) (rest : List (Nat × Desc)) (m : Main) : Main :=
  dmaMoved (8 + u) (packRecs (ringOf m (8 + u)).fill).length (descWalk (fillFreed u rest m) d) (fillFreed u rest m)

/-- The buffer in fill, written back with its packed records and their number. -/
def fillBack (u n : Nat) (d : Desc) (rest : List (Nat × Desc)) (status detail : Nat) (done : Option Nat) (m : Main) : Main :=
  let data := packRecs (ringOf m (8 + u)).fill
  putBack (fillTaken u d rest m) (8 + u) (ringPos m (8 + u) n) (some d) ⟨status, detail, done.getD data.length, swapData d.swap data⟩
    (ringOf m (8 + u)).fill.length

section
variable {m : Main} {u n : Nat} {d : Desc} {rest : List (Nat × Desc)}

/-- The end of a buffer: its write-back, then the ring's event where it has one (R365). -/
theorem uplEnd_of_free (hu : 8 + u < 32) (hfree : (ringOf m (8 + u)).free = (n, d) :: rest) (status detail : Nat) (done : Option Nat) :
    uplEnd u status detail done m =
      match uplEvent u with
      | some e => ringEvent (fillBack u n d rest status detail done m) (8 + u) e
      | none => fillBack u n d rest status detail done m := by
  have hpos : ringPos (fillTaken u d rest m) (8 + u) n = ringPos m (8 + u) n := ringPos_dmaMoved _ _ _ _ hu n
  unfold uplEnd fillBack
  simp only [hfree, ← hpos]
  rfl

theorem samePlace_fillTaken : SamePlace m (fillTaken u d rest m) := by
  have hfreed : SamePlace m (fillFreed u rest m) := ⟨fun _ _ _ => rfl, rfl⟩
  exact hfreed.trans (samePlace_dmaMoved ..)

/-- The ring after its buffer in fill has been written back. -/
theorem ringOf_fillBack (hu : 8 + u < 32) (status detail : Nat) (done : Option Nat) :
    ringOf (fillBack u n d rest status detail done m) (8 + u) =
      { ringOf m (8 + u) with free := rest, fill := [], wb := (ringOf m (8 + u)).wb + 1 } := by
  unfold fillBack fillTaken
  rw [ringOf_putBack, ringOf_dmaMoved]
  exact ringOf_withRing_same m _ hu

/-- The end of a buffer takes it from the ring, and moves nothing else of the ring but its hold-off. -/
theorem ringOf_uplEnd (hu : 8 + u < 32) (hfree : (ringOf m (8 + u)).free = (n, d) :: rest) (status detail : Nat) (done : Option Nat) :
    ∃ holding held, ringOf (uplEnd u status detail done m) (8 + u) =
      { ringOf m (8 + u) with free := rest, fill := [], wb := (ringOf m (8 + u)).wb + 1, holding := holding, held := held } := by
  have hback := ringOf_fillBack (m := m) (n := n) (d := d) (rest := rest) hu status detail done
  rw [uplEnd_of_free hu hfree]
  split
  · next e he =>
    obtain ⟨holding, held, hring⟩ := ringOf_ringEvent (fillBack u n d rest status detail done m) hu (uplEvent_lt he)
    exact ⟨holding, held, by rw [hring, hback]⟩
  · exact ⟨_, _, hback⟩

/-- The end of a buffer puts out the posted writes of its write-back, at its position in the ring (R365, R366). -/
theorem uplEnd_out (hu : 8 + u < 32) (hfree : (ringOf m (8 + u)).free = (n, d) :: rest) (status detail : Nat) (done : Option Nat) :
    (backWrites (payloadMost m) (descAddr m (8 + u) (ringPos m (8 + u) n)) (8 + u) d
      ⟨status, detail, done.getD (packRecs (ringOf m (8 + u)).fill).length, swapData d.swap (packRecs (ringOf m (8 + u)).fill)⟩
      (ringOf m (8 + u)).fill.length).reverse <:+: (uplEnd u status detail done m).out := by
  have hplace : SamePlace m (fillTaken u d rest m) := samePlace_fillTaken
  rw [← hplace.most, ← hplace.base _ hu]
  refine (putBack_records_out ..).trans ?_
  rw [uplEnd_of_free hu hfree]
  split
  · next e he => exact (keeps_ringEvent _ _ _ (uplEvent_lt he)).out.isInfix
  · exact (List.suffix_refl _).isInfix

end

end Sys2Proof.Machine
end

section
/-!
SUPPORT. Coalescing (R180–R183): what a step of its state may change.
-/
namespace Sys2Proof.Machine

variable {k : Nat}

theorem within_setCoal (hk : k < 3) (st : Nat) (m : Main) : Within [] [7] [.ctx] m (setCoal k st m) :=
  ((Within.put m F.CTX_COAL_STATE st hk).trans
    ((Keeps.put _ F.HST_RING_STATUS_COAL st (8 + k) (ring_field (by omega) (by decide) (by decide))).within _ _ _)).trans
    ((keeps_fireIf _ 23 _ (by decide)).within _ _ _)

theorem within_withPend (hk : k < 3) (f : List PendUp → List PendUp) (m : Main) : Within [] [7] [.ctx] m (withPend k f m) :=
  (Within.ctx m _).trans (Within.put _ F.CTX_PEND_PENDING _ hk)

theorem within_coalWritten (i : Nat) (m : Main) : Within [] [7] [.ctx] m (coalWritten k i m) :=
  ((within_withCtx i _ m).trans (within_withCtx i _ _)).mono

/-- What goes out in DRAINING changes the pending list, the contexts and the state, and reports. -/
theorem within_coalDrain (hk : k < 3) (fuel : Nat) (m : Main) : Within [] [7] [.ctx] m (coalDrain k fuel m) := by
  induction fuel generalizing m with
  | zero => exact Within.refl _ _ _ _
  | succ fuel ih =>
    unfold coalDrain
    split
    · exact within_setCoal hk 0 m
    · next e es _ =>
      have hplace : Within [] [7] [.ctx] m (uplPlace k (coalRecord m k e) m).1 :=
        (keeps_uplPlace k _ m (by omega)).within _ _ _
      refine Within.ite _ (within_setCoal hk 1 m) (Within.ite _ (Within.refl _ _ _ _) (Within.ite _ ?_ hplace))
      exact ((hplace.trans (within_withPend hk _ _)).trans (within_coalWritten _ _)).trans (ih _)

theorem within_coalStep (hk : k < 3) (m : Main) : Within [] [7] [.ctx] m (coalStep k m) := by
  have hmove (c : Prop) [Decidable c] (st : Nat) (x : Main) : Within [] [7] [.ctx] x (if c then setCoal k st x else x) :=
    Within.ite c (within_setCoal hk st x) (Within.refl _ _ _ _)
  unfold coalStep
  exact ((hmove _ 1 m).trans (hmove _ 2 _)).trans (Within.ite _ (within_coalDrain hk _ _) (Within.refl _ _ _ _))

end Sys2Proof.Machine
end

section
/-!
SUPPORT. The timers of the upload rings (R366, R368): UPL_FLUSH, HOLDOFF_EXPIRY, and the obligation.
-/
namespace Sys2Proof.Machine

/-! ### UPL_FLUSH -/

section
variable {m : Main} {u : Nat}

theorem uplFlush_idle (h : (ringOf m (8 + u)).fill = [] ∨ ringMoves m (8 + u) = false) : uplFlush u m = m := by
  unfold uplFlush
  exact if_pos (by simpa using h)

theorem uplFlush_moves (hfill : (ringOf m (8 + u)).fill ≠ []) (hmoves : ringMoves m (8 + u) = true) :
    uplFlush u m = if u < 3 then coalStep u (uplWriteBack u m) else uplWriteBack u m := by
  unfold uplFlush
  exact if_neg (by simp [hfill, hmoves])

/-- What UPL_FLUSH does, by whether there is something to write back and by the kind of ring. -/
theorem uplFlush_cases (u : Nat) (m : Main) :
    uplFlush u m = m ∨ (u < 3 ∧ uplFlush u m = coalStep u (uplWriteBack u m)) ∨ (3 ≤ u ∧ uplFlush u m = uplWriteBack u m) := by
  by_cases hidle : (ringOf m (8 + u)).fill = [] ∨ ringMoves m (8 + u) = false
  · exact .inl (uplFlush_idle hidle)
  · rw [not_or, Bool.not_eq_false] at hidle
    obtain ⟨hfill, hmoves⟩ := hidle
    rw [uplFlush_moves hfill hmoves]
    by_cases hu : u < 3
    · exact .inr (.inl ⟨hu, if_pos hu⟩)
    · exact .inr (.inr ⟨by omega, if_neg hu⟩)

theorem within_uplFlush (hu : 8 + u < 32) (m : Main) : Within [] [7] [.ctx] m (uplFlush u m) := by
  have hback : Within [] [7] [.ctx] m (uplWriteBack u m) := (keeps_uplWriteBack u m hu).within _ _ _
  rcases uplFlush_cases u m with h | ⟨hk, h⟩ | ⟨-, h⟩ <;> rw [h]
  · exact Within.refl _ _ _ _
  · exact hback.trans (within_coalStep hk _)
  · exact hback

/-- On UPL3 to UPL23, which do not coalesce, UPL_FLUSH only reports. -/
theorem keeps_uplFlush (hu : 8 + u < 32) (hk : 3 ≤ u) (m : Main) : Keeps m (uplFlush u m) := by
  rcases uplFlush_cases u m with h | ⟨hlow, -⟩ | ⟨-, h⟩
  · rw [h]
    exact Keeps.refl m
  · omega
  · rw [h]
    exact keeps_uplWriteBack u m hu

/-- The write-back that UPL_FLUSH makes stands among the outputs, whatever coalescing puts out after it. -/
theorem uplWriteBack_out_uplFlush (hfill : (ringOf m (8 + u)).fill ≠ []) (hmoves : ringMoves m (8 + u) = true) :
    (uplWriteBack u m).out <:+ (uplFlush u m).out := by
  rw [uplFlush_moves hfill hmoves]
  split
  · next hk => exact (within_coalStep hk _).reports.2.2
  · exact List.suffix_refl _

end

/-! ### HOLDOFF_EXPIRY -/

section
variable {m : Main} {r : Nat}

theorem holdoffExpiry_none (h : (ringOf m r).held = none) :
    holdoffExpiry r m = withRing m r fun g => { g with holding := false } := by
  unfold holdoffExpiry
  rw [h]

theorem holdoffExpiry_some {n : Nat} (h : (ringOf m r).held = some n) :
    holdoffExpiry r m = fireIf (decide (n < 64)) n (withRing m r fun g => { g with held := none }) := by
  unfold holdoffExpiry
  rw [h]

theorem signals_fireIf_event (n : Nat) (m : Main) : Signals m (fireIf (decide (n < 64)) n m) := by
  unfold fireIf
  split
  · next h => exact signals_fire n m (of_decide_eq_true h)
  · exact Signals.refl m

theorem keeps_fireIf_event (n : Nat) (m : Main) : Keeps m (fireIf (decide (n < 64)) n m) := by
  unfold fireIf
  split
  · next h => exact keeps_fire n m (of_decide_eq_true h)
  · exact Keeps.refl m

theorem keeps_holdoffExpiry (r : Nat) (m : Main) : Keeps m (holdoffExpiry r m) := by
  cases h : (ringOf m r).held with
  | none =>
    rw [holdoffExpiry_none h]
    exact keeps_withRing m r _
  | some n =>
    rw [holdoffExpiry_some h]
    exact (keeps_withRing m r _).trans (keeps_fireIf_event n _)

/-- An event held is held no more, and the hold-off goes on from its firing. -/
theorem ringOf_holdoffExpiry_some (hr : r < 32) {n : Nat} (h : (ringOf m r).held = some n) :
    ringOf (holdoffExpiry r m) r = { ringOf m r with held := none } := by
  rw [holdoffExpiry_some h, (signals_fireIf_event n _).ringOf, ringOf_withRing_same m _ hr]

/-- With no event held the hold-off ends. -/
theorem ringOf_holdoffExpiry_none (hr : r < 32) (h : (ringOf m r).held = none) :
    ringOf (holdoffExpiry r m) r = { ringOf m r with holding := false } := by
  rw [holdoffExpiry_none h, ringOf_withRing_same m _ hr]

theorem held_holdoffExpiry (hr : r < 32) : (ringOf (holdoffExpiry r m) r).held = none := by
  cases h : (ringOf m r).held with
  | none => rw [ringOf_holdoffExpiry_none hr h]; exact h
  | some n => rw [ringOf_holdoffExpiry_some hr h]

/-- A held event that is enabled pends at the end of the hold-off (R368, R369). -/
theorem pends_holdoffExpiry {n : Nat} (h : (ringOf m r).held = some n) (hn : n < 64) (he : eventEnabled m n = true) :
    pends (holdoffExpiry r m) n = true := by
  rw [holdoffExpiry_some h, decide_eq_true hn]
  exact pends_fire n _ hn he

end

/-! ### The obligation -/

/-- Settles O46: UPL_FLUSH is the write-back of the buffer in fill with the coalescing that follows it, and HOLDOFF_EXPIRY the firing of
the event that is held. -/
theorem uploadTimers : Obligations.UploadTimers := by
  unfold Obligations.UploadTimers
  intro s
  refine ⟨fun u => answersMain_of (f := uplFlush u) rfl ?_, fun r => answersMain_of (f := holdoffExpiry r) rfl ?_⟩
  · have hu : 8 + u.val < 32 := Nat.add_lt_add_left u.isLt 8
    refine ⟨(within_uplFlush hu _).report fun _ => inRegs_one, fun hk => (keeps_uplFlush hu hk _).reports _ _, uplFlush_idle,
      fun n d rest hfill hmoves hfree => ⟨?_, fun hk => ?_⟩⟩
    · exact (uplEnd_out hu hfree St.ok 0 none).trans (uplWriteBack_out_uplFlush hfill hmoves).isInfix
    · obtain ⟨holding, held, hring⟩ := ringOf_uplEnd hu hfree St.ok 0 none
      rw [uplFlush_moves hfill hmoves, if_neg (by omega)]
      unfold uplWriteBack
      rw [hring]
      exact ⟨rfl, rfl, rfl⟩
  · refine ⟨(keeps_holdoffExpiry r _).reports _ _, held_holdoffExpiry r.isLt, fun h => ⟨?_, ?_⟩, fun n h hn => ⟨?_, fun he => ?_⟩⟩
    · rw [ringOf_holdoffExpiry_none r.isLt h]
    · rw [holdoffExpiry_none h]
      rfl
    · rw [ringOf_holdoffExpiry_some r.isLt h]
    · exact pends_holdoffExpiry h hn he

end Sys2Proof.Machine
end

section
/-!
SUPPORT. What the originating of a ridge frame changes (R388, R401, R402, R404): the ridge registers, the ports and the next SEQ.
-/
namespace Sys2Proof.Machine

variable {p : Nat}

/-- What the ridge fabric may change when a frame is sent. -/
abbrev Fabric : Main → Main → Prop := Within [] [0xD] [.rdg]

theorem fabric_withPort (p : Nat) (g : RPort → RPort) (m : Main) : Fabric m (withPort m p g) := Within.rdg m _ (by decide)

theorem fabric_rdgCount {n : Nat} (hn : n < 11) (m : Main) : Fabric m (rdgCount n m) := Within.count m F.RDG_CNT 1 hn (by decide) (by decide)

theorem fabric_rdgDrop (port reason : Nat) (f : RidgeFrame) (m : Main) : Fabric m (rdgDrop port reason f m) :=
  (keeps_sky ..).within _ _ _

theorem fabric_dropAt (hp : p < 2) (f : RidgeFrame) (m : Main) : Fabric m (dropAt p f m) := by
  unfold dropAt
  extract_lets m1 due m2
  have hcount : Fabric m (m.count (if f.cls.toNat = 3 then F.RDG_DROP_BULK else F.RDG_DROP_REPORT) p) := by
    split
    · exact Within.count m F.RDG_DROP_BULK 1 hp (by decide) (by decide)
    · exact Within.count m F.RDG_DROP_REPORT 1 hp (by decide) (by decide)
  have h1 : Fabric m m1 := hcount.trans (fabric_rdgDrop ..)
  have h2 : Fabric m1 m2 := Within.putBit m1 F.RDG_PORT_STATUS_DROPPING true 0 hp (by decide) (by decide)
  have hfire : Fabric m2 (fire 48 (withPort m2 p fun g => { g with evt48 := some m2.course })) :=
    (fabric_withPort ..).trans ((keeps_fire 48 _ (by decide)).within _ _ _)
  exact Within.ite _ h1 (Within.ite _ ((h1.trans h2).trans hfire) (h1.trans h2))

theorem fabric_showQueue (hp : p < 2) (m : Main) : Fabric m (showQueue p m) :=
  (Within.put m F.RDG_PORT_QUEUE_FILL _ hp (by decide) (by decide)).trans (Within.put _ F.RDG_PORT_QUEUE_BULK _ hp (by decide) (by decide))

/-- A frame that comes to a port's queue changes that queue and the counters of what is dropped (R404). -/
theorem fabric_enqueue (hp : p < 2) (f : RidgeFrame) (m : Main) : Fabric m (enqueue p f m).1 := by
  unfold enqueue
  extract_lets q put displace
  have hput (q : List RidgeFrame) : Fabric m (put q m) := (fabric_withPort ..).trans (fabric_showQueue hp _)
  have hdrop : Fabric m (dropAt p f m) := fabric_dropAt hp f m
  have hdisplace (k : Nat) : Fabric m (displace k) := by
    show Fabric m (match q.reverse.find? (classOfFrame k) with | some v => _ | none => m)
    split
    · exact (hput _).trans (fabric_dropAt hp _ _)
    · exact Within.refl _ _ _ _
  have hfull : Fabric m (rdgDrop p 1 f (m.count F.RDG_RESERVED_FULL p)) :=
    (Within.count m F.RDG_RESERVED_FULL 1 hp (by decide) (by decide)).trans (fabric_rdgDrop ..)
  simp only [apply_ite Prod.fst]
  exact Within.ite _ (Within.ite _ (hput q) hdrop)
    (Within.ite _ (hput q) (Within.ite _ (hdisplace 3) (Within.ite _ hdrop (Within.ite _ (hdisplace 2) hfull))))

/-- The route of a frame leads to one of the two ports (R401). -/
theorem route_port_lt {m : Main} {arrival : Option Nat} {f : RidgeFrame} {turned turns : Bool}
    (h : route m arrival f = some (p, turned, turns)) : p < 2 := by
  unfold route at h
  extract_lets near port ok at h
  have hport : port < 2 := by
    show (if arrival = some 0 then 1 else 0) < 2
    split <;> decide
  split at h
  · cases h; decide
  split at h
  · cases h; decide
  split at h
  · cases h
  split at h
  · obtain ⟨-, h⟩ := Option.ite_none_right_eq_some.1 h
    exact (Prod.mk.inj (Option.some.inj h)).1 ▸ hport
  split at h
  · cases h
  extract_lets e pick at h
  obtain ⟨-, h⟩ := Option.ite_none_left_eq_some.1 h
  obtain ⟨q, hq, hans⟩ := Option.map_eq_some_iff.1 h
  have hok (k : Nat) (hk : ok k = true) : k < 2 := of_decide_eq_true (Bool.and_eq_true_iff.1 hk).1
  have hq2 : q < 2 := by
    simp only [pick] at hq
    split at hq
    · next hk => cases hq; exact hok _ hk
    · obtain ⟨hk, hq⟩ := Option.ite_none_right_eq_some.1 hq
      cases hq
      exact hok _ hk
  have hpq : q = p := by
    split at hans <;> exact (Prod.mk.inj hans).1
  exact hpq ▸ hq2

theorem fabric_sendOn (arrival : Option Nat) (f : RidgeFrame) (m : Main) : Fabric m (sendOn arrival f m).1 := by
  unfold sendOn
  split
  · exact (fabric_rdgCount (by decide) m).trans (fabric_rdgDrop ..)
  · next p turned turns hroute =>
    exact (Within.ite _ (fabric_rdgCount (by decide) m) (Within.refl _ _ _ _)).trans (fabric_enqueue (route_port_lt hroute) _ _)

theorem fabric_nextSeq (m : Main) : Fabric m (nextSeq m).2 := by
  unfold nextSeq
  exact Within.ite _ ((Within.put m F.RDG_BOOT_BOOT _ Nat.one_pos (by decide) (by decide)).trans (Within.rdg _ _ (by decide)))
    (Within.rdg m _ (by decide))

/-- A frame that the module originates changes nothing but the ridge fabric (R402). -/
theorem fabric_originate (cls : Fin 4) (dst : Nat) (payload : List Byte) (m : Main) : Fabric m (originate cls dst payload m).1 := by
  have hnew : Fabric m (newFrame cls dst payload false m).2 := fabric_nextSeq m
  unfold originate
  simp only [apply_ite Prod.fst]
  exact Within.ite _ (Within.refl _ _ _ _) (Within.ite _ (Within.refl _ _ _ _)
    (Within.ite _ ((hnew.trans (Within.emit _ _)).trans (fabric_rdgCount (by decide) _)) (hnew.trans (fabric_sendOn ..))))

end Sys2Proof.Machine
end

section
/-!
SUPPORT. What staging a wave changes (R194–R200): the wave engine's registers, the contexts of waves and the frames bound to cells.
-/
namespace Sys2Proof.Machine

/-! ### The words of the wave engine -/

/-- WAV_STATUS, WAV_LATENCY, WAV_STORE, and the counters `cs` of R212. -/
abbrev waveWords (cs : List Nat) : List Nat := [0x080008, 0x08000C, 0x080014] ++ cs.map fun n => 0x080200 + 4 * n

section
variable {cs bs : List Nat} {ps : List Part}

theorem Frame.wav (regs : Nat → Prop) {parts : List Part} (m : Main) (v : Wav) (h : Part.wav ∈ parts) :
    Frame regs parts m { m with wav := v } := by
  refine ⟨fun _ _ => rfl, fun p hp => ?_, List.suffix_refl _⟩
  cases p with
  | wav => exact absurd h hp
  | _ => rfl

theorem Frame.same {regs : Nat → Prop} {m m' : Main} (h : Frame regs ps m m') (p : Part) (hp : p ∉ ps) : p.same m m' := h.2.1 p hp

theorem Frame.wavYlm (regs : Nat → Prop) (m : Main) (v : Wav) (u : Ylm) : Frame regs [.ylm, .wav] m { m with wav := v, ylm := u } := by
  refine ⟨fun _ _ => rfl, fun p hp => ?_, List.suffix_refl _⟩
  cases p with
  | wav | ylm => exact absurd (by decide) hp
  | _ => rfl

theorem Frame.wavCount {n : Nat} (m : Main) (k : Nat) (h : n ∈ cs) :
    Frame (inRegs (waveWords cs) bs) ps m (wavCount n m k) :=
  Frame.put ps m F.WAV_CNT _ n (Or.inl (List.mem_append_right _ (List.mem_map_of_mem h)))

theorem Frame.wavePut (m : Main) (f : Field) (v : Nat) (h : f.addr 0 ∈ [0x080008, 0x08000C, 0x080014]) :
    Frame (inRegs (waveWords cs) bs) ps m (m.put f v) :=
  Frame.put ps m f v 0 (Or.inl (List.mem_append_left _ h))

theorem Frame.showWaves (m : Main) : Frame (inRegs (waveWords cs) bs) ps m (showWaves m) :=
  ((Frame.wavePut m F.WAV_STATUS_ACTIVE _ (by decide)).trans (Frame.wavePut _ F.WAV_STATUS_HIGH_WATER _ (by decide))).trans
    (Frame.wavePut _ F.WAV_STORE_PENDING _ (by decide))

end

/-- A frame within a wider one, with the three inclusions in one closed condition. -/
theorem Within.weaken {ws ws' bs bs' : List Nat} {ps ps' : List Part} {m m' : Main} (h : Within ws bs ps m m')
    (hin : (∀ a ∈ ws, a ∈ ws' ∨ a / 65536 ∈ bs') ∧ (∀ b ∈ bs, b ∈ bs') ∧ ∀ p ∈ ps, p ∈ ps') : Within ws' bs' ps' m m' :=
  let ⟨hw, hb, hp⟩ := hin
  h.mono hw hb hp

/-- A register that a frame does not name, and reporting does not write. -/
theorem Within.get_out {ws bs : List Nat} {ps : List Part} {m m' : Main} (h : Within ws bs ps m m') (f : Field) (i : Nat)
    (hf : f.addr i ∉ ws ∧ f.addr i / 65536 ∉ 0 :: 2 :: 3 :: 0x12 :: 0x13 :: 0x3F :: bs) : m'.get f i = m.get f i := by
  obtain ⟨hw, hb⟩ := hf
  obtain ⟨hregs, -, -⟩ := h.reports
  unfold Main.get
  rw [hregs]
  simp only [List.mem_cons, not_or] at hb
  obtain ⟨hglb, hhst, hdma, hsof, hsky, hmsix, hbs⟩ := hb
  rintro ((hin | hin) | hr)
  · exact hw hin
  · exact hbs hin
  · unfold reporting at hr
    omega

@[simp] theorem wavCount_wav (n : Nat) (m : Main) (k : Nat) : (wavCount n m k).wav = m.wav := Main.count_wav ..
@[simp] theorem wavCount_ylm (n : Nat) (m : Main) (k : Nat) : (wavCount n m k).ylm = m.ylm := Main.count_ylm ..

@[simp] theorem showWaves_wav (m : Main) : (showWaves m).wav = m.wav :=
  (Frame.showWaves (cs := []) (bs := []) (ps := []) m).same .wav (by decide)

@[simp] theorem showWaves_ylm (m : Main) : (showWaves m).ylm = m.ylm :=
  (Frame.showWaves (cs := []) (bs := []) (ps := []) m).same .ylm (by decide)

theorem get_wavCount_same (n : Nat) (m : Main) (k : Nat) : (wavCount n m k).get F.WAV_CNT n = (m.get F.WAV_CNT n + k) % 2 ^ 32 :=
  Main.get_put_same m F.WAV_CNT _ n (by decide)

/-! ### The first frame of a wave -/

/-- What staging a first frame may change: the wave engine's words with the counters 11 and 12, the waves, and the plan's metrics. -/
abbrev Stages : Main → Main → Prop := Frame (inRegs (waveWords [11, 12]) []) [.ylm, .wav]

/-- `y` is the first frame of a wave, bound to the cell at `slot` on `lane` and not yet placed. -/
def FirstFrame (lane slot : Nat) (noSend : Bool) (wave : Option Nat) (y : Bound) : Prop :=
  y.lane = lane ∧ y.slot = slot ∧ y.first = true ∧ y.noSend = noSend ∧ y.placed = false ∧ y.wave = wave

/-- `m'` holds one bound frame more than `m`, the first of a wave. -/
def BindsFirst (lane slot : Nat) (noSend : Bool) (wave : Option Nat) (m m' : Main) : Prop :=
  ∃ y, m'.wav.bound = m.wav.bound ++ [y] ∧ FirstFrame lane slot noSend wave y

section
variable (p : Main) (b : Img) (slot lane lead waveId : Nat) (wave : Option Nat) (noSend : Bool) (steps : List WStep) (m : Main)

theorem stages_stageFrame (first : Bool) (es : List (PendEntry × Nat)) :
    Stages m (stageFrame b slot lane lead waveId wave first noSend es m) := by
  unfold stageFrame
  extract_lets frame wav m1
  have h1 : Stages m m1 := Frame.wav _ m _ (by decide)
  split
  · exact h1
  · exact h1.trans (Frame.wavCount m1 1 (by decide))

/-- A staged frame is bound to its cell, and that is all that changes of the waves. -/
theorem wav_stageFrame (first : Bool) (es : List (PendEntry × Nat)) :
    ∃ frame, (stageFrame b slot lane lead waveId wave first noSend es m).wav =
      { m.wav with bound := m.wav.bound ++ [⟨lane, slot, frame, es, waveId, wave, first, noSend, false⟩] } := by
  unfold stageFrame
  extract_lets frame wav m1
  refine ⟨frame, ?_⟩
  split
  · rfl
  · exact wavCount_wav 12 m1 1

theorem ylm_stageFrame (first : Bool) (es : List (PendEntry × Nat)) :
    (stageFrame b slot lane lead waveId wave first noSend es m).ylm = m.ylm := by
  unfold stageFrame
  extract_lets frame wav m1
  split
  · rfl
  · exact wavCount_ylm 12 m1 1

theorem stages_stageWave : Stages m (stageWave p b slot lane lead waveId wave noSend steps m).1 := by
  unfold stageWave
  extract_lets r wav m1
  have h1 : Stages m m1 := Frame.wav _ m _ (by decide)
  exact (h1.trans (Frame.wavCount m1 _ (by decide))).trans (stages_stageFrame ..)

theorem wav_stageWave :
    (stageWave p b slot lane lead waveId wave noSend steps m).1.wav.ctxs = m.wav.ctxs ∧
    (stageWave p b slot lane lead waveId wave noSend steps m).1.wav.seq = m.wav.seq ∧
    BindsFirst lane slot noSend wave m (stageWave p b slot lane lead waveId wave noSend steps m).1 := by
  unfold stageWave BindsFirst FirstFrame
  extract_lets r wav m1
  obtain ⟨frame, hwav⟩ := wav_stageFrame b slot lane lead waveId wave noSend (wavCount 11 m1 r.2.2) true r.1
  rw [wavCount_wav] at hwav
  rw [hwav]
  exact ⟨rfl, rfl, _, rfl, rfl, rfl, rfl, rfl, rfl, rfl⟩

theorem ylm_stageWave : (stageWave p b slot lane lead waveId wave noSend steps m).1.ylm = m.ylm := by
  unfold stageWave
  extract_lets r wav m1
  exact (ylm_stageFrame ..).trans (wavCount_ylm 11 m1 r.2.2)

end

/-! ### A cascade's wave -/

/-- A wave context is STAGED for the reference `x` (R199). -/
def StagedFor (b : Img) (slot lane lead : Nat) (x : WaveRef) (c : WaveCtx) : Prop :=
  c.state = 1 ∧ c.entry = x.entry ∧ c.zone = x.zone ∧ c.source = x.source ∧ c.dSlot = x.dSlot ∧ c.exec = execAt b slot lane lead ∧
    c.lantern = x.lantern

section
variable (p : Main) (b : Img) (w slot lane lead : Nat) (x : WaveRef) (noSend : Bool) (steps : List WStep) (m : Main)

theorem stages_stageCascade : Stages m (stageCascade p b w slot lane lead x noSend steps m) := by
  unfold stageCascade
  exact ((stages_stageWave ..).trans (Frame.wav _ _ _ (by decide))).trans (Frame.showWaves _)

/-- The context of the cascade's wave is written beside what staging its first frame changes. -/
theorem wav_stageCascade : ∃ f : WaveCtx → WaveCtx,
    (stageCascade p b w slot lane lead x noSend steps m).wav =
      { (stageWave p b slot lane lead w (some w) noSend steps m).1.wav with ctxs := vmod m.wav.ctxs w f } ∧
    ∀ c, c.state ≠ 3 → StagedFor b slot lane lead x (f c) := by
  obtain ⟨hctxs, -, -⟩ := wav_stageWave p b slot lane lead w (some w) noSend steps m
  rw [← hctxs]
  unfold stageCascade
  extract_lets e r next ends
  rw [showWaves_wav]
  refine ⟨_, rfl, fun c hc => ?_⟩
  rw [if_neg hc]
  exact ⟨rfl, rfl, rfl, rfl, rfl, rfl, rfl⟩

theorem seq_stageCascade : (stageCascade p b w slot lane lead x noSend steps m).wav.seq = m.wav.seq := by
  obtain ⟨f, hwav, -⟩ := wav_stageCascade p b w slot lane lead x noSend steps m
  obtain ⟨-, hseq, -⟩ := wav_stageWave p b slot lane lead w (some w) noSend steps m
  rw [hwav]
  exact hseq

theorem bindsFirst_stageCascade : BindsFirst lane slot noSend (some w) m (stageCascade p b w slot lane lead x noSend steps m) := by
  obtain ⟨f, hwav, -⟩ := wav_stageCascade p b w slot lane lead x noSend steps m
  obtain ⟨-, -, hbound⟩ := wav_stageWave p b slot lane lead w (some w) noSend steps m
  unfold BindsFirst
  rw [hwav]
  exact hbound

theorem waveOf_stageCascade_same (hw : w < 256) (hs : (waveOf m w).state ≠ 3) :
    StagedFor b slot lane lead x (waveOf (stageCascade p b w slot lane lead x noSend steps m) w) := by
  obtain ⟨f, hwav, hf⟩ := wav_stageCascade p b w slot lane lead x noSend steps m
  unfold waveOf
  rw [hwav, vget_vmod_same _ _ _ hw]
  exact hf _ hs

theorem waveOf_stageCascade_ne {v : Nat} (h : w ≠ v) : waveOf (stageCascade p b w slot lane lead x noSend steps m) v = waveOf m v := by
  obtain ⟨f, hwav, -⟩ := wav_stageCascade p b w slot lane lead x noSend steps m
  unfold waveOf
  rw [hwav, vget_vmod_ne _ _ _ h]

theorem ylm_stageCascade : (stageCascade p b w slot lane lead x noSend steps m).ylm = m.ylm := by
  unfold stageCascade
  rw [showWaves_ylm, withWave_ylm, ylm_stageWave]

end

/-! ### A zone hold -/

section
variable (p : Main) (b : Img) (z slot lane : Nat) (noSend : Bool) (m : Main)

theorem stages_stageHold : Stages m (stageHold p b z slot lane noSend m) := by
  unfold stageHold
  exact ((stages_stageWave ..).trans (Frame.wavYlm _ _ _ _)).trans (Frame.showWaves _)

theorem wav_stageHold : (stageHold p b z slot lane noSend m).wav =
    let staged := (stageWave p b slot lane (Zone.lead b z) (z % 256) none noSend (holdSteps b z) m).1.wav
    { staged with held := z :: staged.held } := by
  unfold stageHold
  rw [showWaves_wav]

theorem seq_stageHold : (stageHold p b z slot lane noSend m).wav.seq = m.wav.seq := by
  obtain ⟨-, hseq, -⟩ := wav_stageWave p b slot lane (Zone.lead b z) (z % 256) none noSend (holdSteps b z) m
  rw [wav_stageHold]
  exact hseq

theorem bindsFirst_stageHold : BindsFirst lane slot noSend none m (stageHold p b z slot lane noSend m) := by
  obtain ⟨-, -, hbound⟩ := wav_stageWave p b slot lane (Zone.lead b z) (z % 256) none noSend (holdSteps b z) m
  unfold BindsFirst
  rw [wav_stageHold]
  exact hbound

theorem slotNow_stageHold : (stageHold p b z slot lane noSend m).slotNow = m.slotNow := by
  unfold stageHold Main.slotNow
  rw [showWaves_ylm, ylm_stageWave]

end

end Sys2Proof.Machine
end

section
/-!
SUPPORT. A decision from the partner (R204–R206): what a WAVE_DECISION payload can carry, and what applying it stages.
-/
namespace Sys2Proof.Machine

theorem leVal_lt (l : List Byte) : leVal l < 256 ^ l.length := by
  induction l with
  | nil => exact Nat.one_pos
  | cons a t ih =>
    have ha : a.toNat < 256 := a.isLt
    unfold leVal
    rw [List.length_cons, Nat.pow_succ]
    omega

theorem lbe_lt (l : List Byte) (o n : Nat) : lbe l o n < 256 ^ n := by
  refine (leVal_lt _).trans_le (Nat.pow_le_pow_right (by decide) ?_)
  rw [List.length_reverse]
  exact List.length_take_le ..

theorem waveId_lt_of_decisionOf {o : List Byte} {x : WaveDec} (h : decisionOf o = some x) : x.waveId < 256 := by
  unfold decisionOf at h
  obtain ⟨-, h⟩ := Option.ite_none_right_eq_some.1 h
  cases h
  exact lbe_lt o 4 1

theorem Frame.get_out {ws bs : List Nat} {ps : List Part} {m m' : Main} (h : Frame (inRegs ws bs) ps m m') (f : Field) (i : Nat)
    (hf : f.addr i ∉ ws ∧ f.addr i / 65536 ∉ bs) : m'.get f i = m.get f i := by
  unfold Main.get
  rw [h.1 _ (not_or.2 hf)]

/-! ### What a decision stages (R205) -/

section
variable {b : Img} {x : WaveDec} {late : Bool} {m : Main}

theorem stageDecision_hold (h : x.dkind = 2) :
    stageDecision b x late m = stageHold (termsOf m x.decSlot) b x.ref x.bindSlot x.lane late m := if_pos h

/-- A decision other than a zone hold stages a cascade on the wave that it names. -/
theorem stageDecision_cascade (h : x.dkind ≠ 2) : ∃ lead ref steps,
    stageDecision b x late m = stageCascade (termsOf m x.decSlot) b x.waveId x.bindSlot x.lane lead ref late steps m ∧
    (x.dkind = 0 → ref.entry = x.ref) ∧ ref.lantern = x.lantern := by
  unfold stageDecision
  extract_lets p
  rw [if_neg h]
  split
  · next h3 => exact ⟨_, _, _, rfl, fun h0 => by omega, rfl⟩
  · exact ⟨_, _, _, rfl, fun _ => rfl, rfl⟩

variable (b x late m)

theorem stages_stageDecision : Stages m (stageDecision b x late m) := by
  by_cases h : x.dkind = 2
  · rw [stageDecision_hold h]
    exact stages_stageHold ..
  · obtain ⟨lead, ref, steps, heq, -, -⟩ := stageDecision_cascade (b := b) (late := late) (m := m) h
    rw [heq]
    exact stages_stageCascade ..

theorem seq_stageDecision : (stageDecision b x late m).wav.seq = m.wav.seq := by
  by_cases h : x.dkind = 2
  · rw [stageDecision_hold h]
    exact seq_stageHold ..
  · obtain ⟨lead, ref, steps, heq, -, -⟩ := stageDecision_cascade (b := b) (late := late) (m := m) h
    rw [heq]
    exact seq_stageCascade ..

theorem slotNow_stageDecision : (stageDecision b x late m).slotNow = m.slotNow := by
  by_cases h : x.dkind = 2
  · rw [stageDecision_hold h]
    exact slotNow_stageHold ..
  · obtain ⟨lead, ref, steps, heq, -, -⟩ := stageDecision_cascade (b := b) (late := late) (m := m) h
    rw [heq]
    exact congrArg Ylm.slot (ylm_stageCascade ..)

theorem bindsFirst_stageDecision :
    BindsFirst x.lane x.bindSlot late (if x.dkind = 2 then none else some x.waveId) m (stageDecision b x late m) := by
  by_cases h : x.dkind = 2
  · rw [stageDecision_hold h, if_pos h]
    exact bindsFirst_stageHold ..
  · obtain ⟨lead, ref, steps, heq, -, -⟩ := stageDecision_cascade (b := b) (late := late) (m := m) h
    rw [heq, if_neg h]
    exact bindsFirst_stageCascade ..

variable {x}

/-- A NEW decision stages its context, unless a wave runs in it. -/
theorem waveOf_stageDecision_new (h : x.dkind = 0) (hw : x.waveId < 256) (hs : (waveOf m x.waveId).state ≠ 3) :
    (waveOf (stageDecision b x late m) x.waveId).state = 1 ∧ (waveOf (stageDecision b x late m) x.waveId).entry = x.ref ∧
      (waveOf (stageDecision b x late m) x.waveId).lantern = x.lantern := by
  obtain ⟨lead, ref, steps, heq, hentry, hlantern⟩ := stageDecision_cascade (b := b) (x := x) (late := late) (m := m) (by omega)
  rw [heq, ← hentry h, ← hlantern]
  obtain ⟨hstate, he, -, -, -, -, hl⟩ := waveOf_stageCascade_same (termsOf m x.decSlot) b x.waveId x.bindSlot x.lane lead ref late steps m hw hs
  exact ⟨hstate, he, hl⟩

end

/-! ### A cell that has begun -/

theorem stages_placeBound (lane slot : Nat) (m : Main) : Stages m (placeBound lane slot m) := by
  unfold placeBound
  split
  · exact Frame.refl _ _ _
  · extract_lets wav m1
    have h1 : Stages m m1 := Frame.wav _ m _ (by decide)
    split
    · exact h1.trans (Frame.showWaves _)
    · exact (h1.trans (Frame.wav _ m1 _ (by decide))).trans (Frame.showWaves _)

theorem seq_placeBound (lane slot : Nat) (m : Main) : (placeBound lane slot m).wav.seq = m.wav.seq := by
  unfold placeBound
  split
  · rfl
  · extract_lets wav m1
    split
    · rw [showWaves_wav]
    · rw [showWaves_wav]
      rfl

/-! ### Applying a decision -/

/-- The decision's cell comes within the bind cutoff (R206). -/
abbrev comesLate (x : WaveDec) (us : Nat) (m : Main) : Prop := 10000 * x.bindSlot < 10000 * m.slotNow + us + 60

/-- SEQ is the decision's, and a late one is counted (R205, R206). -/
def decisionTaken (x : WaveDec) (us : Nat) (m : Main) : Main :=
  let taken : Main := { m with wav := { m.wav with seq := x.seq % 65536 } }
  if comesLate x us m then wavCount 16 taken else taken

section
variable {b : Img} {x : WaveDec} {us : Nat} {m : Main}

/-- What applying a decision may change. -/
abbrev Applied : Main → Main → Prop := Frame (inRegs (waveWords [11, 12, 16, 17]) []) [.ylm, .wav]

theorem Frame.applied {m m' : Main} (h : Stages m m') : Applied m m' := h.widen (by decide) (by decide) (by decide)

theorem wav_decisionTaken (x : WaveDec) (us : Nat) (m : Main) : (decisionTaken x us m).wav = { m.wav with seq := x.seq % 65536 } := by
  unfold decisionTaken
  extract_lets wav taken
  split
  · exact wavCount_wav 16 taken 1
  · rfl

theorem ylm_decisionTaken (x : WaveDec) (us : Nat) (m : Main) : (decisionTaken x us m).ylm = m.ylm := by
  unfold decisionTaken
  extract_lets wav taken
  split
  · exact wavCount_ylm 16 taken 1
  · rfl

theorem applied_decisionTaken (x : WaveDec) (us : Nat) (m : Main) : Applied m (decisionTaken x us m) := by
  unfold decisionTaken
  extract_lets wav taken
  have h1 : Applied m taken := Frame.wav _ m _ (by decide)
  split
  · exact h1.trans (Frame.wavCount taken 1 (by decide))
  · exact h1

theorem get_decisionTaken (x : WaveDec) (us : Nat) (m : Main) :
    (decisionTaken x us m).get F.WAV_CNT 16 = (m.get F.WAV_CNT 16 + if comesLate x us m then 1 else 0) % 2 ^ 32 := by
  unfold decisionTaken
  extract_lets wav taken
  split
  · exact get_wavCount_same 16 taken 1
  · exact (Nat.mod_eq_of_lt (Main.get_lt m F.WAV_CNT 16)).symm

theorem applyDecision_idle (h : runImg m = none) : applyDecision x us m = m := by
  unfold applyDecision
  rw [h]

theorem applyDecision_past (hb : runImg m = some b) (h : x.decSlot + 1 < m.slotNow) : applyDecision x us m = wavCount 17 m := by
  unfold applyDecision
  rw [hb]
  exact if_pos h

theorem applyDecision_old (hb : runImg m = some b) (h : ¬ x.decSlot + 1 < m.slotNow) (hs : sparTest m.wav.seq x.seq ≠ 0) :
    applyDecision x us m = m := by
  unfold applyDecision
  rw [hb]
  exact (if_neg h).trans (if_pos hs)

/-- The decision is taken and staged, and the frame of a cell that has begun is placed (R205). -/
theorem applyDecision_new (hb : runImg m = some b) (h : ¬ x.decSlot + 1 < m.slotNow) (hs : ¬ sparTest m.wav.seq x.seq ≠ 0) :
    applyDecision x us m =
      let staged := stageDecision b x (decide (comesLate x us m)) (decisionTaken x us m)
      if x.bindSlot ≤ m.slotNow then placeBound x.lane x.bindSlot staged else staged := by
  extract_lets staged
  have hslot : staged.slotNow = m.slotNow := (slotNow_stageDecision ..).trans (congrArg Ylm.slot (ylm_decisionTaken x us m))
  rw [← hslot]
  unfold applyDecision
  rw [hb]
  dsimp only
  rw [if_neg h, if_neg hs]
  simp only [staged, decisionTaken, decide_eq_true_eq]

theorem applied_applyDecision (x : WaveDec) (us : Nat) (m : Main) : Applied m (applyDecision x us m) := by
  cases hb : runImg m with
  | none =>
    rw [applyDecision_idle hb]
    exact Frame.refl _ _ _
  | some b =>
    by_cases h : x.decSlot + 1 < m.slotNow
    · rw [applyDecision_past hb h]
      exact Frame.wavCount m 1 (by decide)
    · by_cases hs : sparTest m.wav.seq x.seq ≠ 0
      · rw [applyDecision_old hb h hs]
        exact Frame.refl _ _ _
      · rw [applyDecision_new hb h hs]
        have hstaged := (applied_decisionTaken x us m).trans (stages_stageDecision b x (decide (comesLate x us m)) _).applied
        dsimp only
        split
        · exact hstaged.trans (stages_placeBound ..).applied
        · exact hstaged

/-- A new decision in time: its SEQ, the count of late ones, and what is staged before its cell begins. -/
theorem applyDecision_outcome (hb : runImg m = some b) (h : ¬ x.decSlot + 1 < m.slotNow) (hs : ¬ sparTest m.wav.seq x.seq ≠ 0) :
    (applyDecision x us m).wav.seq = x.seq % 65536 ∧
    (applyDecision x us m).get F.WAV_CNT 16 = (m.get F.WAV_CNT 16 + if comesLate x us m then 1 else 0) % 2 ^ 32 ∧
    (m.slotNow < x.bindSlot → applyDecision x us m = stageDecision b x (decide (comesLate x us m)) (decisionTaken x us m)) := by
  rw [applyDecision_new hb h hs]
  have hstages := stages_stageDecision b x (decide (comesLate x us m)) (decisionTaken x us m)
  have hseq : (stageDecision b x (decide (comesLate x us m)) (decisionTaken x us m)).wav.seq = x.seq % 65536 := by
    rw [seq_stageDecision, wav_decisionTaken]
  have hcount := (hstages.get_out F.WAV_CNT 16 (by decide)).trans (get_decisionTaken x us m)
  dsimp only
  split
  · next hle =>
    exact ⟨(seq_placeBound ..).trans hseq, ((stages_placeBound ..).get_out F.WAV_CNT 16 (by decide)).trans hcount,
      fun hlt => absurd hlt (by omega)⟩
  · exact ⟨hseq, hcount, fun _ => rfl⟩

end

end Sys2Proof.Machine
end

section
/-!
SUPPORT. The outcome of a detection or a hand-off (R194, R199, R203, R204, R208): what it may change, and the wave that it stages in a
free context.
-/
namespace Sys2Proof.Machine

/-- `m'` is `m` but for the wave engine's words with the counters `cs`, the waves, the plan's metrics, the ridge fabric and reports. -/
abbrev Tells (cs : List Nat) : Main → Main → Prop := Within (waveWords cs) [0xD] [.ylm, .wav, .rdg]

theorem Fabric.tells {m m' : Main} (h : Fabric m m') (cs : List Nat) : Tells cs m m' :=
  h.mono (fun _ ha => absurd ha List.not_mem_nil) (by decide) (by decide)

theorem tells_wavCount {cs : List Nat} {n : Nat} (m : Main) (k : Nat)
    (hn : n ∈ cs ∧ 0x10 ∉ waveWords cs ∧ 0x14 ∉ waveWords cs ∧ 0 ∉ [0xD]) : Tells cs m (wavCount n m k) :=
  let ⟨hin, hglb⟩ := hn
  (Frame.wavCount m k hin).within hglb

/-! ### Messages -/

theorem fabric_toPartner (payload : List Byte) (m : Main) : Fabric m (toPartner payload m) := by
  unfold toPartner
  exact Within.ite _ (fabric_originate ..) (Within.refl _ _ _ _)

theorem tells_sendDecision (x : WaveDec) (m : Main) : Tells [] m (sendDecision x m) := by
  unfold sendDecision
  extract_lets seq wav
  exact Within.ite _ (Within.refl _ _ _ _) ((Within.wav m _ (by decide)).trans ((fabric_toPartner _ _).tells []))

/-- A decision's message changes of the waves the last SEQ alone. -/
theorem wav_sendDecision (x : WaveDec) (m : Main) : ∃ n, (sendDecision x m).wav = { m.wav with seq := n } := by
  unfold sendDecision
  extract_lets seq wav
  split
  · exact ⟨m.wav.seq, rfl⟩
  · exact ⟨seq, (fabric_toPartner _ _).same .wav (by decide)⟩

theorem tells_sendHandoffs (b : Img) (waveId : Nat) (fs : List (Nat × WStep)) (m : Main) :
    Within (waveWords [13]) [0xD] [.rdg] m (sendHandoffs b waveId fs m) := by
  refine Within.foldl _ _ (fun n _ x => ?_) m
  extract_lets ss body
  refine Within.ite _ (Within.refl _ _ _ _) (Within.foldl _ _ (fun k _ y => ?_) x)
  extract_lets a r
  have hsent : Within (waveWords [13]) [0xD] [.rdg] y r.1 := (fabric_originate ..).weaken (by decide)
  exact Within.ite _ (Within.refl _ _ _ _) (Within.ite _ (hsent.trans ((Frame.wavCount r.1 1 (by decide)).within (by decide))) hsent)

/-! ### What follows a staging -/

theorem tells_reaction (m : Main) : Tells [] m (reaction m).2 := by
  have hfree : Frame (inRegs (waveWords []) [0xD]) [.ylm, .wav, .rdg] m m.freeVal.2 := Frame.freeVal ..
  exact ((hfree.trans (Frame.wavePut _ F.WAV_LATENCY_LAST _ (by decide))).trans (Frame.wavePut _ F.WAV_LATENCY_MAX _ (by decide))).within (by decide)

/-- The time that a reaction takes is shown in WAV_LATENCY; the waves stay (R193). -/
theorem reaction_wav (m : Main) : (reaction m).2.wav = m.wav :=
  (Frame.trans (Frame.trans (Frame.freeVal (inRegs (waveWords []) []) [] m) (Frame.wavePut _ F.WAV_LATENCY_LAST _ (by decide)))
    (Frame.wavePut _ F.WAV_LATENCY_MAX _ (by decide))).same .wav (by decide)

theorem keeps_waveTrace (waveId outcome cycles lantern : Nat) (m : Main) : Keeps m (waveTrace waveId outcome cycles lantern m) := keeps_sky ..

/-- The reaction, the trace and the count of a cascade that has been staged on context `w` (R193, R508). -/
def waveTold (k : Cascade) (merge : Bool) (w : Nat) (m : Main) : Main :=
  waveTrace w (if merge then 2 else 1) (reaction m).1 k.ref.lantern (wavCount (if merge then 6 else 1) (reaction m).2)

/-- The same with the messages to the partner and the neighbours (R204, R208). -/
def tellWave (b : Img) (k : Cascade) (merge : Bool) (w : Nat) (cell : Nat × Nat) (m : Main) : Main :=
  sendHandoffs b w k.foreign (sendDecision (cascadeDec (waveTold k merge w m) k merge w cell) (waveTold k merge w m))

section
variable (b : Img) (k : Cascade) (merge : Bool) (w : Nat) (cell : Nat × Nat) (m : Main)

theorem tells_waveTold : Tells [1, 6] m (waveTold k merge w m) := by
  have hcount : Tells [1, 6] (reaction m).2 (wavCount (if merge then 6 else 1) (reaction m).2) := by
    cases merge
    · exact tells_wavCount _ 1 (by decide)
    · exact tells_wavCount _ 1 (by decide)
  exact (((tells_reaction m).weaken (by decide)).trans hcount).trans ((keeps_waveTrace ..).within _ _ _)

theorem waveTold_wav : (waveTold k merge w m).wav = m.wav :=
  ((keeps_waveTrace ..).wav.trans (wavCount_wav ..)).trans (reaction_wav m)

/-- A new wave is counted once. -/
theorem count_waveTold_new : (waveTold k false w m).get F.WAV_CNT 1 = (m.get F.WAV_CNT 1 + 1) % 2 ^ 32 := by
  rw [← (tells_reaction m).get_out F.WAV_CNT 1 (by decide)]
  exact ((keeps_waveTrace ..).get F.WAV_CNT 1 (by decide)).trans (get_wavCount_same 1 _ 1)

theorem tells_tellWave : Tells [1, 6, 13] m (tellWave b k merge w cell m) :=
  (((tells_waveTold ..).weaken (by decide)).trans ((tells_sendDecision ..).weaken (by decide))).trans ((tells_sendHandoffs ..).weaken (by decide))

/-- Of the waves it changes the last SEQ alone. -/
theorem wav_tellWave : ∃ n, (tellWave b k merge w cell m).wav = { m.wav with seq := n } := by
  obtain ⟨n, hsent⟩ := wav_sendDecision (cascadeDec (waveTold k merge w m) k merge w cell) (waveTold k merge w m)
  rw [waveTold_wav] at hsent
  exact ⟨n, ((tells_sendHandoffs ..).same .wav (by decide)).trans hsent⟩

theorem count_tellWave_new : (tellWave b k false w cell m).get F.WAV_CNT 1 = (m.get F.WAV_CNT 1 + 1) % 2 ^ 32 :=
  (((tells_sendHandoffs ..).get_out F.WAV_CNT 1 (by decide)).trans ((tells_sendDecision ..).get_out F.WAV_CNT 1 (by decide))).trans
    (count_waveTold_new k w m)

end

/-! ### The outcome's frame -/

/-- What an outcome may change. -/
abbrev Outcome : Main → Main → Prop := Tells [1, 2, 3, 4, 5, 6, 7, 8, 9, 10, 11, 12, 13]

theorem Frame.outcome {m m' : Main} (h : Stages m m') : Outcome m m' := (h.within (by decide)).weaken (by decide)

theorem outcomeWave_cell {b : Img} {k : Cascade} {w us : Nat} {m : Main} {cell : Nat × Nat} (hroom : storeRoom m k.steps.length = true)
    (hcell : bindCell m b k.lanes us = some cell) :
    outcomeWave b k w us m =
      tellWave b k ((waveOf m w).state == 3) w cell (stageCascade m b w cell.1 cell.2 k.lead k.ref false k.steps m) := by
  unfold outcomeWave
  extract_lets merge
  rw [if_neg (by simp [hroom]), hcell]
  rfl

theorem outcomeWave_noCell {b : Img} {k : Cascade} {w us : Nat} {m : Main} (hroom : storeRoom m k.steps.length = true)
    (hcell : bindCell m b k.lanes us = none) : outcomeWave b k w us m = wavCount 10 m := by
  unfold outcomeWave
  extract_lets merge
  rw [if_neg (by simp [hroom]), hcell]

section
variable (b : Img) (k : Cascade) (us : Nat) (m : Main)

/-- A detection that the store has no room for is counted and traced (R203). -/
theorem outcome_dropped (kind n lantern : Nat) (hn : n ∈ [1, 2, 3, 4, 5, 6, 7, 8, 9, 10, 11, 12, 13]) :
    Outcome m (waveTrace 0 kind 0 lantern (wavCount n m)) :=
  (tells_wavCount m 1 ⟨hn, (by decide)⟩).trans ((keeps_waveTrace ..).within _ _ _)

theorem outcome_outcomeWave (w : Nat) : Outcome m (outcomeWave b k w us m) := by
  by_cases hroom : storeRoom m k.steps.length = true
  · cases hcell : bindCell m b k.lanes us with
    | none =>
      rw [outcomeWave_noCell hroom hcell]
      exact tells_wavCount m 1 (by decide)
    | some cell =>
      rw [outcomeWave_cell hroom hcell]
      exact (stages_stageCascade ..).outcome.trans ((tells_tellWave ..).weaken (by decide))
  · unfold outcomeWave
    rw [if_pos (by simp [hroom])]
    exact outcome_dropped m 5 9 _ (by decide)

theorem outcome_outcomeHold (z : Nat) : Outcome m (outcomeHold b k z us m) := by
  unfold outcomeHold
  split
  · exact outcome_dropped m 5 9 _ (by decide)
  split
  · exact tells_wavCount m 1 (by decide)
  · next cell _ =>
    extract_lets m1 r m2 first wav m3 m4
    have h1 : Outcome m m1 := (stages_stageHold ..).outcome
    have h2 : Outcome m1 m2 := (((tells_reaction m1).weaken (by decide)).trans (tells_wavCount r.2 1 (by decide))).trans
      ((keeps_waveTrace ..).within _ _ _)
    have h3 : Outcome m2 m3 := (Within.wav m2 _ (by decide)).trans ((keeps_fireIf _ 32 _ (by decide)).within _ _ _)
    have h4 : Outcome m3 m4 := (keeps_record ..).within _ _ _
    exact (((h1.trans h2).trans h3).trans h4).trans ((tells_sendDecision ..).weaken (by decide))

theorem outcome_outcome : Outcome m (outcome b k us m) := by
  unfold outcome
  split
  · exact outcome_outcomeWave ..
  · extract_lets first wav m1 z
    have h1 : Outcome m m1 := (Within.wav m _ (by decide)).trans ((keeps_fireIf _ 31 _ (by decide)).within _ _ _)
    refine h1.trans ?_
    split
    · exact outcome_outcomeWave ..
    · exact Within.ite _ (Within.ite _ (outcome_dropped m1 4 8 _ (by decide)) (outcome_outcomeHold ..)) (outcome_dropped m1 5 9 _ (by decide))

end

/-! ### A free context -/

/-- Context `w` is the lowest that is FREE. -/
def LowestFree (m : Main) (w : Fin 256) : Prop := m.wav.ctxs[w].state = 0 ∧ ∀ v : Fin 256, v < w → m.wav.ctxs[v].state ≠ 0

theorem waveOf_fin (m : Main) (w : Fin 256) : waveOf m w = m.wav.ctxs[w] := vget_fin ..

/-- With a context free the outcome is a wave in the lowest one. -/
theorem outcome_free {m : Main} {w : Fin 256} (h : LowestFree m w) (b : Img) (k : Cascade) (us : Nat) :
    outcome b k us m = outcomeWave b k w us m := by
  obtain ⟨hfree, hlow⟩ := h
  have hfind : ((List.range 256).find? fun v => (waveOf m v).state == 0) = some w.val := by
    refine List.find?_range_eq_some.2 ⟨?_, List.mem_range.2 w.isLt, fun v hv => ?_⟩
    · rw [waveOf_fin]
      exact beq_iff_eq.2 hfree
    · have := hlow ⟨v, hv.trans w.isLt⟩ hv
      rw [← waveOf_fin] at this
      simpa using this
  unfold outcome
  rw [hfind]

/-- Context `w` has taken a wave for the reference `x`, its first frame is bound to the cell at `slot` on `lane`, and the wave is counted
as started (R199). -/
def WaveStaged (b : Img) (w : Fin 256) (slot lane lead : Nat) (x : WaveRef) (m m' : Main) : Prop :=
  m'.get F.WAV_CNT 1 = (m.get F.WAV_CNT 1 + 1) % 2 ^ 32 ∧ m'.wav.ctxs[w].state = 1 ∧ m'.wav.ctxs[w].entry = x.entry ∧
  m'.wav.ctxs[w].zone = x.zone ∧ m'.wav.ctxs[w].source = x.source ∧ m'.wav.ctxs[w].dSlot = x.dSlot ∧
  m'.wav.ctxs[w].exec = execAt b slot lane lead ∧ m'.wav.ctxs[w].lantern = x.lantern ∧
  (∀ v : Fin 256, v ≠ w → m'.wav.ctxs[v] = m.wav.ctxs[v]) ∧ BindsFirst lane slot false (some w.val) m m'

theorem outcome_staged {b : Img} {k : Cascade} {us : Nat} {m : Main} {w : Fin 256} {slot lane : Nat} (hw : LowestFree m w)
    (hroom : storeRoom m k.steps.length = true) (hcell : bindCell m b k.lanes us = some (slot, lane)) :
    WaveStaged b w slot lane k.lead k.ref m (outcome b k us m) := by
  have hstate : (waveOf m w).state = 0 := (congrArg WaveCtx.state (waveOf_fin m w)).trans hw.1
  rw [outcome_free hw, outcomeWave_cell hroom hcell, hstate]
  generalize hm1 : stageCascade m b w slot lane k.lead k.ref false k.steps m = m1
  have hctx : StagedFor b slot lane k.lead k.ref m1.wav.ctxs[w] := by
    rw [← waveOf_fin, ← hm1]
    exact waveOf_stageCascade_same _ _ _ _ _ _ _ _ _ _ w.isLt (by omega)
  have hother (v : Fin 256) (hv : v ≠ w) : m1.wav.ctxs[v] = m.wav.ctxs[v] := by
    rw [← waveOf_fin, ← waveOf_fin, ← hm1]
    exact waveOf_stageCascade_ne _ _ _ _ _ _ _ _ _ _ fun he => hv (Fin.ext he.symm)
  have hbound : BindsFirst lane slot false (some w.val) m m1 := hm1 ▸ bindsFirst_stageCascade ..
  have hcount : m1.get F.WAV_CNT 1 = m.get F.WAV_CNT 1 := hm1 ▸ (stages_stageCascade ..).get_out F.WAV_CNT 1 (by decide)
  obtain ⟨n, hwav⟩ := wav_tellWave b k ((0 : Nat) == 3) w (slot, lane) m1
  obtain ⟨h1, h2, h3, h4, h5, h6, h7⟩ := hctx
  unfold WaveStaged BindsFirst
  rw [hwav, ← hcount]
  exact ⟨count_tellWave_new .., h1, h2, h3, h4, h5, h6, h7, hother, hbound⟩

theorem outcome_noCell {b : Img} {k : Cascade} {us : Nat} {m : Main} {w : Fin 256} (hw : LowestFree m w)
    (hroom : storeRoom m k.steps.length = true) (hcell : bindCell m b k.lanes us = none) : outcome b k us m = wavCount 10 m := by
  rw [outcome_free hw, outcomeWave_noCell hroom hcell]

end Sys2Proof.Machine
end

section
/-!
SUPPORT. What comes to the wave engine (R191, R192, R207, R209): a detection and a hand-off up to their outcome.
-/
namespace Sys2Proof.Machine

/-! ### An arrival -/

/-- `m'` is `m` but for the counters of what arrives, and the contexts of lanterns. -/
abbrev Arrives : Main → Main → Prop := Within (waveWords [0, 14, 15]) [] [.ctx]

section
variable {m m1 : Main} (h : Arrives m m1)
include h

theorem Arrives.runImg : runImg m1 = runImg m := by
  have hylm : m1.ylm = m.ylm := h.same .ylm (by decide)
  unfold Machine.runImg
  rw [hylm]

theorem Arrives.slotNow : m1.slotNow = m.slotNow := congrArg Ylm.slot (h.same .ylm (by decide) : m1.ylm = m.ylm)

theorem Arrives.wavesEnabled : wavesEnabled m1 = wavesEnabled m := by
  have hkey : m1.key = m.key := h.same .key (by decide)
  unfold Machine.wavesEnabled Main.exec Main.bit
  rw [h.runImg, hkey, h.get_out F.YLM_STATUS_EXEC_STATE 0 (by decide), h.get_out F.WAV_CTRL_ENABLE 0 (by decide)]

theorem Arrives.storeRoom (n : Nat) : storeRoom m1 n = storeRoom m n := by
  have hwav : m1.wav = m.wav := h.same .wav (by decide)
  unfold Machine.storeRoom
  rw [hwav]

theorem Arrives.bindCell (b : Img) (lanes us : Nat) : bindCell m1 b lanes us = bindCell m b lanes us := by
  have hwav : m1.wav = m.wav := h.same .wav (by decide)
  have hylm : m1.ylm = m.ylm := h.same .ylm (by decide)
  unfold Machine.bindCell bindLead Main.course Main.slotNow Main.bit
  rw [hwav, hylm, h.get_out F.RED_STATUS_PAIRED 0 (by decide), h.get_out F.WAV_PAIR_PAIR_LEAD 0 (by decide)]

theorem Arrives.lowestFree {w : Fin 256} (hw : LowestFree m w) : LowestFree m1 w := by
  have hwav : m1.wav = m.wav := h.same .wav (by decide)
  unfold LowestFree
  rw [hwav]
  exact hw

/-- An arrival that ends in a count changes no wave. -/
theorem Arrives.counted (n : Nat)
    (hn : F.WAV_CNT.addr n ∉ waveWords [0, 14, 15] ∧ F.WAV_CNT.addr n / 65536 ∉ [0, 2, 3, 0x12, 0x13, 0x3F]) :
    (wavCount n m1).get F.WAV_CNT n = (m.get F.WAV_CNT n + 1) % 2 ^ 32 ∧ (wavCount n m1).wav = m.wav := by
  rw [get_wavCount_same, h.get_out F.WAV_CNT n hn, wavCount_wav]
  exact ⟨rfl, h.same .wav (by decide)⟩

theorem Arrives.staged {b : Img} {w : Fin 256} {slot lane lead : Nat} {x : WaveRef} {m' : Main} (hs : WaveStaged b w slot lane lead x m1 m') :
    WaveStaged b w slot lane lead x m m' := by
  have hwav : m1.wav = m.wav := h.same .wav (by decide)
  unfold WaveStaged BindsFirst at hs ⊢
  rw [hwav, h.get_out F.WAV_CNT 1 (by decide)] at hs
  exact hs

/-- What an arrival with a free context and room in the store comes to: NO_CELL, or a wave in the lowest free context (R194, R199). -/
theorem Arrives.outcome {b : Img} {k : Cascade} {us : Nat} {w : Fin 256} (hw : LowestFree m w) (hroom : Machine.storeRoom m k.steps.length = true) :
    (Machine.bindCell m b k.lanes us = none →
      (outcome b k us m1).get F.WAV_CNT 10 = (m.get F.WAV_CNT 10 + 1) % 2 ^ 32 ∧ (outcome b k us m1).wav = m.wav) ∧
    (∀ slot lane, Machine.bindCell m b k.lanes us = some (slot, lane) → WaveStaged b w slot lane k.lead k.ref m (outcome b k us m1)) := by
  have hw1 : LowestFree m1 w := h.lowestFree hw
  have hroom1 : Machine.storeRoom m1 k.steps.length = true := (h.storeRoom _).trans hroom
  refine ⟨fun hcell => ?_, fun slot lane hcell => ?_⟩
  · rw [outcome_noCell hw1 hroom1 ((h.bindCell ..).trans hcell)]
    exact h.counted 10 (by decide)
  · exact h.staged (outcome_staged hw1 hroom1 ((h.bindCell ..).trans hcell))

end

theorem arrives_wavCount {n : Nat} (m : Main) (k : Nat) (hn : n ∈ [0, 14, 15]) : Arrives m (wavCount n m k) :=
  (Frame.wavCount m k hn).within (by decide)

/-! ### Detections -/

theorem wavesEnabled_idle {m : Main} (h : runImg m = none) : wavesEnabled m = false := by
  unfold wavesEnabled
  rw [h, Bool.and_false]

/-- The slot of a detection by its stamp (R191). -/
def detectSlot (body : List Byte) (rx : Nat) : Nat :=
  100 * originCourse rx (bits (lle body 2 4) 31 24) + bits (lle body 2 4) 23 0 / 10000

/-- The cascade that a wave-table entry asks for (R195). -/
def entryCascade (b : Img) (source lantern d e : Nat) : Cascade :=
  ⟨ownSteps b e d, WEnt.lanes b e, WEnt.lead b e, ⟨e, WEnt.zone b e, source, d, lantern⟩, foreignSteps b e d, false⟩

/-- A detection that has found its wave-table entry: its outcome, or, with no step of its own, its FOREIGN steps alone. -/
def detectEntry (b : Img) (source lantern d us : Nat) (m : Main) (e : Nat) : Main :=
  if (ownSteps b e d).isEmpty then waveTrace 0 0 0 lantern (sendHandoffs b 0 (foreignSteps b e d) (wavCount 1 m))
  else outcome b (entryCascade b source lantern d e) us m

section
variable {source lantern rx us : Nat} {body : List Byte} {m : Main} {b : Img}

theorem detect_disabled (h : wavesEnabled m = false) : detect source lantern body rx us m = wavCount 2 (wavCount 0 m) := by
  have he : wavesEnabled (wavCount 0 m) = false := (arrives_wavCount m 1 (by decide)).wavesEnabled.trans h
  unfold detect
  cases hb : runImg (wavCount 0 m) with
  | none => dsimp only; rw [hb]
  | some b =>
    dsimp only
    rw [hb]
    exact if_pos (by simp [he])

/-- The tests of an enabled engine, in their order (R192). -/
theorem detect_enabled (hb : runImg m = some b) (h : wavesEnabled m = true) : detect source lantern body rx us m =
    if lle body 1 1 < min 100 (m.get F.WAV_CTRL_CONF_MIN) then wavCount 3 (wavCount 0 m)
    else if m.slotNow < detectSlot body rx ∨ detectSlot body rx + max 1 (m.get F.WAV_CTRL_MAX_AGE) < m.slotNow then wavCount 4 (wavCount 0 m)
    else (wavLookup b lantern (bits (lle body 0 1) 2 0) (bits (lle body 0 1) 5 4)).elim (wavCount 5 (wavCount 0 m))
      (detectEntry b source lantern (detectSlot body rx) us (wavCount 0 m)) := by
  have ha : Arrives m (wavCount 0 m) := arrives_wavCount m 1 (by decide)
  have he : wavesEnabled (wavCount 0 m) = true := ha.wavesEnabled.trans h
  have hrun : runImg (wavCount 0 m) = some b := ha.runImg.trans hb
  rw [← ha.get_out F.WAV_CTRL_CONF_MIN 0 (by decide), ← ha.get_out F.WAV_CTRL_MAX_AGE 0 (by decide), ← ha.slotNow]
  unfold detect
  dsimp only
  rw [hrun]
  dsimp only
  rw [if_neg (by simp [he])]
  refine if_congr Iff.rfl rfl (if_congr (or_congr Iff.rfl ?_) rfl ?_)
  · exact Nat.lt_sub_iff_add_lt'
  · cases wavLookup b lantern (bits (lle body 0 1) 2 0) (bits (lle body 0 1) 5 4) with
    | none => rfl
    | some e => rfl

theorem detect_lowConf (hb : runImg m = some b) (h : wavesEnabled m = true) (hc : lle body 1 1 < min 100 (m.get F.WAV_CTRL_CONF_MIN)) :
    detect source lantern body rx us m = wavCount 3 (wavCount 0 m) := (detect_enabled hb h).trans (if_pos hc)

theorem detect_old (hb : runImg m = some b) (h : wavesEnabled m = true) (hc : ¬ lle body 1 1 < min 100 (m.get F.WAV_CTRL_CONF_MIN))
    (hd : m.slotNow < detectSlot body rx ∨ detectSlot body rx + max 1 (m.get F.WAV_CTRL_MAX_AGE) < m.slotNow) :
    detect source lantern body rx us m = wavCount 4 (wavCount 0 m) := ((detect_enabled hb h).trans (if_neg hc)).trans (if_pos hd)

/-- A detection that is sure and young enough goes by its wave-table entry. -/
theorem detect_young (hb : runImg m = some b) (h : wavesEnabled m = true) (hc : ¬ lle body 1 1 < min 100 (m.get F.WAV_CTRL_CONF_MIN))
    (hd : ¬ (m.slotNow < detectSlot body rx ∨ detectSlot body rx + max 1 (m.get F.WAV_CTRL_MAX_AGE) < m.slotNow)) {e : Option Nat}
    (he : wavLookup b lantern (bits (lle body 0 1) 2 0) (bits (lle body 0 1) 5 4) = e) :
    detect source lantern body rx us m =
      e.elim (wavCount 5 (wavCount 0 m)) (detectEntry b source lantern (detectSlot body rx) us (wavCount 0 m)) := by
  rw [detect_enabled hb h, if_neg hc, if_neg hd, he]

theorem outcome_detectEntry (b : Img) (source lantern d us : Nat) (m : Main) (e : Nat) : Outcome m (detectEntry b source lantern d us m e) := by
  unfold detectEntry
  refine Within.ite _ ?_ (outcome_outcome ..)
  exact ((tells_wavCount m 1 (by decide)).trans ((tells_sendHandoffs ..).weaken (by decide))).trans ((keeps_waveTrace ..).within _ _ _)

/-- Beyond the count of what has come in, a detection changes no more than an outcome does. -/
theorem outcome_detect (source lantern : Nat) (body : List Byte) (rx us : Nat) (m : Main) :
    Outcome (wavCount 0 m) (detect source lantern body rx us m) := by
  cases he : wavesEnabled m with
  | false =>
    rw [detect_disabled he]
    exact tells_wavCount _ 1 (by decide)
  | true =>
    cases hb : runImg m with
    | none => rw [wavesEnabled_idle hb] at he; cases he
    | some b =>
      rw [detect_enabled hb he]
      refine Within.ite _ (tells_wavCount _ 1 (by decide)) (Within.ite _ (tells_wavCount _ 1 (by decide)) ?_)
      cases wavLookup b lantern (bits (lle body 0 1) 2 0) (bits (lle body 0 1) 5 4) with
      | none => exact tells_wavCount _ 1 (by decide)
      | some e => exact outcome_detectEntry ..

end

/-! ### Forwarded detections (R207) -/

/-- The context of the forwarded lantern holds the forward's SPAR. -/
def sparHeard (x : DetectFwd) (m : Main) : Main := withCtx x.lantern (fun c => { c with lastSpar := x.spar % 65536 }) m

/-- The course in which the standby has received the detection. -/
def forwardCourse (x : DetectFwd) (m : Main) : Nat := m.course - (m.course + 2 ^ 32 - x.rxCourse % 2 ^ 32) % 2 ^ 32

theorem ctxOf_withCtx (i j : Nat) (f : Ctx → Ctx) (m : Main) : ctxOf (withCtx i f m) j = if i = j then f (ctxOf m i) else ctxOf m j :=
  sget_sset _ _ _ _ _

section
variable {x : DetectFwd} {us : Nat} {m : Main}

theorem detectFwd_standby (h : m.red.role = 1) : detectFwd x us m = m.count F.RED_CNT 11 := if_pos h

theorem detectFwd_old (h : m.red.role ≠ 1) (ht : sparTest (ctxOf m x.lantern).lastSpar x.spar ≠ 0) :
    detectFwd x us m = peCount (sparTest (ctxOf m x.lantern).lastSpar x.spar) m := (if_neg h).trans (if_pos ht)

theorem detectFwd_new (h : m.red.role ≠ 1) (ht : ¬ sparTest (ctxOf m x.lantern).lastSpar x.spar ≠ 0) :
    detectFwd x us m = detect 1 x.lantern x.body (forwardCourse x m) us (sparHeard x m) := (if_neg h).trans (if_neg ht)

theorem arrives_forward (x : DetectFwd) (m : Main) : Arrives m (wavCount 0 (sparHeard x m)) :=
  (Within.ctx m _ (by decide)).trans (arrives_wavCount _ 1 (by decide))

/-- The contexts after a new forward. -/
theorem ctxOf_detect_sparHeard (source lantern : Nat) (body : List Byte) (rx j : Nat) :
    ctxOf (detect source lantern body rx us (sparHeard x m)) j =
      if x.lantern = j then { ctxOf m x.lantern with lastSpar := x.spar % 65536 } else ctxOf m j := by
  have hctx : (detect source lantern body rx us (sparHeard x m)).ctx = (sparHeard x m).ctx :=
    ((outcome_detect ..).same .ctx (by decide)).trans (Main.count_ctx ..)
  rw [← ctxOf_withCtx x.lantern j (fun c => { c with lastSpar := x.spar % 65536 }) m]
  unfold ctxOf
  rw [hctx]
  rfl

theorem count_detect_sparHeard (source lantern : Nat) (body : List Byte) (rx : Nat) :
    (detect source lantern body rx us (sparHeard x m)).get F.WAV_CNT 0 = (m.get F.WAV_CNT 0 + 1) % 2 ^ 32 :=
  ((outcome_detect ..).get_out F.WAV_CNT 0 (by decide)).trans (get_wavCount_same 0 (sparHeard x m) 1)

end

/-! ### Hand-offs (R209) -/

/-- The steps of a hand-off that the module can take. -/
def stepsTaken (m : Main) (b : Img) (steps : List WStep) : List WStep :=
  steps.filter fun x => decide (x.lantern < Hdr.lanterns b) && (ctxOf m x.lantern).live && decide (m.slotNow < x.stop)

/-- The hand-off and the steps that are turned away have been counted. -/
def handoffCounted (m : Main) (b : Img) (steps : List WStep) : Main :=
  wavCount 15 (wavCount 14 m) (steps.length - (stepsTaken m b steps).length)

/-- The cascade of the steps of a hand-off that are taken, the first of them of lantern `i`. -/
def handoffCascade (m : Main) (b : Img) (good : List WStep) (i : Nat) : Cascade :=
  ⟨good, mediaMask (ctxOf m i), handoffLead b (ctxOf m i).zone i, ⟨0xFFFF, (ctxOf m i).zone, 2, 0, 0xFFFF⟩, [], true⟩

section
variable {m : Main} {b : Img} {steps : List WStep} {us : Nat} {x : WStep} {xs : List WStep}

theorem arrives_handoffCounted (m : Main) (b : Img) (steps : List WStep) : Arrives m (handoffCounted m b steps) :=
  (arrives_wavCount m 1 (by decide)).trans (arrives_wavCount _ _ (by decide))

@[simp] theorem wavCount_ctxOf (n : Nat) (m : Main) (k i : Nat) : ctxOf (wavCount n m k) i = ctxOf m i := by
  unfold ctxOf wavCount
  rw [Main.count_ctx]

@[simp] theorem wavCount_slotNow (n : Nat) (m : Main) (k : Nat) : (wavCount n m k).slotNow = m.slotNow := by
  unfold Main.slotNow
  rw [wavCount_ylm]

theorem handoff_idle (hb : runImg m = none) : handoff steps us m = wavCount 2 (wavCount 14 m) := by
  unfold handoff
  rw [hb]

theorem handoff_noneLeft (hb : runImg m = some b) (hg : stepsTaken m b steps = []) : handoff steps us m = handoffCounted m b steps := by
  unfold handoffCounted
  rw [hg]
  unfold stepsTaken at hg
  unfold handoff
  rw [hb]
  simp only [wavCount_ctxOf, wavCount_slotNow, hg]

theorem handoff_some (hb : runImg m = some b) (hg : stepsTaken m b steps = x :: xs) : handoff steps us m =
    if wavesEnabled (handoffCounted m b steps) = false then wavCount 2 (handoffCounted m b steps)
    else outcome b (handoffCascade m b (x :: xs) x.lantern) us (handoffCounted m b steps) := by
  unfold handoffCounted handoffCascade
  rw [hg]
  unfold stepsTaken at hg
  unfold handoff
  rw [hb]
  simp only [wavCount_ctxOf, wavCount_slotNow, hg, Bool.not_eq_true']

/-- Beyond the counts of what has come in, a hand-off changes no more than an outcome does. -/
theorem outcome_handoff (hb : runImg m = some b) (steps : List WStep) (us : Nat) : Outcome (handoffCounted m b steps) (handoff steps us m) := by
  cases hg : stepsTaken m b steps with
  | nil =>
    rw [handoff_noneLeft hb hg]
    exact Within.refl _ _ _ _
  | cons x xs =>
    rw [handoff_some hb hg]
    exact Within.ite _ (tells_wavCount _ 1 (by decide)) (outcome_outcome ..)

end

end Sys2Proof.Machine
end

section
/-!
SUPPORT. The commands that bring detections, hand-offs and decisions from the ridge (R205–R207, R209), and the obligation.
-/
namespace Sys2Proof.Machine

theorem Within.reportsWave {ps : List Part} {m m' : Main} (h : Within [] [8, 0xD] ps m m') :
    Reports (fun a => inBlock 8 a ∨ inBlock 0x0D a) ps m m' := by
  refine Frame.mono h.reports (fun a ha => ha.imp_left fun hin => ?_) (List.Subset.refl _)
  unfold inRegs at hin
  unfold inBlock
  simpa using hin

/-! ### The commands by their payloads -/

section
variable {s : State} {f : RidgeFrame} {us : Nat}

theorem detectFwdRx_some {x : DetectFwd} (hx : detectFwdOf f.payload = some x) (m : Main) : detectFwdRx f us m = detectFwd x us m := by
  unfold detectFwdRx
  rw [hx]

theorem handoffRx_some {steps : List WStep} (hx : handoffOf f.payload = some steps) (m : Main) :
    handoffRx f us m = if m.red.role = 1 then m else handoff steps us m := by
  unfold handoffRx
  rw [hx]

/-- The decision is logged for a replay (R427). -/
def logged (x : WaveDec) (us : Nat) (m : Main) : Main := { m with red := { m.red with
  decLog := (m.red.decLog.filter fun d => decide (m.slotNow ≤ d.1 + 200)) ++ [(m.slotNow, us, x)] } }

theorem waveDecisionRx_some {x : WaveDec} (hx : decisionOf f.payload = some x) (m : Main) :
    waveDecisionRx f us m = applyDecision x us (logged x us m) := by
  unfold waveDecisionRx
  rw [hx]
  rfl

theorem answersMain_detectFwdRx_none (h : detectFwdOf f.payload = none) : AnswersMain (.detectFwdRx f us) s fun m => m = s.main := by
  refine answersMain_of (f := detectFwdRx f us) rfl ?_
  unfold detectFwdRx
  rw [h]

theorem answersMain_waveHandoffRx_none (h : handoffOf f.payload = none) : AnswersMain (.waveHandoffRx f us) s fun m => m = s.main := by
  refine answersMain_of (f := handoffRx f us) rfl ?_
  unfold handoffRx
  rw [h]

theorem answersMain_waveDecisionRx_none (h : decisionOf f.payload = none) : AnswersMain (.waveDecisionRx f us) s fun m => m = s.main := by
  refine answersMain_of (f := waveDecisionRx f us) rfl ?_
  unfold waveDecisionRx
  rw [h]

end

/-! ### DETECT_FWD_RX and WAVE_HANDOFF_RX -/

/-- A new forward is recorded, counted, and reports within the engine and the ridge (R207). -/
theorem detectFwd_recorded (x : DetectFwd) (rx us : Nat) (m : Main) :
    let m' := detect 1 x.lantern x.body rx us (sparHeard x m)
    (ctxOf m' x.lantern).lastSpar = x.spar % 65536 ∧ (∀ j, j ≠ x.lantern → ctxOf m' j = ctxOf m j) ∧
    m'.get F.WAV_CNT 0 = (m.get F.WAV_CNT 0 + 1) % 2 ^ 32 ∧
    Reports (fun a => inBlock 8 a ∨ inBlock 0x0D a) [.ylm, .ctx, .wav, .rdg] m m' := by
  intro m'
  refine ⟨?_, fun j hj => ?_, count_detect_sparHeard .., ?_⟩
  · rw [ctxOf_detect_sparHeard, if_pos rfl]
  · rw [ctxOf_detect_sparHeard, if_neg hj.symm]
  · exact Within.reportsWave (((arrives_forward x m).weaken (by decide)).trans ((outcome_detect ..).weaken (by decide)))

/-- A detection with steps of its own, a free context, room and a cell stages its wave; with no cell it counts NO_CELL (R194, R199). -/
theorem detectEntry_outcome {m m1 : Main} (ha : Arrives m m1) {b : Img} {source lantern d us e : Nat} {w : Fin 256} (hw : LowestFree m w)
    (hown : ownSteps b e d ≠ []) (hroom : storeRoom m (ownSteps b e d).length = true) :
    (bindCell m b (WEnt.lanes b e) us = none →
      (detectEntry b source lantern d us m1 e).get F.WAV_CNT 10 = (m.get F.WAV_CNT 10 + 1) % 2 ^ 32 ∧
        (detectEntry b source lantern d us m1 e).wav = m.wav) ∧
    (∀ slot lane, bindCell m b (WEnt.lanes b e) us = some (slot, lane) →
      WaveStaged b w slot lane (WEnt.lead b e) ⟨e, WEnt.zone b e, source, d, lantern⟩ m (detectEntry b source lantern d us m1 e)) := by
  have hentry : detectEntry b source lantern d us m1 e = outcome b (entryCascade b source lantern d e) us m1 :=
    if_neg (by simpa using hown)
  rw [hentry]
  exact ha.outcome (k := entryCascade b source lantern d e) hw hroom

/-- The same for the steps of a hand-off (R209). -/
theorem handoff_outcome {m : Main} {b : Img} {steps xs : List WStep} {x : WStep} {us : Nat} {w : Fin 256} (hb : runImg m = some b)
    (hg : stepsTaken m b steps = x :: xs) (he : ¬ wavesEnabled m = false) (hw : LowestFree m w) (hroom : storeRoom m (x :: xs).length = true) :
    (bindCell m b (mediaMask (ctxOf m x.lantern)) us = none →
      (handoff steps us m).get F.WAV_CNT 10 = (m.get F.WAV_CNT 10 + 1) % 2 ^ 32 ∧ (handoff steps us m).wav = m.wav) ∧
    (∀ slot lane, bindCell m b (mediaMask (ctxOf m x.lantern)) us = some (slot, lane) →
      WaveStaged b w slot lane (handoffLead b (ctxOf m x.lantern).zone x.lantern) ⟨0xFFFF, (ctxOf m x.lantern).zone, 2, 0, 0xFFFF⟩ m
        (handoff steps us m)) := by
  have ha : Arrives m (handoffCounted m b steps) := arrives_handoffCounted ..
  rw [handoff_some hb hg, ha.wavesEnabled, if_neg he]
  exact ha.outcome (k := handoffCascade m b (x :: xs) x.lantern) hw hroom

/-- The steps of a hand-off that are turned away are counted (R209). -/
theorem count_handoff_rejected {m : Main} {b : Img} (hb : runImg m = some b) (steps : List WStep) (us : Nat) :
    (handoff steps us m).get F.WAV_CNT 15 = (m.get F.WAV_CNT 15 + (steps.length - (stepsTaken m b steps).length)) % 2 ^ 32 := by
  have h14 : Within (waveWords [14]) [] [] m (wavCount 14 m) := (Frame.wavCount m 1 (by decide)).within (by decide)
  rw [(outcome_handoff hb steps us).get_out F.WAV_CNT 15 (by decide), ← h14.get_out F.WAV_CNT 15 (by decide)]
  exact get_wavCount_same 15 _ _

/-- A hand-off is counted once (R209). -/
theorem count_handoff (steps : List WStep) (us : Nat) (m : Main) :
    (handoff steps us m).get F.WAV_CNT 14 = (m.get F.WAV_CNT 14 + 1) % 2 ^ 32 := by
  rw [← get_wavCount_same 14 m 1]
  cases hb : runImg m with
  | none =>
    rw [handoff_idle hb]
    have h2 : Within (waveWords [2]) [] [] (wavCount 14 m) (wavCount 2 (wavCount 14 m)) := (Frame.wavCount _ 1 (by decide)).within (by decide)
    exact h2.get_out F.WAV_CNT 14 (by decide)
  | some b =>
    have h15 : Within (waveWords [15]) [] [] (wavCount 14 m) (handoffCounted m b steps) := (Frame.wavCount _ _ (by decide)).within (by decide)
    exact ((outcome_handoff hb steps us).get_out F.WAV_CNT 14 (by decide)).trans (h15.get_out F.WAV_CNT 14 (by decide))

theorem reports_handoff (steps : List WStep) (us : Nat) (m : Main) :
    Reports (fun a => inBlock 8 a ∨ inBlock 0x0D a) [.ylm, .wav, .rdg] m (handoff steps us m) := by
  refine Within.reportsWave ?_
  cases hb : runImg m with
  | none =>
    rw [handoff_idle hb]
    exact ((tells_wavCount (cs := [2, 14]) m 1 (by decide)).trans (tells_wavCount _ 1 (by decide))).weaken (by decide)
  | some b =>
    have hcounted : Within (waveWords [14, 15]) [] [] m (handoffCounted m b steps) :=
      ((Frame.wavCount m 1 (by decide)).trans (Frame.wavCount _ _ (by decide))).within (by decide)
    exact (hcounted.weaken (by decide)).trans ((outcome_handoff hb steps us).weaken (by decide))

/-! ### WAVE_DECISION_RX -/

theorem frame_decision (x : WaveDec) (us : Nat) (m : Main) :
    Frame (inBlock 8) [.ylm, .wav, .red] m (applyDecision x us (logged x us m)) := by
  have hlogged : Frame (inBlock 8) [.ylm, .wav, .red] m (logged x us m) := by
    refine ⟨fun _ _ => rfl, fun p hp => ?_, List.suffix_refl _⟩
    cases p with
    | red => exact absurd (by decide) hp
    | _ => rfl
  refine hlogged.trans ((applied_applyDecision x us (logged x us m)).mono (fun a ha => ?_) (by decide))
  exact ha.elim ((by decide : ∀ a ∈ waveWords [11, 12, 16, 17], a / 65536 = 8) a) fun h => absurd h List.not_mem_nil

/-- A new decision in time (R205, R206): its SEQ, the count of late ones, its frame, and a NEW one's context. -/
theorem decision_outcome {x : WaveDec} {us : Nat} {m : Main} {b : Img} (hb : runImg m = some b) (hpast : ¬ x.decSlot + 1 < m.slotNow)
    (hseq : ¬ sparTest m.wav.seq x.seq ≠ 0) (hid : x.waveId < 256) :
    let m' := applyDecision x us (logged x us m)
    m'.wav.seq = x.seq % 65536 ∧ m'.get F.WAV_CNT 16 = (m.get F.WAV_CNT 16 + if comesLate x us m then 1 else 0) % 2 ^ 32 ∧
    (m.slotNow < x.bindSlot →
      BindsFirst x.lane x.bindSlot (decide (comesLate x us m)) (if x.dkind = 2 then none else some x.waveId) m m') ∧
    (x.dkind = 0 → m.slotNow < x.bindSlot → (waveOf m x.waveId).state ≠ 3 →
      (waveOf m' x.waveId).state = 1 ∧ (waveOf m' x.waveId).entry = x.ref ∧ (waveOf m' x.waveId).lantern = x.lantern) := by
  obtain ⟨hnew, hcount, hstaged⟩ := applyDecision_outcome (m := logged x us m) (us := us) hb hpast hseq
  have hwav := wav_decisionTaken x us (logged x us m)
  refine ⟨hnew, hcount, fun hbefore => ?_, fun hkind hbefore hstate => ?_⟩
  · obtain ⟨y, hbound, hfirst⟩ := bindsFirst_stageDecision b x (decide (comesLate x us (logged x us m))) (decisionTaken x us (logged x us m))
    rw [hwav] at hbound
    rw [hstaged hbefore]
    exact ⟨y, hbound, hfirst⟩
  · rw [hstaged hbefore]
    refine waveOf_stageDecision_new b _ _ hkind hid ?_
    unfold waveOf
    rwa [hwav]

/-! ### The obligation -/

/-- Settles O17: each command by its payload's layout, a new forward by the tests of `detect_enabled`, a hand-off by the steps that are left,
and a decision by its slot and its SEQ. -/
theorem detectionsStartWaves : Obligations.DetectionsStartWaves := by
  unfold Obligations.DetectionsStartWaves
  intro s f us cnt up more lowestFree staged
  refine ⟨answersMain_detectFwdRx_none, answersMain_waveHandoffRx_none, answersMain_waveDecisionRx_none, fun x hx => ?_, fun steps hx => ?_,
    fun x hx => ?_⟩
  · refine answersMain_of (f := detectFwdRx f us) rfl ?_
    rw [detectFwdRx_some hx]
    intro t
    split
    · next hrole =>
      rw [detectFwd_standby hrole]
      exact ⟨Main.get_count_same s.main 11 (by decide), Frame.put _ _ _ _ _ rfl⟩
    split
    · next hrole ht =>
      rw [detectFwd_old hrole ht]
      exact ⟨Main.get_count_same s.main t (by decide), Frame.put _ _ _ _ _ rfl⟩
    next hrole ht =>
    rw [detectFwd_new hrole ht]
    have ha := arrives_forward x s.main
    obtain ⟨hspar, hothers, hcount, hreports⟩ := detectFwd_recorded x (forwardCourse x s.main) us s.main
    refine ⟨hspar, hothers, hcount, hreports, fun he => ?_, fun b hb he => ?_⟩
    · rw [detect_disabled (m := sparHeard x s.main) he]
      exact ha.counted 2 (by decide)
    intro rx stamp d motion
    by_cases hconf : lle x.body 1 1 < min 100 (s.main.get F.WAV_CTRL_CONF_MIN)
    · rw [if_pos hconf, detect_lowConf (m := sparHeard x s.main) hb he hconf]
      exact ha.counted 3 (by decide)
    by_cases hold : s.main.slotNow < d ∨ d + max 1 (s.main.get F.WAV_CTRL_MAX_AGE) < s.main.slotNow
    · rw [if_neg hconf, if_pos hold, detect_old (m := sparHeard x s.main) (rx := forwardCourse x s.main) hb he hconf hold]
      exact ha.counted 4 (by decide)
    rw [if_neg hconf, if_neg hold]
    cases hlookup : wavLookup b x.lantern (bits motion 2 0) (bits motion 5 4) with
    | none =>
      rw [detect_young (m := sparHeard x s.main) (rx := forwardCourse x s.main) hb he hconf hold hlookup]
      exact ha.counted 5 (by decide)
    | some e =>
      rw [detect_young (m := sparHeard x s.main) (rx := forwardCourse x s.main) hb he hconf hold hlookup]
      intro w hw hown hroom
      obtain ⟨hnone, hsome⟩ := detectEntry_outcome (source := 1) (lantern := x.lantern) (us := us) ha hw hown hroom
      cases hcell : bindCell s.main b (WEnt.lanes b e) us with
      | none => exact hnone hcell
      | some cell => exact hsome cell.1 cell.2 hcell
  · refine answersMain_of (f := handoffRx f us) rfl ?_
    rw [handoffRx_some hx]
    split
    · rfl
    refine ⟨count_handoff .., reports_handoff .., fun hb => ?_, fun b hb => ?_⟩
    · rw [handoff_idle hb]
      exact (arrives_wavCount s.main 1 (by decide)).counted 2 (by decide)
    intro good
    refine ⟨count_handoff_rejected hb steps us, ?_⟩
    have ha : Arrives s.main (handoffCounted s.main b steps) := arrives_handoffCounted ..
    cases hg : good with
    | nil =>
      rw [handoff_noneLeft hb hg]
      exact ha.same .wav (by decide)
    | cons y ys =>
      dsimp only
      split
      · next he =>
        rw [handoff_some hb hg, ha.wavesEnabled, if_pos he]
        exact ha.counted 2 (by decide)
      · next he =>
        intro w hw hroom
        obtain ⟨hnone, hsome⟩ := handoff_outcome (us := us) hb hg he hw (hg ▸ hroom)
        cases hcell : bindCell s.main b (mediaMask (ctxOf s.main y.lantern)) us with
        | none => exact hnone hcell
        | some cell => exact hsome cell.1 cell.2 hcell
  · intro kept
    refine answersMain_of (f := waveDecisionRx f us) rfl ?_
    rw [waveDecisionRx_some hx]
    intro late
    refine ⟨(applied_applyDecision x us (logged x us s.main)).same .red (by decide), frame_decision x us s.main, fun hb => ?_, fun b hb => ?_⟩
    · rw [applyDecision_idle (m := logged x us s.main) hb]
      rfl
    split
    · next hpast =>
      rw [applyDecision_past (m := logged x us s.main) hb hpast]
      exact ⟨get_wavCount_same 17 (logged x us s.main) 1, wavCount_wav 17 (logged x us s.main) 1⟩
    split
    · next hpast hseq =>
      rw [applyDecision_old (m := logged x us s.main) hb hpast hseq]
      rfl
    next hpast hseq =>
    exact decision_outcome hb hpast hseq (waveId_lt_of_decisionOf hx)

end Sys2Proof.Machine
end

section
/-!
SUPPORT. The vectors of the purlin engine's stages: words of 24 bits and exponents of 8 stay so, and what a renormalisation leaves
(R213–R217).
-/
namespace Sys2Proof.Machine

/-! ### Words -/

theorem fits24_iff {v : Int} : fits24 v = true ↔ -8388608 ≤ v ∧ v ≤ 8388607 := by simp [fits24]

/-- A word that is written back fits (R216). -/
theorem fits24_writeBack (b : Bf) (x : Int) : fits24 (writeBack b x).1 = true := by
  unfold writeBack
  extract_lets v
  split
  · assumption
  · dsimp only
    split <;> rfl

/-- A right shift of a word that fits gives one. -/
theorem fits24_shiftRight {v : Int} (h : fits24 v = true) (n : Nat) : fits24 (shiftRight v n) = true := by
  cases n with
  | zero => exact h
  | succ n =>
    rw [fits24_iff] at h ⊢
    have hdouble : (2 : Int) ^ (n + 1) = 2 * 2 ^ n := by ring
    have hpos : (1 : Int) ≤ 2 ^ n := one_le_pow₀ (by decide)
    simp only [shiftRight, Nat.add_one_ne_zero, if_false, Nat.add_sub_cancel, hdouble]
    constructor
    · rw [Int.le_ediv_iff_mul_le (by omega)]
      nlinarith
    · rw [← Int.lt_add_one_iff, Int.ediv_lt_iff_lt_mul (by omega)]
      nlinarith

/-! ### A vector's largest word -/

/-- The words fit their 24 bits and the exponent is in range (R213). -/
def PStage.legal (s : PStage) : Prop :=
  fits24 s.m0 = true ∧ fits24 s.m1 = true ∧ fits24 s.m2 = true ∧ fits24 s.m3 = true ∧ -128 ≤ s.x ∧ s.x ≤ 127

/-- What a renormalisation leaves of the largest word and of the exponent (R217). -/
def PStage.normal (s : PStage) : Prop :=
  s.largest = 0 ∨ (2097152 ≤ s.largest ∧ s.largest ≤ 4194303) ∨ s.x = -128 ∨ s.x = 127

theorem PStage.le_largest_iff {s : PStage} {c : Nat} :
    c ≤ s.largest ↔ c ≤ s.m0.natAbs ∨ c ≤ s.m1.natAbs ∨ c ≤ s.m2.natAbs ∨ c ≤ s.m3.natAbs := by
  simp only [PStage.largest, le_max_iff, or_assoc]

theorem PStage.largest_lt_iff {s : PStage} {c : Nat} :
    s.largest < c ↔ s.m0.natAbs < c ∧ s.m1.natAbs < c ∧ s.m2.natAbs < c ∧ s.m3.natAbs < c := by
  simp only [PStage.largest, max_lt_iff, and_assoc]

/-- Words below 2^23 fit. -/
theorem PStage.legal_of_largest {s : PStage} (h : s.largest < 8388608) (hx : -128 ≤ s.x ∧ s.x ≤ 127) : s.legal := by
  obtain ⟨h0, h1, h2, h3⟩ := PStage.largest_lt_iff.1 h
  refine ⟨?_, ?_, ?_, ?_, hx⟩ <;> rw [fits24_iff] <;> omega

theorem PStage.legal.shift {s : PStage} (h : s.legal) (n : Nat) {x : Int} (hx : -128 ≤ x ∧ x ≤ 127) :
    ({ s.mapWords (fun v => shiftRight v n) with x := x } : PStage).legal := by
  obtain ⟨h0, h1, h2, h3, -⟩ := h
  exact ⟨fits24_shiftRight h0 n, fits24_shiftRight h1 n, fits24_shiftRight h2 n, fits24_shiftRight h3 n, hx⟩

theorem PStage.largest_mapWords_mul (s : PStage) (n : Nat) : (s.mapWords fun v => v * 2 ^ n).largest = s.largest * 2 ^ n := by
  simp only [PStage.largest, PStage.mapWords, Int.natAbs_mul, Int.natAbs_pow, Int.reduceAbs, Nat.mul_max_mul_right]

/-- A right shift by two places brings every word below 2^22. -/
theorem PStage.legal.largest_shift_two {s : PStage} (h : s.legal) : (s.mapWords fun v => shiftRight v 2).largest < 4194304 := by
  obtain ⟨h0, h1, h2, h3, -⟩ := h
  rw [fits24_iff] at h0 h1 h2 h3
  rw [PStage.largest_lt_iff]
  refine ⟨?_, ?_, ?_, ?_⟩ <;> simp only [PStage.mapWords, shiftRight] <;> norm_num <;> omega

/-- A shift by one place more halves the largest word. -/
theorem PStage.le_largest_shift_succ {s : PStage} {n : Nat} (hn : n < 2) (h : 4194304 ≤ (s.mapWords fun v => shiftRight v n).largest) :
    2097152 ≤ (s.mapWords fun v => shiftRight v (n + 1)).largest := by
  have word (v : Int) (hv : 4194304 ≤ (shiftRight v n).natAbs) : 2097152 ≤ (shiftRight v (n + 1)).natAbs := by
    have : n = 0 ∨ n = 1 := by omega
    rcases this with rfl | rfl <;> simp only [shiftRight] at hv ⊢ <;> norm_num at hv ⊢ <;> omega
  rw [PStage.le_largest_iff] at h ⊢
  exact h.imp (word _) fun h => h.imp (word _) fun h => h.imp (word _) (word _)

/-! ### Renormalisation -/

/-- The renormalisation of a vector whose words are small: a shift to the left, as far as the exponent has room. -/
theorem PStage.renorm_small {s : PStage} (h0 : s.largest ≠ 0) (h : s.largest < 2097152) :
    ∃ n : Nat, s.renorm.1 = { s.mapWords (fun v => v * 2 ^ n) with x := s.x - n } ∧ s.largest * 2 ^ n < 4194304 ∧ n ≤ (s.x + 128).toNat ∧
      (2097152 ≤ s.largest * 2 ^ n ∨ n = (s.x + 128).toNat) := by
  obtain ⟨k, hk⟩ : ∃ k, (List.range 24).find? (fun n => decide (2097152 ≤ s.largest * 2 ^ n)) = some k := by
    rw [← Option.isSome_iff_exists, List.find?_isSome]
    exact ⟨21, by decide, by simp only [decide_eq_true_eq]; omega⟩
  obtain ⟨hreach, -, hleast⟩ := List.find?_range_eq_some.1 hk
  simp only [decide_eq_true_eq] at hreach
  have hbelow : s.largest * 2 ^ k < 4194304 := by
    cases k with
    | zero => omega
    | succ k =>
      have hlast := hleast k (Nat.lt_succ_self k)
      simp only [Bool.not_eq_true', decide_eq_false_iff_not] at hlast
      rw [Nat.pow_succ, ← Nat.mul_assoc]
      omega
  refine ⟨min k (s.x + 128).toNat, ?_, ?_, Nat.min_le_right .., ?_⟩
  · unfold PStage.renorm
    rw [if_neg h0, if_pos h]
    simp only [hk, Option.getD_some]
  · exact (Nat.mul_le_mul_left _ (Nat.pow_le_pow_right (by decide) (Nat.min_le_left ..))).trans_lt hbelow
  · rcases Nat.le_total k (s.x + 128).toNat with hle | hle
    · exact Or.inl (by rwa [Nat.min_eq_left hle])
    · exact Or.inr (Nat.min_eq_right hle)

/-- The renormalisation of a vector whose words are not small: a shift to the right, as far as the exponent has room. -/
theorem PStage.legal.renorm_large {s : PStage} (hs : s.legal) (h : 2097152 ≤ s.largest) :
    ∃ (n : Nat) (x : Int), s.renorm.1 = { s.mapWords (fun v => shiftRight v n) with x := x } ∧ s.x ≤ x ∧ x ≤ 127 ∧
      (x = 127 ∨ 2097152 ≤ s.renorm.1.largest ∧ s.renorm.1.largest < 4194304) := by
  obtain ⟨k, hk⟩ : ∃ k, (List.range 64).find? (fun n => decide ((s.mapWords fun v => shiftRight v n).largest < 4194304)) = some k := by
    rw [← Option.isSome_iff_exists, List.find?_isSome]
    exact ⟨2, by decide, decide_eq_true hs.largest_shift_two⟩
  obtain ⟨hreach, -, hleast⟩ := List.find?_range_eq_some.1 hk
  simp only [decide_eq_true_eq] at hreach
  have hk2 : k ≤ 2 := by
    by_contra hgt
    have := hleast 2 (by omega)
    simp only [Bool.not_eq_true', decide_eq_false_iff_not] at this
    exact this hs.largest_shift_two
  have hfrom : 2097152 ≤ (s.mapWords fun v => shiftRight v k).largest := by
    cases k with
    | zero => exact h
    | succ k =>
      have hlast := hleast k (Nat.lt_succ_self k)
      simp only [Bool.not_eq_true', decide_eq_false_iff_not, not_lt] at hlast
      exact PStage.le_largest_shift_succ (by omega) hlast
  obtain ⟨-, -, -, -, -, hx⟩ := hs
  have hrun : s.renorm.1 = if 127 < s.x + k then { s.mapWords (fun v => shiftRight v (127 - s.x).toNat) with x := 127 }
      else { s.mapWords (fun v => shiftRight v k) with x := s.x + k } := by
    unfold PStage.renorm
    rw [if_neg (by omega), if_neg (by omega)]
    simp only [hk, Option.getD_some]
    split <;> rfl
  rw [hrun]
  split
  · exact ⟨_, 127, rfl, hx, le_refl _, Or.inl rfl⟩
  · exact ⟨k, s.x + k, rfl, by omega, by omega, Or.inr ⟨hfrom, hreach⟩⟩

/-- A legal vector that is renormalised is legal and normal (R217). -/
theorem PStage.legal.renorm {s : PStage} (hs : s.legal) : s.renorm.1.legal ∧ s.renorm.1.normal := by
  obtain ⟨-, -, -, -, hlo, hhi⟩ := id hs
  by_cases h0 : s.largest = 0
  · have hrun : s.renorm.1 = s := by unfold PStage.renorm; rw [if_pos h0]
    rw [hrun]
    exact ⟨hs, Or.inl h0⟩
  by_cases h : s.largest < 2097152
  · obtain ⟨n, hrun, hbelow, hroom, hreach⟩ := PStage.renorm_small h0 h
    have hlargest : s.renorm.1.largest = s.largest * 2 ^ n := by rw [hrun]; exact s.largest_mapWords_mul n
    have hx : s.renorm.1.x = s.x - n := by rw [hrun]
    refine ⟨PStage.legal_of_largest (by omega) (by omega), ?_⟩
    unfold PStage.normal
    omega
  · obtain ⟨n, x, hrun, hfrom, hto, hband⟩ := hs.renorm_large (by omega)
    have hx : s.renorm.1.x = x := by rw [hrun]
    refine ⟨hrun ▸ hs.shift n ⟨by omega, hto⟩, ?_⟩
    unfold PStage.normal
    omega

/-- A renormalisation leaves the control fields. -/
theorem PStage.renorm_controls (s : PStage) : s.renorm.1.dir = s.dir ∧ s.renorm.1.rest = s.rest ∧ s.renorm.1.atRest = s.atRest ∧
    s.renorm.1.fast = s.fast ∧ s.renorm.1.spFast = s.spFast := by
  unfold PStage.renorm
  split
  · exact ⟨rfl, rfl, rfl, rfl, rfl⟩
  split
  · exact ⟨rfl, rfl, rfl, rfl, rfl⟩
  · extract_lets n
    split <;> exact ⟨rfl, rfl, rfl, rfl, rfl⟩

/-! ### What writes a vector -/

/-- A stage whose output is put back to one with its exponent in range (R243). -/
theorem PStage.putOut_legal (s : PStage) {y : Bf} (hy : -128 ≤ y.x ∧ y.x ≤ 127) : (s.putOut y).legal ∧ (s.putOut y).normal := by
  unfold PStage.putOut
  exact PStage.legal.renorm ⟨fits24_writeBack _ _, fits24_writeBack _ _, fits24_writeBack _ _, fits24_writeBack _ _, hy⟩

theorem piSample_legal (g : StageCfg) (e : StageEnv) {s : PStage} (hs : s.legal) (u0 u1 : Bf) : (piSample g e s u0 u1).1.legal := by
  obtain ⟨-, -, -, -, hx⟩ := hs
  have extra (b : Bf) : fits24 (if (g.kind == 3) = true then writeBack b s.x else (0, false)).1 = true := by
    split
    · exact fits24_writeBack _ _
    · rfl
  exact ⟨fits24_writeBack _ _, fits24_writeBack _ _, extra _, extra _, hx⟩

theorem limitSample_legal (g : StageCfg) (e : StageEnv) {s : PStage} (hs : s.legal) (u0 : Bf) : (limitSample g e s u0).1.legal := by
  obtain ⟨-, h1, h2, h3, hx⟩ := hs
  unfold limitSample
  split
  · exact ⟨fits24_writeBack _ _, h1, h2, h3, hx⟩
  · refine ⟨fits24_writeBack _ _, ?_, h2, h3, hx⟩
    dsimp only
    split
    · exact fits24_writeBack _ _
    · exact h1

/-- One sample of a stage leaves words that fit, at the exponent that was (R216, R222). -/
theorem stageSample_legal (g : StageCfg) (e : StageEnv) {s : PStage} (hs : s.legal) (u : Nat → Bf) : (stageSample g e s u).1.legal := by
  obtain ⟨-, h1, h2, h3, hx⟩ := id hs
  have one (y : Bf) : ({ s with m0 := (writeBack y s.x).1 } : PStage).legal := ⟨fits24_writeBack _ _, h1, h2, h3, hx⟩
  unfold stageSample
  extract_lets sampled
  split
  · exact one _
  · exact piSample_legal g e hs _ _
  · exact piSample_legal g e hs _ _
  · exact ⟨fits24_writeBack _ _, fits24_writeBack _ _, h2, h3, hx⟩
  · exact one _
  · exact one _
  · exact one _
  · exact limitSample_legal g e hs _

end Sys2Proof.Machine
end

section
/-!
SUPPORT. A loop's own registers and record (R253): what a step of one loop may change, and the loop that starts (R244, R249).
-/
namespace Sys2Proof.Machine

/-! ### Places of the registers -/

/-- The addresses of loop `l`'s own registers (R253), and with them PUR_STATUS. -/
def loopAddr (l a : Nat) : Prop := 0x090100 + 64 * l ≤ a ∧ a < 0x090140 + 64 * l
def loopRegs (l a : Nat) : Prop := a = 0x090004 ∨ loopAddr l a

/-- A field of a loop's own registers. -/
abbrev Field.ofLoop (f : Field) : Prop := f.stride = 64 ∧ 0x090100 ≤ f.base ∧ f.base < 0x090140

/-- A change of the engine's part alone. -/
theorem Frame.pur (regs : Nat → Prop) (m : Main) (v : Pur) : Frame regs [.pur] m { m with pur := v } :=
  ⟨fun _ _ => rfl, fun p hp => by
    cases p with
    | pur => exact absurd (List.mem_singleton_self _) hp
    | _ => rfl, List.suffix_refl _⟩

section
variable {l k : Nat} {f g : Field}

theorem Field.ofLoop.addr (h : f.ofLoop) (l : Nat) : loopAddr l (f.addr l) := by
  obtain ⟨hs, hlow, hhigh⟩ := h
  unfold loopAddr Field.addr
  rw [hs]
  omega

theorem loopRegs_block (hl : l < 16) {a : Nat} (h : loopRegs l a) : a / 65536 = 9 := by
  unfold loopRegs loopAddr at h
  omega

theorem loopAddr_apart (h : k ≠ l) {a : Nat} (ha : loopAddr l a) : ¬ loopRegs k a := by
  unfold loopRegs
  unfold loopAddr at ha ⊢
  omega

/-- The engine's registers lie in a block that no report writes. -/
theorem not_reporting_of_block {a : Nat} (h : a / 65536 = 9) : ¬ reporting a := by
  unfold reporting
  omega

/-! ### What a step of one loop may change -/

/-- `m'` is `m` but for the fields `fs` of loop `l`'s own registers, PUR_STATUS, the parts `ps` with no more of the engine than loop `l`'s
record, and reports; every pending event still pends. -/
structure LoopStep (l : Nat) (fs : List Field) (ps : List Part) (m m' : Main) : Prop where
  reports : Reports (loopRegs l) ps m m'
  loops : m'.pur = { m.pur with loops := m'.pur.loops }
  others : ∀ k, k ≠ l → loopSt m' k = loopSt m k
  pend : ∀ n, n < 64 → pends m n = true → pends m' n = true
  field : ∀ g : Field, g.ofLoop → (∀ f ∈ fs, f.apart g) → m'.get g l = m.get g l

variable {fs fs' : List Field} {ps ps' : List Part} {m m' m'' : Main}

theorem LoopStep.refl (l : Nat) (fs : List Field) (ps : List Part) (m : Main) : LoopStep l fs ps m m :=
  ⟨Frame.refl _ _ _, rfl, fun _ _ => rfl, fun _ _ h => h, fun _ _ _ => rfl⟩

theorem LoopStep.trans (h : LoopStep l fs ps m m') (g : LoopStep l fs ps m' m'') : LoopStep l fs ps m m'' where
  reports := h.reports.trans g.reports
  loops := by rw [g.loops, h.loops]
  others k hk := (g.others k hk).trans (h.others k hk)
  pend n hn hp := g.pend n hn (h.pend n hn hp)
  field f hf ha := (g.field f hf ha).trans (h.field f hf ha)

theorem LoopStep.mono (h : LoopStep l fs ps m m') (hs : ∀ f ∈ fs, f ∈ fs' := by decide) (hp : ∀ p ∈ ps, p ∈ ps' := by decide) :
    LoopStep l fs' ps' m m' :=
  ⟨Frame.mono h.reports (fun _ => id) (List.cons_subset_cons _ (List.cons_subset_cons _ hp)), h.loops, h.others, h.pend,
    fun g hg ha => h.field g hg fun f hf => ha f (hs f hf)⟩

theorem LoopStep.ite (c : Prop) [Decidable c] {a b : Main} (h : LoopStep l fs ps m a) (g : LoopStep l fs ps m b) :
    LoopStep l fs ps m (if c then a else b) := by
  split
  · exact h
  · exact g

theorem loopSt_congr (h : m'.pur = m.pur) (k : Nat) : loopSt m' k = loopSt m k := by unfold loopSt; rw [h]

theorem Keeps.loopStep (hl : l < 16) (h : Keeps m m') : LoopStep l fs ps m m' where
  reports := h.reports _ _
  loops := by rw [h.pur]
  others k _ := loopSt_congr h.pur k
  pend := h.pend
  field g hg _ := h.get g l (reporting_of_not (not_reporting_of_block (loopRegs_block hl (Or.inr (hg.addr l)))))

/-- A write of one of the engine's registers keeps every pending event. -/
theorem pends_put_block (m : Main) {f : Field} (v i : Nat) (h : f.addr i / 65536 = 9) {n : Nat} (hn : n < 64) :
    pends (m.put f v i) n = pends m n :=
  pends_setWord_ne m _ (fun k hk e => by rw [e] at h; unfold Field.addr at h; simp only [F.GLB_EVT_PEND] at h; omega) hn

theorem LoopStep.put (hl : l < 16) (m : Main) (f : Field) (v : Nat) (hf : f ∈ fs := by decide) (ho : f.ofLoop := by decide) :
    LoopStep l fs ps m (m.put f v l) where
  reports := (Frame.put _ m f v _ (Or.inr (ho.addr l))).reports
  loops := rfl
  others _ _ := rfl
  pend n hn hp := by rwa [pends_put_block m v l (loopRegs_block hl (Or.inr (ho.addr l))) hn]
  field g _ ha := Main.get_put_apart (ha f hf) _ _ _

theorem LoopStep.putBit (hl : l < 16) (m : Main) (f : Field) (on : Bool) (hf : f ∈ fs := by decide) (ho : f.ofLoop := by decide) :
    LoopStep l fs ps m (m.putBit f on l) := LoopStep.put hl m f _ hf ho

theorem LoopStep.count (hl : l < 16) (m : Main) (f : Field) (hf : f ∈ fs := by decide) (ho : f.ofLoop := by decide) :
    LoopStep l fs ps m (m.count f l) := LoopStep.put hl m f _ hf ho

/-- PUR_STATUS stands beside the loops' own registers. -/
theorem LoopStep.putStatus (m : Main) (f : Field) (on : Bool) (j : Nat) (hf : f.base = 0x090004 ∧ f.stride = 0 := by decide) :
    LoopStep l fs ps m (m.putBit f on 0 j) := by
  have haddr : f.addr 0 = 0x090004 := by unfold Field.addr; rw [hf.1, hf.2]
  refine ⟨(Frame.putBit _ m f on 0 j (Or.inl haddr)).reports, rfl, fun _ _ => rfl, fun n hn hp => ?_, fun g hg _ => ?_⟩
  · unfold Main.putBit
    rwa [pends_put_block m _ 0 (by rw [haddr]) hn]
  · refine Main.get_put_addr _ _ _ _ _ _ fun e => ?_
    have := hg.addr l
    unfold loopAddr at this
    omega

theorem LoopStep.withLoop (l : Nat) (f : PLoop → PLoop) (m : Main) (hp : Part.pur ∈ ps := by decide) : LoopStep l fs ps m (withLoop l f m) where
  reports := ⟨fun _ _ => rfl, fun p hn => by
    cases p with
    | pur => exact absurd (List.mem_cons_of_mem _ (List.mem_cons_of_mem _ hp)) hn
    | _ => rfl, List.suffix_refl _⟩
  loops := rfl
  others _ hk := vget_vmod_ne _ _ _ hk.symm
  pend _ _ h := h
  field _ _ _ := rfl

/-- A step that leaves the engine's part leaves every loop. -/
theorem LoopStep.pur (h : LoopStep l fs [] m m') : m'.pur = m.pur := h.reports.2.1 .pur (by decide)

theorem LoopStep.loopSt (h : LoopStep l fs [] m m') (k : Nat) : loopSt m' k = loopSt m k := loopSt_congr h.pur k

theorem LoopStep.bit (h : LoopStep l fs ps m m') (g : Field) (j : Nat) (hg : g.ofLoop := by decide)
    (ha : ∀ f ∈ fs, f.apart g := by decide) : m'.bit g l j = m.bit g l j := by
  unfold Main.bit
  rw [h.field g hg ha]

theorem LoopStep.get (h : LoopStep l fs ps m m') (g : Field) (hg : g.ofLoop := by decide)
    (ha : ∀ f ∈ fs, f.apart g := by decide) : m'.get g l = m.get g l := h.field g hg ha

theorem LoopStep.within (hl : l < 16) (h : LoopStep l fs [.pur] m m') : Within [] [9] [.pur] m m' :=
  ⟨Frame.mono h.reports (fun _ ha => ha.imp (fun ha => Or.inr (List.mem_singleton.2 (loopRegs_block hl ha))) id) (List.Subset.refl _), h.pend⟩

theorem loopSt_withLoop_same (hl : l < 16) (f : PLoop → PLoop) (m : Main) : loopSt (withLoop l f m) l = f (loopSt m l) := vget_vmod_same _ _ _ hl

/-! ### The operations on a loop -/

theorem loopStep_setLoop (hl : l < 16) (st : Nat) (m : Main) (h : F.PUR_LOOP_STATUS_STATE ∈ fs := by decide) :
    LoopStep l fs ps m (setLoop l st m) :=
  ((LoopStep.put hl m F.PUR_LOOP_STATUS_STATE st h).trans (LoopStep.putStatus _ F.PUR_STATUS_RUNNING _ l)).trans
    (LoopStep.putStatus _ F.PUR_STATUS_FROZEN _ l)

theorem loopStep_showOut (hl : l < 16) (b : Img) (o : Nat) (m : Main) (h : F.PUR_OUT ∈ fs ∧ F.PUR_DEST_VAL ∈ fs := by decide) :
    LoopStep l fs ps m (showOut b o l m) := by
  unfold showOut
  extract_lets y m1
  have h1 : LoopStep l fs ps m m1 := LoopStep.put hl m F.PUR_OUT _ h.1
  exact h1.trans (LoopStep.ite _ (LoopStep.refl _ _ _ _) (LoopStep.put hl m1 F.PUR_DEST_VAL _ h.2))

/-- The fields that a loop's start writes. -/
abbrev startFields : List Field :=
  [F.PUR_LOOP_STATUS_CAUSE, F.PUR_LOOP_STATUS_SP_FAST, F.PUR_LOOP_STATUS_STATE, F.PUR_OUT, F.PUR_DEST_VAL]

/-- The registers that a loop's start clears. -/
def startCleared (l : Nat) (m : Main) : Main := (m.put F.PUR_LOOP_STATUS_CAUSE 0 l).putBit F.PUR_LOOP_STATUS_SP_FAST false l

/-- A loop's start, with its record and its registers apart. -/
theorem startLoop_eq (b : Img) (o l y : Nat) (m : Main) :
    startLoop b o l y m = showOut b o l (setLoop l (if tracks (startCleared l m) b o then Lp.track else Lp.run)
      (withLoop l (initLoop b o l (Bf.ofInt y)) (startCleared l m))) := rfl

theorem loopStep_startCleared (hl : l < 16) (m : Main) : LoopStep l startFields ps m (startCleared l m) :=
  (LoopStep.put hl m F.PUR_LOOP_STATUS_CAUSE 0).trans (LoopStep.putBit hl _ F.PUR_LOOP_STATUS_SP_FAST false)

theorem loopStep_startLoop (hl : l < 16) (b : Img) (o y : Nat) (m : Main) : LoopStep l startFields [.pur] m (startLoop b o l y m) :=
  (((loopStep_startCleared hl m).trans (LoopStep.withLoop l _ _)).trans (loopStep_setLoop hl _ _)).trans (loopStep_showOut hl b o _)

/-- A loop that starts is the initialised one (R249). -/
theorem loopSt_startLoop (hl : l < 16) (b : Img) (o y : Nat) (m : Main) :
    loopSt (startLoop b o l y m) l = initLoop b o l (Bf.ofInt y) (loopSt m l) := by
  rw [startLoop_eq, (loopStep_showOut (fs := startFields) hl b o _).loopSt l, (loopStep_setLoop (fs := startFields) hl _ _).loopSt l,
    loopSt_withLoop_same hl]
  rfl

/-- A start makes no report. -/
theorem frame_startLoop (b : Img) (o l y : Nat) (m : Main) : Frame (loopRegs l) [.pur] m (startLoop b o l y m) := by
  have own (x : Main) (f : Field) (v : Nat) (hf : f.ofLoop := by decide) : Frame (loopRegs l) [.pur] x (x.put f v l) :=
    Frame.put _ x f v l (Or.inr (hf.addr l))
  have status (x : Main) (f : Field) (on : Bool) (hf : f.addr 0 = 0x090004) : Frame (loopRegs l) [.pur] x (x.putBit f on 0 l) :=
    Frame.putBit _ x f on 0 l (Or.inl hf)
  have hcleared : Frame (loopRegs l) [.pur] m (startCleared l m) :=
    (own m F.PUR_LOOP_STATUS_CAUSE 0).trans (own _ F.PUR_LOOP_STATUS_SP_FAST _)
  have hset (x : Main) (st : Nat) : Frame (loopRegs l) [.pur] x (setLoop l st x) :=
    ((own x F.PUR_LOOP_STATUS_STATE st).trans (status _ F.PUR_STATUS_RUNNING _ rfl)).trans (status _ F.PUR_STATUS_FROZEN _ rfl)
  have hshow (x : Main) : Frame (loopRegs l) [.pur] x (showOut b o l x) := by
    unfold showOut
    extract_lets y x1
    have h1 : Frame (loopRegs l) [.pur] x x1 := own x F.PUR_OUT _
    split
    · exact h1
    · exact h1.trans (own x1 F.PUR_DEST_VAL _)
  have hloop (x : Main) (f : PLoop → PLoop) : Frame (loopRegs l) [.pur] x (withLoop l f x) := Frame.pur _ x _
  rw [startLoop_eq]
  exact ((hcleared.trans (hloop _ _)).trans (hset _ _)).trans (hshow _)

theorem get_setLoop (l : Nat) {st : Nat} (h : st < 16) (m : Main) : (setLoop l st m).get F.PUR_LOOP_STATUS_STATE l = st := by
  have hstatus (x : Main) (f : Field) (on : Bool) (hf : f.base = 0x090004 ∧ f.stride = 0 := by decide) :
      (x.putBit f on 0 l).get F.PUR_LOOP_STATUS_STATE l = x.get F.PUR_LOOP_STATUS_STATE l :=
    (LoopStep.putStatus (l := l) (fs := []) (ps := []) x f on l hf).get F.PUR_LOOP_STATUS_STATE
  unfold setLoop
  exact (hstatus _ F.PUR_STATUS_FROZEN _).trans ((hstatus _ F.PUR_STATUS_RUNNING _).trans
    ((Main.get_put_same m F.PUR_LOOP_STATUS_STATE st l (by decide)).trans (Nat.mod_eq_of_lt h)))

/-- A start clears the cause. -/
theorem cause_startLoop (hl : l < 16) (b : Img) (o y : Nat) (m : Main) : (startLoop b o l y m).get F.PUR_LOOP_STATUS_CAUSE l = 0 := by
  have hshow (x : Main) := (loopStep_showOut (fs := [F.PUR_OUT, F.PUR_DEST_VAL]) (ps := []) hl b o x).get F.PUR_LOOP_STATUS_CAUSE
  have hset (x : Main) (st : Nat) := (loopStep_setLoop (fs := [F.PUR_LOOP_STATUS_STATE]) (ps := []) hl st x).get F.PUR_LOOP_STATUS_CAUSE
  have hfast (x : Main) := (LoopStep.putBit (fs := [F.PUR_LOOP_STATUS_SP_FAST]) (ps := []) hl x F.PUR_LOOP_STATUS_SP_FAST false).get
    F.PUR_LOOP_STATUS_CAUSE
  rw [startLoop_eq, hshow, hset]
  exact (hfast _).trans (Main.get_put_same m F.PUR_LOOP_STATUS_CAUSE 0 l (by decide))

/-- A start shows RUN, or TRACK (R247, R249). -/
theorem state_startLoop (hl : l < 16) (b : Img) (o y : Nat) (m : Main) :
    (startLoop b o l y m).get F.PUR_LOOP_STATUS_STATE l = if tracks m b o then 2 else 1 := by
  have hshow (x : Main) := (loopStep_showOut (fs := [F.PUR_OUT, F.PUR_DEST_VAL]) (ps := []) hl b o x).get F.PUR_LOOP_STATUS_STATE
  have hwithin := ((loopStep_startCleared (ps := []) hl m).mono (ps' := [.pur]) (fun _ => id)).within hl
  have htracks : tracks (startCleared l m) b o = tracks m b o := by
    unfold tracks standby
    rw [hwithin.bit F.RED_STATUS_PAIRED 0 Nat.one_pos, hwithin.bit F.RED_STATUS_ACTIVE 0 Nat.one_pos]
  rw [startLoop_eq, hshow, get_setLoop l (by split <;> decide), htracks]
  rfl

end

end Sys2Proof.Machine
end

section
/-!
SUPPORT. The inputs of the purlin engine and RELEASE (R227, R228, R244, R249).
-/
namespace Sys2Proof.Machine

/-! ### The vector that holds a value (R249) -/

theorem find?_range_zero {p : Nat → Bool} {n : Nat} (hn : 0 < n) (h : p 0 = true) : (List.range n).find? p = some 0 :=
  List.find?_range_eq_some.2 ⟨h, List.mem_range.2 hn, fun j hj => absurd hj (Nat.not_lt_zero j)⟩

theorem Bf.narrow_of_fits {b : Bf} (h : fits24 b.m = true) : b.narrow = b := by
  have hk : (List.range 64).find? (fun n => fits24 (shiftRight b.m n)) = some 0 := find?_range_zero (by decide) h
  unfold Bf.narrow
  rw [hk]
  simp [shiftRight]

/-- A vector whose largest word lies in the band stays as it is. -/
theorem PStage.renorm_of_band {s : PStage} (h : 2097152 ≤ s.largest ∧ s.largest < 4194304) (hx : s.x ≤ 127) : s.renorm.1 = s := by
  have hk : (List.range 64).find? (fun n => decide ((s.mapWords fun v => shiftRight v n).largest < 4194304)) = some 0 :=
    find?_range_zero (by decide) (decide_eq_true h.2)
  unfold PStage.renorm
  rw [if_neg (by omega), if_neg (by omega)]
  simp only [hk, Option.getD_some]
  rw [if_neg (by omega)]
  simp [PStage.mapWords, shiftRight]

/-- A vector with a value in its output alone. -/
def PStage.alone (s : PStage) (v x : Int) : PStage := { s with m0 := v, m1 := 0, m2 := 0, m3 := 0, x := x }

theorem PStage.holding_ofInt (s : PStage) {v : Nat} (h : v < 2 ^ 22) :
    s.holding (Bf.ofInt v) (fun v z => { z with m0 := v }) = (s.alone v (if v = 0 then s.x else 0)).renorm.1 := by
  have hfits : fits24 (v : Int) = true := fits24_iff.2 (by omega)
  have hint : Bf.ofInt v = ⟨v, 0⟩ := Bf.narrow_of_fits hfits
  unfold PStage.holding
  rw [hint, Bf.narrow_of_fits hfits]
  simp only [Int.natCast_eq_zero]
  rfl

theorem PStage.largest_alone (s : PStage) (v : Nat) (x : Int) : (s.alone v x).largest = v := by
  simp [PStage.largest, PStage.alone]

/-- The vector that holds a number has the value of that number (R249). -/
theorem PStage.value_holding (s : PStage) {v : Nat} (h : v < 2 ^ 22) :
    let r := s.holding (Bf.ofInt v) fun v z => { z with m0 := v }
    r.m0 * 2 ^ (r.x + 128).toNat = v * 2 ^ 128 := by
  intro r
  have hr : r = (s.alone v (if v = 0 then s.x else 0)).renorm.1 := s.holding_ofInt h
  clear_value r
  rcases Nat.eq_zero_or_pos v with rfl | hpos
  · have hsame : (s.alone (0 : Nat) s.x).renorm.1 = s.alone (0 : Nat) s.x := by
      unfold PStage.renorm
      rw [if_pos (s.largest_alone 0 s.x)]
    rw [if_pos rfl, hsame] at hr
    subst hr
    simp [PStage.alone]
  rw [if_neg (by omega)] at hr
  have hlargest := s.largest_alone v 0
  rcases Nat.lt_or_ge v 2097152 with hlow | hhigh
  · obtain ⟨n, hrun, -, hroom, -⟩ := PStage.renorm_small (s := s.alone v 0) (by omega) (by omega)
    rw [hrun] at hr
    have hn : n ≤ 128 := hroom
    have hx : (r.x + 128).toNat = 128 - n := by subst hr; simp only [PStage.alone]; omega
    have hm : r.m0 = v * 2 ^ n := by subst hr; rfl
    rw [hm, hx, mul_assoc, ← pow_add, Nat.add_sub_cancel' hn]
  · rw [PStage.renorm_of_band (s := s.alone v 0) ⟨by omega, by omega⟩ (by decide : (0 : Int) ≤ 127)] at hr
    subst hr
    rfl

/-! ### The initialised loop (R249) -/

/-- Every stage of an initialised loop is at rest. -/
theorem initLoop_controls (b : Img) (o l : Nat) (y : Bf) (p : PLoop) (k : Fin 8) :
    let s := (initLoop b o l y p).stages[k]
    s.dir = 0 ∧ s.rest = 0 ∧ s.atRest = true ∧ s.fast = 0 ∧ s.spFast = false := by
  simp only [initLoop, Fin.getElem_fin, Vector.getElem_ofFn]
  split
  · exact PStage.renorm_controls _
  split
  · exact PStage.renorm_controls _
  · exact ⟨rfl, rfl, rfl, rfl, rfl⟩

/-- The final LIMIT of an initialised loop holds the value in force at the destination. -/
theorem initLoop_final {b : Img} {o l v : Nat} {p : PLoop} {k : Fin 8} (hk : k.val + 1 = LoopC.stages b o) (hkind : (stageCfg b o k).kind = 8)
    (hv : v < 2 ^ 22) :
    let s := (initLoop b o l (Bf.ofInt v) p).stages[k]
    s.m0 * 2 ^ (s.x + 128).toNat = v * 2 ^ 128 := by
  have hlast : k.val = LoopC.stages b o - 1 := by omega
  simp only [initLoop, Fin.getElem_fin, Vector.getElem_ofFn]
  rw [if_pos ⟨hlast, hkind⟩]
  exact PStage.value_holding _ hv

/-! ### RELEASE -/

/-- RELEASE finds no frozen loop that the running bundle enables. -/
theorem releaseLoop_idle {l : Nat} {m : Main}
    (h : (loopSt m l).frozen = false ∨ runImg m = none ∨ ∃ b, runImg m = some b ∧ loopOn b l = none) :
    releaseLoop l m = m := by
  unfold releaseLoop
  split
  · next b o heq =>
    rcases h with h | h | ⟨b, hb, ho⟩
    · rw [h]
      rfl
    · rw [h] at heq
      cases heq
    · rw [hb] at heq
      simp [ho] at heq
  · rfl

theorem releaseLoop_frozen {l o : Nat} {b : Img} {m : Main} (hb : runImg m = some b) (ho : loopOn b l = some o) (hf : (loopSt m l).frozen = true) :
    releaseLoop l m = startLoop b o l (destNow m b o) m := by
  unfold releaseLoop
  rw [hb]
  simp only [Option.bind_some, ho, Option.map_some]
  rw [if_pos hf]
  rfl

/-! ### AIN_CONVERSION -/

/-- FILTER of an analogue input under the bundle that runs (R227). -/
def filterOf (m : Main) (k : Nat) : Nat :=
  match runImg m with
  | some b => if purHas b then srcFilter b k else 0
  | none => 0

/-- The filtered code after a conversion (R227). -/
def filtered (n x : Nat) (r : Bf) : Bf :=
  let c := Bf.ofInt (min x 65535)
  if n = 0 then c
  else
    let d := (Bf.sum [c, r.neg]).narrow
    (Bf.sum [r, ⟨d.m, d.x - n⟩]).stored

/-- PUR_SRC of an analogue input. -/
def showAin (k : Nat) (r : Bf) (m : Main) : Main :=
  let m := m.put F.PUR_SRC_RAW (min r.toInt.toNat 65535) k
  match runImg m with
  | some b => m.putBit F.PUR_SRC_FAULT (ainFault m b k) k
  | none => m

/-- The conversion of one input. -/
def convert (n k x : Nat) (m : Main) : Main :=
  let r := filtered n x (vget m.pur.ain k Bf.zero)
  showAin k r { m with pur := { m.pur with ain := vmod m.pur.ain k fun _ => r } }

theorem ainConversion_awake {m : Main} (h : awake m = true) (x0 x1 : Nat) :
    ainConversion x0 x1 m = convert (filterOf m 1) 1 x1 (convert (filterOf m 0) 0 x0 m) := by
  unfold ainConversion
  rw [if_pos h]
  rfl

theorem showAin_pur (k : Nat) (r : Bf) (m : Main) : (showAin k r m).pur = m.pur := by
  unfold showAin
  dsimp only
  split
  · exact (Main.putBit_pur ..).trans (Main.put_pur ..)
  · exact Main.put_pur ..

theorem convert_pur (n k x : Nat) (m : Main) :
    (convert n k x m).pur = { m.pur with ain := vmod m.pur.ain k fun _ => filtered n x (vget m.pur.ain k Bf.zero) } := showAin_pur ..

/-- The two inputs are converted apart. -/
theorem ain_ainConversion {m : Main} (h : awake m = true) (x0 x1 : Nat) (k : Fin 2) :
    (ainConversion x0 x1 m).pur.ain[k] = filtered (filterOf m k) (if k.val = 0 then x0 else x1) m.pur.ain[k] := by
  rw [ainConversion_awake h, ← vget_fin _ k Bf.zero, ← vget_fin _ k Bf.zero, convert_pur, convert_pur]
  dsimp only
  match k with
  | 0 => exact (vget_vmod_ne _ _ _ (by decide)).trans (vget_vmod_same _ _ _ (by decide))
  | 1 =>
    rw [vget_vmod_ne m.pur.ain _ _ (by decide : 0 ≠ 1)]
    exact vget_vmod_same _ _ _ (by decide)

theorem pur_ainConversion {m : Main} (h : awake m = true) (x0 x1 : Nat) :
    (ainConversion x0 x1 m).pur = { m.pur with ain := (ainConversion x0 x1 m).pur.ain } := by
  rw [ainConversion_awake h, convert_pur, convert_pur]

theorem frame_convert (n x : Nat) {k : Nat} (hk : k < 2) (m : Main) :
    Frame (fun a => a = 0x090010 ∨ a = 0x090014) [.pur] m (convert n k x m) := by
  have haddr (f : Field) (hf : f.base = 0x090010 ∧ f.stride = 4) : f.addr k = 0x090010 ∨ f.addr k = 0x090014 := by
    unfold Field.addr
    rw [hf.1, hf.2]
    omega
  have hpur (v : Pur) := Frame.pur (fun a => a = 0x090010 ∨ a = 0x090014) m v
  have hraw (x : Main) (v : Nat) := Frame.put (regs := fun a => a = 0x090010 ∨ a = 0x090014) [.pur] x F.PUR_SRC_RAW v k (haddr _ ⟨rfl, rfl⟩)
  have hfault (x : Main) (on : Bool) :=
    Frame.putBit (regs := fun a => a = 0x090010 ∨ a = 0x090014) [.pur] x F.PUR_SRC_FAULT on k 0 (haddr _ ⟨rfl, rfl⟩)
  unfold convert showAin
  dsimp only
  split
  · exact ((hpur _).trans (hraw _ _)).trans (hfault _ _)
  · exact (hpur _).trans (hraw _ _)

/-! ### PULSE_INPUT_EDGE -/

theorem vmod_fin {α : Type} {n : Nat} (v : Vector α n) (k : Fin n) (f : α → α) : vmod v k f = v.set k (f v[k]) := dif_pos k.isLt

/-- A rising edge is noted with its time and begins a pulse; the edges of the last 10 s stay (R228). -/
def Pls.risen (us : Nat) (p : Pls) : Pls := { p with edges := us :: p.edges.filter fun e => decide (us < e + 10000000), high := some us }

/-- A falling edge ends the pulse in progress, if there is one (R228). -/
def Pls.fallen (us : Nat) (p : Pls) : Pls :=
  match p.high with
  | some h => { p with high := none, width := us - h, endAt := some us }
  | none => p

theorem pulseEdge_asleep {m : Main} (h : awake m = false) (k : Nat) (rise : Bool) (us : Nat) : pulseEdge k rise us m = m := by
  unfold pulseEdge
  rw [if_neg (by rw [h]; decide)]

theorem pulseEdge_awake {m : Main} (h : awake m = true) (k : Fin 2) (rise : Bool) (us : Nat) :
    pulseEdge k rise us m =
      { m with pur := { m.pur with pls := m.pur.pls.set k (if rise then m.pur.pls[k].risen us else m.pur.pls[k].fallen us) } } := by
  unfold pulseEdge
  rw [if_pos h, ← vmod_fin m.pur.pls k fun p => if rise then p.risen us else p.fallen us]
  rfl

/-! ### The obligation -/

/-- Settles O20: a conversion is one of each input, an edge goes by its kind and the pulse in progress, and RELEASE is the start of a loop
where it finds a frozen one. -/
theorem purlinInputsAndRelease : Obligations.PurlinInputsAndRelease := by
  unfold Obligations.PurlinInputsAndRelease
  intro s
  refine ⟨fun x0 x1 => ⟨fun ha => ?_, fun ha => ?_⟩, fun k us => ⟨fun rise ha => ?_, fun ha => ?_, fun h ha hp => ?_, fun ha hp => ?_⟩,
    fun l hreach => ⟨fun hidle => ?_, fun b o hb ho hf => ?_⟩⟩
  · refine answersMain_of (f := ainConversion x0 x1) rfl ?_
    unfold ainConversion
    rw [if_neg (by rw [ha]; decide)]
  · refine answersMain_of (f := ainConversion x0 x1) rfl ?_
    refine ⟨fun k => ?_, pur_ainConversion ha x0 x1, ?_⟩
    · dsimp only
      rw [ain_ainConversion ha, filtered, filterOf]
      cases runImg s.main with
      | none => simp
      | some b => cases purHas b <;> simp
    · rw [ainConversion_awake ha]
      exact (frame_convert _ _ (by decide) _).trans (frame_convert _ _ (by decide) _)
  · refine answersMain_of (f := pulseEdge k rise us) rfl ?_
    exact pulseEdge_asleep ha k rise us
  · refine answersMain_of (f := pulseEdge k true us) rfl ?_
    rw [pulseEdge_awake ha, if_pos rfl]
    have hnew : (s.main.pur.pls.set k (s.main.pur.pls[k].risen us))[k] = s.main.pur.pls[k].risen us := Vector.getElem_set_self _
    dsimp only
    rw [hnew]
    exact ⟨rfl, List.mem_cons_self .., fun e he hlate => List.mem_cons_of_mem _ (List.mem_filter.2 ⟨he, decide_eq_true hlate⟩), rfl, rfl, rfl⟩
  · refine answersMain_of (f := pulseEdge k false us) rfl ?_
    rw [pulseEdge_awake ha, if_neg (by decide), Pls.fallen, hp]
  · refine answersMain_of (f := pulseEdge k false us) rfl ?_
    rw [pulseEdge_awake ha, if_neg (by decide), Pls.fallen, hp]
    dsimp only
    rw [Fin.getElem_fin, Vector.set_getElem_self]
  · refine answersMain_of (f := hostAccess 9 (releaseLoop l)) rfl ?_
    rw [hostAccess_reaches hreach, releaseLoop_idle (m := accessed s.main) hidle]
    exact Frame.accessed _ _ (by decide)
  · refine answersMain_of (f := hostAccess 9 (releaseLoop l)) rfl ?_
    have hl : l.val < 16 := l.isLt
    rw [hostAccess_reaches hreach, releaseLoop_frozen (m := accessed s.main) hb ho hf]
    have hstart := loopSt_startLoop hl b o (destNow s.main b o) (accessed s.main)
    have hstep := loopStep_startLoop hl b o (destNow s.main b o) (accessed s.main)
    have hframe := frame_startLoop b o l (destNow s.main b o) (accessed s.main)
    refine ⟨?_, ?_, cause_startLoop hl .., state_startLoop hl .., fun k => ?_, fun k hk hkind hv => ?_, fun j hj => ?_, ?_⟩
    · exact congrArg PLoop.frozen hstart
    · exact congrArg PLoop.sampled hstart
    · exact congrArg (fun p => p.stages[k]) hstart ▸ initLoop_controls b o l _ _ k
    · exact congrArg (fun p => p.stages[k]) hstart ▸ initLoop_final hk hkind hv
    · exact hstep.others j (Fin.val_ne_of_ne hj)
    · exact (Frame.accessed _ s.main (by decide)).trans (hframe.mono (fun _ => id) (by decide))

end Sys2Proof.Machine
end

section
/-!
SUPPORT. The stages of a sample run and are renormalised (R217, R219, R222, R230).
-/
namespace Sys2Proof.Machine

/-! ### One stage of a loop -/

/-- Stage `k` of loop `l`; one that no loop has is a stage that has never run. -/
def stageAt (m : Main) (l k : Nat) : PStage := vget (loopSt m l).stages k PStage.reset

/-- Stage `k` of loop `l` becomes `s`. -/
def putStage (l k : Nat) (s : PStage) (m : Main) : Main := withLoop l (fun p => { p with stages := vmod p.stages k fun _ => s }) m

/-- `m'` is `m` but for the stages of loop `l`. -/
structure OnlyStages (l : Nat) (m m' : Main) : Prop where
  step : LoopStep l [] [.pur] m m'
  rest : loopSt m' l = { loopSt m l with stages := (loopSt m' l).stages }

section
variable {l k j : Nat} {m m' m'' : Main}

theorem OnlyStages.refl (l : Nat) (m : Main) : OnlyStages l m m := ⟨LoopStep.refl _ _ _ _, rfl⟩

theorem OnlyStages.trans (h : OnlyStages l m m') (g : OnlyStages l m' m'') : OnlyStages l m m'' :=
  ⟨h.step.trans g.step, by rw [g.rest, h.rest]⟩

theorem OnlyStages.frozen (h : OnlyStages l m m') : (loopSt m' l).frozen = (loopSt m l).frozen := by rw [h.rest]

theorem loopSt_putStage (hl : l < 16) (k : Nat) (s : PStage) (m : Main) :
    loopSt (putStage l k s m) l = { loopSt m l with stages := vmod (loopSt m l).stages k fun _ => s } := loopSt_withLoop_same hl _ m

theorem onlyStages_putStage (hl : l < 16) (k : Nat) (s : PStage) (m : Main) : OnlyStages l m (putStage l k s m) :=
  ⟨LoopStep.withLoop l _ m, by rw [loopSt_putStage hl]⟩

theorem stageAt_putStage_same (hl : l < 16) (hk : k < 8) (s : PStage) (m : Main) : stageAt (putStage l k s m) l k = s := by
  unfold stageAt
  rw [loopSt_putStage hl]
  exact vget_vmod_same _ _ _ hk

theorem stageAt_putStage_ne (hl : l < 16) (h : k ≠ j) (s : PStage) (m : Main) : stageAt (putStage l k s m) l j = stageAt m l j := by
  unfold stageAt
  rw [loopSt_putStage hl]
  exact vget_vmod_ne _ _ _ h

theorem stageAt_of_ge (m : Main) (l : Nat) (h : 8 ≤ k) : stageAt m l k = PStage.reset := by
  unfold stageAt vget
  rw [Vector.getElem?_eq_none h]
  rfl

theorem stageAt_fin (m : Main) (l : Nat) (k : Fin 8) : stageAt m l k = (loopSt m l).stages[k] := vget_fin _ k _

theorem stageAt_congr (h : (loopSt m' l).stages = (loopSt m l).stages) (k : Nat) : stageAt m' l k = stageAt m l k := by
  unfold stageAt
  rw [h]

/-- Every stage of the loop is legal, those that it does not have among them. -/
def StagesLegal (l : Nat) (m : Main) : Prop := ∀ k, (stageAt m l k).legal

theorem PStage.reset_legal : PStage.reset.legal := ⟨rfl, rfl, rfl, rfl, by decide, by decide⟩

theorem stagesLegal_iff : StagesLegal l m ↔ ∀ k : Fin 8, (loopSt m l).stages[k].legal := by
  constructor
  · intro h k
    rw [← stageAt_fin]
    exact h k
  · intro h k
    rcases Nat.lt_or_ge k 8 with hk | hk
    · exact stageAt_fin m l ⟨k, hk⟩ ▸ h ⟨k, hk⟩
    · rw [stageAt_of_ge m l hk]
      exact PStage.reset_legal

theorem StagesLegal.putStage (hl : l < 16) (h : StagesLegal l m) (k : Nat) {s : PStage} (hs : s.legal) : StagesLegal l (putStage l k s m) := by
  intro j
  by_cases e : k = j
  · subst e
    rcases Nat.lt_or_ge k 8 with hk | hk
    · rw [stageAt_putStage_same hl hk]
      exact hs
    · rw [stageAt_of_ge _ l hk]
      exact PStage.reset_legal
  · rw [stageAt_putStage_ne hl e]
    exact h j

end

/-! ### Which stages run (R230, R243) -/

section
variable {m : Main} {b : Img} {o l : Nat}

theorem stageRuns_live (h : (loopSt m l).frozen = false) (k : Nat) : stageRuns m b o l k false = true := by
  unfold stageRuns
  rw [h]
  simp

theorem stageRuns_held (h : falls m b o l = false) (k : Nat) : stageRuns m b o l k true = false := by
  unfold stageRuns
  rw [h]
  rfl

/-! ### The stages run -/

/-- Stage `k` takes its turn in a sample, where it runs. -/
def runStage (b : Img) (o l t : Nat) (sp fb : Bf) (held track : Bool) (bound : Nat) (cap : Bool) (s : Bf) (m : Main) (k : Nat) : Main :=
  if !stageRuns m b o l k held then m
  else
    let g := stageCfg b o k
    let forced := track && ((k == lastStage b o && g.kind == 8) || ((g.kind == 2 || g.kind == 3) && k != lastStage b o && feedsFinal b o l k))
    let env : StageEnv :=
      ⟨if track then 0 else bound, cap, modelSum m t, delayedSum (visible m t), LoopC.period b o, if forced then some s else none⟩
    putStage l k (stageSample g env (stageAt m l k) fun i =>
      if k == lastStage b o && i == 0 then finalInput m b o l sp fb else stageInput m l sp fb (g.ins.getD i 0)).1 m

/-- The stages of a sample take their turns in order, on the inputs as they stood. -/
theorem runStages_fst (t : Nat) (sp fb : Bf) (held track : Bool) :
    (runStages b o l t sp fb held track m).1 = (List.range (LoopC.stages b o)).foldl (runStage b o l t sp fb held track
      (stageAt m l (lastStage b o)).bound (m.bit F.PUR_LOOP_STATUS_CAP_UNREACH l) (Bf.ofInt (scaleOf m (LoopC.index b o)))) m := by
  unfold runStages
  refine (List.foldl_hom Prod.fst fun x k => ?_).symm
  unfold runStage
  dsimp only
  split <;> rfl

/-- Stage `k` is renormalised, where it has run. -/
def renormStage (b : Img) (o l : Nat) (held : Bool) (m : Main) (k : Nat) : Main :=
  if !stageRuns m b o l k held then m else putStage l k (stageAt m l k).renorm.1 m

theorem renormStages_fst (held : Bool) :
    (renormStages b o l held m).1 = (List.range (LoopC.stages b o)).foldl (renormStage b o l held) m := by
  unfold renormStages
  refine (List.foldl_hom Prod.fst fun x k => ?_).symm
  unfold renormStage
  split <;> rfl

theorem onlyStages_foldl {α : Type} (f : Main → α → Main) (t : List α) (h : ∀ x m, OnlyStages l m (f m x)) (m : Main) :
    OnlyStages l m (t.foldl f m) :=
  foldl_relates (OnlyStages.refl l) OnlyStages.trans f t (fun x _ => h x) m

section
variable {t bound k : Nat} {sp fb s : Bf} {held track cap : Bool}

theorem onlyStages_runStage (hl : l < 16) : OnlyStages l m (runStage b o l t sp fb held track bound cap s m k) := by
  unfold runStage
  split
  · exact OnlyStages.refl l m
  · exact onlyStages_putStage hl k _ m

theorem onlyStages_renormStage (hl : l < 16) : OnlyStages l m (renormStage b o l held m k) := by
  unfold renormStage
  split
  · exact OnlyStages.refl l m
  · exact onlyStages_putStage hl k _ m

theorem onlyStages_runStages (hl : l < 16) : OnlyStages l m (runStages b o l t sp fb held track m).1 := by
  rw [runStages_fst]
  exact onlyStages_foldl _ _ (fun _ _ => onlyStages_runStage hl) m

theorem onlyStages_renormStages (hl : l < 16) : OnlyStages l m (renormStages b o l held m).1 := by
  rw [renormStages_fst]
  exact onlyStages_foldl _ _ (fun _ _ => onlyStages_renormStage hl) m

/-! ### A sample that is held -/

/-- No stage runs in a held sample of a loop that does not fall back (R230). -/
theorem runStages_held (h : falls m b o l = false) : (runStages b o l t sp fb true track m).1 = m := by
  rw [runStages_fst]
  refine List.foldlRecOn (motive := fun x => x = m) _ _ rfl fun x hx k _ => ?_
  subst hx
  unfold runStage
  rw [stageRuns_held h]
  rfl

theorem renormStages_held (h : falls m b o l = false) : (renormStages b o l true m).1 = m := by
  rw [renormStages_fst]
  refine List.foldlRecOn (motive := fun x => x = m) _ _ rfl fun x hx k _ => ?_
  subst hx
  unfold renormStage
  rw [stageRuns_held h]
  rfl

/-! ### A sample that runs every stage -/

theorem stagesLegal_runStages (hl : l < 16) (h : StagesLegal l m) : StagesLegal l (runStages b o l t sp fb held track m).1 := by
  rw [runStages_fst]
  refine List.foldlRecOn (motive := StagesLegal l) _ _ h fun x hx k _ => ?_
  unfold runStage
  split
  · exact hx
  · exact hx.putStage hl k (stageSample_legal _ _ (hx k) _)

theorem stagesLegal_renormStages (hl : l < 16) (h : StagesLegal l m) : StagesLegal l (renormStages b o l held m).1 := by
  rw [renormStages_fst]
  refine List.foldlRecOn (motive := StagesLegal l) _ _ h fun x hx k _ => ?_
  unfold renormStage
  split
  · exact hx
  · exact hx.putStage hl k (hx k).renorm.1

theorem renormStage_live (h : (loopSt m l).frozen = false) (k : Nat) :
    renormStage b o l false m k = putStage l k (stageAt m l k).renorm.1 m := by
  unfold renormStage
  rw [stageRuns_live h]
  rfl

/-- Every stage of a loop that is not frozen is renormalised after its sample (R217). -/
theorem stageAt_renormStages (hl : l < 16) (h : (loopSt m l).frozen = false) (hk : k < LoopC.stages b o) (hk8 : k < 8) :
    stageAt (renormStages b o l false m).1 l k = (stageAt m l k).renorm.1 := by
  rw [renormStages_fst]
  obtain ⟨x, ⟨hstage, hfrozen⟩, hafter, -⟩ := foldl_visit
    (S := fun a z => stageAt z l k = stageAt a l k ∧ (loopSt z l).frozen = (loopSt a l).frozen)
    (fun _ => ⟨rfl, rfl⟩) (fun h g => ⟨g.1.trans h.1, g.2.trans h.2⟩) (renormStage b o l false) List.nodup_range (List.mem_range.2 hk)
    (fun j _ hne y => ⟨by
      unfold renormStage
      split
      · rfl
      · exact stageAt_putStage_ne hl hne _ y, (onlyStages_renormStage hl).frozen⟩) m
  rw [hafter, renormStage_live (hfrozen.trans h), stageAt_putStage_same hl hk8, hstage]

/-- An input that names no other loop's stage is read from the loop alone (R220). -/
theorem stageInput_own {m' : Main} (h : loopSt m' l = loopSt m l) {c : Nat} (hc : c < 0x80) : stageInput m' l sp fb c = stageInput m l sp fb c := by
  unfold stageInput
  simp only [Nat.not_le.2 hc, if_false, h]

/-- The first stage of several runs on the inputs as they stood (R219, R222). -/
theorem stageAt_runStages_first (hl : l < 16) (h : (loopSt m l).frozen = false) (hn : 1 < LoopC.stages b o) :
    stageAt (runStages b o l t sp fb false false m).1 l 0 = (stageSample (stageCfg b o 0)
      ⟨(stageAt m l (lastStage b o)).bound, m.bit F.PUR_LOOP_STATUS_CAP_UNREACH l, modelSum m t, delayedSum (visible m t), LoopC.period b o, none⟩
      (stageAt m l 0) fun i => stageInput m l sp fb ((stageCfg b o 0).ins.getD i 0)).1 := by
  obtain ⟨n, hn'⟩ : ∃ n, LoopC.stages b o = n + 1 := ⟨LoopC.stages b o - 1, by omega⟩
  have hlast : (0 == lastStage b o) = false := by
    unfold lastStage
    exact beq_eq_false_iff_ne.2 (by omega)
  rw [runStages_fst, hn', List.range_succ_eq_map, List.foldl_cons]
  refine (foldl_relates (R := fun a z => stageAt z l 0 = stageAt a l 0) (fun _ => rfl) (fun h g => g.trans h) _ _ (fun k hk x => ?_) _).trans ?_
  · obtain ⟨j, -, rfl⟩ := List.mem_map.1 hk
    unfold runStage
    split
    · rfl
    · exact stageAt_putStage_ne hl (Nat.succ_ne_zero j) _ x
  · unfold runStage
    rw [stageRuns_live h]
    simp only [Bool.not_true, Bool.false_eq_true, if_false, Bool.false_and, hlast]
    exact stageAt_putStage_same hl (by decide) _ m

end

end

end Sys2Proof.Machine
end

section
/-!
SUPPORT. The steps of a sample of one loop around its stages: what it shows, its supervision and a freeze (R216, R230, R239–R244).
-/
namespace Sys2Proof.Machine

/-! ### What the engine's inputs are read from -/

/-- The registers that a PURLIN_SAMPLE writes: PUR_SRC, PUR_STATUS and those of the loops. -/
def sampleRegs (a : Nat) : Prop := (0x090010 ≤ a ∧ a < 0x090020) ∨ a = 0x090004 ∨ 0x090100 ≤ a ∧ a < 0x090500

/-- `m'` is `m` but for those registers, the loops' records and reports; every pending event still pends. -/
structure EngineStep (m m' : Main) : Prop where
  reports : Reports sampleRegs [.pur] m m'
  loops : m'.pur = { m.pur with loops := m'.pur.loops }
  pend : ∀ n, n < 64 → pends m n = true → pends m' n = true

section
variable {m m' m'' : Main} {b : Img} {o l t : Nat}

theorem EngineStep.refl (m : Main) : EngineStep m m := ⟨Frame.refl _ _ _, rfl, fun _ _ h => h⟩

theorem EngineStep.trans (h : EngineStep m m') (g : EngineStep m' m'') : EngineStep m m'' :=
  ⟨h.reports.trans g.reports, by rw [g.loops, h.loops], fun n hn hp => g.pend n hn (h.pend n hn hp)⟩

theorem LoopStep.engine {fs : List Field} (hl : l < 16) (h : LoopStep l fs [.pur] m m') : EngineStep m m' where
  reports := Frame.mono h.reports (fun _ ha => ha.imp (fun ha => by unfold loopRegs loopAddr at ha; unfold sampleRegs; omega) id) (List.Subset.refl _)
  loops := h.loops
  pend := h.pend

theorem EngineStep.within (h : EngineStep m m') : Within [] [9] [.pur] m m' :=
  ⟨Frame.mono h.reports (fun _ ha => ha.imp (fun ha => Or.inr (List.mem_singleton.2 (by unfold sampleRegs at ha; omega))) id) (List.Subset.refl _),
    h.pend⟩

/-- PUR_CTRL stays. -/
theorem EngineStep.ctrl (h : EngineStep m m') (f : Field) (hf : f.base = 0x090000 ∧ f.stride = 0 := by decide) : m'.bit f = m.bit f := by
  have haddr : f.addr 0 = 0x090000 := by unfold Field.addr; rw [hf.1, hf.2]
  unfold Main.bit Main.get
  rw [h.reports.1 (f.addr 0) (by rw [haddr]; unfold sampleRegs reporting; omega)]

theorem EngineStep.visible (h : EngineStep m m') (t : Nat) : visible m' t = visible m t := by
  unfold Machine.visible
  rw [h.loops]

theorem EngineStep.modelSum (h : EngineStep m m') (t : Nat) : modelSum m' t = modelSum m t := by
  unfold Machine.modelSum
  rw [h.visible]

theorem EngineStep.tracks (h : EngineStep m m') (b : Img) (o : Nat) : tracks m' b o = tracks m b o := by
  unfold Machine.tracks standby
  rw [h.within.bit F.RED_STATUS_PAIRED 0 Nat.one_pos, h.within.bit F.RED_STATUS_ACTIVE 0 Nat.one_pos]

/-- A source reads the inputs, the mirror, the contexts and the plan, and of the loop its host set-point alone (R226). -/
theorem EngineStep.source (h : EngineStep m m') (hsp : m'.get F.PUR_HOST_SP l = m.get F.PUR_HOST_SP l) (c : Nat) :
    source m' b o l c t = source m b o l c t := by
  have hmir : m'.mir = m.mir := h.within.same .mir
  have hctx : m'.ctx = m.ctx := h.within.same .ctx
  have hain : m'.pur.ain = m.pur.ain := by rw [h.loops]
  have hpls : m'.pur.pls = m.pur.pls := by rw [h.loops]
  have hsnap : latestSnap m' = latestSnap m := by unfold latestSnap; rw [hmir]
  have hpower : dormerPower m' = dormerPower m := by funext f p; unfold dormerPower; rw [hsnap]
  have hdormer : dormerFault m' = dormerFault m := by
    unfold dormerFault
    rw [h.within.bit F.DMR_LINK_LINK_UP 0 Nat.one_pos, hmir]
  have hraw : plsRaw m' = plsRaw m := by funext b k us; unfold plsRaw; rw [hpls]
  have hplsFault : plsFault m' = plsFault m := by funext b k us; unfold plsFault; rw [hpls]
  have hainFault : ainFault m' = ainFault m := by funext b k; unfold ainFault; rw [hain]
  have hlux : luxMean m' = luxMean m := by funext g tai; unfold luxMean; rw [hctx]
  unfold Machine.source
  rw [hain, hainFault, hraw, hplsFault, hsp, h.within.get F.YLM_PROFILE_PROFILE Nat.one_pos, h.within.get F.YLM_PROFILE_STEP Nat.one_pos,
    hpower, hdormer, hlux]

/-! ### What a sample leaves of a loop's record beside its stages -/

/-- Two records that are alike but for the counters of the cap condition, of event 36, and of the band. -/
structure PLoop.Alike (p q : PLoop) : Prop where
  stages : q.stages = p.stages
  frozen : q.frozen = p.frozen
  sampled : q.sampled = p.sampled
  good : q.good = p.good
  heldRun : q.heldRun = p.heldRun

theorem PLoop.Alike.of_eq {p q : PLoop} (h : q = p) : p.Alike q := by
  subst h
  exact ⟨rfl, rfl, rfl, rfl, rfl⟩

theorem PLoop.Alike.trans {p q r : PLoop} (h : p.Alike q) (g : q.Alike r) : p.Alike r :=
  ⟨g.stages.trans h.stages, g.frozen.trans h.frozen, g.sampled.trans h.sampled, g.good.trans h.good, g.heldRun.trans h.heldRun⟩

/-- A step that shows something of a loop and leaves its record alike. -/
structure Shows (l : Nat) (fs : List Field) (m m' : Main) : Prop where
  step : LoopStep l fs [.pur] m m'
  alike : (loopSt m l).Alike (loopSt m' l)

variable {fs : List Field}

theorem Shows.trans (h : Shows l fs m m') (g : Shows l fs m' m'') : Shows l fs m m'' := ⟨h.step.trans g.step, h.alike.trans g.alike⟩

theorem LoopStep.shows (h : LoopStep l fs [] m m') : Shows l fs m m' := ⟨h.mono (fun _ => id), .of_eq (h.loopSt l)⟩

theorem Shows.refl (l : Nat) (fs : List Field) (m : Main) : Shows l fs m m := (LoopStep.refl l fs [] m).shows

theorem Keeps.shows (hl : l < 16) (h : Keeps m m') : Shows l fs m m' := (h.loopStep hl : LoopStep l fs [] m m').shows

theorem Shows.ite (c : Prop) [Decidable c] {x y : Main} (h : Shows l fs m x) (g : Shows l fs m y) : Shows l fs m (if c then x else y) := by
  split
  · exact h
  · exact g

theorem Shows.withLoop (hl : l < 16) (f : PLoop → PLoop) (hf : ∀ p : PLoop, p.Alike (f p)) (m : Main) : Shows l fs m (withLoop l f m) :=
  ⟨LoopStep.withLoop l f m, by rw [loopSt_withLoop_same hl]; exact hf _⟩

theorem Shows.stageAt (h : Shows l fs m m') (k : Nat) : stageAt m' l k = stageAt m l k := stageAt_congr h.alike.stages k

/-! ### SAT_NUM and the cap condition (R239, R240) -/

theorem shows_satStep (hl : l < 16) (m : Main) (h : F.PUR_SAT_COUNT ∈ fs ∧ F.PUR_LOOP_STATUS_SAT_NUM ∈ fs := by decide) :
    Shows l fs m (satStep l m) := by
  unfold satStep
  extract_lets rises due m1
  have h1 : Shows l fs m m1 := ((LoopStep.count hl m F.PUR_SAT_COUNT h.1).trans (LoopStep.putBit hl _ F.PUR_LOOP_STATUS_SAT_NUM true h.2)).shows
  refine Shows.ite _ (h1.trans ?_) h1
  exact (Shows.withLoop hl _ (by exact fun _ => ⟨rfl, rfl, rfl, rfl, rfl⟩) m1).trans ((keeps_fire 36 _ (by decide)).shows hl)

theorem shows_capStep (hl : l < 16) (b : Img) (o : Nat) (c : Bool) (m : Main) (h : F.PUR_LOOP_STATUS_CAP_UNREACH ∈ fs := by decide) :
    Shows l fs m (capStep b o l c m) := by
  unfold capStep
  extract_lets m1 set p
  have h1 : Shows l fs m m1 := Shows.withLoop hl _ (by exact fun _ => ⟨rfl, rfl, rfl, rfl, rfl⟩) m
  have hmove (on : Bool) : Shows l fs m1 (fire 35 (m1.putBit F.PUR_LOOP_STATUS_CAP_UNREACH on l)) :=
    (LoopStep.putBit hl m1 F.PUR_LOOP_STATUS_CAP_UNREACH on h).shows.trans ((keeps_fire 35 _ (by decide)).shows hl)
  exact Shows.ite _ (h1.trans (hmove true)) (Shows.ite _ (h1.trans (hmove false)) h1)

/-! ### A freeze (R243) -/

/-- A loop's record as it freezes. -/
def PLoop.froze (p : PLoop) (last cause : Nat) : PLoop := { p with
  frozen := true, okRun := 0, stages := vmod p.stages last fun s => if cause = 1 then s.putOut p.good else s }

/-- What a freeze shows, after the record has changed. -/
def showFreeze (b : Img) (o l cause : Nat) (m : Main) : Main :=
  setLoop l (if LoopC.fallback b o then Lp.fallback else Lp.frozen) (showOut b o l (m.put F.PUR_LOOP_STATUS_CAUSE cause l))

theorem freeze_eq (b : Img) (o l cause : Nat) (m : Main) : freeze b o l cause m =
    fire 33 (record 0x0321 l cause (loopOut (showFreeze b o l cause (withLoop l (fun p => p.froze (lastStage b o) cause) m)) b o l).toWord 0
      (showFreeze b o l cause (withLoop l (fun p => p.froze (lastStage b o) cause) m))) := rfl

abbrev freezeFields : List Field := [F.PUR_LOOP_STATUS_CAUSE, F.PUR_OUT, F.PUR_DEST_VAL, F.PUR_LOOP_STATUS_STATE]

theorem loopStep_showFreeze {ps : List Part} (hl : l < 16) (b : Img) (o cause : Nat) (m : Main) :
    LoopStep l freezeFields ps m (showFreeze b o l cause m) :=
  ((LoopStep.put hl m F.PUR_LOOP_STATUS_CAUSE cause).trans (loopStep_showOut hl b o _)).trans (loopStep_setLoop hl _ _)

/-- A freeze's record and event. -/
theorem keeps_freeze (b : Img) (o l cause : Nat) (m : Main) :
    Keeps (showFreeze b o l cause (withLoop l (fun p => p.froze (lastStage b o) cause) m)) (freeze b o l cause m) :=
  (keeps_record ..).trans (keeps_fire 33 _ (by decide))

theorem loopStep_freeze (hl : l < 16) (b : Img) (o cause : Nat) (m : Main) : LoopStep l freezeFields [.pur] m (freeze b o l cause m) :=
  ((LoopStep.withLoop l _ m).trans (loopStep_showFreeze hl b o cause _)).trans ((keeps_freeze b o l cause m).loopStep hl)

theorem loopSt_freeze (hl : l < 16) (b : Img) (o cause : Nat) (m : Main) :
    loopSt (freeze b o l cause m) l = (loopSt m l).froze (lastStage b o) cause := by
  rw [loopSt_congr (keeps_freeze b o l cause m).pur, (loopStep_showFreeze hl b o cause _).loopSt l, loopSt_withLoop_same hl]

/-- A freeze shows its cause (R243). -/
theorem cause_freeze (hl : l < 16) (b : Img) (o : Nat) {cause : Nat} (hc : cause < 16) (m : Main) :
    (freeze b o l cause m).get F.PUR_LOOP_STATUS_CAUSE l = cause := by
  have hreport := ((keeps_freeze b o l cause m).loopStep (fs := []) (ps := []) hl).get F.PUR_LOOP_STATUS_CAUSE
  have hshow (x : Main) := (loopStep_showOut (fs := [F.PUR_OUT, F.PUR_DEST_VAL]) (ps := []) hl b o x).get F.PUR_LOOP_STATUS_CAUSE
  have hset (x : Main) (st : Nat) := (loopStep_setLoop (fs := [F.PUR_LOOP_STATUS_STATE]) (ps := []) hl st x).get F.PUR_LOOP_STATUS_CAUSE
  rw [hreport, showFreeze, hset, hshow, Main.get_put_same _ _ _ _ (by decide)]
  exact Nat.mod_eq_of_lt hc

/-- A freeze fires event 33 (R243). -/
theorem pends_freeze (hl : l < 16) (b : Img) (o cause : Nat) {m : Main} (he : m.bit F.PUR_CTRL_EVT33_EN = true) :
    pends (freeze b o l cause m) 33 = true := by
  have hshown : LoopStep l freezeFields [.pur] m (showFreeze b o l cause (withLoop l (fun p => p.froze (lastStage b o) cause) m)) :=
    (LoopStep.withLoop l _ m).trans (loopStep_showFreeze hl b o cause _)
  have henabled := ((hshown.engine hl).ctrl F.PUR_CTRL_EVT33_EN).trans he
  rw [freeze_eq]
  exact pends_fire 33 _ (by decide) (((keeps_record ..).bit F.PUR_CTRL_EVT33_EN 0 0 rfl).trans henabled)

/-! ### A held sample (R230) -/

theorem get_withLoop (l : Nat) (f : PLoop → PLoop) (m : Main) (g : Field) (i : Nat) : (withLoop l f m).get g i = m.get g i := by
  unfold Main.get Main.word
  rw [withLoop_regs]

/-- A held sample is counted. -/
def heldCounted (l : Nat) (m : Main) : Main :=
  withLoop l (fun p => { p with heldRun := p.heldRun + 1, okRun := if m.get F.PUR_LOOP_STATUS_CAUSE l = 2 then 0 else p.okRun })
    (m.count F.PUR_HELD_SAMPLES l)

theorem loopSt_heldCounted (hl : l < 16) (m : Main) : loopSt (heldCounted l m) l = { loopSt m l with
    heldRun := (loopSt m l).heldRun + 1, okRun := if m.get F.PUR_LOOP_STATUS_CAUSE l = 2 then 0 else (loopSt m l).okRun } := by
  unfold heldCounted
  rw [loopSt_withLoop_same hl, loopSt_congr (Main.count_pur ..)]

theorem loopStep_heldCounted (hl : l < 16) (m : Main) : LoopStep l [F.PUR_HELD_SAMPLES] [.pur] m (heldCounted l m) :=
  (LoopStep.count hl m F.PUR_HELD_SAMPLES).trans (LoopStep.withLoop l _ _)

theorem heldSample_eq (hl : l < 16) (b : Img) (o : Nat) (track : Bool) (m : Main) : heldSample b o l track m =
    if !track && !(loopSt m l).frozen && second b o ((loopSt m l).heldRun + 1) then freeze b o l 2 (heldCounted l m) else heldCounted l m := by
  have hrun : heldSample b o l track m = if !track && !(loopSt (heldCounted l m) l).frozen && second b o (loopSt (heldCounted l m) l).heldRun
      then freeze b o l 2 (heldCounted l m) else heldCounted l m := by
    unfold heldSample heldCounted
    rfl
  rw [hrun, loopSt_heldCounted hl]

theorem PLoop.froze_stages (p : PLoop) (last : Nat) : (p.froze last 2).stages = p.stages := by
  unfold PLoop.froze vmod
  dsimp only
  split
  · simp
  · rfl

abbrev heldFields : List Field := F.PUR_HELD_SAMPLES :: freezeFields

/-- What a held sample leaves: one more in HELD_SAMPLES, and the loop's vectors and its last good output as they were. -/
structure Held (l : Nat) (m m' : Main) : Prop where
  step : LoopStep l heldFields [.pur] m m'
  count : m'.get F.PUR_HELD_SAMPLES l = (m.get F.PUR_HELD_SAMPLES l + 1) % 2 ^ 32
  stages : (loopSt m' l).stages = (loopSt m l).stages
  sampled : (loopSt m' l).sampled = (loopSt m l).sampled
  good : (loopSt m' l).good = (loopSt m l).good

theorem held_heldSample (hl : l < 16) (b : Img) (o : Nat) (track : Bool) (m : Main) : Held l m (heldSample b o l track m) := by
  have hstep := loopStep_heldCounted hl m
  have hloop := loopSt_heldCounted hl m
  have hcount : (heldCounted l m).get F.PUR_HELD_SAMPLES l = (m.get F.PUR_HELD_SAMPLES l + 1) % 2 ^ 32 := by
    unfold heldCounted
    rw [get_withLoop, Main.get_count_same]
  rw [heldSample_eq hl]
  split
  · have hfreeze := loopStep_freeze hl b o 2 (heldCounted l m)
    have hst := (loopSt_freeze hl b o 2 (heldCounted l m)).trans (congrArg (fun p => PLoop.froze p (lastStage b o) 2) hloop)
    exact ⟨hstep.mono.trans hfreeze.mono, (hfreeze.get F.PUR_HELD_SAMPLES).trans hcount, by rw [hst, PLoop.froze_stages],
      by rw [hst, PLoop.froze], by rw [hst, PLoop.froze]⟩
  · exact ⟨hstep.mono, hcount, by rw [hloop], by rw [hloop], by rw [hloop]⟩

/-- Where the held samples reach 1 s, a loop that runs freezes with cause FB_LOST (R230). -/
theorem heldSample_freezes (hl : l < 16) {m : Main} (hf : (loopSt m l).frozen = false) (hs : second b o ((loopSt m l).heldRun + 1) = true) :
    (loopSt (heldSample b o l false m) l).frozen = true ∧ (heldSample b o l false m).get F.PUR_LOOP_STATUS_CAUSE l = 2 ∧
    (m.bit F.PUR_CTRL_EVT33_EN = true → pends (heldSample b o l false m) 33 = true) := by
  rw [heldSample_eq hl, if_pos (by rw [hf, hs]; rfl)]
  refine ⟨by rw [loopSt_freeze hl, PLoop.froze], cause_freeze hl b o (by decide) _, fun he => pends_freeze hl b o 2 ?_⟩
  exact (((loopStep_heldCounted hl m).engine hl).ctrl F.PUR_CTRL_EVT33_EN).trans he

/-! ### Supervision (R241–R244) -/

abbrev superviseFields : List Field := F.PUR_RESIDUAL :: F.PUR_LOOP_STATUS_SP_FAST :: freezeFields

/-- The residual shown. -/
def showResidual (r : Option (Bf × Bool)) (l : Nat) (m : Main) : Main :=
  match r with
  | some (v, _) => m.put F.PUR_RESIDUAL v.narrow.toWord l
  | none => m

theorem loopStep_showResidual {ps : List Part} (hl : l < 16) (r : Option (Bf × Bool)) (m : Main) :
    LoopStep l [F.PUR_RESIDUAL] ps m (showResidual r l m) := by
  unfold showResidual
  split
  · exact LoopStep.put hl m F.PUR_RESIDUAL _
  · exact LoopStep.refl _ _ _ _

/-- The residual lies in the band, or there is none. -/
def inBand (r : Option (Bf × Bool)) : Bool :=
  match r with
  | some (_, ok) => ok
  | none => true

/-- A loop that runs, its residual compared with the band. -/
def compared (b : Img) (o l : Nat) (track : Bool) (m : Main) : Main :=
  let r := residual m b o l
  let x := showResidual r l m
  withLoop l (fun p => { p with
    outside := if inBand r || track then 0 else p.outside + 1, good := if inBand r then loopOut x b o l else p.good }) x

theorem superviseLoop_live (hl : l < 16) (track : Bool) {m : Main} (hf : (loopSt m l).frozen = false) : superviseLoop b o l track m =
    if !inBand (residual m b o l) && !track && decide (LoopC.bandN b o ≤ (loopSt (compared b o l track m) l).outside)
    then freeze b o l 1 (compared b o l track m) else compared b o l track m := by
  have hshown : (loopSt (showResidual (residual m b o l) l m) l).frozen = false := by
    rw [(loopStep_showResidual hl _ m).loopSt l]
    exact hf
  exact if_neg (by rw [← Bool.not_eq_true] at hshown; exact hshown)

theorem loopStep_superviseLoop (hl : l < 16) (b : Img) (o : Nat) (track : Bool) (m : Main) :
    LoopStep l superviseFields [.pur] m (superviseLoop b o l track m) := by
  have hshow : LoopStep l superviseFields [.pur] m (showResidual (residual m b o l) l m) := (loopStep_showResidual (ps := [.pur]) hl _ m).mono
  refine hshow.trans (LoopStep.ite _ ?_ ?_)
  · exact (LoopStep.withLoop l _ _).trans (LoopStep.ite _ (loopStep_startLoop hl b o _ _).mono (LoopStep.refl _ _ _ _))
  · exact (LoopStep.withLoop l _ _).trans (LoopStep.ite _ (loopStep_freeze hl b o 1 _).mono (LoopStep.refl _ _ _ _))

/-- The loop's vectors are legal, and so is the exponent of the last output in the band. -/
def PLoop.legal (p : PLoop) : Prop := (∀ k : Fin 8, p.stages[k].legal) ∧ -128 ≤ p.good.x ∧ p.good.x ≤ 127

/-- What supervision leaves of the record of a loop that runs: at most the last stage's vector moves. -/
structure PLoop.Judged (last : Nat) (p q : PLoop) : Prop where
  sampled : q.sampled = p.sampled
  others : ∀ k, k ≠ last → vget q.stages k PStage.reset = vget p.stages k PStage.reset
  legal : p.legal → q.legal ∧ ∀ k : Fin 8, q.stages[k] = p.stages[k] ∨ q.stages[k].normal

theorem PLoop.Judged.trans {last : Nat} {p q r : PLoop} (h : p.Judged last q) (g : q.Judged last r) : p.Judged last r where
  sampled := g.sampled.trans h.sampled
  others k hk := (g.others k hk).trans (h.others k hk)
  legal hp := by
    obtain ⟨hq, hpq⟩ := h.legal hp
    obtain ⟨hr, hqr⟩ := g.legal hq
    refine ⟨hr, fun k => (hqr k).elim (fun e => ?_) Or.inr⟩
    rw [e]
    exact hpq k

/-- A record with the same vectors, and with a last good output that is legal where the record was. -/
theorem PLoop.Judged.of_stages {last : Nat} {p q : PLoop} (hs : q.stages = p.stages) (hr : q.sampled = p.sampled)
    (hg : p.legal → -128 ≤ q.good.x ∧ q.good.x ≤ 127) : p.Judged last q :=
  ⟨hr, fun _ _ => by rw [hs], fun hp => ⟨⟨by rw [hs]; exact hp.1, hg hp⟩, fun _ => Or.inl (by rw [hs])⟩⟩

theorem PLoop.judged_froze (p : PLoop) (last : Nat) : p.Judged last (p.froze last 1) where
  sampled := rfl
  others _ hk := vget_vmod_ne _ _ _ hk.symm
  legal := by
    rintro ⟨hs, hg⟩
    have hstage (k : Fin 8) : (p.froze last 1).stages[k] = if last = k then p.stages[k].putOut p.good else p.stages[k] := by
      rw [← vget_fin _ k PStage.reset, ← vget_fin p.stages k PStage.reset]
      split
      · next e => subst e; exact vget_vmod_same _ _ _ k.isLt
      · next e => exact vget_vmod_ne _ _ _ e
    refine ⟨⟨fun k => ?_, hg⟩, fun k => ?_⟩
    · rw [hstage]
      split
      · exact (PStage.putOut_legal _ hg).1
      · exact hs k
    · rw [hstage]
      split
      · exact Or.inr (PStage.putOut_legal _ hg).2
      · exact Or.inl rfl

theorem judged_compared (hl : l < 16) (track : Bool) (m : Main) (last : Nat) :
    (loopSt m l).Judged last (loopSt (compared b o l track m) l) := by
  have hshown := (loopStep_showResidual hl (residual m b o l) m).loopSt l
  unfold compared
  extract_lets r x
  rw [loopSt_withLoop_same hl]
  refine PLoop.Judged.of_stages (by rw [hshown]) (by rw [hshown]) fun hp => ?_
  dsimp only
  split
  · have hx : (loopOut x b o l).x = (stageAt m l (LoopC.stages b o - 1)).x :=
      congrArg PStage.x (stageAt_congr (m := m) (by rw [hshown]) _)
    obtain ⟨-, -, -, -, hrange⟩ := stagesLegal_iff.2 hp.1 (LoopC.stages b o - 1)
    rw [hx]
    exact hrange
  · rw [hshown]
    exact hp.2

/-- Supervision of a loop that runs (R241, R243). -/
theorem judged_superviseLoop (hl : l < 16) (track : Bool) {m : Main} (hf : (loopSt m l).frozen = false) :
    (loopSt m l).Judged (lastStage b o) (loopSt (superviseLoop b o l track m) l) := by
  have hcompared := judged_compared (b := b) (o := o) hl track m (lastStage b o)
  rw [superviseLoop_live hl track hf]
  split
  · rw [loopSt_freeze hl]
    exact hcompared.trans (PLoop.judged_froze _ _)
  · exact hcompared

end

end Sys2Proof.Machine
end

section
/-!
SUPPORT. One sample of one loop, step by step (R218–R222, R230, R247), and the samples of one instant.
-/
namespace Sys2Proof.Machine

section
variable {b : Img} {o l t : Nat} {m m' m'' : Main}

/-! ### The steps of a sample -/

/-- A standby's loop for a loop group leaves its freeze (R247). -/
def trackFreed (b : Img) (o l : Nat) (m : Main) : Main :=
  if tracks m b o then withLoop l (fun p => { p with frozen := false, outside := 0, heldRun := 0 }) (m.put F.PUR_LOOP_STATUS_CAUSE 0 l) else m

/-- The set-point of a sample: its source's value, or SP_FAIL (R229). -/
def sampleTarget (m : Main) (b : Img) (o l t : Nat) : Bf :=
  if (source m b o l (LoopC.spSrc b o) t).2 then LoopC.spFail b o else (source m b o l (LoopC.spSrc b o) t).1

/-- What a sample shows before its stages run. -/
def sampleOpened (b : Img) (o l t : Nat) (track : Bool) (m : Main) : Main :=
  sampleState b o l track (sampleInputs b o l (sampleTarget m b o l t, (source m b o l (LoopC.spSrc b o) t).2)
    (source m b o l (LoopC.fbSrc b o) t) m)

/-- The stages run, and are renormalised. -/
def stagesDone (b : Img) (o l t : Nat) (sp fb : Bf) (held track : Bool) (m : Main) : Main :=
  (renormStages b o l held (runStages b o l t sp fb held track m).1).1

def markSampled (l : Nat) (m : Main) : Main := withLoop l (fun p => { p with sampled := true }) m

/-- What a sample shows after its stages have run: whether a word saturated, whether SP_FAST of a stage rose, and the output. -/
def sampleShown (b : Img) (o l : Nat) (saturated rose : Bool) (m : Main) : Main :=
  let x := if saturated then satStep l m else m
  showOut b o l (fireIf rose 34 (x.putBit F.PUR_LOOP_STATUS_SP_FAST ((loopSt x l).stages.toList.any (·.spFast)) l))

/-- A sample is held, or the loop is supervised. -/
def sampleJudged (b : Img) (o l : Nat) (held track : Bool) (m : Main) : Main :=
  if held then heldSample b o l track m else superviseLoop b o l track (withLoop l (fun p => { p with heldRun := 0 }) m)

/-- The cap condition, and the trace of the sample. -/
def sampleClosed (b : Img) (o l : Nat) (track cap : Bool) (m : Main) : Main :=
  let x := if !track && LoopC.dest b o == 1 && isLimit b o then capStep b o l cap m else m
  sky x 0x08 (l * 2 ^ 28 + x.get F.PUR_LOOP_STATUS_STATE l * 2 ^ 24 + x.get F.PUR_DEST_VAL l)

/-- A sample of a loop in its steps. -/
theorem sampleLoop_eq (b : Img) (o l t : Nat) (m : Main) : ∃ saturated rose cap : Bool,
    let x := trackFreed b o l m
    let fb := source x b o l (LoopC.fbSrc b o) t
    sampleLoop b o l t m = sampleClosed b o l (tracks m b o) cap (sampleJudged b o l fb.2 (tracks m b o) (sampleShown b o l saturated rose
      (markSampled l (stagesDone b o l t (sampleTarget x b o l t) fb.1 fb.2 (tracks m b o) (sampleOpened b o l t (tracks m b o) x))))) :=
  ⟨_, _, _, rfl⟩

/-! ### The start -/

theorem trackFreed_run (h : tracks m b o = false) : trackFreed b o l m = m := by
  unfold trackFreed
  rw [h]
  rfl

theorem loopStep_trackFreed (hl : l < 16) : LoopStep l [F.PUR_LOOP_STATUS_CAUSE] [.pur] m (trackFreed b o l m) := by
  unfold trackFreed
  exact LoopStep.ite _ ((LoopStep.put hl m F.PUR_LOOP_STATUS_CAUSE 0).trans (LoopStep.withLoop l _ _)) (LoopStep.refl _ _ _ _)

theorem loopSt_trackFreed (hl : l < 16) : (loopSt (trackFreed b o l m) l).stages = (loopSt m l).stages ∧
    (loopSt (trackFreed b o l m) l).good = (loopSt m l).good ∧
    (loopSt (trackFreed b o l m) l).frozen = ((loopSt m l).frozen && !tracks m b o) := by
  cases h : tracks m b o with
  | false =>
    rw [trackFreed_run h]
    exact ⟨rfl, rfl, by simp⟩
  | true =>
    have hx : trackFreed b o l m = withLoop l (fun p => { p with frozen := false, outside := 0, heldRun := 0 })
        (m.put F.PUR_LOOP_STATUS_CAUSE 0 l) := if_pos h
    have hput := loopSt_congr (Main.put_pur m F.PUR_LOOP_STATUS_CAUSE 0 l) l
    rw [hx, loopSt_withLoop_same hl, hput]
    exact ⟨rfl, rfl, by simp⟩

/-! ### What is shown of the inputs -/

abbrev inputFields : List Field := [F.PUR_LOOP_STATUS_SRC_FAULT, F.PUR_SAMPLES, F.PUR_SP, F.PUR_LOOP_STATUS_FB_INVALID, F.PUR_FB]
abbrev openFields : List Field := F.PUR_LOOP_STATUS_STATE :: inputFields

theorem loopStep_setSrcFault {fs : List Field} {ps : List Part} (hl : l < 16) (code : Nat) (on : Bool) (m : Main)
    (h : F.PUR_LOOP_STATUS_SRC_FAULT ∈ fs := by decide) : LoopStep l fs ps m (setSrcFault l code on m) := by
  unfold setSrcFault
  exact LoopStep.ite _ (LoopStep.refl _ _ _ _) ((LoopStep.putBit hl m F.PUR_LOOP_STATUS_SRC_FAULT on h).trans ((keeps_record ..).loopStep hl))

theorem bit_putBit_same (m : Main) (f : Field) (on : Bool) (i : Nat) (hf : f.width = 1 ∧ f.lo < 32 := by decide) :
    (m.putBit f on i).bit f i = on := by
  rw [Main.bit_putBit m f on i 0 0 (by omega) (by omega), if_pos rfl]

theorem srcFault_setSrcFault (hl : l < 16) (code : Nat) (on : Bool) (m : Main) :
    (setSrcFault l code on m).bit F.PUR_LOOP_STATUS_SRC_FAULT l = on := by
  unfold setSrcFault
  split
  · assumption
  · refine (((keeps_record 0x0320 l code (natOf on) 0 _).loopStep (fs := []) (ps := []) hl).bit F.PUR_LOOP_STATUS_SRC_FAULT 0).trans ?_
    exact bit_putBit_same m F.PUR_LOOP_STATUS_SRC_FAULT on l

theorem Bf.toWord_lt (x : Bf) : x.toWord < 2 ^ 32 := by
  unfold Bf.toWord
  omega

/-- A BF word is shown whole. -/
theorem get_putWord (m : Main) (f : Field) (x : Bf) (i : Nat) (hf : f.lo = 0 ∧ f.width = 32 := by decide) :
    (m.put f x.toWord i).get f i = x.toWord := by
  rw [Main.get_put_same _ _ _ _ (by omega), hf.2]
  exact Nat.mod_eq_of_lt x.toWord_lt

/-- The inputs of a sample as the loop's registers show them. -/
structure ShowsInputs (l : Nat) (before : Nat) (target feedback : Bf × Bool) (m : Main) : Prop where
  samples : m.get F.PUR_SAMPLES l = (before + 1) % 2 ^ 32
  sp : m.get F.PUR_SP l = target.1.toWord
  fb : m.get F.PUR_FB l = feedback.1.toWord
  srcFault : m.bit F.PUR_LOOP_STATUS_SRC_FAULT l = target.2
  fbInvalid : m.bit F.PUR_LOOP_STATUS_FB_INVALID l = feedback.2

theorem ShowsInputs.keep {fs : List Field} {ps : List Part} {n : Nat} {sp fb : Bf × Bool} (h : ShowsInputs l n sp fb m) (g : LoopStep l fs ps m m')
    (hf : ∀ f ∈ fs, ∀ x ∈ inputFields, f.apart x := by decide) : ShowsInputs l n sp fb m' where
  samples := (g.get F.PUR_SAMPLES (by decide) fun f hx => hf f hx _ (by decide)).trans h.samples
  sp := (g.get F.PUR_SP (by decide) fun f hx => hf f hx _ (by decide)).trans h.sp
  fb := (g.get F.PUR_FB (by decide) fun f hx => hf f hx _ (by decide)).trans h.fb
  srcFault := (g.bit F.PUR_LOOP_STATUS_SRC_FAULT 0 (by decide) fun f hx => hf f hx _ (by decide)).trans h.srcFault
  fbInvalid := (g.bit F.PUR_LOOP_STATUS_FB_INVALID 0 (by decide) fun f hx => hf f hx _ (by decide)).trans h.fbInvalid

theorem loopStep_sampleInputs {ps : List Part} (hl : l < 16) (sp fb : Bf × Bool) (m : Main) :
    LoopStep l inputFields ps m (sampleInputs b o l sp fb m) :=
  ((((loopStep_setSrcFault hl _ _ m).trans (LoopStep.count hl _ F.PUR_SAMPLES)).trans (LoopStep.put hl _ F.PUR_SP _)).trans
    (LoopStep.putBit hl _ F.PUR_LOOP_STATUS_FB_INVALID _)).trans (LoopStep.put hl _ F.PUR_FB _)

theorem showsInputs_sampleInputs (hl : l < 16) (sp fb : Bf × Bool) (m : Main) :
    ShowsInputs l (m.get F.PUR_SAMPLES l) sp fb (sampleInputs b o l sp fb m) := by
  have hfault := loopStep_setSrcFault (fs := [F.PUR_LOOP_STATUS_SRC_FAULT]) (ps := []) hl (LoopC.spSrc b o) sp.2 m
  have hsrc := srcFault_setSrcFault hl (LoopC.spSrc b o) sp.2 m
  have hsamples := hfault.get F.PUR_SAMPLES
  unfold sampleInputs
  extract_lets m1 m2
  change LoopStep l [F.PUR_LOOP_STATUS_SRC_FAULT] [] m m1 at hfault
  have hfb := LoopStep.put (fs := [F.PUR_FB]) (ps := []) hl m2 F.PUR_FB fb.1.toWord
  have hcount := LoopStep.count (fs := [F.PUR_SAMPLES]) (ps := []) hl m1 F.PUR_SAMPLES
  have hsp := LoopStep.put (fs := [F.PUR_SP]) (ps := []) hl (m1.count F.PUR_SAMPLES l) F.PUR_SP sp.1.toWord
  have hinv := LoopStep.putBit (fs := [F.PUR_LOOP_STATUS_FB_INVALID]) (ps := []) hl ((m1.count F.PUR_SAMPLES l).put F.PUR_SP sp.1.toWord l)
    F.PUR_LOOP_STATUS_FB_INVALID fb.2
  refine ⟨?_, ?_, get_putWord m2 F.PUR_FB fb.1 l, ?_, ?_⟩
  · rw [hfb.get F.PUR_SAMPLES, hinv.get F.PUR_SAMPLES, hsp.get F.PUR_SAMPLES, Main.get_count_same, hsamples]
  · rw [hfb.get F.PUR_SP, hinv.get F.PUR_SP]
    exact get_putWord _ F.PUR_SP sp.1 l
  · rw [hfb.bit F.PUR_LOOP_STATUS_SRC_FAULT, hinv.bit F.PUR_LOOP_STATUS_SRC_FAULT, hsp.bit F.PUR_LOOP_STATUS_SRC_FAULT,
      hcount.bit F.PUR_LOOP_STATUS_SRC_FAULT, hsrc]
  · rw [hfb.bit F.PUR_LOOP_STATUS_FB_INVALID]
    exact bit_putBit_same _ F.PUR_LOOP_STATUS_FB_INVALID fb.2 l

theorem loopStep_sampleOpened {ps : List Part} (hl : l < 16) (track : Bool) (m : Main) :
    LoopStep l openFields ps m (sampleOpened b o l t track m) :=
  ((loopStep_sampleInputs (ps := ps) hl _ _ m).mono (hp := fun _ => id)).trans (loopStep_setLoop hl _ _)

theorem showsInputs_sampleOpened (hl : l < 16) (track : Bool) (m : Main) : ShowsInputs l (m.get F.PUR_SAMPLES l)
    (sampleTarget m b o l t, (source m b o l (LoopC.spSrc b o) t).2) (source m b o l (LoopC.fbSrc b o) t) (sampleOpened b o l t track m) :=
  (showsInputs_sampleInputs hl _ _ m).keep (loopStep_setLoop (fs := [F.PUR_LOOP_STATUS_STATE]) (ps := []) hl _ _)

/-! ### The stages -/

section
variable {sp fb : Bf} {held track : Bool}

theorem onlyStages_stagesDone (hl : l < 16) : OnlyStages l m (stagesDone b o l t sp fb held track m) :=
  (onlyStages_runStages hl).trans (onlyStages_renormStages hl)

/-- A held sample leaves every stage as it was, unless the loop falls back (R230, R243). -/
theorem stagesDone_held (h : falls m b o l = false) : stagesDone b o l t sp fb true track m = m := by
  unfold stagesDone
  rw [runStages_held h, renormStages_held h]

theorem stagesLegal_stagesDone (hl : l < 16) (h : StagesLegal l m) : StagesLegal l (stagesDone b o l t sp fb held track m) :=
  stagesLegal_renormStages hl (stagesLegal_runStages hl h)

/-- Every stage of a loop that runs is normal after its sample (R217). -/
theorem normal_stagesDone (hl : l < 16) (h : StagesLegal l m) (hf : (loopSt m l).frozen = false) {k : Nat} (hk : k < LoopC.stages b o) (hk8 : k < 8) :
    (stageAt (stagesDone b o l t sp fb false track m) l k).normal := by
  unfold stagesDone
  rw [stageAt_renormStages hl ((onlyStages_runStages hl).frozen.trans hf) hk hk8]
  exact ((stagesLegal_runStages hl h) k).renorm.2

theorem stagesDone_first (hl : l < 16) (hf : (loopSt m l).frozen = false) (hn : 1 < LoopC.stages b o) :
    stageAt (stagesDone b o l t sp fb false false m) l 0 = (stageSample (stageCfg b o 0)
      ⟨(stageAt m l (lastStage b o)).bound, m.bit F.PUR_LOOP_STATUS_CAP_UNREACH l, modelSum m t, delayedSum (visible m t), LoopC.period b o, none⟩
      (stageAt m l 0) fun i => stageInput m l sp fb ((stageCfg b o 0).ins.getD i 0)).1.renorm.1 := by
  unfold stagesDone
  rw [stageAt_renormStages hl ((onlyStages_runStages hl).frozen.trans hf) (by omega) (by decide), stageAt_runStages_first hl hf hn]

end

theorem loopSt_markSampled (hl : l < 16) (m : Main) : loopSt (markSampled l m) l = { loopSt m l with sampled := true } :=
  loopSt_withLoop_same hl _ m

/-! ### After the stages -/

abbrev shownFields : List Field :=
  [F.PUR_SAT_COUNT, F.PUR_LOOP_STATUS_SAT_NUM, F.PUR_LOOP_STATUS_SP_FAST, F.PUR_OUT, F.PUR_DEST_VAL]

theorem shows_sampleShown (hl : l < 16) (saturated rose : Bool) (m : Main) : Shows l shownFields m (sampleShown b o l saturated rose m) := by
  unfold sampleShown
  extract_lets x
  have hx : Shows l shownFields m x := Shows.ite _ (shows_satStep hl m) (Shows.refl _ _ _)
  have hfast : Shows l shownFields x (x.putBit F.PUR_LOOP_STATUS_SP_FAST ((loopSt x l).stages.toList.any (·.spFast)) l) :=
    (LoopStep.putBit hl x F.PUR_LOOP_STATUS_SP_FAST _).shows
  exact ((hx.trans hfast).trans ((keeps_fireIf rose 34 _ (by decide)).shows hl)).trans (loopStep_showOut hl b o _).shows

theorem sampleJudged_held (track : Bool) (m : Main) : sampleJudged b o l true track m = heldSample b o l track m := if_pos rfl

theorem sampleJudged_live (track : Bool) (m : Main) :
    sampleJudged b o l false track m = superviseLoop b o l track (withLoop l (fun p => { p with heldRun := 0 }) m) := if_neg (by decide)

theorem loopStep_sampleJudged_live (hl : l < 16) (track : Bool) (m : Main) :
    LoopStep l superviseFields [.pur] m (sampleJudged b o l false track m) := by
  rw [sampleJudged_live]
  exact (LoopStep.withLoop l _ m).trans (loopStep_superviseLoop hl b o track _)

theorem judged_sampleJudged_live (hl : l < 16) (track : Bool) (hf : (loopSt m l).frozen = false) :
    (loopSt m l).Judged (lastStage b o) (loopSt (sampleJudged b o l false track m) l) := by
  have hrun : loopSt (withLoop l (fun p => { p with heldRun := 0 }) m) l = { loopSt m l with heldRun := 0 } := loopSt_withLoop_same hl _ m
  have hjudged := judged_superviseLoop (b := b) (o := o) (m := withLoop l (fun p => { p with heldRun := 0 }) m) hl track (by rw [hrun]; exact hf)
  rw [hrun] at hjudged
  rw [sampleJudged_live]
  exact (PLoop.Judged.of_stages (p := loopSt m l) (q := { loopSt m l with heldRun := 0 }) rfl rfl fun hp => hp.2).trans hjudged

abbrev judgeFields : List Field := F.PUR_HELD_SAMPLES :: superviseFields

theorem loopStep_sampleJudged (hl : l < 16) (held track : Bool) (m : Main) :
    LoopStep l judgeFields [.pur] m (sampleJudged b o l held track m) := by
  cases held with
  | true =>
    rw [sampleJudged_held]
    exact (held_heldSample hl b o track m).step.mono
  | false => exact (loopStep_sampleJudged_live hl track m).mono

theorem shows_sampleClosed (hl : l < 16) (track cap : Bool) (m : Main) :
    Shows l [F.PUR_LOOP_STATUS_CAP_UNREACH] m (sampleClosed b o l track cap m) := by
  unfold sampleClosed
  extract_lets x
  have hx : Shows l [F.PUR_LOOP_STATUS_CAP_UNREACH] m x := Shows.ite _ (shows_capStep hl b o cap m) (Shows.refl _ _ _)
  exact hx.trans ((keeps_sky ..).shows hl)

end

end Sys2Proof.Machine
end

section
/-!
SUPPORT. What one sample of a loop leaves (R216–R222, R229, R230, R247).
-/
namespace Sys2Proof.Machine

section
variable {b : Img} {o l t : Nat} {m m' x y z : Main}

/-- A bound on the items of a list is one on an item by its number, 0 standing for those that it does not have. -/
theorem getD_lt {cs : List Nat} {n : Nat} (h : ∀ c ∈ cs, c < n + 1) (i : Nat) : cs.getD i 0 < n + 1 := by
  rw [List.getD_eq_getElem?_getD]
  cases hi : cs[i]? with
  | none => exact Nat.succ_pos n
  | some c => exact h c (List.mem_of_getElem? hi)

/-! ### The states that a sample passes -/

/-- A sample of loop `l` leads from `m` over `x`, where its stages run, `y`, where it is judged, and `z`, to `m'`. -/
structure SamplePath (b : Img) (o l t : Nat) (m x y z m' : Main) : Prop where
  opened : LoopStep l (F.PUR_LOOP_STATUS_CAUSE :: openFields) [.pur] m x
  stages : (loopSt x l).stages = (loopSt m l).stages
  good : (loopSt x l).good = (loopSt m l).good
  frozen : (loopSt x l).frozen = ((loopSt m l).frozen && !tracks m b o)
  running : tracks m b o = false → loopSt x l = loopSt m l
  inputs : ShowsInputs l (m.get F.PUR_SAMPLES l) (sampleTarget m b o l t, (source m b o l (LoopC.spSrc b o) t).2)
    (source m b o l (LoopC.fbSrc b o) t) x
  shown : Shows l shownFields (markSampled l (stagesDone b o l t (sampleTarget m b o l t) (source m b o l (LoopC.fbSrc b o) t).1
    (source m b o l (LoopC.fbSrc b o) t).2 (tracks m b o) x)) y
  judged : z = sampleJudged b o l (source m b o l (LoopC.fbSrc b o) t).2 (tracks m b o) y
  closed : Shows l [F.PUR_LOOP_STATUS_CAP_UNREACH] z m'

theorem samplePath_sampleLoop (hl : l < 16) (b : Img) (o t : Nat) (m : Main) : ∃ x y z, SamplePath b o l t m x y z (sampleLoop b o l t m) := by
  obtain ⟨saturated, rose, cap, hrun⟩ := sampleLoop_eq b o l t m
  have hfreed := loopStep_trackFreed (b := b) (o := o) (m := m) hl
  obtain ⟨hstages, hgood, hfrozen⟩ := loopSt_trackFreed (b := b) (o := o) (m := m) hl
  have hsource (c : Nat) : source (trackFreed b o l m) b o l c t = source m b o l c t :=
    (hfreed.engine hl).source (hfreed.get F.PUR_HOST_SP) c
  have htarget : sampleTarget (trackFreed b o l m) b o l t = sampleTarget m b o l t := by unfold sampleTarget; rw [hsource]
  have hopened (ps : List Part) := loopStep_sampleOpened (b := b) (o := o) (t := t) (ps := ps) hl (tracks m b o) (trackFreed b o l m)
  have hsame := (hopened []).loopSt l
  have hinputs := showsInputs_sampleOpened (b := b) (o := o) (t := t) hl (tracks m b o) (trackFreed b o l m)
  rw [htarget, hsource, hsource, hfreed.get F.PUR_SAMPLES] at hinputs
  simp only [htarget, hsource] at hrun
  have hshown := shows_sampleShown (b := b) (o := o) hl saturated rose (markSampled l (stagesDone b o l t (sampleTarget m b o l t)
    (source m b o l (LoopC.fbSrc b o) t).1 (source m b o l (LoopC.fbSrc b o) t).2 (tracks m b o)
    (sampleOpened b o l t (tracks m b o) (trackFreed b o l m))))
  refine ⟨_, _, _, hfreed.mono.trans (hopened [.pur]).mono, ?_, ?_, ?_, fun h => ?_, hinputs, hshown, rfl, ?_⟩
  · rw [hsame, hstages]
  · rw [hsame, hgood]
  · rw [hsame, hfrozen]
  · rw [hsame, trackFreed_run h]
  · rw [hrun]
    exact shows_sampleClosed hl (tracks m b o) cap _

/-- The fields that a sample writes after its stages have run. -/
abbrev lateFields : List Field := F.PUR_LOOP_STATUS_CAP_UNREACH :: (shownFields ++ judgeFields)

namespace SamplePath

variable (p : SamplePath b o l t m x y z m')
include p

theorem ran (hl : l < 16) : LoopStep l shownFields [.pur] x y :=
  (((onlyStages_stagesDone hl).step.mono).trans (LoopStep.withLoop l _ _)).trans p.shown.step

theorem late (hl : l < 16) : LoopStep l lateFields [.pur] x m' := by
  have hjudged := loopStep_sampleJudged (b := b) (o := o) hl (source m b o l (LoopC.fbSrc b o) t).2 (tracks m b o) y
  rw [← p.judged] at hjudged
  exact ((p.ran hl).mono.trans hjudged.mono).trans p.closed.step.mono

/-- A sample writes no more than its loop's own. -/
theorem step (hl : l < 16) : LoopStep l (F.PUR_LOOP_STATUS_CAUSE :: openFields ++ lateFields) [.pur] m m' :=
  p.opened.mono.trans (p.late hl).mono

/-- A step to the judgement that leaves HELD_SAMPLES and PUR_CTRL. -/
theorem early (hl : l < 16) : LoopStep l (F.PUR_LOOP_STATUS_CAUSE :: openFields ++ shownFields) [.pur] m y :=
  p.opened.mono.trans (p.ran hl).mono

theorem showsInputs (hl : l < 16) : ShowsInputs l (m.get F.PUR_SAMPLES l)
    (sampleTarget m b o l t, (source m b o l (LoopC.spSrc b o) t).2) (source m b o l (LoopC.fbSrc b o) t) m' :=
  p.inputs.keep (p.late hl)

/-- HELD_SAMPLES counts a held sample (R230). -/
theorem heldSamples (hl : l < 16) : m'.get F.PUR_HELD_SAMPLES l =
    (m.get F.PUR_HELD_SAMPLES l + natOf (source m b o l (LoopC.fbSrc b o) t).2) % 2 ^ 32 := by
  rw [p.closed.step.get F.PUR_HELD_SAMPLES, ← (p.early hl).get F.PUR_HELD_SAMPLES, p.judged]
  cases (source m b o l (LoopC.fbSrc b o) t).2 with
  | true =>
    rw [sampleJudged_held]
    exact (held_heldSample hl b o _ y).count
  | false =>
    rw [(loopStep_sampleJudged_live hl _ y).get F.PUR_HELD_SAMPLES]
    exact (Nat.mod_eq_of_lt (Main.get_lt y F.PUR_HELD_SAMPLES l)).symm

/-- The record that is judged: the stages as they have run. -/
theorem record (hl : l < 16) : (loopSt y l).frozen = (loopSt x l).frozen ∧ (loopSt y l).good = (loopSt m l).good ∧
    (loopSt y l).sampled = true ∧ (loopSt y l).heldRun = (loopSt x l).heldRun := by
  obtain ⟨-, hfrozen, hsampled, hgood, hheld⟩ := p.shown.alike
  have hmark := loopSt_markSampled hl (stagesDone b o l t (sampleTarget m b o l t) (source m b o l (LoopC.fbSrc b o) t).1
    (source m b o l (LoopC.fbSrc b o) t).2 (tracks m b o) x)
  have hrest := (onlyStages_stagesDone (b := b) (o := o) (t := t) (m := x) (sp := sampleTarget m b o l t)
    (fb := (source m b o l (LoopC.fbSrc b o) t).1) (held := (source m b o l (LoopC.fbSrc b o) t).2) (track := tracks m b o) hl).rest
  rw [hmark, hrest] at hfrozen hsampled hgood hheld
  exact ⟨hfrozen, hgood.trans p.good, hsampled, hheld⟩

theorem stageAt_shown (hl : l < 16) (k : Nat) : stageAt y l k = stageAt (stagesDone b o l t (sampleTarget m b o l t)
    (source m b o l (LoopC.fbSrc b o) t).1 (source m b o l (LoopC.fbSrc b o) t).2 (tracks m b o) x) l k := by
  refine (p.shown.stageAt k).trans (stageAt_congr ?_ k)
  rw [loopSt_markSampled hl]

/-! ### A held sample -/

/-- A held sample leaves every stage, unless the loop is frozen with FALLBACK (R230, R243). -/
theorem held_stages (hl : l < 16) (hfb : (source m b o l (LoopC.fbSrc b o) t).2 = true)
    (h : ¬ ((loopSt m l).frozen = true ∧ tracks m b o = false ∧ LoopC.fallback b o = true)) : (loopSt m' l).stages = (loopSt m l).stages := by
  have hfalls : falls x b o l = false := by
    unfold falls
    rw [p.frozen, Bool.eq_false_iff]
    intro hall
    simp only [Bool.and_eq_true, Bool.not_eq_true'] at hall
    obtain ⟨⟨⟨hf, ht⟩, hb⟩, -⟩ := hall
    exact h ⟨hf, ht, hb⟩
  have hy := p.shown.alike.stages
  rw [loopSt_markSampled hl, hfb, stagesDone_held hfalls] at hy
  have hz : (loopSt z l).stages = (loopSt y l).stages := by
    rw [p.judged, hfb, sampleJudged_held]
    exact (held_heldSample hl b o _ y).stages
  rw [p.closed.alike.stages, hz, hy]
  exact p.stages

/-- At 1 s of held samples in a row, a loop that runs freezes with cause FB_LOST and event 33 (R230). -/
theorem freezes (hl : l < 16) (hfb : (source m b o l (LoopC.fbSrc b o) t).2 = true) (ht : tracks m b o = false)
    (hf : (loopSt m l).frozen = false) (hs : second b o ((loopSt m l).heldRun + 1) = true) :
    (loopSt m' l).frozen = true ∧ m'.get F.PUR_LOOP_STATUS_CAUSE l = 2 ∧ (m.bit F.PUR_CTRL_EVT33_EN = true → pends m' 33 = true) := by
  obtain ⟨hfrozen, -, -, hheld⟩ := p.record hl
  rw [p.running ht] at hfrozen hheld
  obtain ⟨h1, h2, h3⟩ := heldSample_freezes (b := b) (o := o) hl (m := y) (hfrozen.trans hf) (hheld ▸ hs)
  have hz : z = heldSample b o l false y := by rw [p.judged, hfb, ht, sampleJudged_held]
  rw [← hz] at h1 h2 h3
  refine ⟨p.closed.alike.frozen.trans h1, (p.closed.step.get F.PUR_LOOP_STATUS_CAUSE).trans h2, fun he => ?_⟩
  exact p.closed.step.pend 33 (by decide) (h3 ((((p.early hl).engine hl).ctrl F.PUR_CTRL_EVT33_EN).trans he))

/-! ### A sample that is not held -/

/-- The first stage of several runs on the inputs as they stood, and is renormalised (R217, R220, R222). -/
theorem first (hl : l < 16) (hfb : (source m b o l (LoopC.fbSrc b o) t).2 = false) (hf : (loopSt m l).frozen = false)
    (ht : tracks m b o = false) (hn : 1 < LoopC.stages b o) (hins : ∀ c ∈ (stageCfg b o 0).ins, c < 0x80) :
    stageAt m' l 0 = (stageSample (stageCfg b o 0)
      ⟨(stageAt m l (lastStage b o)).bound, m.bit F.PUR_LOOP_STATUS_CAP_UNREACH l, modelSum m t, delayedSum (visible m t), LoopC.period b o, none⟩
      (stageAt m l 0) fun i => stageInput m l (sampleTarget m b o l t) (source m b o l (LoopC.fbSrc b o) t).1
        ((stageCfg b o 0).ins.getD i 0)).1.renorm.1 := by
  have hx := p.running ht
  obtain ⟨hfrozen, -⟩ := p.record hl
  have hjudged := (judged_sampleJudged_live (b := b) (o := o) (m := y) hl (tracks m b o) (by rw [hfrozen, hx, hf])).others 0
    (by unfold lastStage; omega)
  rw [← hfb, ← p.judged] at hjudged
  have hinput : (fun i => stageInput x l (sampleTarget m b o l t) (source m b o l (LoopC.fbSrc b o) t).1 ((stageCfg b o 0).ins.getD i 0)) =
      fun i => stageInput m l (sampleTarget m b o l t) (source m b o l (LoopC.fbSrc b o) t).1 ((stageCfg b o 0).ins.getD i 0) := by
    funext i
    exact stageInput_own hx (getD_lt hins i)
  have hengine := p.opened.engine hl
  calc stageAt m' l 0 = stageAt z l 0 := p.closed.stageAt 0
    _ = stageAt y l 0 := hjudged
    _ = _ := p.stageAt_shown hl 0
    _ = _ := by
      rw [hfb, ht, stagesDone_first hl (by rw [hx, hf]) hn, hinput, hengine.modelSum, hengine.visible, p.opened.bit F.PUR_LOOP_STATUS_CAP_UNREACH,
        stageAt_congr p.stages, stageAt_congr p.stages]

/-! ### Every sample of a loop that runs -/

theorem sampled (hl : l < 16) (hf : (loopSt m l).frozen = false) : (loopSt m' l).sampled = true := by
  obtain ⟨hfrozen, -, hsampled, -⟩ := p.record hl
  refine p.closed.alike.sampled.trans (Eq.trans ?_ hsampled)
  rw [p.judged]
  cases (source m b o l (LoopC.fbSrc b o) t).2 with
  | true =>
    rw [sampleJudged_held]
    exact (held_heldSample hl b o _ y).sampled
  | false => exact (judged_sampleJudged_live hl _ (by rw [hfrozen, p.frozen, hf, Bool.false_and])).sampled

/-- Words that fit and exponents in range stay so, and a stage that has run is normal (R216, R217). -/
theorem legal (hl : l < 16) (hf : (loopSt m l).frozen = false) (h : (loopSt m l).legal) : (loopSt m' l).legal ∧
    ((source m b o l (LoopC.fbSrc b o) t).2 = false → ∀ k : Fin 8, k.val < LoopC.stages b o → (loopSt m' l).stages[k].normal) := by
  obtain ⟨hfrozen, hgood, -, -⟩ := p.record hl
  have hlive : (loopSt x l).frozen = false := by rw [p.frozen, hf, Bool.false_and]
  have hx : StagesLegal l x := stagesLegal_iff.2 (by rw [p.stages]; exact h.1)
  have hy : (loopSt y l).legal :=
    ⟨stagesLegal_iff.1 fun k => p.stageAt_shown hl k ▸ stagesLegal_stagesDone hl hx k, by rw [hgood]; exact h.2⟩
  have close (hz : (loopSt z l).legal) : (loopSt m' l).legal :=
    ⟨by rw [p.closed.alike.stages]; exact hz.1, by rw [p.closed.alike.good]; exact hz.2⟩
  cases hfb : (source m b o l (LoopC.fbSrc b o) t).2 with
  | true =>
    have hheld := held_heldSample hl b o (tracks m b o) y
    rw [← sampleJudged_held, ← hfb, ← p.judged] at hheld
    exact ⟨close ⟨by rw [hheld.stages]; exact hy.1, by rw [hheld.good]; exact hy.2⟩, fun e => Bool.noConfusion e⟩
  | false =>
    have hjudged := judged_sampleJudged_live (b := b) (o := o) (m := y) hl (tracks m b o) (hfrozen.trans hlive)
    rw [← hfb, ← p.judged] at hjudged
    obtain ⟨hz, hmoved⟩ := hjudged.legal hy
    refine ⟨close hz, fun _ k hk => ?_⟩
    rw [p.closed.alike.stages]
    refine (hmoved k).elim (fun e => ?_) id
    rw [e, ← stageAt_fin, p.stageAt_shown hl, hfb]
    exact normal_stagesDone hl hx hlive hk k.isLt

end SamplePath

end

end Sys2Proof.Machine
end

section
/-!
SUPPORT. The samples of one instant: PURLIN_SAMPLE (R218, R219, R253).
-/
namespace Sys2Proof.Machine

section
variable {b : Img} {o l k t : Nat} {m m' m'' : Main}

/-! ### What the other loops' samples leave of a loop -/

/-- A step of the engine beside loop `l`: its record and its registers stay. -/
structure Beside (l : Nat) (m m' : Main) : Prop where
  engine : EngineStep m m'
  loop : loopSt m' l = loopSt m l
  own : ∀ a, loopAddr l a → m'.word a = m.word a

theorem Beside.refl (l : Nat) (m : Main) : Beside l m m := ⟨EngineStep.refl m, rfl, fun _ _ => rfl⟩

theorem Beside.trans (h : Beside l m m') (g : Beside l m' m'') : Beside l m m'' :=
  ⟨h.engine.trans g.engine, g.loop.trans h.loop, fun a ha => (g.own a ha).trans (h.own a ha)⟩

theorem Beside.get (h : Beside l m m') (f : Field) (hf : f.ofLoop := by decide) : m'.get f l = m.get f l := by
  unfold Main.get
  rw [h.own _ (hf.addr l)]

theorem Beside.bit (h : Beside l m m') (f : Field) (hf : f.ofLoop := by decide) : m'.bit f l = m.bit f l := by
  unfold Main.bit
  rw [h.get f hf]

theorem Beside.stageAt (h : Beside l m m') (k : Nat) : stageAt m' l k = stageAt m l k := stageAt_congr (by rw [h.loop]) k

theorem Beside.source (h : Beside l m m') (c : Nat) : source m' b o l c t = source m b o l c t := h.engine.source (h.get F.PUR_HOST_SP) c

theorem LoopStep.beside {fs : List Field} (hk : k < 16) (hl : l < 16) (hne : k ≠ l) (h : LoopStep k fs [.pur] m m') : Beside l m m' where
  engine := h.engine hk
  loop := h.others l (Ne.symm hne)
  own a ha := h.reports.1 a (not_or.2 ⟨loopAddr_apart hne ha, not_reporting_of_block (loopRegs_block hl (Or.inr ha))⟩)

/-! ### PUR_SRC -/

theorem frame_showSources (t : Nat) (m : Main) : Frame (fun a => 0x090010 ≤ a ∧ a < 0x090020) [] m (showSources t m) := by
  have haddr (f : Field) (i : Nat) (hi : i < 4) (hf : f.base = 0x090010 ∧ f.stride = 4) : 0x090010 ≤ f.addr i ∧ f.addr i < 0x090020 := by
    unfold Field.addr
    rw [hf.1, hf.2]
    omega
  have hraw (x : Main) (v i : Nat) (hi : i < 4) := Frame.put (regs := fun a => 0x090010 ≤ a ∧ a < 0x090020) [] x F.PUR_SRC_RAW v i
    (haddr _ i hi ⟨rfl, rfl⟩)
  have hfault (x : Main) (on : Bool) (i : Nat) (hi : i < 4) :=
    Frame.putBit (regs := fun a => 0x090010 ≤ a ∧ a < 0x090020) [] x F.PUR_SRC_FAULT on i 0 (haddr _ i hi ⟨rfl, rfl⟩)
  unfold showSources
  split
  · exact Frame.refl _ _ _
  · refine Frame.foldl _ _ (fun k hk x => ?_) m
    have hk2 : k < 2 := List.mem_range.1 hk
    exact (((hraw _ _ k (by omega)).trans (hfault _ _ k (by omega))).trans (hraw _ _ (2 + k) (by omega))).trans (hfault _ _ (2 + k) (by omega))

theorem beside_showSources (l t : Nat) (m : Main) : Beside l m (showSources t m) := by
  have hframe := frame_showSources t m
  have hpur : (showSources t m).pur = m.pur := hframe.2.1 .pur List.not_mem_nil
  have hblock : Frame (inRegs [] [9]) [] m (showSources t m) :=
    hframe.mono (fun a ha => Or.inr (List.mem_singleton.2 (by omega))) (List.Subset.refl _)
  refine ⟨⟨hframe.reports.mono (fun a ha => ha.imp Or.inl id) (by decide), by rw [hpur], hblock.within.pend⟩, loopSt_congr hpur l,
    fun a ha => hframe.1 a fun hsrc => ?_⟩
  unfold loopAddr at ha
  omega

/-- Whether loops run is read from PUR_CTRL, the executor and the mode (R250). -/
theorem EngineStep.loopsRun (h : EngineStep m m') : loopsRun m' = loopsRun m := by
  have hexec : m'.exec = m.exec := h.within.get F.YLM_STATUS_EXEC_STATE Nat.one_pos
  have hmode : m'.mode = m.mode := h.within.get F.PWR_MODE_MODE Nat.one_pos
  unfold Machine.loopsRun awake
  rw [h.ctrl F.PUR_CTRL_ENABLE, hexec, hmode]

/-! ### Every loop in its turn -/

/-- A loop's turn at an instant: one that is enabled and due runs a sample (R218). -/
def sampleTurn (b : Img) (t : Nat) (m : Main) (l : Nat) : Main :=
  match loopOn b l with
  | some o => if LoopC.period b o = 0 ∨ t % LoopC.period b o ≠ 0 then m else sampleLoop b o l t m
  | none => m

theorem purlinSample_stopped (hb : runImg m = some b) (h : loopsRun m = false) : purlinSample t m = showSources t m := by
  have hrun := (beside_showSources 0 t m).engine.loopsRun
  unfold purlinSample
  rw [hb]
  dsimp only
  rw [hrun, h]
  rfl

theorem purlinSample_running (hb : runImg m = some b) (h : loopsRun m = true) :
    purlinSample t m = (List.range 16).foldl (sampleTurn b t) (showSources t m) := by
  have hrun := (beside_showSources 0 t m).engine.loopsRun
  unfold purlinSample
  rw [hb]
  dsimp only
  rw [hrun, h]
  rfl

/-- A loop that is not enabled or not due. -/
abbrev Undue (b : Img) (l t : Nat) : Prop :=
  loopOn b l = none ∨ ∃ o, loopOn b l = some o ∧ (LoopC.period b o = 0 ∨ t % LoopC.period b o ≠ 0)

theorem sampleTurn_undue (h : Undue b l t) (m : Main) : sampleTurn b t m l = m := by
  unfold sampleTurn
  rcases h with h | ⟨o, h, hdue⟩
  · rw [h]
  · rw [h]
    exact if_pos hdue

theorem sampleTurn_due (h : loopOn b l = some o) (hp : 0 < LoopC.period b o) (ht : t % LoopC.period b o = 0) (m : Main) :
    sampleTurn b t m l = sampleLoop b o l t m := by
  unfold sampleTurn
  rw [h]
  exact if_neg (by omega)

theorem loopStep_sampleTurn (hl : l < 16) (b : Img) (t : Nat) (m : Main) : ∃ fs, LoopStep l fs [.pur] m (sampleTurn b t m l) := by
  unfold sampleTurn
  split
  · next o _ =>
    split
    · exact ⟨[], LoopStep.refl _ _ _ _⟩
    · obtain ⟨_, _, _, hpath⟩ := samplePath_sampleLoop hl b o t m
      exact ⟨_, hpath.step hl⟩
  · exact ⟨[], LoopStep.refl _ _ _ _⟩

theorem engine_sampleTurns (b : Img) (t : Nat) (m : Main) : EngineStep m ((List.range 16).foldl (sampleTurn b t) m) :=
  foldl_relates EngineStep.refl EngineStep.trans _ _
    (fun _ hl x => (loopStep_sampleTurn (List.mem_range.1 hl) b t x).elim fun _ h => h.engine (List.mem_range.1 hl)) m

/-- Around a loop's turn stand steps beside it. -/
theorem beside_sampleTurns (hl : l < 16) (b : Img) (t : Nat) (m : Main) :
    ∃ x, Beside l m x ∧ Beside l (sampleTurn b t x l) ((List.range 16).foldl (sampleTurn b t) m) :=
  foldl_visit (Beside.refl l) Beside.trans _ List.nodup_range (List.mem_range.2 hl)
    (fun _ hk hne x => (loopStep_sampleTurn (List.mem_range.1 hk) b t x).elim fun _ h => h.beside (List.mem_range.1 hk) hl hne) m

/-- Around the turn of a loop that is due stand steps beside it, those of PUR_SRC among them. -/
theorem beside_purlinSample (hl : l < 16) (hb : runImg m = some b) (h : loopsRun m = true) :
    ∃ x, Beside l m x ∧ Beside l (sampleTurn b t x l) (purlinSample t m) := by
  obtain ⟨x, hbefore, hafter⟩ := beside_sampleTurns hl b t (showSources t m)
  rw [← purlinSample_running hb h] at hafter
  exact ⟨x, (beside_showSources l t m).trans hbefore, hafter⟩

theorem engine_purlinSample (hb : runImg m = some b) (h : loopsRun m = true) : EngineStep m (purlinSample t m) := by
  rw [purlinSample_running hb h]
  exact (beside_showSources 0 t m).engine.trans (engine_sampleTurns b t _)

/-! ### The sample of a loop that is due -/

/-- What a sample at `t` leaves of loop `l`. -/
structure Sampled (b : Img) (o l t : Nat) (m m' : Main) : Prop where
  inputs : ShowsInputs l (m.get F.PUR_SAMPLES l) (sampleTarget m b o l t, (source m b o l (LoopC.spSrc b o) t).2)
    (source m b o l (LoopC.fbSrc b o) t) m'
  heldSamples : m'.get F.PUR_HELD_SAMPLES l = (m.get F.PUR_HELD_SAMPLES l + natOf (source m b o l (LoopC.fbSrc b o) t).2) % 2 ^ 32
  held_stages : (source m b o l (LoopC.fbSrc b o) t).2 = true →
    ¬ ((loopSt m l).frozen = true ∧ tracks m b o = false ∧ LoopC.fallback b o = true) → (loopSt m' l).stages = (loopSt m l).stages
  freezes : (source m b o l (LoopC.fbSrc b o) t).2 = true → tracks m b o = false → (loopSt m l).frozen = false →
    second b o ((loopSt m l).heldRun + 1) = true →
    (loopSt m' l).frozen = true ∧ m'.get F.PUR_LOOP_STATUS_CAUSE l = 2 ∧ (m.bit F.PUR_CTRL_EVT33_EN = true → pends m' 33 = true)
  first : (source m b o l (LoopC.fbSrc b o) t).2 = false → (loopSt m l).frozen = false → tracks m b o = false → 1 < LoopC.stages b o →
    (∀ c ∈ (stageCfg b o 0).ins, c < 0x80) →
    stageAt m' l 0 = (stageSample (stageCfg b o 0)
      ⟨(stageAt m l (lastStage b o)).bound, m.bit F.PUR_LOOP_STATUS_CAP_UNREACH l, modelSum m t, delayedSum (visible m t), LoopC.period b o, none⟩
      (stageAt m l 0) fun i => stageInput m l (sampleTarget m b o l t) (source m b o l (LoopC.fbSrc b o) t).1
        ((stageCfg b o 0).ins.getD i 0)).1.renorm.1
  sampled : (loopSt m l).frozen = false → (loopSt m' l).sampled = true
  legal : (loopSt m l).frozen = false → (loopSt m l).legal → (loopSt m' l).legal ∧
    ((source m b o l (LoopC.fbSrc b o) t).2 = false → ∀ k : Fin 8, k.val < LoopC.stages b o → (loopSt m' l).stages[k].normal)

theorem sampled_sampleLoop (hl : l < 16) (b : Img) (o t : Nat) (m : Main) : Sampled b o l t m (sampleLoop b o l t m) := by
  obtain ⟨_, _, _, p⟩ := samplePath_sampleLoop hl b o t m
  exact ⟨p.showsInputs hl, p.heldSamples hl, p.held_stages hl, p.freezes hl, p.first hl, p.sampled hl, p.legal hl⟩

/-- The steps beside the loop that come before its sample change nothing that the sample reads. -/
theorem Sampled.after {x : Main} (h : Beside l m x) (s : Sampled b o l t x m') : Sampled b o l t m m' := by
  have htarget : sampleTarget x b o l t = sampleTarget m b o l t := by unfold sampleTarget; rw [h.source]
  have hinput (sp fb : Bf) (i : Nat) (hins : ∀ c ∈ (stageCfg b o 0).ins, c < 0x80) :
      stageInput x l sp fb ((stageCfg b o 0).ins.getD i 0) = stageInput m l sp fb ((stageCfg b o 0).ins.getD i 0) :=
    stageInput_own h.loop (getD_lt hins i)
  obtain ⟨inputs, heldSamples, held_stages, freezes, first, sampled, legal⟩ := s
  simp only [h.source, htarget, h.loop, h.get F.PUR_SAMPLES, h.get F.PUR_HELD_SAMPLES, h.engine.tracks, h.engine.ctrl F.PUR_CTRL_EVT33_EN]
    at inputs heldSamples held_stages freezes first sampled legal
  refine ⟨inputs, heldSamples, held_stages, freezes, fun h1 h2 h3 h4 hins => ?_, sampled, legal⟩
  have hfirst := first h1 h2 h3 h4 hins
  simp only [h.stageAt, h.bit F.PUR_LOOP_STATUS_CAP_UNREACH, h.engine.modelSum, h.engine.visible, hinput _ _ _ hins] at hfirst
  exact hfirst

/-- The steps beside the loop that come after its sample leave what it shows. -/
theorem Sampled.before {x : Main} (s : Sampled b o l t m x) (h : Beside l x m') : Sampled b o l t m m' := by
  obtain ⟨⟨samples, sp, fb, srcFault, fbInvalid⟩, heldSamples, held_stages, freezes, first, sampled, legal⟩ := s
  refine ⟨⟨(h.get F.PUR_SAMPLES).trans samples, (h.get F.PUR_SP).trans sp, (h.get F.PUR_FB).trans fb,
    (h.bit F.PUR_LOOP_STATUS_SRC_FAULT).trans srcFault, (h.bit F.PUR_LOOP_STATUS_FB_INVALID).trans fbInvalid⟩,
    (h.get F.PUR_HELD_SAMPLES).trans heldSamples, ?_, fun h1 h2 h3 h4 => ?_, ?_, ?_, ?_⟩
  · rw [h.loop]
    exact held_stages
  · obtain ⟨hfrozen, hcause, hpend⟩ := freezes h1 h2 h3 h4
    exact ⟨by rw [h.loop]; exact hfrozen, (h.get F.PUR_LOOP_STATUS_CAUSE).trans hcause, fun he => h.engine.pend 33 (by decide) (hpend he)⟩
  · rw [h.stageAt]
    exact first
  · rw [h.loop]
    exact sampled
  · rw [h.loop]
    exact legal

theorem sampled_purlinSample (hl : l < 16) (hb : runImg m = some b) (h : loopsRun m = true) (ho : loopOn b l = some o)
    (hp : 0 < LoopC.period b o) (ht : t % LoopC.period b o = 0) : Sampled b o l t m (purlinSample t m) := by
  obtain ⟨x, hbefore, hafter⟩ := beside_purlinSample (t := t) hl hb h
  rw [sampleTurn_due ho hp ht] at hafter
  exact ((sampled_sampleLoop hl b o t x).after hbefore).before hafter

theorem beside_purlinSample_undue (hl : l < 16) (hb : runImg m = some b) (h : loopsRun m = true) (hu : Undue b l t) :
    Beside l m (purlinSample t m) := by
  obtain ⟨x, hbefore, hafter⟩ := beside_purlinSample (t := t) hl hb h
  rw [sampleTurn_undue hu] at hafter
  exact hbefore.trans hafter

end

/-! ### The obligation -/

/-- Settles O19: the loops take their turns one beside the other, and a loop that is due has its sample on the state as it stood. -/
theorem purlinSamplesDueLoops : Obligations.PurlinSamplesDueLoops := by
  unfold Obligations.PurlinSamplesDueLoops
  intro s t b hb up src legal legalLoop
  refine ⟨fun hstop => answersMain_of (f := purlinSample t) rfl ?_, fun hrun => answersMain_of (f := purlinSample t) rfl ?_⟩
  · rw [purlinSample_stopped hb hstop]
    exact frame_showSources t s.main
  have hengine := engine_purlinSample (t := t) hb hrun
  refine ⟨hengine.loops, hengine.reports, fun l => ⟨fun hu => ?_, fun o ho hp ht => ?_⟩⟩
  · have hbeside := beside_purlinSample_undue l.isLt hb hrun hu
    exact ⟨hbeside.loop, fun a hlow hhigh => hbeside.own a ⟨hlow, hhigh⟩⟩
  intro sp fb old track target
  obtain ⟨⟨samples, hsp, hfb, srcFault, fbInvalid⟩, heldSamples, held_stages, freezes, first, sampled, hlegal⟩ :=
    sampled_purlinSample l.isLt hb hrun ho hp ht
  exact ⟨samples, hsp, hfb, srcFault, fbInvalid, heldSamples, held_stages, freezes, first, sampled, hlegal⟩

end Sys2Proof.Machine
end

section
/-!
SUPPORT. The two sides of the module: which of them a command acts on (R254, R274, R310), what a step's end does to the energy account
(R285), and what the witness contact, the clock and the supply change (R260, R279, R301, R308).
-/
namespace Sys2Proof.Machine

/-! ### The sides of a command -/

/-- The row of a session command takes at most the oldest bytes of the link from the main side (R310). -/
theorem sealRow_sides (cmd : Nat) (f : List Byte → Dormer → Dormer) (s : State) :
    ∃ t, sealRow cmd f s = .next t ∧ t.pending = s.pending ∧
      (t.main = s.main ∨ ∃ b rest, s.main.mir.link = b :: rest ∧ t.main = { s.main with mir := { s.main.mir with link := rest } }) := by
  unfold sealRow
  split
  · exact ⟨s, rfl, rfl, Or.inl rfl⟩
  · next c rest hlink =>
    split
    · exact ⟨_, rfl, rfl, Or.inr ⟨c, rest, hlink, rfl⟩⟩
    · exact ⟨s, rfl, rfl, Or.inl rfl⟩

/-- The rows of session commands, the only ones of the dormer that take from the main side. -/
def sessionRows : List Instr := [.sealOpen, .sealSetMeas, .sealSetPulse, .sealClose, .sealAbort]

theorem exec_ofDormer {c : Instr} (h : c.ofDormer = true) (hrow : c ∉ sessionRows) (s : State) : ∃ f, exec c s = s.onDormer f := by
  cases c
  case dormerStepEnd | pulseStart | pulseEnd | sealSwitchPress | witnessContactOpen | witnessContactClose | gateTimeout
    | dormerSupplyWarning | dormerHaltRecover | dormerPowerUp | dormerClockLoss | dormerClockReturn => exact ⟨_, rfl⟩
  case sealOpen | sealSetMeas | sealSetPulse | sealClose | sealAbort => exact absurd (by simp [sessionRows]) hrow
  all_goals cases h

theorem exec_not_ofDormer {c : Instr} (h : c.ofDormer = false) (s : State) : ∃ m, exec c s = .next { s with main := m } := by
  cases c
  case dormerStepEnd | pulseStart | pulseEnd | sealSwitchPress | witnessContactOpen | witnessContactClose | gateTimeout
    | sealOpen | sealSetMeas | sealSetPulse | sealClose | sealAbort | dormerSupplyWarning | dormerHaltRecover | dormerPowerUp
    | dormerClockLoss | dormerClockReturn => cases h
  all_goals exact ⟨_, rfl⟩

/-- Settles O2: a session row by `sealRow_sides`, any other command as one that acts on one side alone. -/
theorem mainLeavesDormer : Obligations.MainLeavesDormer := by
  unfold Obligations.MainLeavesDormer
  intro c s
  have session (hd : c.ofDormer = true)
      (hc : c = .sealOpen ∨ c = .sealSetMeas ∨ c = .sealSetPulse ∨ c = .sealClose ∨ c = .sealAbort)
      (hrow : ∃ cmd f, exec c s = sealRow cmd f s) : Answers c s fun t => t.pending = s.pending ∧
        (if c.ofDormer then
          (t.main = s.main ∨ ((c = .sealOpen ∨ c = .sealSetMeas ∨ c = .sealSetPulse ∨ c = .sealClose ∨ c = .sealAbort) ∧
            ∃ b rest, s.main.mir.link = b :: rest ∧ t.main = { s.main with mir := { s.main.mir with link := rest } }))
         else t.dmr = s.dmr) := by
    obtain ⟨cmd, f, he⟩ := hrow
    obtain ⟨t, ht, hpending, hmain⟩ := sealRow_sides cmd f s
    exact ⟨t, he.trans ht, hpending, by rw [if_pos hd]; exact hmain.imp id fun hb => ⟨hc, hb⟩⟩
  by_cases hd : c.ofDormer = true
  · by_cases hrow : c ∈ sessionRows
    · have hc : c = .sealOpen ∨ c = .sealSetMeas ∨ c = .sealSetPulse ∨ c = .sealClose ∨ c = .sealAbort := by
        simpa [sessionRows] using hrow
      refine session hd hc ?_
      rcases hc with rfl | rfl | rfl | rfl | rfl <;> exact ⟨_, _, rfl⟩
    · obtain ⟨f, he⟩ := exec_ofDormer hd hrow s
      exact ⟨_, he, rfl, by rw [if_pos hd]; exact Or.inl rfl⟩
  · obtain ⟨m, he⟩ := exec_not_ofDormer (Bool.eq_false_iff.2 hd) s
    exact ⟨_, he, rfl, by rw [if_neg hd]⟩

/-! ### The end of a step -/

/-- A halted dormer does nothing at a step's end or at the supply warning (R300). -/
theorem stepEnd_halted {d : Dormer} (h : d.halted = true) (x : Meas) (short : Bool) :
    (if short then supplyWarning x d else stepEnd x d) = d := by
  cases short
  · exact if_pos h
  · exact if_pos h

/-- Settles O37: what `stepEnd_spec` says of a dormer that runs, and a halted one stands. -/
theorem stepRegistersEnergy : Obligations.StepRegistersEnergy := by
  unfold Obligations.StepRegistersEnergy
  intro s x short c
  have he : exec c s = s.onDormer fun d => if short then supplyWarning x d else stepEnd x d := by cases short <;> rfl
  refine ⟨fun hhalted => answersDormer_of he (stepEnd_halted hhalted x short), fun hruns => answersDormer_of he ?_⟩
  obtain ⟨r, hr, halted, kept, registered, stepNo, tag, ⟨f, sent, body, frameStep, samples⟩, -, -⟩ := stepEnd_spec x short s.dmr hruns
  obtain ⟨sealState, breaks, sessions, lidOpen, gateOpen, session, nonce, nextSeq, staged, ident, meterFault, -, -⟩ := kept
  rw [hr]
  exact ⟨halted, stepNo, tag, ⟨f, _, sent, body, frameStep, samples⟩, registered, sealState, breaks, sessions, lidOpen, gateOpen, session,
    nonce, nextSeq, staged, ident, meterFault⟩

/-! ### The witness contact -/

/-- An opening of the contact breaks the seal and counts the break (R308). -/
theorem witnessOpen_breaks (d : Dormer) : (witnessOpen d).sealState = 1 ∧ (witnessOpen d).breaks = d.breaks + 1 ∧
    (witnessOpen d).lidOpen = true ∧ (witnessOpen d).sessions = d.sessions ∧ (witnessOpen d).sameMeter d ∧
    (witnessOpen d).logCount = d.logCount + 1 := by
  obtain ⟨l, f, r, h⟩ := legal_eq { d with lidOpen := true, sealState := 1, breaks := d.breaks + 1 } 0x0101 (d.breaks + 1) d.stepNo 0 0
  have he : witnessOpen d = _ := h
  rw [he]
  exact ⟨rfl, rfl, rfl, rfl, ⟨rfl, rfl, rfl, rfl, rfl, rfl, rfl, rfl, rfl, rfl, rfl, rfl, rfl, rfl, rfl, rfl, rfl, rfl, rfl, rfl, rfl, rfl⟩, rfl⟩

/-- The break is on record (R313). -/
theorem witnessOpen_records (d : Dormer) : ∃ r, newestLegal (witnessOpen d) 0 = some r ∧ r.code = 0x0101 ∧
    r.p0 = (d.breaks + 1) % 2 ^ 32 ∧ r.p1 = d.stepNo % 2 ^ 32 :=
  newestLegal_legal { d with lidOpen := true, sealState := 1, breaks := d.breaks + 1 } 0x0101 (d.breaks + 1) d.stepNo 0 0

/-! ### Power-up -/

/-- What every power-up does, whatever copy it finds (R273, R279, R309). -/
structure PowersUp (d d' : Dormer) : Prop where
  halted : d'.halted = false
  stepNo : d'.stepNo = d.stepStored + 200
  seq : d'.seq = 0
  settle : d'.settle = 20
  session : d'.session = 0
  gateOpen : d'.gateOpen = false
  load : ∀ c : Fin 16, d'.load[c].on = true
  sealState : d'.sealState = d.sealState
  breaks : d'.breaks = d.breaks
  sessions : d'.sessions = d.sessions
  profile : d'.profile = d.profile
  ident : d'.ident = d.ident
  pulses : ∀ f : Fin 4, d'.pulses[f].on = false

/-- A LEGAL record is no part of it. -/
theorem PowersUp.legal {d d' : Dormer} (h : PowersUp d d') (code p0 p1 p2 p3 : Nat) : PowersUp d (legal d' code p0 p1 p2 p3) := by
  obtain ⟨l, f, r, he⟩ := legal_eq d' code p0 p1 p2 p3
  rw [he]
  exact ⟨h.halted, h.stepNo, h.seq, h.settle, h.session, h.gateOpen, h.load, h.sealState, h.breaks, h.sessions, h.profile, h.ident, h.pulses⟩

theorem load_powerBase (a b : Option StateCopy) (d : Dormer) (c : Fin 16) : (powerBase a b d).load[c].on = true := by
  simp [powerBase]

theorem powersUp_storeFail (a b : Option StateCopy) (d : Dormer) : PowersUp d (storeFail (powerBase a b d)) := by
  have base : PowersUp d { powerBase a b d with meterFault := true, pulses := Vector.replicate 4 PulseOut.reset } :=
    ⟨rfl, rfl, rfl, rfl, rfl, rfl, load_powerBase a b d, rfl, rfl, rfl, rfl, rfl, fun f => by simp [PulseOut.reset]⟩
  exact base.legal 0x0109 0 0 0 0

/-- What a restored copy gives, beside the record of it. -/
theorem powersUp_restoreCopy (old : Bool) (c : StateCopy) (a b : Option StateCopy) (d : Dormer) :
    PowersUp d (restoreCopy old c (powerBase a b d)) := by
  have base : PowersUp d (restoreCopy false c (powerBase a b d)) :=
    ⟨rfl, rfl, rfl, rfl, rfl, rfl, load_powerBase a b d, rfl, rfl, rfl, rfl, rfl, fun f => by simp [restoreCopy, PulseOut.reset]⟩
  cases old
  · exact base
  · exact base.legal 0x0108 c.seq 0 0 0

/-- STORE_FAIL is on record, and the fault stands (R301). -/
theorem storeFail_faults (d : Dormer) : (storeFail d).meterFault = true ∧ ∃ r, newestLegal (storeFail d) 0 = some r ∧ r.code = 0x0109 := by
  obtain ⟨l, f, r, he⟩ := legal_eq { d with meterFault := true, pulses := Vector.replicate 4 PulseOut.reset } 0x0109 0 0 0 0
  obtain ⟨rec, hnew, hcode, -, -⟩ := newestLegal_legal { d with meterFault := true, pulses := Vector.replicate 4 PulseOut.reset } 0x0109 0 0 0 0
  have hs : storeFail d = _ := he
  exact ⟨by rw [hs], rec, hnew, hcode⟩

theorem meterFault_restoreCopy (old : Bool) (c : StateCopy) (d : Dormer) : (restoreCopy old c d).meterFault = d.meterFault := by
  cases old
  · rfl
  · obtain ⟨l, f, r, he⟩ := legal_eq (restoreCopy false c d) 0x0108 c.seq 0 0 0
    have hs : restoreCopy true c d = _ := he
    rw [hs]
    rfl

/-- RESTORE_OLD is on record with the copy's sequence (R301). -/
theorem restoreCopy_records (c : StateCopy) (d : Dormer) :
    ∃ r, newestLegal (restoreCopy true c d) 0 = some r ∧ r.code = 0x0108 ∧ r.p0 = c.seq % 2 ^ 32 := by
  obtain ⟨r, hnew, hcode, hp0, -⟩ := newestLegal_legal (restoreCopy false c d) 0x0108 c.seq 0 0 0
  exact ⟨r, hnew, hcode, hp0⟩

/-- A power-up, by the copies that it finds valid. -/
theorem powerUp_cases {xa xb : Nat} {d : Dormer} {a b : Option StateCopy} (ha : d.copies[0].filter (fun c => c.valid xa) = a)
    (hb : d.copies[1].filter (fun c => c.valid xb) = b) :
    (a = none ∧ b = none ∧ powerUp xa xb d = storeFail (powerBase a b d)) ∨
    (∃ c, (a = some c ∨ b = some c) ∧ powerUp xa xb d = restoreCopy (a.isNone || b.isNone) c (powerBase a b d)) := by
  unfold powerUp
  rw [ha, hb]
  rcases a with _ | x <;> rcases b with _ | y
  · exact Or.inl ⟨rfl, rfl, rfl⟩
  · exact Or.inr ⟨y, Or.inr rfl, by simp [copySeq]⟩
  · exact Or.inr ⟨x, Or.inl rfl, by simp [copySeq]⟩
  · by_cases h : copySeq (some x) < copySeq (some y)
    · exact Or.inr ⟨y, Or.inr rfl, by simp [h]⟩
    · exact Or.inr ⟨x, Or.inl rfl, by simp [h]⟩

/-- Settles O42: the flags by their commands, the contact by its record, and a power-up by the copies that it finds. -/
theorem witnessClockAndPower : Obligations.WitnessClockAndPower := by
  unfold Obligations.WitnessClockAndPower
  intro s
  refine ⟨answersDormer_of (f := witnessOpen) rfl ?_, answersDormer_of (f := witnessClose) rfl rfl, answersDormer_of (f := clockLoss) rfl rfl,
    answersDormer_of (f := clockReturn) rfl rfl, answersDormer_of (f := haltRecover) rfl rfl,
    fun xa xb => answersDormer_of (f := powerUp xa xb) rfl ?_⟩
  · obtain ⟨hseal, hbreaks, hlid, hsessions, hmeter, hcount⟩ := witnessOpen_breaks s.dmr
    obtain ⟨r, hnew, hcode, hp0, hp1⟩ := witnessOpen_records s.dmr
    exact ⟨hseal, hbreaks, hlid, hsessions, hmeter, hcount, r, hnew, hcode, by rw [hp0, hbreaks], hp1⟩
  · intro a b
    have hcases := powerUp_cases (a := a) (b := b) (xa := xa) (xb := xb) (d := s.dmr) rfl rfl
    clear_value a b
    rcases hcases with ⟨rfl, rfl, he⟩ | ⟨c, hc, he⟩
    · obtain ⟨halted, stepNo, seq, settle, session, gateOpen, load, sealState, breaks, sessions, profile, ident, pulses⟩ :=
        powersUp_storeFail none none s.dmr
      rw [he]
      exact ⟨halted, stepNo, seq, settle, session, gateOpen, load, sealState, breaks, sessions, profile, ident, pulses,
        fun _ _ => storeFail_faults _, nofun, nofun, nofun⟩
    · obtain ⟨halted, stepNo, seq, settle, session, gateOpen, load, sealState, breaks, sessions, profile, ident, pulses⟩ :=
        powersUp_restoreCopy (a.isNone || b.isNone) c a b s.dmr
      have fault : (powerUp xa xb s.dmr).meterFault = s.dmr.meterFault := by rw [he]; exact meterFault_restoreCopy ..
      rw [← he] at halted stepNo seq settle session gateOpen load sealState breaks sessions profile ident pulses
      refine ⟨halted, stepNo, seq, settle, session, gateOpen, load, sealState, breaks, sessions, profile, ident, pulses, ?_, ?_, ?_, ?_⟩
      · rintro rfl rfl
        simp at hc
      · rintro x rfl rfl
        obtain rfl : x = c := by simpa using hc
        exact ⟨fault, he ▸ restoreCopy_records x _⟩
      · rintro x rfl rfl
        obtain rfl : x = c := by simpa using hc
        exact ⟨fault, he ▸ restoreCopy_records x _⟩
      · intro ha hb
        obtain ⟨x, rfl⟩ := Option.isSome_iff_exists.1 ha
        obtain ⟨y, rfl⟩ := Option.isSome_iff_exists.1 hb
        exact ⟨fault, by rw [he]; exact ⟨rfl, rfl, rfl, rfl⟩⟩

end Sys2Proof.Machine
end

section
/-!
SUPPORT. What reports leave of the mirror of the LEGAL log, and which events they fire: a report is no event of the mirror, and it writes
neither store D nor its RECNO (R369, R491, R500).
-/
namespace Sys2Proof.Machine

variable {m m' m'' : Main}

/-- The events that reports fire themselves: errors of the DMA engine, write-backs of upload rings, a suppressed record, a closed area,
and a counter's threshold (R368, R370). -/
def reportEvents : List Nat := [12, 16, 17, 18, 20, 21, 59, 60, 63]

/-- No other event is fired, and of store D stand RECNO and every record but those at the keys `ks`. -/
structure Mute (ks : Nat → Prop) (m m' : Main) : Prop where
  pend : ∀ n, n < 64 → n ∉ reportEvents → pends m' n = pends m n
  recNo : recNo m' 0 = recNo m 0
  recs : ∀ k, k < 16384 → ¬ ks k → sget (fun _ => none) m'.log.recs k = sget (fun _ => none) m.log.recs k

variable {ks ks' : Nat → Prop}

theorem Mute.refl (ks : Nat → Prop) (m : Main) : Mute ks m m := ⟨fun _ _ _ => rfl, rfl, fun _ _ _ => rfl⟩

theorem Mute.trans (h : Mute ks m m') (g : Mute ks m' m'') : Mute ks m m'' :=
  ⟨fun n hn he => (g.pend n hn he).trans (h.pend n hn he), g.recNo.trans h.recNo, fun k hk he => (g.recs k hk he).trans (h.recs k hk he)⟩

theorem Mute.mono (h : Mute ks m m') (hk : ∀ k, ks k → ks' k) : Mute ks' m m' :=
  ⟨h.pend, h.recNo, fun k hlt hn => h.recs k hlt fun hks => hn (hk k hks)⟩

theorem Mute.ite (c : Prop) [Decidable c] {a b : Main} (h : Mute ks m a) (g : Mute ks m b) : Mute ks m (if c then a else b) := by
  split
  · exact h
  · exact g

theorem Mute.foldl {α : Type} (f : Main → α → Main) (l : List α) (h : ∀ x ∈ l, ∀ m, Mute ks m (f m x)) (m : Main) : Mute ks m (l.foldl f m) := by
  induction l generalizing m with
  | nil => exact Mute.refl ks m
  | cons x t ih => exact (h x (List.mem_cons_self ..) m).trans (ih (fun y hy => h y (List.mem_cons_of_mem _ hy)) _)

/-- The words of GLB_EVT and of store D's RECNO. -/
def markWords : List Nat := [0x10, 0x14, 0x120010, 0x120014]

theorem evt_markWords {n : Nat} (h : n < 64) : F.GLB_EVT_PEND.addr (n / 32) ∈ markWords := by
  rcases (by omega : n / 32 = 0 ∨ n / 32 = 1) with e | e <;> rw [e] <;> decide

theorem Mute.setWord (m : Main) {a : Nat} (v : Nat) (h : a ∉ markWords) : Mute ks m (m.setWord a v) := by
  have off {b : Nat} (hb : b ∈ markWords) : a ≠ b := fun e => h (e ▸ hb)
  refine ⟨fun n hn _ => ?_, ?_, fun _ _ _ => rfl⟩
  · unfold pends Main.bit
    rw [Main.get_setWord_ne m _ _ _ (off (evt_markWords hn))]
  · unfold Machine.recNo
    rw [Main.get_setWord_ne m _ _ _ (off (by decide)), Main.get_setWord_ne m _ _ _ (off (by decide))]

theorem Mute.put (m : Main) {f : Field} (v : Nat) {i : Nat} (h : f.addr i ∉ markWords) : Mute ks m (m.put f v i) := Mute.setWord m _ h

/-- An address of a block other than GLB and SOF. -/
theorem not_markWords {a b : Nat} (h : a / 65536 = b) (hb : b ≠ 0 ∧ b ≠ 0x12 := by decide) : a ∉ markWords := by
  simp only [markWords, List.mem_cons, List.not_mem_nil, or_false]
  omega

/-- A change that writes no register and no record of a store. -/
theorem Mute.side (hr : m'.regs = m.regs) (hl : m'.log.recs = m.log.recs) : Mute ks m m' := by
  refine ⟨fun n _ _ => ?_, ?_, fun k _ _ => by rw [hl]⟩
  · unfold pends Main.bit Main.get Main.word
    rw [hr]
  · unfold Machine.recNo Main.get Main.word
    rw [hr]

theorem mute_emit (m : Main) (o : Output) : Mute ks m (m.emit o) := Mute.side rfl rfl
theorem mute_granted (c : Nat) (m : Main) : Mute ks m (granted c m) := Mute.side rfl rfl
theorem mute_withRing (m : Main) (r : Nat) (f : Ring → Ring) : Mute ks m (withRing m r f) := Mute.side rfl rfl
theorem mute_nextFree (m : Main) : Mute ks m (nextFree m) := Mute.side rfl rfl

/-- A change of the log beside its records. -/
theorem mute_log (m : Main) (v : Log) (h : v.recs = m.log.recs) : Mute ks m { m with log := v } := Mute.side rfl h

/-! ### Events and traces -/

/-- The message side of a raised event. -/
def message (p : Main) (n : Nat) : Main :=
  if !vectorOpen p n then p.putBit F.MSIX_PBA true (n / 32) (n % 32) else if p.host.msixEnable then p.emit (.msix n) else p

theorem raise_eq (m : Main) (n : Nat) : raise m n = message (m.putBit F.GLB_EVT_PEND true (n / 32) (n % 32)) n := rfl

theorem pends_message (p : Main) {n k : Nat} (hk : k < 64) : pends (message p n) k = pends p k := by
  unfold message
  split
  · unfold Main.putBit Main.put
    exact pends_setWord_ne p _ (fun j hj => by unfold Field.addr; simp only [F.MSIX_PBA, F.GLB_EVT_PEND]; omega) hk
  · split <;> rfl

theorem log_message (p : Main) (n : Nat) : (message p n).log = p.log := by
  unfold message
  rw [apply_ite Main.log, apply_ite Main.log, Main.putBit_log, Main.emit_log, ite_self, ite_self]

theorem log_raise (m : Main) (n : Nat) : (raise m n).log = m.log := by
  rw [raise_eq, log_message, Main.putBit_log]

/-- A raised event pends, and no other changes. -/
theorem pends_raise (m : Main) (n : Nat) {k : Nat} (hk : k < 64) : pends (raise m n) k = (decide (k = n) || pends m k) := by
  rw [raise_eq, pends_message _ hk]
  unfold pends
  by_cases e : k / 32 = n / 32
  · rw [e, Main.bit_putBit m F.GLB_EVT_PEND true (n / 32) (k % 32) (n % 32) (by decide) (Nat.mod_lt k (by decide : 0 < 32))]
    by_cases e' : k % 32 = n % 32
    · rw [if_pos e', decide_eq_true (by omega), Bool.true_or]
    · rw [if_neg e', decide_eq_false (by omega), Bool.false_or]
  · unfold Main.bit Main.putBit
    rw [Main.get_put_addr _ _ _ _ _ _ (evt_ne e), decide_eq_false (fun h => e (by rw [h])), Bool.false_or]

theorem mute_raise (m : Main) {n : Nat} (h : n ∈ reportEvents) : Mute ks m (raise m n) := by
  have hn : n < 64 := (by decide : ∀ x ∈ reportEvents, x < 64) n h
  refine ⟨fun k hk hne => ?_, ?_, fun k _ _ => by rw [log_raise]⟩
  · rw [pends_raise m n hk, decide_eq_false (fun e => hne (by rw [e]; exact h)), Bool.false_or]
  · have hw := (signals_raise m n hn).word
    unfold Machine.recNo Main.get
    rw [hw _ (by decide), hw _ (by decide)]

theorem mute_bumpCounter (k n : Nat) (m : Main) (h : n < 256) : Mute ks m (bumpCounter k n m).1 := by
  have put (x : Main) (v : Nat) : Mute ks x (x.put F.SKY_CNT v n) :=
    Mute.put x v (not_markWords (block_of (k := 0x13) (by decide) h (by decide) (by decide)))
  have hit (x : Main) (v : Nat) : Mute ks x (x.put F.SKY_HIT v (n / 32)) :=
    Mute.put x v (not_markWords (block_of (k := 0x13) (n := 8) (by decide) (by omega) (by decide) (by decide)))
  unfold bumpCounter
  dsimp only
  split
  · exact (put m _).trans (hit _ _)
  · exact put m _

theorem mute_countSource (m : Main) (src k : Nat) (lane lantern : Option Nat) : Mute ks m (countSource m src k lane lantern).1 := by
  unfold countSource
  have key (l : List Nat) (hl : ∀ n ∈ l, n < 256) (s : Main × Bool) : Mute ks s.1 (l.foldl (fun (s : Main × Bool) n =>
      let q := s.1.get F.SKY_CNT_CFG_QUAL n
      if s.1.bit F.SKY_CNT_CFG_ENABLE n && s.1.get F.SKY_CNT_CFG_SOURCE n == src &&
          (!s.1.bit F.SKY_CNT_CFG_QUAL_EN n || lane == some (q % 8) || lantern == some q) then
        let r := bumpCounter k n s.1
        (r.1, s.2 || r.2)
      else s) s).1 := by
    induction l generalizing s with
    | nil => exact Mute.refl ks _
    | cons n t ih =>
      refine Mute.trans ?_ (ih (fun x hx => hl x (List.mem_cons_of_mem _ hx)) _)
      dsimp only
      split
      · exact mute_bumpCounter _ _ _ (hl n (List.mem_cons_self ..))
      · exact Mute.refl ks _
  exact key (cntList m) (fun n hn => mem_cntList hn) (m, false)

theorem mute_skyTrace (m : Main) (src data : Nat) (lane lantern : Option Nat) : Mute ks m (skyTrace m src data lane lantern) := by
  have queue : Mute ks m (skyQueue m src data) := by
    unfold skyQueue
    split
    · exact (mute_log m { m.log with skyDrops := m.log.skyDrops + 1 } rfl).trans (Mute.put _ (f := F.SKY_LOST) _ (i := 0) (by decide))
    · have queued (v : List SkyPkt) : Mute ks m { m with free := m.free + 1, log := { m.log with sky := v } } := Mute.side rfl rfl
      exact (queued _).trans (Mute.put _ (f := F.SKY_FILL_FILL) _ (i := 0) (by decide))
  unfold skyTrace
  exact Mute.ite _ queue (Mute.refl ks m)

theorem mute_sky (m : Main) (src data : Nat) (lane lantern : Option Nat) : Mute ks m (sky m src data lane lantern) := by
  have start := (mute_skyTrace (ks := ks) m src data lane lantern).trans (mute_countSource _ src 1 lane lantern)
  unfold sky
  dsimp only
  split
  · exact (start.trans (mute_raise _ (by decide))).trans ((mute_skyTrace _ _ _ _ _).trans (mute_countSource _ _ _ _ _))
  · exact start

theorem mute_fire (m : Main) {n : Nat} (h : n ∈ reportEvents) : Mute ks m (fire n m) := by
  unfold fire
  exact Mute.ite _ ((mute_raise m h).trans (mute_sky _ _ _ _ _)) (Mute.refl ks m)

theorem mute_fireIf (c : Bool) (m : Main) {n : Nat} (h : n ∈ reportEvents) : Mute ks m (fireIf c n m) := by
  unfold fireIf
  exact Mute.ite _ (mute_fire m h) (Mute.refl ks m)

/-- An event that no report fires pends after its own firing where it is enabled, and else as it did. -/
theorem pends_fire_eq (m : Main) {n k : Nat} (hk : k < 64) (hr : k ∉ reportEvents) :
    pends (fire n m) k = (decide (k = n) && eventEnabled m n || pends m k) := by
  unfold fire
  split
  · next he => rw [(mute_sky (ks := fun _ => False) _ _ _ _ _).pend k hk hr, pends_raise m n hk, he, Bool.and_true]
  · next he => rw [Bool.eq_false_iff.2 he, Bool.and_false, Bool.false_or]

theorem pends_fireIf_eq (c : Bool) (m : Main) {n k : Nat} (hk : k < 64) (hr : k ∉ reportEvents) :
    pends (fireIf c n m) k = (c && decide (k = n) && eventEnabled m n || pends m k) := by
  unfold fireIf
  cases c
  · rfl
  · exact pends_fire_eq m hk hr

/-! ### Upload rings -/

theorem mute_ringEvent (m : Main) (r : Nat) {n : Nat} (h : n ∈ reportEvents) : Mute ks m (ringEvent m r n) := by
  unfold ringEvent
  exact Mute.ite _ (mute_fire m h) (Mute.ite _ (mute_withRing _ _ _) ((mute_withRing _ _ _).trans (mute_fire _ h)))

theorem mute_hostWrites (c : Nat) (segs : List (Nat × Nat)) (data : List Byte) (m : Main) : Mute ks m (hostWrites c segs data m) :=
  Mute.foldl _ _ (fun _ _ x => (mute_emit x _).trans (mute_granted c _)) m

theorem mute_putBack (m : Main) (r pos : Nat) (d : Desc) (rep : Reply) (records : Nat) : Mute ks m (putBack m r pos (some d) rep records) := by
  have data : Mute ks m (backData r d rep.data m) := by
    unfold backData
    exact Mute.ite _ (Mute.refl ks m) ((mute_hostWrites _ _ _ _).trans (mute_emit _ _))
  exact ((data.trans (mute_hostWrites _ _ _ _)).trans ((mute_hostWrites _ _ _ _).trans (mute_emit _ _))).trans (mute_sky _ _ _ _ _)

/-- A field of the rings and of the channels. -/
theorem mute_ring (m : Main) {f : Field} (v : Nat) {r : Nat} (hr : r < 32) (h1 : 0x020000 ≤ f.base := by decide)
    (h2 : f.base + 0x20 * 32 ≤ 0x030000 := by decide) (hs : f.stride = 0x20 := by decide) : Mute ks m (m.put f v r) := by
  refine Mute.put m v (not_markWords (b := 2) ?_)
  unfold Field.addr
  rw [hs]
  omega

theorem mute_channel (m : Main) {f : Field} (v : Nat) {c : Nat} (hc : c < 16) (h1 : 0x030000 ≤ f.base := by decide)
    (h2 : f.base + 0x20 * 16 ≤ 0x040000 := by decide) (hs : f.stride = 0x20 := by decide) : Mute ks m (m.put f v c) := by
  refine Mute.put m v (not_markWords (b := 3) ?_)
  unfold Field.addr
  rw [hs]
  omega

theorem mute_haltRing (r c cause : Nat) (m : Main) (hr : r < 32) (hc : c < 16) : Mute ks m (haltRing r c cause m) :=
  (((mute_ring m _ hr).trans (mute_ring _ _ hr)).trans (mute_channel _ _ hc)).trans (mute_sky _ _ _ _ _)

theorem mute_dmaMoved (r moved : Nat) (w : SgWalk) (m : Main) (h : r < 32) : Mute ks m (dmaMoved r moved w m) :=
  have hc := channelOf_lt h
  (((mute_channel m _ hc).trans (mute_channel _ _ hc)).trans (mute_channel _ _ hc)).trans
    (((mute_channel _ _ hc).trans (mute_channel _ _ hc)).trans (mute_channel _ _ hc))

theorem uplEvent_report {u n : Nat} (h : uplEvent u = some n) : n ∈ reportEvents := by
  unfold uplEvent at h
  split at h <;> cases h <;> decide

theorem mute_uplEnd (u status detail : Nat) (done : Option Nat) (m : Main) (h : 8 + u < 32) : Mute ks m (uplEnd u status detail done m) := by
  unfold uplEnd
  dsimp only
  split
  · exact Mute.refl ks m
  · have back (x : Main) (g : Ring → Ring) (moved pos : Nat) (w : SgWalk) (d : Desc) (rep : Reply) (n : Nat) :
        Mute ks x (putBack (dmaMoved (8 + u) moved w (withRing x (8 + u) g)) (8 + u) pos (some d) rep n) :=
      ((mute_withRing _ _ _).trans (mute_dmaMoved _ _ _ _ h)).trans (mute_putBack _ _ _ _ _ _)
    split
    · next he => exact (back _ _ _ _ _ _ _ _).trans (mute_ringEvent _ _ (uplEvent_report he))
    · exact back _ _ _ _ _ _ _ _

theorem mute_uplPlaceIn (u : Nat) (rec : List Byte) (m : Main) (h : 8 + u < 32) : Mute ks m (uplPlaceIn u rec m).1 := by
  unfold uplPlaceIn
  dsimp only
  split
  · exact Mute.refl ks m
  · split
    · exact Mute.refl ks m
    · split
      · exact ((mute_uplEnd _ _ _ _ _ h).trans (mute_ring _ _ h)).trans
          ((mute_haltRing _ _ _ _ h (channelOf_lt h)).trans (mute_fire _ (by decide)))
      · exact (mute_withRing m _ _).trans (Mute.ite _ (mute_uplEnd _ _ _ _ _ h) (Mute.refl ks _))

theorem mute_uplPlace (u : Nat) (rec : List Byte) (m : Main) (h : 8 + u < 32) : Mute ks m (uplPlace u rec m).1 := by
  unfold uplPlace
  dsimp only
  split
  · exact mute_uplPlaceIn _ _ _ h
  · exact (mute_uplEnd _ _ _ _ m h).trans (mute_uplPlaceIn _ _ _ h)

/-- A record posted to an upload ring. -/
theorem mute_uplPost (u : Nat) (rec : List Byte) (m : Main) (h : 8 + u < 32) : Mute ks m (uplPost u rec m) := by
  have hold (x : Main) (n : Nat) : Mute ks x (if 64 ≤ n then x.count F.UPL_DROPPED (8 + u) else
      withRing x (8 + u) fun g => { g with waiting := g.waiting ++ [rec] }) :=
    Mute.ite _ (mute_ring x _ h) (mute_withRing x _ _)
  unfold uplPost
  dsimp only
  split
  · split
    · exact mute_uplPlace _ _ _ h
    · exact (mute_uplPlace u rec m h).trans (hold _ _)
  · exact hold _ _

/-! ### The soffit log -/

theorem mute_deliverLive (m : Main) (store : Nat) (r : SofRec) (replay : Bool) : Mute ks m (deliverLive m store r replay) := by
  unfold deliverLive
  exact Mute.ite _ (mute_uplPost _ _ _ (by decide)) (Mute.refl ks m)

theorem mute_setClosed (m : Main) (store : Nat) : Mute ks m (setClosed m store) :=
  (Mute.put m _ (by decide)).trans (mute_fire _ (by decide))

/-- A record put at a key that `ks` allows, or in another store. -/
theorem Mute.putRec (m : Main) (store area pos : Nat) (r : Option SofRec) (h : 0 < store ∨ ks (sofKey store area pos)) :
    Mute ks m (putRec m store area pos r) := by
  refine ⟨fun _ _ _ => rfl, rfl, fun k hk hn => sget_sset_ne _ _ _ ?_⟩
  rintro rfl
  rcases h with h | h
  · unfold sofKey at hk
    omega
  · exact hn h

/-- The number of a store other than D. -/
theorem mute_setRecNo (m : Main) {s : Nat} (n : Nat) (h : 0 < s ∧ s < 4) : Mute ks m (setRecNo m s n) := by
  obtain ⟨h0, h4⟩ := h
  refine (Mute.put m _ ?_).trans (Mute.put _ _ ?_) <;>
    · unfold Field.addr
      simp only [F.SOF_RECNO_LO, F.SOF_RECNO_HI, markWords, List.mem_cons, List.not_mem_nil, or_false]
      omega

theorem mute_writeStore (fuel : Nat) {store : Nat} (r : SofRec) (m : Main) (h : 0 < store ∧ store < 4) : Mute ks m (writeStore fuel store r m) := by
  induction fuel generalizing store r m with
  | zero => exact Mute.refl ks m
  | succ fuel ih =>
    unfold writeStore
    dsimp only
    have written (x : Main) (rec : SofRec) (n pos : Nat) (c : Prop) [Decidable c] (data : Nat) :
        Mute ks x (deliverLive (sky ((putRec (if c then putRec (setRecNo x store n) store 0 (recNo m store) (some rec) else setRecNo x store n)
          store 1 pos (some rec)).count F.SOF_WRITTEN) 0x11 data) store rec false) :=
      ((((mute_setRecNo x n h).trans (Mute.ite _ (Mute.putRec _ _ _ _ _ (Or.inl h.1)) (Mute.refl ks _))).trans
        (Mute.putRec _ _ _ _ _ (Or.inl h.1))).trans (Mute.put _ (f := F.SOF_WRITTEN) _ (i := 0) (by decide))).trans
        ((mute_sky _ _ _ _ _).trans (mute_deliverLive _ _ _ _))
    split
    · exact (written m _ _ _ _ _).trans (((mute_setClosed _ _).trans (mute_nextFree _)).trans (ih (store := 2) _ _ (by decide)))
    · exact written m _ _ _ _ _

theorem storeOf_pos (code : Nat) : 0 < storeOf code ∧ storeOf code < 4 := by
  unfold storeOf
  split
  · decide
  · split <;> decide

theorem mute_privPut (store : Nat) (r : SofRec) (m : Main) : Mute ks m (privPut store r m) := by
  have add (x : Main) (b : List (Nat × SofRec)) (v : Nat) :
      Mute ks x (({ x with log := { x.log with priv := b } } : Main).put F.SOF_STATUS_PRIV_FILL v) :=
    (mute_log x { x.log with priv := b } rfl).trans (Mute.put _ v (by decide))
  have lost : Mute ks m { m.countSat F.SOF_STATUS_PRIV_LOST with log := { m.log with lostSince := m.log.lostSince + 1 } } :=
    (Mute.put m _ (by decide) : Mute ks m (m.countSat F.SOF_STATUS_PRIV_LOST)).trans (mute_log _ _ rfl)
  unfold privPut
  dsimp only
  split
  · exact add m _ _
  · split
    · exact lost.trans (add _ _ _)
    · exact lost

/-- A record by a main-side writer goes to a store of its own. -/
theorem mute_record (code p0 p1 p2 p3 : Nat) (m : Main) : Mute ks m (record code p0 p1 p2 p3 m) := by
  unfold record
  dsimp only
  refine (mute_nextFree m).trans ?_
  split
  · exact mute_privPut _ _ _
  · split
    · exact mute_writeStore _ _ _ (storeOf_pos code)
    · split
      · exact (mute_log _ _ (by rfl)).trans (mute_writeStore _ _ _ (storeOf_pos code))
      · exact ((mute_log _ _ (by rfl)).trans (Mute.put _ (f := F.SOF_SUPPRESSED) _ (i := 0) (by decide))).trans ((mute_sky _ _ _ _ _).trans (mute_fireIf _ _ (by decide)))

end Sys2Proof.Machine
end

section
/-!
SUPPORT. What the frames of the dormer link do on the main side (R280–R283, R316, R319): the counters, the mirror registers and events
37 to 40.
-/
namespace Sys2Proof.Machine

variable {regs regs' : Nat → Prop} {ps ps' : List Part} {m m' m'' : Main}

/-! ### Registers of the mirror and of TMP in a frame with reports -/

theorem not_reporting {a : Nat} (h : a / 65536 = 0x0A ∨ a / 65536 = 0x11) : ¬ reporting a := by
  unfold reporting
  omega

theorem Reports.word (h : Reports regs ps m m') {a : Nat} (ha : ¬ regs a) (hb : a / 65536 = 0x0A ∨ a / 65536 = 0x11) : m'.word a = m.word a :=
  have ⟨hregs, _, _⟩ := h
  hregs a fun hx => hx.elim ha (not_reporting hb)

theorem Reports.get (h : Reports regs ps m m') (f : Field) (i : Nat) (ha : ¬ regs (f.addr i))
    (hb : f.addr i / 65536 = 0x0A ∨ f.addr i / 65536 = 0x11 := by decide) : m'.get f i = m.get f i := by
  unfold Main.get
  rw [h.word ha hb]

theorem Reports.bit (h : Reports regs ps m m') (f : Field) (i j : Nat) (ha : ¬ regs (f.addr i))
    (hb : f.addr i / 65536 = 0x0A ∨ f.addr i / 65536 = 0x11 := by decide) : m'.bit f i j = m.bit f i j := by
  unfold Main.bit
  rw [h.get f i ha hb]

theorem Reports.mono (h : Reports regs ps m m') (hr : ∀ a, regs a → regs' a) (hp : ∀ p ∈ ps, p ∈ ps' := by decide) : Reports regs' ps' m m' :=
  Frame.mono h (fun _ hx => hx.imp (hr _) id) (List.cons_subset_cons _ (List.cons_subset_cons _ hp))

/-- A change within `regs` and `ps`, reports beside, in which no event of the mirror fires and store D stands. -/
structure Mirrors (regs : Nat → Prop) (ps : List Part) (m m' : Main) : Prop where
  reports : Reports regs ps m m'
  mute : Mute (fun _ => False) m m'

theorem Mirrors.refl (regs : Nat → Prop) (ps : List Part) (m : Main) : Mirrors regs ps m m := ⟨Frame.refl _ _ _, Mute.refl _ m⟩

theorem Mirrors.trans (h : Mirrors regs ps m m') (g : Mirrors regs ps m' m'') : Mirrors regs ps m m'' :=
  ⟨h.reports.trans g.reports, h.mute.trans g.mute⟩

theorem Mirrors.mono (h : Mirrors regs ps m m') (hr : ∀ a, regs a → regs' a) (hp : ∀ p ∈ ps, p ∈ ps' := by decide) : Mirrors regs' ps' m m' :=
  ⟨h.reports.mono hr hp, h.mute⟩

theorem Mirrors.ite (c : Prop) [Decidable c] {a b : Main} (h : Mirrors regs ps m a) (g : Mirrors regs ps m b) :
    Mirrors regs ps m (if c then a else b) := by
  split
  · exact h
  · exact g

theorem Mirrors.foldl {α : Type} (f : Main → α → Main) (l : List α) (h : ∀ x ∈ l, ∀ m, Mirrors regs ps m (f m x)) (m : Main) :
    Mirrors regs ps m (l.foldl f m) := by
  induction l generalizing m with
  | nil => exact Mirrors.refl _ _ _
  | cons x t ih => exact (h x (List.mem_cons_self ..) m).trans (ih (fun y hy => h y (List.mem_cons_of_mem _ hy)) _)

/-- A report that fires no event of the mirror. -/
theorem Keeps.mirrors (h : Keeps m m') (g : Mute (fun _ => False) m m') : Mirrors regs ps m m' := ⟨h.reports _ _, g⟩

theorem mirrors_sky (m : Main) (src data : Nat) (lane lantern : Option Nat) : Mirrors regs ps m (sky m src data lane lantern) :=
  (keeps_sky ..).mirrors (mute_sky ..)

theorem mirrors_record (code p0 p1 p2 p3 : Nat) (m : Main) : Mirrors regs ps m (record code p0 p1 p2 p3 m) :=
  (keeps_record ..).mirrors (mute_record ..)

theorem Mirrors.setWord (m : Main) {a : Nat} (v : Nat) (h : regs a) (ha : a ∉ markWords := by decide) : Mirrors regs ps m (m.setWord a v) :=
  ⟨(Frame.setWord ps m a v h).reports, Mute.setWord m v ha⟩

theorem Mirrors.put (m : Main) (f : Field) (v i : Nat) (h : regs (f.addr i)) (ha : f.addr i ∉ markWords := by decide) :
    Mirrors regs ps m (m.put f v i) := Mirrors.setWord m _ h ha

theorem Mirrors.putBit (m : Main) (f : Field) (on : Bool) (i j : Nat) (h : regs (f.addr i)) (ha : f.addr i ∉ markWords := by decide) :
    Mirrors regs ps m (m.putBit f on i j) := Mirrors.put m f _ i h ha

theorem Mirrors.count (m : Main) (f : Field) (i n : Nat) (h : regs (f.addr i)) (ha : f.addr i ∉ markWords := by decide) :
    Mirrors regs ps m (m.count f i n) := Mirrors.put m f _ i h ha

theorem Mirrors.mir (m : Main) (v : Mir) (h : Part.mir ∈ ps := by decide) : Mirrors regs ps m { m with mir := v } :=
  ⟨(Frame.mir regs m v h).reports, Mute.side rfl rfl⟩

/-! ### Windows of words -/

/-- The words from `a` up to `b`. -/
def wordsIn (a b x : Nat) : Prop := a ≤ x ∧ x < b

theorem word_putWords (m : Main) (a : Nat) (ws : List Nat) {k : Nat} (hk : k < ws.length) : (m.putWords a ws).word (a + 4 * k) = ws[k] % 2 ^ 32 := by
  induction ws generalizing m a k with
  | nil => cases hk
  | cons w t ih =>
    cases k with
    | zero =>
      have hrest := (Frame.putWords (regs := (· ≠ a)) [] (m.setWord a w) (a + 4) t fun j _ => by omega).1 a (not_not.2 rfl)
      exact hrest.trans (Main.word_setWord_same m a w)
    | succ k =>
      have h := ih (m.setWord a w) (a + 4) (Nat.lt_of_succ_lt_succ hk)
      rw [show a + 4 * (k + 1) = a + 4 + 4 * k by omega]
      exact h

theorem Mirrors.putWords (m : Main) (a : Nat) (ws : List Nat) {b : Nat} (hb : a + 4 * ws.length ≤ b) (ha : 0x0A0000 ≤ a ∧ b ≤ 0x0B0000 := by decide)
    (h : ∀ x, wordsIn a b x → regs x) : Mirrors regs ps m (m.putWords a ws) := by
  induction ws generalizing m a with
  | nil => exact Mirrors.refl _ _ _
  | cons w t ih =>
    have hlen : a + 4 * (t.length + 1) ≤ b := hb
    refine (Mirrors.setWord m w (h a ⟨Nat.le_refl a, by omega⟩) (not_markWords (b := 0x0A) (by omega))).trans
      (ih _ (a + 4) (by omega) (by omega) fun x hx => h x ⟨by have := hx.1; omega, hx.2⟩)

theorem leVal_four (l : List Byte) (o : Nat) : lle l o 4 % 2 ^ 32 = lle l o 4 := by
  refine Nat.mod_eq_of_lt ((leVal_lt _).trans_le (?_ : _ ≤ 256 ^ 4))
  exact Nat.pow_le_pow_right (by decide) (List.length_take_le ..)

/-- A window of a frame's octets shows them word by word. -/
theorem word_putWords_wordsOf (m : Main) (a : Nat) (o : List Byte) {n k : Nat} (hk : k < n) :
    (m.putWords a (wordsOf o n)).word (a + 4 * k) = lle o (4 * k) 4 := by
  have hlen : k < (wordsOf o n).length := by simp [wordsOf, hk]
  rw [word_putWords m a _ hlen]
  simp only [wordsOf, List.getElem_map, List.getElem_range]
  exact leVal_four o _

theorem length_wordsOf (o : List Byte) (n : Nat) : (wordsOf o n).length = n := by simp [wordsOf]

/-! ### Counters -/

theorem get_count (m : Main) (f : Field) (i n : Nat) (hf : f.lo = 0 ∧ f.width = 32 := by decide) : (m.count f i n).get f i = (m.get f i + n) % 2 ^ 32 := by
  obtain ⟨hlo, hw⟩ := hf
  unfold Main.count
  rw [Main.get_put_same _ _ _ _ (by omega), hw]

/-! ### Every verified frame -/

/-- FRAMES_OK counts a frame, with its trace. -/
def countFrame (f : DmrFrame) (m : Main) : Main := sky (m.count F.DMR_CNT Dc.framesOk) 0x09 (frameKind f.body * 2 ^ 24 + f.seq % 65536)

/-- SEQ_GAP counts `gap` missing frames. -/
def countGap (gap : Nat) (m : Main) : Main := if gap = 0 then m else m.count F.DMR_CNT Dc.seqGap gap

def markSeq (f : DmrFrame) (m : Main) : Main := { m with mir := { m.mir with lastSeq := some (f.seq, f.stepNo) } }

/-- DMR_LINK shows a frame's flags and number. -/
def showLink (f : DmrFrame) (m : Main) : Main :=
  ((m.put F.DMR_LINK_TFLAGS (bits f.flags 3 1)).put F.DMR_LINK_SETTLING (bits f.flags 0 0)).put F.DMR_LINK_LAST_SEQ f.seq

theorem frameVerified_eq (f : DmrFrame) (m : Main) : frameVerified f m =
    showLink f (markSeq f (countGap (missingSnaps (countFrame f m).mir.lastSeq f) (countFrame f m))) := rfl

theorem mirrors_countFrame (f : DmrFrame) (m : Main) : Mirrors (· ∈ [0x0A0020]) ps m (countFrame f m) :=
  (Mirrors.count m F.DMR_CNT _ 1 (by decide)).trans (mirrors_sky ..)

theorem mirrors_countGap (gap : Nat) (m : Main) : Mirrors (· ∈ [0x0A0028]) ps m (countGap gap m) :=
  Mirrors.ite _ (Mirrors.refl _ _ _) (Mirrors.count m F.DMR_CNT _ gap (by decide))

theorem mirrors_showLink (f : DmrFrame) (m : Main) : Mirrors (· ∈ [0x0A0008]) ps m (showLink f m) :=
  ((Mirrors.put m F.DMR_LINK_TFLAGS _ 0 (by decide)).trans (Mirrors.put _ F.DMR_LINK_SETTLING _ 0 (by decide))).trans
    (Mirrors.put _ F.DMR_LINK_LAST_SEQ _ 0 (by decide))

theorem mir_countFrame (f : DmrFrame) (m : Main) : (countFrame f m).mir = m.mir :=
  (keeps_sky ..).mir.trans (Main.count_mir ..)

theorem mir_countGap (gap : Nat) (m : Main) : (countGap gap m).mir = m.mir := by
  unfold countGap
  rw [apply_ite Main.mir, Main.count_mir, ite_self]

theorem mir_showLink (f : DmrFrame) (m : Main) : (showLink f m).mir = m.mir := by
  unfold showLink
  rw [Main.put_mir, Main.put_mir, Main.put_mir]

theorem host_countFrame (f : DmrFrame) (m : Main) : (countFrame f m).host = m.host := (signals_sky ..).host.trans (Main.count_host ..)

theorem host_countGap (gap : Nat) (m : Main) : (countGap gap m).host = m.host := by
  unfold countGap
  rw [apply_ite Main.host, Main.count_host, ite_self]

theorem host_showLink (f : DmrFrame) (m : Main) : (showLink f m).host = m.host := by
  unfold showLink
  rw [Main.put_host, Main.put_host, Main.put_host]

theorem host_markSeq (f : DmrFrame) (m : Main) : (markSeq f m).host = m.host := rfl
theorem mir_markSeq (f : DmrFrame) (m : Main) : (markSeq f m).mir = { m.mir with lastSeq := some (f.seq, f.stepNo) } := rfl

theorem mirrors_markSeq (f : DmrFrame) (m : Main) : Mirrors regs [.mir] m (markSeq f m) := Mirrors.mir m _

theorem framesOk_countFrame (f : DmrFrame) (m : Main) : (countFrame f m).get F.DMR_CNT 0 = (m.get F.DMR_CNT 0 + 1) % 2 ^ 32 :=
  ((keeps_sky ..).get F.DMR_CNT 0 rfl).trans (get_count m F.DMR_CNT 0 1)

theorem seqGap_countGap (gap : Nat) (m : Main) : (countGap gap m).get F.DMR_CNT 2 = (m.get F.DMR_CNT 2 + gap) % 2 ^ 32 := by
  unfold countGap
  split
  · next h =>
    rw [h]
    exact (Nat.mod_eq_of_lt (Main.get_lt m F.DMR_CNT 2)).symm
  · exact get_count m F.DMR_CNT 2 gap

theorem mir_frameVerified (f : DmrFrame) (m : Main) : (frameVerified f m).mir = { m.mir with lastSeq := some (f.seq, f.stepNo) } := by
  rw [frameVerified_eq, mir_showLink, mir_markSeq, mir_countGap, mir_countFrame]

/-- A verified frame leaves the rings. -/
theorem host_frameVerified (f : DmrFrame) (m : Main) : (frameVerified f m).host = m.host := by
  rw [frameVerified_eq, host_showLink, host_markSeq, host_countGap, host_countFrame]

theorem mirrors_frameVerified (f : DmrFrame) (m : Main) : Mirrors (· ∈ [0x0A0008, 0x0A0020, 0x0A0028]) [.mir] m (frameVerified f m) := by
  rw [frameVerified_eq]
  have count := (mirrors_countFrame (ps := [.mir]) f m).mono (regs' := (· ∈ [0x0A0008, 0x0A0020, 0x0A0028])) (ps' := [.mir]) (by decide)
  have gap (x : Main) (n : Nat) := (mirrors_countGap (ps := [.mir]) n x).mono (regs' := (· ∈ [0x0A0008, 0x0A0020, 0x0A0028])) (ps' := [.mir]) (by decide)
  have link (x : Main) := (mirrors_showLink (ps := [.mir]) f x).mono (regs' := (· ∈ [0x0A0008, 0x0A0020, 0x0A0028])) (ps' := [.mir]) (by decide)
  exact ((count.trans (gap _ _)).trans (mirrors_markSeq f _)).trans (link _)

/-- What a verified frame counts and shows (R280). -/
structure Verified (f : DmrFrame) (m m' : Main) : Prop where
  framesOk : m'.get F.DMR_CNT 0 = (m.get F.DMR_CNT 0 + 1) % 2 ^ 32
  seqGap : m'.get F.DMR_CNT 2 = (m.get F.DMR_CNT 2 + missingSnaps m.mir.lastSeq f) % 2 ^ 32
  lastSeq : m'.mir.lastSeq = some (f.seq, f.stepNo)
  shown : m'.get F.DMR_LINK_LAST_SEQ = f.seq % 2 ^ 16
  reports : Reports (inBlock 0x0A) [.mir, .pur] m m'

theorem verified_frameVerified (f : DmrFrame) (m : Main) : Verified f m (frameVerified f m) := by
  have after (x : Main) (i : Nat) (hi : F.DMR_CNT.addr i ≠ 0x0A0008) (hb : F.DMR_CNT.addr i / 65536 = 0x0A) :
      (showLink f (markSeq f x)).get F.DMR_CNT i = x.get F.DMR_CNT i :=
    ((mirrors_showLink (ps := []) f _).reports.get F.DMR_CNT i (by simpa using hi) (Or.inl hb)).trans
      ((mirrors_markSeq (regs := fun _ => False) f x).reports.get F.DMR_CNT i not_false (Or.inl hb))
  refine ⟨?_, ?_, by rw [mir_frameVerified], Main.get_put_same _ _ _ _ (by decide),
    (mirrors_frameVerified f m).reports.mono fun a ha => ?_⟩
  · rw [frameVerified_eq, after _ 0 (by decide) (by decide), (mirrors_countGap (ps := []) _ _).reports.get F.DMR_CNT 0 (by decide),
      framesOk_countFrame]
  · rw [frameVerified_eq, after _ 2 (by decide) (by decide), seqGap_countGap,
      (mirrors_countFrame (ps := []) f m).reports.get F.DMR_CNT 2 (by decide), mir_countFrame]
  · exact (by decide : ∀ a ∈ [0x0A0008, 0x0A0020, 0x0A0028], a / 65536 = 0x0A) a ha

/-- What a verified frame shows stays where later steps leave its counters and DMR_LINK. -/
theorem Verified.after {f : DmrFrame} {x : Main} (h : Verified f m x) (g : Reports regs [.mir, .pur] x m') (hregs : ∀ a, regs a → inBlock 0x0A a)
    (hseq : m'.mir.lastSeq = x.mir.lastSeq) (hlink : m'.get F.DMR_LINK_LAST_SEQ = x.get F.DMR_LINK_LAST_SEQ)
    (hok : ¬ regs 0x0A0020) (hgap : ¬ regs 0x0A0028) : Verified f m m' :=
  ⟨(g.get F.DMR_CNT 0 hok).trans h.framesOk, (g.get F.DMR_CNT 2 hgap).trans h.seqGap, hseq.trans h.lastSeq, hlink.trans h.shown,
   h.reports.trans (g.mono hregs)⟩

theorem linkUp_frameVerified (f : DmrFrame) (m : Main) : (frameVerified f m).bit F.DMR_LINK_LINK_UP = m.bit F.DMR_LINK_LINK_UP := by
  have hshow (x : Main) : (showLink f x).get F.DMR_LINK_LINK_UP = x.get F.DMR_LINK_LINK_UP := by
    unfold showLink
    rw [Main.get_put_bits _ _ _ _ _ _ (by decide) (by decide), Main.get_put_bits _ _ _ _ _ _ (by decide) (by decide),
      Main.get_put_bits _ _ _ _ _ _ (by decide) (by decide)]
  unfold Main.bit
  rw [frameVerified_eq, hshow, (mirrors_markSeq (regs := fun _ => False) f _).reports.get F.DMR_LINK_LINK_UP 0 not_false,
    (mirrors_countGap (ps := []) _ _).reports.get F.DMR_LINK_LINK_UP 0 (by decide),
    (mirrors_countFrame (ps := []) f m).reports.get F.DMR_LINK_LINK_UP 0 (by decide)]

/-! ### Frames that fail -/

/-- A frame that is discarded counts MIC_FAIL and shows nothing (R280). -/
theorem frameFailed_counts (o : List Byte) (m : Main) : (frameFailed o m).get F.DMR_CNT 1 = (m.get F.DMR_CNT 1 + 1) % 2 ^ 32 ∧
    Reports (· = F.DMR_CNT.addr 1) ps m (frameFailed o m) ∧ (frameFailed o m).mir = m.mir := by
  have count : Mirrors (· = F.DMR_CNT.addr 1) ps m (m.count F.DMR_CNT Dc.micFail) := Mirrors.count m F.DMR_CNT 1 1 rfl
  exact ⟨((keeps_sky ..).get F.DMR_CNT 1 rfl).trans (get_count m F.DMR_CNT 1 1), (count.trans (mirrors_sky ..)).reports,
    (keeps_sky ..).mir.trans (Main.count_mir ..)⟩

/-! ### Events 37 to 40 (R282) -/

/-- The events that fire between two values of DMR_ALARM. -/
def alarmFires (old new : Nat) : Nat → Bool
  | 37 => bitOf old 10 != bitOf new 10
  | 38 => bitOf old 11 != bitOf new 11
  | 39 => (new / 65536) &&& (old / 65536 ^^^ 65535) != 0 || (old / 65536 != 0 && new / 65536 == 0)
  | 40 => bits old 15 12 != bits new 15 12
  | _ => false

def alarmEventNos : List Nat := [37, 38, 39, 40]

theorem eventEnabled_fireIf (c : Bool) {n : Nat} (m : Main) (hn : n < 64) {k : Nat} (hk : k ∈ alarmEventNos) :
    eventEnabled (fireIf c n m) k = eventEnabled m k := by
  have h := keeps_fireIf c n m hn
  simp only [alarmEventNos, List.mem_cons, List.not_mem_nil, or_false] at hk
  rcases hk with rfl | rfl | rfl | rfl <;> exact h.bit _ 0 0 rfl

theorem keeps_alarmChange (old new : Nat) (m : Main) : Keeps m (alarmChange old new m) :=
  (((keeps_fireIf _ 37 m (by decide)).trans (keeps_fireIf _ 38 _ (by decide))).trans (keeps_fireIf _ 39 _ (by decide))).trans
    (keeps_fireIf _ 40 _ (by decide))

theorem pends_alarmChange (old new : Nat) (m : Main) {k : Nat} (hk : k ∈ alarmEventNos) :
    pends (alarmChange old new m) k = (alarmFires old new k && eventEnabled m k || pends m k) := by
  have hlt : k < 64 := (by decide : ∀ x ∈ alarmEventNos, x < 64) k hk
  have hr : k ∉ reportEvents := (by decide : ∀ x ∈ alarmEventNos, x ∉ reportEvents) k hk
  unfold alarmChange
  simp only [alarmEventNos, List.mem_cons, List.not_mem_nil, or_false] at hk
  rcases hk with rfl | rfl | rfl | rfl <;> simp (disch := decide) [pends_fireIf_eq _ _ hlt hr, eventEnabled_fireIf, alarmFires]

/-- DMR_ALARM as events 37 to 40 compare it, and those that fire (R282). -/
structure AlarmTold (new : Nat) (m m' : Main) : Prop where
  mir : m'.mir = { m.mir with alarmSeen := if m.bit F.DMR_LINK_LINK_UP then new else m.mir.alarmSeen }
  reports : Reports (fun _ => False) [.mir] m m'
  pend : ∀ k ∈ alarmEventNos,
    pends m' k = (m.bit F.DMR_LINK_LINK_UP && alarmFires m.mir.alarmSeen new k && eventEnabled m k || pends m k)

theorem alarmTold_alarmEvents (new : Nat) (m : Main) : AlarmTold new m (alarmEvents new m) := by
  unfold alarmEvents
  by_cases hup : m.bit F.DMR_LINK_LINK_UP = true
  · rw [if_pos hup]
    refine ⟨?_, ?_, fun k hk => ?_⟩
    · rw [(keeps_alarmChange ..).mir, if_pos hup]
    · exact (Frame.mir _ m _ (List.mem_singleton.2 rfl)).reports.trans ((keeps_alarmChange ..).reports _ _)
    · rw [pends_alarmChange _ _ _ hk, hup, Bool.true_and]
      rfl
  · rw [if_neg hup]
    exact ⟨by rw [if_neg hup], Frame.refl _ _ _, fun k _ => by rw [Bool.eq_false_iff.2 hup]; rfl⟩

end Sys2Proof.Machine
end

section
/-!
SUPPORT. A verified SNAPSHOT on the main side (R280–R283): the newest one, LINK_UP, DMR_ALARM with its events, DMR_PHASE and its words.
-/
namespace Sys2Proof.Machine

variable {regs : Nat → Prop} {ps : List Part} {m m' m'' : Main}

/-! ### DMR_ALARM -/

theorem Main.bit_eq_bitOf_word (m : Main) (f : Field) (i : Nat) {j : Nat} (hj : j < f.width) : m.bit f i j = bitOf (m.word (f.addr i)) (f.lo + j) := by
  unfold Main.bit Main.get
  rw [bitOf_mod _ _ _ hj, bitOf_eq_testBit, bitOf_eq_testBit, Nat.testBit_div_two_pow, Nat.add_comm]

/-- Fields of DMR_ALARM put together, each within its width. -/
theorem alarm_fields {openCt atRest missing wrong undet invalid swell sag : Nat} (ho : openCt < 65536) (hr : atRest < 16) (hm : missing < 2)
    (hw : wrong < 2) (hu : undet < 2) (hi : invalid < 2) (hl : swell < 8) (hs : sag < 8) :
    let w := openCt * 65536 + atRest * 4096 + missing * 2048 + wrong * 1024 + undet * 512 + invalid * 256 + swell * 16 + sag
    w < 2 ^ 32 ∧ w / 65536 = openCt ∧ w / 4096 % 16 = atRest ∧ w / 2048 % 2 = missing ∧ w / 1024 % 2 = wrong := by
  intro w
  omega

theorem natOf_lt (b : Bool) : natOf b < 2 := by cases b <;> decide

/-- PSEQ_WRONG of a frame; it stays while the sequence is undetermined (R270). -/
def pseqWrong (f : DmrFrame) (old : Nat) : Nat := if bits f.vstate 1 0 = 2 then bits old 10 10 else natOf (bits f.vstate 1 0 == 1)

theorem alarmWord_fields (f : DmrFrame) (old : Nat) :
    alarmWord f old < 2 ^ 32 ∧ alarmWord f old / 65536 = f.openCt % 65536 ∧ alarmWord f old / 4096 % 16 = bits f.feeders 7 4 ∧
    alarmWord f old / 2048 % 2 = bits f.vstate 2 2 ∧ alarmWord f old / 1024 % 2 = pseqWrong f old := by
  have bits_lt (v hi lo : Nat) : bits v hi lo < 2 ^ (hi + 1 - lo) := Nat.mod_lt _ (Nat.two_pow_pos _)
  have wrong : pseqWrong f old < 2 := by
    unfold pseqWrong
    split
    · exact bits_lt old 10 10
    · exact natOf_lt _
  exact alarm_fields (Nat.mod_lt _ (by decide)) (bits_lt f.feeders 7 4) (bits_lt f.vstate 2 2) wrong (natOf_lt _) (bits_lt f.vstate 3 3)
    (bits_lt f.sagSwell 6 4) (bits_lt f.sagSwell 2 0)

theorem alarmWord_missingN (f : DmrFrame) (old : Nat) : bitOf (alarmWord f old) 11 = f.vstate.testBit 2 := by
  obtain ⟨-, -, -, hmissing, -⟩ := alarmWord_fields f old
  rw [← bitOf_eq_testBit]
  exact congrArg (· == 1) hmissing

theorem alarmWord_pseqWrong (f : DmrFrame) (old : Nat) :
    bitOf (alarmWord f old) 10 = if f.vstate % 4 = 2 then bitOf old 10 else decide (f.vstate % 4 = 1) := by
  obtain ⟨-, -, -, -, hwrong⟩ := alarmWord_fields f old
  have seq : bits f.vstate 1 0 = f.vstate % 4 := by unfold bits; omega
  have h : bitOf (alarmWord f old) 10 = (pseqWrong f old == 1) := congrArg (· == 1) hwrong
  rw [h]
  unfold pseqWrong
  rw [seq]
  split
  · rfl
  · by_cases h1 : f.vstate % 4 = 1 <;> simp [h1, natOf]

/-- A bit that is set in `n` and not in `o`, of 16. -/
theorem risen_iff {n : Nat} (hn : n < 2 ^ 16) (o : Nat) : n &&& (o ^^^ 65535) ≠ 0 ↔ ∃ i, i < 16 ∧ o.testBit i = false ∧ n.testBit i = true := by
  have bit (i : Nat) : (n &&& (o ^^^ 65535)).testBit i = (n.testBit i && (o.testBit i ^^ decide (i < 16))) := by
    rw [Nat.testBit_and, Nat.testBit_xor, show (65535 : Nat) = 2 ^ 16 - 1 from rfl, Nat.testBit_two_pow_sub_one]
  constructor
  · intro h
    obtain ⟨i, hi⟩ := Nat.exists_testBit_of_ne_zero h
    rw [bit, Bool.and_eq_true] at hi
    obtain ⟨hset, hold⟩ := hi
    have hlt : i < 16 := by
      by_contra hge
      rw [Nat.testBit_lt_two_pow (hn.trans_le (Nat.pow_le_pow_right (by decide) (by omega)))] at hset
      cases hset
    rw [decide_eq_true hlt, Bool.xor_true, Bool.not_eq_true'] at hold
    exact ⟨i, hlt, hold, hset⟩
  · rintro ⟨i, hlt, hold, hset⟩ h
    have := bit i
    rw [h, hset, hold, decide_eq_true hlt, Nat.zero_testBit] at this
    cases this

/-- Event 39 fires where a fault rises among 16, or the last one clears (R282). -/
theorem openCt_told {old new : Nat} (h : new < 2 ^ 32) :
    alarmFires old new 39 = true ↔ (∃ i, 16 ≤ i ∧ i < 32 ∧ old.testBit i = false ∧ new.testBit i = true) ∨ (65536 ≤ old ∧ new / 65536 = 0) := by
  have shifted (x i : Nat) : (x / 65536).testBit i = x.testBit (16 + i) := by
    rw [show (65536 : Nat) = 2 ^ 16 from rfl, Nat.testBit_div_two_pow, Nat.add_comm]
  have risen : new / 65536 &&& (old / 65536 ^^^ 65535) ≠ 0 ↔ ∃ i, 16 ≤ i ∧ i < 32 ∧ old.testBit i = false ∧ new.testBit i = true := by
    rw [risen_iff (by omega)]
    constructor
    · rintro ⟨i, hi, hold, hnew⟩
      exact ⟨16 + i, by omega, by omega, (shifted old i) ▸ hold, (shifted new i) ▸ hnew⟩
    · rintro ⟨i, hlow, hhigh, hold, hnew⟩
      refine ⟨i - 16, by omega, ?_, ?_⟩ <;> rw [shifted, show 16 + (i - 16) = i by omega] <;> assumption
  show (_ || _) = true ↔ _
  rw [Bool.or_eq_true, Bool.and_eq_true, bne_iff_ne, bne_iff_ne, beq_iff_eq, risen]
  have : old / 65536 ≠ 0 ↔ 65536 ≤ old := by omega
  rw [this]

/-! ### The steps of a SNAPSHOT -/

/-- The frame becomes the newest SNAPSHOT, and LINK_UP follows the third in a row (R280). -/
def takeSnap (f : DmrFrame) (m : Main) : Main :=
  let run := min 3 (m.mir.upRun + 1)
  let m : Main := { m with mir := { m.mir with upRun := run, snap := some f } }
  if run = 3 then m.putBit F.DMR_LINK_LINK_UP true else m

def showPhase (f : DmrFrame) (m : Main) : Main := (m.put F.DMR_PHASE_NOLOAD f.noload).put F.DMR_PHASE_REVERSE f.reverse

/-- DMR_ALARM, DMR_PHASE, the latch of what has risen, and the frame's words (R282). -/
def showSnap (o : List Byte) (f : DmrFrame) (m : Main) : Main :=
  let oldA := m.word (F.DMR_ALARM_SAG.addr 0)
  let newA := alarmWord f oldA
  let m := showPhase f (m.setWord (F.DMR_ALARM_SAG.addr 0) newA)
  let rise := newA &&& (oldA ^^^ 0xFFFFFFFF) &&& 0xFFFF0C77
  let m := m.setWord (F.DMR_ALARM_LATCH_SAG.addr 0) (m.word (F.DMR_ALARM_LATCH_SAG.addr 0) ||| rise)
  m.putWords (F.DMR_SNAP_WIN.addr 0) (wordsOf o 142)

/-- Sags, swells and reverse flow are watched (R270). -/
def watchSnap (old : Nat) (f : DmrFrame) (b : SnapBody) (m : Main) : Main := watchReverse old f.reverse (watchDips f b m)

theorem snapshotGood_eq (o : List Byte) (f : DmrFrame) (b : SnapBody) (m : Main) : snapshotGood o f b m =
    let x := takeSnap f (frameVerified f m)
    watchSnap (x.get F.DMR_PHASE_REVERSE) f b (alarmEvents (alarmWord f (x.word (F.DMR_ALARM_SAG.addr 0))) (showSnap o f x)) := rfl

theorem mir_takeSnap (f : DmrFrame) (m : Main) :
    (takeSnap f m).mir = { m.mir with upRun := min 3 (m.mir.upRun + 1), snap := some f } := by
  unfold takeSnap
  dsimp only
  rw [apply_ite Main.mir, Main.putBit_mir, ite_self]

theorem mirrors_takeSnap (f : DmrFrame) (m : Main) : Mirrors (· ∈ [0x0A0008]) [.mir] m (takeSnap f m) :=
  (Mirrors.mir m _).trans (Mirrors.ite _ (Mirrors.putBit _ F.DMR_LINK_LINK_UP true 0 0 (by decide)) (Mirrors.refl _ _ _))

theorem linkUp_takeSnap (f : DmrFrame) (m : Main) :
    (takeSnap f m).bit F.DMR_LINK_LINK_UP = (m.bit F.DMR_LINK_LINK_UP || decide (2 ≤ m.mir.upRun)) := by
  unfold takeSnap
  dsimp only
  by_cases h : 2 ≤ m.mir.upRun
  · rw [if_pos (by omega), bit_putBit_same _ F.DMR_LINK_LINK_UP true 0, decide_eq_true h, Bool.or_true]
  · rw [if_neg (by omega), decide_eq_false h, Bool.or_false]
    rfl

theorem lastSeq_takeSnap (f : DmrFrame) (m : Main) : (takeSnap f m).get F.DMR_LINK_LAST_SEQ = m.get F.DMR_LINK_LAST_SEQ := by
  have put (x : Main) : (x.putBit F.DMR_LINK_LINK_UP true).get F.DMR_LINK_LAST_SEQ = x.get F.DMR_LINK_LAST_SEQ :=
    Main.get_put_bits _ _ _ _ _ _ (by decide) (by decide)
  unfold takeSnap
  dsimp only
  split
  · exact put _
  · rfl

/-- The registers that a SNAPSHOT shows. -/
def snapRegs (a : Nat) : Prop := a ∈ [0x0A000C, 0x0A0010, 0x0A0014] ∨ wordsIn 0x0A0100 0x0A0338 a

theorem snapRegs_block {a : Nat} (h : snapRegs a) : inBlock 0x0A a := by
  simp only [snapRegs, wordsIn, List.mem_cons, List.not_mem_nil, or_false] at h
  unfold inBlock
  omega

theorem not_snapRegs {a : Nat} (h : a < 0x0A000C ∨ 0x0A0014 < a ∧ a < 0x0A0100) : ¬ snapRegs a := by
  simp only [snapRegs, wordsIn, List.mem_cons, List.not_mem_nil, or_false]
  omega

theorem mirrors_showPhase (f : DmrFrame) (m : Main) : Mirrors (· ∈ [0x0A0010]) ps m (showPhase f m) :=
  (Mirrors.put m F.DMR_PHASE_NOLOAD _ 0 (by decide)).trans (Mirrors.put _ F.DMR_PHASE_REVERSE _ 0 (by decide))

theorem mirrors_snapWords (m : Main) (o : List Byte) :
    Mirrors (wordsIn 0x0A0100 0x0A0338) ps m (m.putWords (F.DMR_SNAP_WIN.addr 0) (wordsOf o 142)) :=
  Mirrors.putWords m _ _ (b := 0x0A0338) (by rw [length_wordsOf]; decide) (by decide) fun _ => id

/-- What a SNAPSHOT shows in its registers. -/
structure SnapShown (o : List Byte) (f : DmrFrame) (m m' : Main) : Prop where
  mirrors : Mirrors snapRegs [] m m'
  mir : m'.mir = m.mir
  alarm : m'.word 0x0A000C = alarmWord f (m.word 0x0A000C)
  noload : m'.get F.DMR_PHASE_NOLOAD = f.noload % 2 ^ 16
  reverse : m'.get F.DMR_PHASE_REVERSE = f.reverse % 2 ^ 16
  words : ∀ k : Fin 142, m'.word (0x0A0100 + 4 * k) = lle o (4 * k) 4

theorem mir_putWords (m : Main) (a : Nat) (ws : List Nat) : (m.putWords a ws).mir = m.mir := by
  induction ws generalizing m a with
  | nil => rfl
  | cons w t ih => exact (ih _ _).trans (Main.setWord_mir ..)

/-- The latch and the words come after DMR_ALARM and DMR_PHASE. -/
def latchSnap (o : List Byte) (rise : Nat) (m : Main) : Main :=
  (m.setWord (F.DMR_ALARM_LATCH_SAG.addr 0) (m.word (F.DMR_ALARM_LATCH_SAG.addr 0) ||| rise)).putWords (F.DMR_SNAP_WIN.addr 0) (wordsOf o 142)

theorem mirrors_latchSnap (o : List Byte) (rise : Nat) (m : Main) :
    Mirrors (fun a => a = 0x0A0014 ∨ wordsIn 0x0A0100 0x0A0338 a) ps m (latchSnap o rise m) :=
  (Mirrors.setWord m _ (Or.inl rfl)).trans ((mirrors_snapWords _ o).mono (ps' := ps) (fun _ => Or.inr) fun _ => id)

theorem mir_latchSnap (o : List Byte) (rise : Nat) (m : Main) : (latchSnap o rise m).mir = m.mir := by
  unfold latchSnap
  rw [mir_putWords, Main.setWord_mir]

theorem mir_showPhase (f : DmrFrame) (m : Main) : (showPhase f m).mir = m.mir := by
  unfold showPhase
  rw [Main.put_mir, Main.put_mir]

def showAlarm (w : Nat) (m : Main) : Main := m.setWord (F.DMR_ALARM_SAG.addr 0) w

theorem mirrors_showAlarm (w : Nat) (m : Main) : Mirrors (· ∈ [0x0A000C]) ps m (showAlarm w m) := Mirrors.setWord m w (by decide)

theorem showSnap_eq (o : List Byte) (f : DmrFrame) (m : Main) :
    ∃ rise, showSnap o f m = latchSnap o rise (showPhase f (showAlarm (alarmWord f (m.word 0x0A000C)) m)) := ⟨_, rfl⟩

theorem snapShown_showSnap (o : List Byte) (f : DmrFrame) (m : Main) : SnapShown o f m (showSnap o f m) := by
  obtain ⟨rise, he⟩ := showSnap_eq o f m
  rw [he]
  have alarm := mirrors_showAlarm (ps := []) (alarmWord f (m.word 0x0A000C)) m
  have phase := mirrors_showPhase (ps := []) f (showAlarm (alarmWord f (m.word 0x0A000C)) m)
  have latch := mirrors_latchSnap (ps := []) o rise (showPhase f (showAlarm (alarmWord f (m.word 0x0A000C)) m))
  refine ⟨?_, ?_, ?_, ?_, ?_, fun k => word_putWords_wordsOf _ _ o k.isLt⟩
  · have listed {l : List Nat} (hl : ∀ a ∈ l, a ∈ [0x0A000C, 0x0A0010, 0x0A0014]) : ∀ a, a ∈ l → snapRegs a := fun a ha => Or.inl (hl a ha)
    exact ((alarm.mono (listed (by decide))).trans (phase.mono (listed (by decide)))).trans
      (latch.mono fun a ha => ha.imp (fun e => by rw [e]; decide) id)
  · rw [mir_latchSnap, mir_showPhase]
    exact Main.setWord_mir ..
  · rw [latch.reports.word (by unfold wordsIn; omega) (by omega), phase.reports.word (by decide) (by omega)]
    exact (Main.word_setWord_same m 0x0A000C _).trans (Nat.mod_eq_of_lt (alarmWord_fields f _).1)
  · rw [latch.reports.get F.DMR_PHASE_NOLOAD 0 (by unfold wordsIn; decide)]
    exact (Main.get_put_bits _ _ _ _ _ _ (by decide) (by decide)).trans (Main.get_put_same _ F.DMR_PHASE_NOLOAD _ _ (by decide))
  · rw [latch.reports.get F.DMR_PHASE_REVERSE 0 (by unfold wordsIn; decide)]
    exact Main.get_put_same _ F.DMR_PHASE_REVERSE _ _ (by decide)

/-! ### What is watched -/

/-- The counters of sags and swells, with the records, and the mirror but for its sags and swells. -/
structure Watched (m m' : Main) : Prop where
  mirrors : Mirrors (· ∈ [0x0A0030, 0x0A0034]) [.mir] m m'
  mir : ∃ sag swell, m'.mir = { m.mir with sag := sag, swell := swell }

theorem Watched.trans (h : Watched m m') (g : Watched m' m'') : Watched m m'' := by
  obtain ⟨sag, swell, hm⟩ := g.mir
  obtain ⟨_, _, hm'⟩ := h.mir
  exact ⟨h.mirrors.trans g.mirrors, sag, swell, by rw [hm, hm']⟩

theorem Watched.refl (m : Main) : Watched m m := ⟨Mirrors.refl _ _ m, _, _, rfl⟩

theorem Watched.foldl {α : Type} (f : Main → α → Main) (h : ∀ x m, Watched m (f m x)) (l : List α) (m : Main) : Watched m (l.foldl f m) := by
  induction l generalizing m with
  | nil => exact Watched.refl m
  | cons x t ih => exact (h x m).trans (ih _)

theorem watched_record (code p0 p1 p2 p3 : Nat) (m : Main) : Watched m (record code p0 p1 p2 p3 m) :=
  ⟨mirrors_record .., _, _, (keeps_record ..).mir⟩

theorem watched_watchDip (code p v : Nat) (on : Bool) (worse : Nat → Nat → Nat) (d : Option Dip) (m : Main) :
    Watched m (watchDip code p v on worse d m).2 := by
  unfold watchDip
  split
  · refine ⟨Mirrors.count m F.DMR_CNT _ 1 ?_ ?_, _, _, Main.count_mir ..⟩ <;> split <;> decide
  · exact Watched.refl m
  · exact watched_record ..
  · exact Watched.refl m

theorem watched_watchDips (f : DmrFrame) (b : SnapBody) (m : Main) : Watched m (watchDips f b m) := by
  refine Watched.foldl _ (fun p x => ?_) _ m
  have put (y : Main) (sag swell : Vector (Option Dip) 3) : Watched y { y with mir := { y.mir with sag := sag, swell := swell } } :=
    ⟨Mirrors.mir y _, _, _, rfl⟩
  exact (((watched_watchDip _ _ _ _ _ _ x).trans (put _ _ _)).trans (watched_watchDip _ _ _ _ _ _ _)).trans (put _ _ _)

theorem watched_watchReverse (old new : Nat) (m : Main) : Watched m (watchReverse old new m) := by
  refine Watched.foldl _ (fun p x => ?_) _ m
  have ite (c : Prop) [Decidable c] (y : Main) (code p0 p1 p2 : Nat) : Watched y (if c then y else record code p0 p1 p2 0 y) := by
    split
    · exact Watched.refl y
    · exact watched_record ..
  exact (ite _ x _ _ _ _).trans (ite _ _ _ _ _ _)

theorem watched_watchSnap (old : Nat) (f : DmrFrame) (b : SnapBody) (m : Main) : Watched m (watchSnap old f b m) :=
  (watched_watchDips f b m).trans (watched_watchReverse _ _ _)

theorem foldl_pur {α : Type} (f : Main → α → Main) (h : ∀ m x, ∃ v, f m x = { m with pur := v }) (l : List α) (m : Main) :
    ∃ v, l.foldl f m = { m with pur := v } := by
  induction l generalizing m with
  | nil => exact ⟨m.pur, rfl⟩
  | cons x t ih =>
    obtain ⟨v, hv⟩ := h m x
    obtain ⟨w, hw⟩ := ih (f m x)
    exact ⟨w, by rw [List.foldl_cons, hw, hv]⟩

/-- The residuals are the loop engine's (R245). -/
theorem residSample_eq (m : Main) : ∃ v, residSample m = { m with pur := v } := by
  unfold residSample
  split
  · split
    · exact ⟨_, rfl⟩
    · refine foldl_pur _ (fun x k => ?_) _ m
      split
      · exact ⟨_, rfl⟩
      · exact ⟨_, rfl⟩
  · exact ⟨_, rfl⟩

/-- What is watched and the residuals, after the events. -/
structure Aside (m m' : Main) : Prop where
  mirrors : Mirrors (· ∈ [0x0A0030, 0x0A0034]) [.mir, .pur] m m'
  snap : m'.mir.snap = m.mir.snap
  lastSeq : m'.mir.lastSeq = m.mir.lastSeq
  alarmSeen : m'.mir.alarmSeen = m.mir.alarmSeen

theorem aside_residSample (old : Nat) (f : DmrFrame) (b : SnapBody) (m : Main) : Aside m (residSample (watchSnap old f b m)) := by
  have ⟨hw, sag, swell, hm⟩ := watched_watchSnap old f b m
  obtain ⟨v, hv⟩ := residSample_eq (watchSnap old f b m)
  have pur (x : Main) : Mirrors (· ∈ [0x0A0030, 0x0A0034]) [.mir, .pur] x { x with pur := v } :=
    ⟨(Frame.pur _ x v).reports.mono fun _ => id, Mute.side rfl rfl⟩
  have hmir : (residSample (watchSnap old f b m)).mir = (watchSnap old f b m).mir := by rw [hv]
  rw [hm] at hmir
  refine ⟨?_, by rw [hmir], by rw [hmir], by rw [hmir]⟩
  rw [hv]
  exact (hw.mono (fun _ => id)).trans (pur _)

/-! ### A verified SNAPSHOT -/

/-- What a verified SNAPSHOT leaves. -/
structure SnapTaken (o : List Byte) (f : DmrFrame) (m m' : Main) : Prop where
  verified : Verified f m m'
  snap : m'.mir.snap = some f
  linkUp : m'.bit F.DMR_LINK_LINK_UP = (m.bit F.DMR_LINK_LINK_UP || decide (2 ≤ m.mir.upRun))
  words : ∀ k : Fin 142, m'.word (0x0A0100 + 4 * k) = lle o (4 * k) 4
  noload : m'.get F.DMR_PHASE_NOLOAD = f.noload % 2 ^ 16
  reverse : m'.get F.DMR_PHASE_REVERSE = f.reverse % 2 ^ 16
  alarm : m'.word 0x0A000C = alarmWord f (m.word 0x0A000C)
  alarmSeen : m'.mir.alarmSeen = if m'.bit F.DMR_LINK_LINK_UP then m'.word 0x0A000C else m.mir.alarmSeen
  pend : ∀ k ∈ alarmEventNos, pends m' k =
    (m'.bit F.DMR_LINK_LINK_UP && alarmFires m.mir.alarmSeen (m'.word 0x0A000C) k && eventEnabled m k || pends m k)

/-- The front of a SNAPSHOT: it is verified and becomes the newest. -/
structure SnapFront (f : DmrFrame) (m x : Main) : Prop where
  verified : Verified f m x
  mirrors : Mirrors (· ∈ [0x0A0008, 0x0A0020, 0x0A0028]) [.mir] m x
  snap : x.mir.snap = some f
  alarmSeen : x.mir.alarmSeen = m.mir.alarmSeen
  linkUp : x.bit F.DMR_LINK_LINK_UP = (m.bit F.DMR_LINK_LINK_UP || decide (2 ≤ m.mir.upRun))

theorem snapFront (f : DmrFrame) (m : Main) : SnapFront f m (takeSnap f (frameVerified f m)) := by
  have take := mirrors_takeSnap f (frameVerified f m)
  have hmir := mir_takeSnap f (frameVerified f m)
  rw [mir_frameVerified] at hmir
  refine ⟨(verified_frameVerified f m).after (take.reports.mono (fun _ => id)) ?_ ?_ (lastSeq_takeSnap _ _) (by decide) (by decide),
    (mirrors_frameVerified f m).trans (take.mono (by decide)), by rw [hmir], by rw [hmir], ?_⟩
  · exact (by decide : ∀ a ∈ [0x0A0008], a / 65536 = 0x0A)
  · rw [hmir, mir_frameVerified]
  · rw [linkUp_takeSnap, linkUp_frameVerified, mir_frameVerified]

theorem eventEnabled_alarm {x y : Main} (h : y.word 0x0A0004 = x.word 0x0A0004) {k : Nat} (hk : k ∈ alarmEventNos) :
    eventEnabled y k = eventEnabled x k := by
  have enable (f : Field) (hf : f.addr 0 = 0x0A0004) : y.bit f = x.bit f := by
    unfold Main.bit Main.get
    rw [hf, h]
  simp only [alarmEventNos, List.mem_cons, List.not_mem_nil, or_false] at hk
  rcases hk with rfl | rfl | rfl | rfl <;> exact enable _ rfl

theorem snapTaken {o : List Byte} {f : DmrFrame} {m x y z m' : Main} (front : SnapFront f m x) (shown : SnapShown o f x y)
    (told : AlarmTold (alarmWord f (x.word 0x0A000C)) y z) (aside : Aside z m') : SnapTaken o f m m' := by
  have hold : x.word 0x0A000C = m.word 0x0A000C := front.mirrors.reports.word (by decide) (by omega)
  have late : Reports (· ∈ [0x0A0030, 0x0A0034]) [.mir, .pur] y m' :=
    (told.reports.mono (fun _ => False.elim)).trans aside.mirrors.reports
  have rest : Reports (fun a => snapRegs a ∨ a ∈ [0x0A0030, 0x0A0034]) [.mir, .pur] x m' :=
    (shown.mirrors.reports.mono (fun _ => Or.inl)).trans (late.mono fun _ => Or.inr)
  have off {a : Nat} (h : a < 0x0A000C) : ¬ (snapRegs a ∨ a ∈ [0x0A0030, 0x0A0034]) :=
    not_or.2 ⟨not_snapRegs (Or.inl h), by simp; omega⟩
  have alarm : m'.word 0x0A000C = alarmWord f (m.word 0x0A000C) :=
    (late.word (by decide) (by omega)).trans (hold ▸ shown.alarm)
  have up : m'.bit F.DMR_LINK_LINK_UP = y.bit F.DMR_LINK_LINK_UP := late.bit F.DMR_LINK_LINK_UP 0 0 (by decide)
  have seen : y.mir.alarmSeen = m.mir.alarmSeen := by rw [shown.mir, front.alarmSeen]
  have enabled : y.word 0x0A0004 = m.word 0x0A0004 :=
    (shown.mirrors.reports.word (not_snapRegs (by omega)) (by omega)).trans (front.mirrors.reports.word (by decide) (by omega))
  rw [hold, ← alarm] at told
  refine ⟨front.verified.after rest ?_ ?_ ?_ ?_ ?_, ?_, ?_, fun k => ?_, ?_, ?_, alarm, ?_, fun k hk => ?_⟩
  · rintro a (ha | ha)
    · exact snapRegs_block ha
    · exact (by decide : ∀ a ∈ [0x0A0030, 0x0A0034], a / 65536 = 0x0A) a ha
  · rw [aside.lastSeq, told.mir, shown.mir]
  · exact rest.get F.DMR_LINK_LAST_SEQ 0 (off (by decide))
  · exact not_or.2 ⟨not_snapRegs (by omega), by decide⟩
  · exact not_or.2 ⟨not_snapRegs (by omega), by decide⟩
  · rw [aside.snap, told.mir, shown.mir, front.snap]
  · exact (rest.bit F.DMR_LINK_LINK_UP 0 0 (off (by decide))).trans front.linkUp
  · exact (late.word (by simp; omega) (by omega)).trans (shown.words k)
  · exact (late.get F.DMR_PHASE_NOLOAD 0 (by decide)).trans shown.noload
  · exact (late.get F.DMR_PHASE_REVERSE 0 (by decide)).trans shown.reverse
  · rw [aside.alarmSeen, told.mir, up, ← seen]
  · have hlt : k < 64 := (by decide : ∀ x ∈ alarmEventNos, x < 64) k hk
    have hr : k ∉ reportEvents := (by decide : ∀ x ∈ alarmEventNos, x ∉ reportEvents) k hk
    rw [aside.mirrors.mute.pend k hlt hr, told.pend k hk, up, seen, eventEnabled_alarm enabled hk, shown.mirrors.mute.pend k hlt hr,
      front.mirrors.mute.pend k hlt hr]

theorem snapTaken_snapshotGood (o : List Byte) (f : DmrFrame) (b : SnapBody) (m : Main) :
    SnapTaken o f m (residSample (snapshotGood o f b m)) := by
  rw [snapshotGood_eq]
  exact snapTaken (snapFront f m) (snapShown_showSnap o f _) (alarmTold_alarmEvents _ _) (aside_residSample _ f b _)

end Sys2Proof.Machine
end

section
/-!
SUPPORT. INFO, INTERVAL and PROFILE frames on the main side (R281, R316).
-/
namespace Sys2Proof.Machine

variable {regs : Nat → Prop} {ps : List Part} {m m' : Main}

/-! ### INFO -/

/-- The identity flags of an INFO frame, and its words (R281). -/
def showIdent (ident : List Byte) (m : Main) : Main :=
  ((m.put F.DMR_ID_ROM_ID (lle ident 8 2)).putBit F.DMR_ID_INFO_VALID true).putBit F.DMR_ID_APPROVED (lle ident 96 1 == 1)

def keepIdent (ident meas : List Byte) (m : Main) : Main := { m with mir := { m.mir with ident := ident, meas := meas } }

theorem infoGood_eq (f : DmrFrame) (ident meas : List Byte) (m : Main) : infoGood f ident meas m =
    (showIdent ident (keepIdent ident meas ((frameVerified f m).count F.DMR_CNT Dc.infoOk))).putWords (F.DMR_INFO_WIN.addr 0)
      (wordsOf (ident ++ meas) 92) := rfl

theorem mirrors_showIdent (ident : List Byte) (m : Main) : Mirrors (· ∈ [0x0A0000]) ps m (showIdent ident m) :=
  ((Mirrors.put m F.DMR_ID_ROM_ID _ 0 (by decide)).trans (Mirrors.putBit _ F.DMR_ID_INFO_VALID _ 0 0 (by decide))).trans
    (Mirrors.putBit _ F.DMR_ID_APPROVED _ 0 0 (by decide))

theorem mir_showIdent (ident : List Byte) (m : Main) : (showIdent ident m).mir = m.mir := by
  unfold showIdent
  rw [Main.putBit_mir, Main.putBit_mir, Main.put_mir]

/-- What an INFO frame shows of the dormer's identity. -/
theorem showIdent_shows (ident : List Byte) (m : Main) : (showIdent ident m).get F.DMR_ID_ROM_ID = lle ident 8 2 ∧
    (showIdent ident m).bit F.DMR_ID_INFO_VALID = true ∧ (showIdent ident m).bit F.DMR_ID_APPROVED = decide (lle ident 96 1 = 1) := by
  have rom : lle ident 8 2 < 2 ^ 16 :=
    (leVal_lt _).trans_le ((Nat.pow_le_pow_right (by decide) (List.length_take_le ..) : _ ≤ 256 ^ 2))
  have apart (x : Main) (f g : Field) (v : Nat) (hf : f.lo + f.width ≤ 32 := by decide)
      (h : g.lo + g.width ≤ f.lo ∨ f.lo + f.width ≤ g.lo := by decide) : (x.put f v).get g = x.get g := Main.get_put_bits _ _ _ _ _ _ hf h
  unfold showIdent
  refine ⟨?_, ?_, bit_putBit_same _ F.DMR_ID_APPROVED _ 0⟩
  · unfold Main.putBit
    rw [apart _ F.DMR_ID_APPROVED F.DMR_ID_ROM_ID, apart _ F.DMR_ID_INFO_VALID F.DMR_ID_ROM_ID, Main.get_put_same _ _ _ _ (by decide)]
    exact Nat.mod_eq_of_lt rom
  · have stays (x : Main) (on : Bool) : (x.putBit F.DMR_ID_APPROVED on).bit F.DMR_ID_INFO_VALID = x.bit F.DMR_ID_INFO_VALID :=
      congrArg (bitOf · 0) (apart x F.DMR_ID_APPROVED F.DMR_ID_INFO_VALID _)
    rw [stays, bit_putBit_same _ F.DMR_ID_INFO_VALID true 0]

/-- What a verified INFO frame leaves. -/
structure InfoTaken (f : DmrFrame) (ident meas : List Byte) (m m' : Main) : Prop where
  verified : Verified f m m'
  count : m'.get F.DMR_CNT 3 = (m.get F.DMR_CNT 3 + 1) % 2 ^ 32
  words : ∀ k : Fin 92, m'.word (0x0A0400 + 4 * k) = lle (ident ++ meas) (4 * k) 4
  romId : m'.get F.DMR_ID_ROM_ID = lle ident 8 2
  valid : m'.bit F.DMR_ID_INFO_VALID = true
  approved : m'.bit F.DMR_ID_APPROVED = decide (lle ident 96 1 = 1)
  mir : m'.mir = { m.mir with ident := ident, meas := meas, lastSeq := some (f.seq, f.stepNo) }

theorem infoTaken_infoGood (f : DmrFrame) (ident meas : List Byte) (m : Main) : InfoTaken f ident meas m (infoGood f ident meas m) := by
  rw [infoGood_eq]
  have count : Mirrors (· ∈ [0x0A002C]) [.mir] (frameVerified f m) ((frameVerified f m).count F.DMR_CNT Dc.infoOk) :=
    Mirrors.count _ F.DMR_CNT _ 1 (by decide)
  have hcount : ((frameVerified f m).count F.DMR_CNT Dc.infoOk).get F.DMR_CNT 3 = ((frameVerified f m).get F.DMR_CNT 3 + 1) % 2 ^ 32 :=
    get_count _ F.DMR_CNT 3 1
  have hmir : ((frameVerified f m).count F.DMR_CNT Dc.infoOk).mir = { m.mir with lastSeq := some (f.seq, f.stepNo) } := by
    rw [Main.count_mir, mir_frameVerified]
  generalize (frameVerified f m).count F.DMR_CNT Dc.infoOk = x at count hcount hmir
  have keep : Mirrors (fun _ => False) [.mir] x (keepIdent ident meas x) := Mirrors.mir x _
  have ident' := mirrors_showIdent (ps := [.mir]) ident (keepIdent ident meas x)
  obtain ⟨hrom, hvalid, happroved⟩ := showIdent_shows ident (keepIdent ident meas x)
  have hident : (showIdent ident (keepIdent ident meas x)).mir = { m.mir with ident := ident, meas := meas, lastSeq := some (f.seq, f.stepNo) } := by
    rw [mir_showIdent]
    unfold keepIdent
    rw [hmir]
  generalize showIdent ident (keepIdent ident meas x) = y at ident' hrom hvalid happroved hident
  have window : Mirrors (wordsIn 0x0A0400 0x0A0570) [.mir] y (y.putWords (F.DMR_INFO_WIN.addr 0) (wordsOf (ident ++ meas) 92)) :=
    Mirrors.putWords y _ _ (b := 0x0A0570) (by rw [length_wordsOf]; decide) (by decide) fun _ => id
  have off {a : Nat} (h : a < 0x0A0400) : ¬ wordsIn 0x0A0400 0x0A0570 a := fun hx => by have := hx.1; omega
  have early : Reports (· ∈ [0x0A002C, 0x0A0000]) [.mir, .pur] (frameVerified f m) y :=
    ((count.reports.mono (by decide)).trans (keep.reports.mono (fun _ => False.elim))).trans (ident'.reports.mono (by decide))
  have seq : y.mir.lastSeq = (frameVerified f m).mir.lastSeq := by rw [hident, mir_frameVerified]
  have front : Verified f m y := (verified_frameVerified f m).after early
    (by decide : ∀ a ∈ [0x0A002C, 0x0A0000], a / 65536 = 0x0A) seq (early.get F.DMR_LINK_LAST_SEQ 0 (by decide)) (by decide) (by decide)
  refine ⟨front.after (window.reports.mono (fun _ => id)) (fun a ha => ?_) (by rw [mir_putWords]) (window.reports.get F.DMR_LINK_LAST_SEQ 0 (off (by decide)))
    (off (by decide)) (off (by decide)), ?_, fun k => word_putWords_wordsOf y _ _ k.isLt, ?_, ?_, ?_, by rw [mir_putWords, hident]⟩
  · unfold wordsIn at ha
    unfold inBlock
    omega
  · rw [window.reports.get F.DMR_CNT 3 (off (by decide)), ident'.reports.get F.DMR_CNT 3 (by decide), keep.reports.get F.DMR_CNT 3 not_false,
      hcount, (mirrors_frameVerified f m).reports.get F.DMR_CNT 3 (by decide)]
  · rw [window.reports.get F.DMR_ID_ROM_ID 0 (off (by decide)), hrom]
  · rw [window.reports.bit F.DMR_ID_INFO_VALID 0 0 (off (by decide)), hvalid]
  · rw [window.reports.bit F.DMR_ID_APPROVED 0 0 (off (by decide)), happroved]

/-! ### INTERVAL and PROFILE -/

/-- A record that finds others waiting waits behind them (R367). -/
theorem waiting_uplPost {u : Nat} (rec : List Byte) {m : Main} (hu : 8 + u < 32) (hw : (ringOf m (8 + u)).waiting ≠ [])
    (hlen : (ringOf m (8 + u)).waiting.length < 64) : (ringOf (uplPost u rec m) (8 + u)).waiting = (ringOf m (8 + u)).waiting ++ [rec] := by
  have hempty : (ringOf m (8 + u)).waiting.isEmpty = false := by simpa using hw
  unfold uplPost
  dsimp only
  rw [hempty, Bool.false_and, if_neg (by decide), if_neg (by omega), ringOf_withRing_same _ _ hu]

theorem host_putWords (m : Main) (a : Nat) (ws : List Nat) : (m.putWords a ws).host = m.host := by
  induction ws generalizing m a with
  | nil => rfl
  | cons w t ih => exact (ih _ _).trans (Main.setWord_host ..)

/-- The words of an INTERVAL frame are sixteen (R316). -/
theorem length_interval {m : Main} {o : List Byte} {f : DmrFrame} (h : linkFrame m o = some f) {n : Nat} {w : List Nat}
    (hb : f.body = .interval n w) : w.length = 16 := by
  unfold linkFrame dmrVerified at h
  obtain ⟨-, h⟩ := Option.ite_none_right_eq_some.1 h
  obtain rfl : dmrFields o = f := by simpa using h
  have hbody : bodyOf (lle o 2 1) o = .interval n w := hb
  unfold bodyOf at hbody
  split at hbody <;> cases hbody
  simp [words4]

/-- What a frame that is posted to UPL3 leaves beside its window. -/
structure Posted (f : DmrFrame) (o : List Byte) (m m' : Main) : Prop where
  verified : Verified f m m'
  waits : (ringOf m 11).waiting ≠ [] → (ringOf m 11).waiting.length < 64 → (ringOf m' 11).waiting = (ringOf m 11).waiting ++ [o]
  mir : m'.mir = { m.mir with lastSeq := some (f.seq, f.stepNo) }

theorem posted_uplPost {f : DmrFrame} {o : List Byte} {m x : Main} (h : Verified f m x) (hhost : x.host = m.host)
    (hmir : x.mir = { m.mir with lastSeq := some (f.seq, f.stepNo) }) : Posted f o m (uplPost 3 o x) := by
  have keeps := keeps_uplPost 3 o x (by decide)
  have ring : ringOf x 11 = ringOf m 11 := by unfold ringOf; rw [hhost]
  refine ⟨h.after (regs := fun _ => False) (keeps.reports _ _) (fun _ => False.elim) (by rw [keeps.mir]) (keeps.get F.DMR_LINK_LAST_SEQ 0 rfl)
    not_false not_false, fun hw hlen => ?_, keeps.mir.trans hmir⟩
  rw [← ring] at hw hlen ⊢
  exact waiting_uplPost o (by decide) hw hlen

theorem posted_profile (f : DmrFrame) (o : List Byte) (m : Main) : Posted f o m (uplPost 3 o (frameVerified f m)) :=
  posted_uplPost (verified_frameVerified f m) (host_frameVerified f m) (mir_frameVerified f m)

/-- The window of an INTERVAL frame. -/
def showInterval (n : Nat) (w : List Nat) (m : Main) : Main := m.putWords (F.DMR_IVL_WIN.addr 0) (n :: w)

theorem mirrors_showInterval (n : Nat) {w : List Nat} (h : w.length = 16) (m : Main) :
    Mirrors (wordsIn 0x0A0800 0x0A0844) ps m (showInterval n w m) :=
  Mirrors.putWords m _ _ (b := 0x0A0844) (by rw [List.length_cons, h]; decide) (by decide) fun _ => id

/-- What a verified INTERVAL frame leaves. -/
structure IntervalTaken (f : DmrFrame) (o : List Byte) (n : Nat) (w : List Nat) (m m' : Main) : Prop where
  posted : Posted f o m m'
  number : m'.word 0x0A0800 = n % 2 ^ 32
  words : ∀ k : Fin 16, m'.word (0x0A0804 + 4 * k) = w.getD k 0 % 2 ^ 32
  told : pends m' 19 = true

theorem intervalTaken {f : DmrFrame} {o : List Byte} {n : Nat} {w : List Nat} (h : w.length = 16) (m : Main) :
    IntervalTaken f o n w m (fire 19 (uplPost 3 o (showInterval n w (frameVerified f m)))) := by
  have window := mirrors_showInterval (ps := [.mir, .pur]) n h (frameVerified f m)
  have off {a : Nat} (hx : a < 0x0A0800) : ¬ wordsIn 0x0A0800 0x0A0844 a := fun hw => by have := hw.1; omega
  have shown : Verified f m (showInterval n w (frameVerified f m)) := (verified_frameVerified f m).after window.reports
    (fun a ha => by unfold wordsIn at ha; unfold inBlock; omega) (by unfold showInterval; rw [mir_putWords])
    (window.reports.get F.DMR_LINK_LAST_SEQ 0 (off (by decide))) (off (by decide)) (off (by decide))
  have posted := posted_uplPost (o := o) shown ((host_putWords ..).trans (host_frameVerified f m)) ((mir_putWords ..).trans (mir_frameVerified f m))
  have post := keeps_uplPost 3 o (showInterval n w (frameVerified f m)) (by decide)
  have event := keeps_fire 19 (uplPost 3 o (showInterval n w (frameVerified f m))) (by decide)
  have ring := (signals_fire 19 (uplPost 3 o (showInterval n w (frameVerified f m))) (by decide)).ringOf 11
  have both := (post.trans event).reports (fun _ => False) []
  have word (j : Nat) (hj : j < 17) : (fire 19 (uplPost 3 o (showInterval n w (frameVerified f m)))).word (0x0A0800 + 4 * j) =
      (n :: w)[j]'(by rw [List.length_cons, h]; exact hj) % 2 ^ 32 :=
    (both.word not_false (by omega)).trans (word_putWords _ _ _ (by rw [List.length_cons, h]; exact hj))
  refine ⟨⟨posted.verified.after (regs := fun _ => False) (event.reports _ _) (fun _ => False.elim) (by rw [event.mir])
    (event.get F.DMR_LINK_LAST_SEQ 0 rfl) not_false not_false, fun hw hlen => ?_, event.mir.trans posted.mir⟩, word 0 (by decide), fun k => ?_,
    pends_fire 19 _ (by decide) rfl⟩
  · rw [ring]
    exact posted.waits hw hlen
  · have hk := word (k + 1) (by omega)
    rw [show 0x0A0800 + 4 * (k.val + 1) = 0x0A0804 + 4 * k.val by omega] at hk
    rw [hk, List.getD_eq_getElem _ _ (by omega)]
    rfl

end Sys2Proof.Machine
end

section
/-!
SUPPORT. A verified STATE frame on the main side (R316, R319, R320, R499–R501): the seal's registers, events 7 and 41, TMP_STATUS, and the
LEGAL mirror with its count and its replayed records.
-/
namespace Sys2Proof.Machine

variable {regs : Nat → Prop} {ps : List Part} {ks : Nat → Prop} {m m' m'' : Main} {b : StateBody}

/-! ### The seal's registers -/

/-- DMR_SEAL as a STATE frame gives it. -/
def sealWord (b : StateBody) : Nat :=
  b.nextSeq % 65536 * 65536 + b.result % 256 * 256 + b.session % 4 * 64 + b.sealState % 4 * 16 + natOf b.meterFault * 8 +
    natOf b.gateOpen * 4 + natOf b.switch * 2 + natOf b.lidOpen

def keepState (b : StateBody) (m : Main) : Main := { m with mir := { m.mir with state := some b } }

/-- NONCE, PENDING, SOURCE, CONST and OVF of the pulse outputs, and the running interval: what the frame shows beside the seal. -/
def showNonce (b : StateBody) (m : Main) : Main := m.putWords (F.DMR_SEAL_NONCE.addr 0) [b.nonce % 2 ^ 32, b.nonce / 2 ^ 32]

def showPulse (b : StateBody) (m : Main) (i : Nat) : Main :=
  let m := (m.put F.DMR_PULSE_PENDING (b.pending.getD i 0) i).put F.DMR_PULSE_SOURCE (pulseSource b.pulse i) i
  let m := m.put F.DMR_PULSE_CONST_CONST (pulseConst b.pulse i) i
  if b.ovf.getD i false then m.putBit F.DMR_PULSE_OVF true i else m

def showRunIvl (b : StateBody) (m : Main) : Main := m.putWords (F.DMR_RUN_WIN.addr 0) (b.runIvl :: (List.range 16).map (b.run.getD · 0))

def showSealWord (b : StateBody) (m : Main) : Main := m.setWord 0x0A0900 (sealWord b)

def showSealCnt (b : StateBody) (m : Main) : Main := m.putWords (F.DMR_SEAL_CNT.addr 0) [b.breaks, b.sessions]

/-- What is shown beside the seal. -/
def showAround (b : StateBody) (m : Main) : Main := showRunIvl b ((List.range 4).foldl (showPulse b) m)

def showSeal (b : StateBody) (m : Main) : Main := showAround b (showSealCnt b (showNonce b (showSealWord b (keepState b m))))

/-- Events 7 and 41 (R319). -/
def tellState (old : Option StateBody) (b : StateBody) (m : Main) : Main :=
  fireIf (b.ovf.any id) 41 (match old with
    | some o => fireIf (o.sealState != b.sealState || o.lidOpen != b.lidOpen) 7 m
    | none => m)

/-- The LEGAL area's reserve is spent once (R501). -/
def spendReserve (b : StateBody) (m : Main) : Main :=
  if b.reserveLeft = 0 ∧ !m.mir.spent then closeD { m with mir := { m.mir with spent := true } } else m

theorem stateGood_eq (f : DmrFrame) (b : StateBody) (m : Main) : stateGood f b m =
    spendReserve b (mirrorReplay b (mirrorNewest b (sealMirror b (tellState m.mir.state b (showSeal b (frameVerified f m)))))) := rfl

/-- The registers of the seal's mirror, without the enables of its events. -/
def sealRegs (a : Nat) : Prop := wordsIn 0x0A0880 0x0A08C4 a ∨ wordsIn 0x0A0900 0x0A0918 a ∨ wordsIn 0x0A0920 0x0A0940 a

theorem sealRegs_block {a : Nat} (h : sealRegs a) : inBlock 0x0A a := by
  unfold sealRegs wordsIn at h
  unfold inBlock
  omega

theorem mirrors_showPulse (b : StateBody) (m : Main) {i : Nat} (hi : i < 4) : Mirrors (wordsIn 0x0A0920 0x0A0940) ps m (showPulse b m i) := by
  have put (x : Main) (f : Field) (v : Nat) (h : f.addr i = 0x0A0920 + 4 * i ∨ f.addr i = 0x0A0930 + 4 * i) :
      Mirrors (wordsIn 0x0A0920 0x0A0940) ps x (x.put f v i) :=
    Mirrors.put x f v i (by unfold wordsIn; omega) (not_markWords (b := 0x0A) (by omega))
  have settings := ((put m F.DMR_PULSE_PENDING (b.pending.getD i 0) (Or.inl rfl)).trans
    (put _ F.DMR_PULSE_SOURCE (pulseSource b.pulse i) (Or.inl rfl))).trans (put _ F.DMR_PULSE_CONST_CONST (pulseConst b.pulse i) (Or.inr rfl))
  unfold showPulse
  dsimp only
  exact Mirrors.ite _ (settings.trans (put _ F.DMR_PULSE_OVF _ (Or.inl rfl))) settings

theorem mir_showPulse (b : StateBody) (m : Main) (i : Nat) : (showPulse b m i).mir = m.mir := by
  unfold showPulse
  dsimp only
  rw [apply_ite Main.mir, Main.putBit_mir, ite_self, Main.put_mir, Main.put_mir, Main.put_mir]

theorem mir_foldl {α : Type} (f : Main → α → Main) (h : ∀ m x, (f m x).mir = m.mir) (l : List α) (m : Main) : (l.foldl f m).mir = m.mir := by
  induction l generalizing m with
  | nil => rfl
  | cons x t ih => exact (ih _).trans (h m x)

theorem mirrors_showAround (b : StateBody) (m : Main) :
    Mirrors (fun a => wordsIn 0x0A0880 0x0A08C4 a ∨ wordsIn 0x0A0920 0x0A0940 a) ps m (showAround b m) := by
  have pulses (x : Main) : Mirrors (wordsIn 0x0A0920 0x0A0940) ps x ((List.range 4).foldl (showPulse b) x) :=
    Mirrors.foldl _ _ (fun _ hi y => mirrors_showPulse b y (List.mem_range.1 hi)) x
  have run (x : Main) : Mirrors (wordsIn 0x0A0880 0x0A08C4) ps x (showRunIvl b x) :=
    Mirrors.putWords x _ _ (b := 0x0A08C4) (by simp [F.DMR_RUN_WIN, Field.addr]) (by decide) fun _ => id
  exact ((pulses m).mono (ps' := ps) (fun _ => Or.inr) fun _ => id).trans ((run _).mono (ps' := ps) (fun _ => Or.inl) fun _ => id)

theorem mir_showAround (b : StateBody) (m : Main) : (showAround b m).mir = m.mir :=
  (mir_putWords ..).trans (mir_foldl _ (mir_showPulse b) _ m)

/-- What a STATE frame shows of the seal. -/
structure SealShown (b : StateBody) (m m' : Main) : Prop where
  mirrors : Mirrors sealRegs [.mir] m m'
  mir : m'.mir = { m.mir with state := some b }
  word : m'.word 0x0A0900 = sealWord b
  breaks : m'.get F.DMR_SEAL_CNT 0 = b.breaks % 2 ^ 32
  sessions : m'.get F.DMR_SEAL_CNT 1 = b.sessions % 2 ^ 32

/-- Fields of DMR_SEAL put together, each within its width. -/
theorem seal_fields {next result session state fault gate switch lid : Nat} (hn : next < 65536) (hr : result < 256) (hs : session < 4)
    (ht : state < 4) (hf : fault < 2) (hg : gate < 2) (hw : switch < 2) (hl : lid < 2) :
    let w := next * 65536 + result * 256 + session * 64 + state * 16 + fault * 8 + gate * 4 + switch * 2 + lid
    w < 2 ^ 32 ∧ w / 65536 % 65536 = next ∧ w / 256 % 256 = result ∧ w / 64 % 4 = session ∧ w / 16 % 4 = state ∧ w / 8 % 2 = fault ∧
      w / 4 % 2 = gate ∧ w % 2 = lid := by
  intro w
  omega

theorem sealWord_fields (b : StateBody) : sealWord b < 2 ^ 32 ∧ sealWord b / 65536 % 65536 = b.nextSeq % 65536 ∧
    sealWord b / 256 % 256 = b.result % 256 ∧ sealWord b / 64 % 4 = b.session % 4 ∧ sealWord b / 16 % 4 = b.sealState % 4 ∧
    sealWord b / 8 % 2 = natOf b.meterFault ∧ sealWord b / 4 % 2 = natOf b.gateOpen ∧ sealWord b % 2 = natOf b.lidOpen :=
  seal_fields (Nat.mod_lt _ (by decide)) (Nat.mod_lt _ (by decide)) (Nat.mod_lt _ (by decide)) (Nat.mod_lt _ (by decide)) (natOf_lt _)
    (natOf_lt _) (natOf_lt _) (natOf_lt _)

theorem get_of_putWords (m : Main) (f : Field) (ws : List Nat) {k : Nat} (hk : k < ws.length)
    (hf : f.stride = 4 ∧ f.lo = 0 ∧ f.width = 32 := by decide) : (m.putWords (f.addr 0) ws).get f k = ws[k] % 2 ^ 32 := by
  obtain ⟨hstride, hlo, hwidth⟩ := hf
  have haddr : f.addr k = f.addr 0 + 4 * k := by unfold Field.addr; rw [hstride]; omega
  unfold Main.get
  rw [haddr, word_putWords m _ _ hk, hlo, hwidth, Nat.pow_zero, Nat.div_one, Nat.mod_mod]

theorem sealShown_showSeal (b : StateBody) (m : Main) : SealShown b m (showSeal b m) := by
  unfold showSeal
  have keep : Mirrors sealRegs [.mir] m (keepState b m) := Mirrors.mir m _
  have word : Mirrors (· = 0x0A0900) [.mir] (keepState b m) (showSealWord b (keepState b m)) := Mirrors.setWord _ _ rfl
  have hword : (showSealWord b (keepState b m)).word 0x0A0900 = sealWord b :=
    (Main.word_setWord_same _ _ _).trans (Nat.mod_eq_of_lt (sealWord_fields b).1)
  have hmir : (showSealWord b (keepState b m)).mir = { m.mir with state := some b } := Main.setWord_mir ..
  generalize showSealWord b (keepState b m) = x at word hword hmir
  have nonce : Mirrors (wordsIn 0x0A0908 0x0A0910) [.mir] x (showNonce b x) :=
    Mirrors.putWords x _ _ (b := 0x0A0910) (by simp [F.DMR_SEAL_NONCE, Field.addr]) (by decide) fun _ => id
  have cnt : Mirrors (wordsIn 0x0A0910 0x0A0918) [.mir] (showNonce b x) (showSealCnt b (showNonce b x)) :=
    Mirrors.putWords _ _ _ (b := 0x0A0918) (by simp [F.DMR_SEAL_CNT, Field.addr]) (by decide) fun _ => id
  have hcnt (k : Nat) (hk : k < 2) : (showSealCnt b (showNonce b x)).get F.DMR_SEAL_CNT k = [b.breaks, b.sessions][k] % 2 ^ 32 :=
    get_of_putWords _ F.DMR_SEAL_CNT _ hk
  have around := mirrors_showAround (ps := [.mir]) b (showSealCnt b (showNonce b x))
  have shown (k : Nat) (hk : k < 2) : (showAround b (showSealCnt b (showNonce b x))).get F.DMR_SEAL_CNT k = [b.breaks, b.sessions][k] % 2 ^ 32 := by
    refine (around.reports.get F.DMR_SEAL_CNT k ?_ (Or.inl ?_)).trans (hcnt k hk) <;> unfold Field.addr <;>
      simp only [wordsIn, F.DMR_SEAL_CNT] <;> omega
  refine ⟨?_, ?_, ?_, shown 0 (by decide), shown 1 (by decide)⟩
  · have within {p : Nat → Prop} (hp : ∀ a, p a → sealRegs a) {y z : Main} (h : Mirrors p [.mir] y z) : Mirrors sealRegs [.mir] y z := h.mono hp
    have hregs (a : Nat) : (a = 0x0A0900 → sealRegs a) ∧ (wordsIn 0x0A0908 0x0A0910 a → sealRegs a) ∧ (wordsIn 0x0A0910 0x0A0918 a → sealRegs a) := by
      unfold sealRegs wordsIn
      omega
    exact ((keep.trans (within (fun a => (hregs a).1) word)).trans (within (fun a => (hregs a).2.1) nonce)).trans
      ((within (fun a => (hregs a).2.2) cnt).trans (within (fun a ha => ha.imp id Or.inr) around))
  · rw [mir_showAround]
    exact (mir_putWords ..).trans ((mir_putWords ..).trans hmir)
  · rw [around.reports.word (by unfold wordsIn; omega) (by omega), cnt.reports.word (by unfold wordsIn; omega) (by omega),
      nonce.reports.word (by unfold wordsIn; omega) (by omega), hword]

/-! ### Events 7 and 41 (R319) -/

/-- The events of the seal. -/
def sealEventNos : List Nat := [7, 41]

/-- The seal's events that a STATE frame tells. -/
def sealFires (old : Option StateBody) (b : StateBody) : Nat → Bool
  | 7 => old.any fun o => o.sealState != b.sealState || o.lidOpen != b.lidOpen
  | 41 => b.ovf.any id
  | _ => false

theorem keeps_tellState (old : Option StateBody) (b : StateBody) (m : Main) : Keeps m (tellState old b m) := by
  unfold tellState
  cases old with
  | none => exact keeps_fireIf _ 41 m (by decide)
  | some o => exact (keeps_fireIf _ 7 m (by decide)).trans (keeps_fireIf _ 41 _ (by decide))

theorem pends_tellState (old : Option StateBody) (b : StateBody) (m : Main) {k : Nat} (hk : k ∈ sealEventNos) :
    pends (tellState old b m) k = (sealFires old b k && eventEnabled m k || pends m k) := by
  have hlt : k < 64 := (by decide : ∀ x ∈ sealEventNos, x < 64) k hk
  have hr : k ∉ reportEvents := (by decide : ∀ x ∈ sealEventNos, x ∉ reportEvents) k hk
  have enabled (c : Bool) : eventEnabled (fireIf c 7 m) 41 = eventEnabled m 41 := (keeps_fireIf c 7 m (by decide)).bit _ 0 0 rfl
  unfold tellState
  simp only [sealEventNos, List.mem_cons, List.not_mem_nil, or_false] at hk
  rcases hk with rfl | rfl <;> cases old <;> simp [pends_fireIf_eq _ _ hlt hr, sealFires, enabled]

/-! ### TMP_STATUS (R478) -/

theorem mirrors_sealMirror (b : StateBody) (m : Main) : Mirrors (· = 0x111020) ps m (sealMirror b m) := by
  have live : Mirrors (· = 0x111020) ps m (m.putBit F.TMP_STATUS_SEAL_LIVE (b.sealState == 1)) := Mirrors.putBit m F.TMP_STATUS_SEAL_LIVE _ 0 0 rfl
  unfold sealMirror
  dsimp only
  exact Mirrors.ite _ (live.trans (Mirrors.putBit _ F.TMP_STATUS_SEAL_LATCH true 0 0 rfl)) live

theorem mir_sealMirror (b : StateBody) (m : Main) : (sealMirror b m).mir = m.mir := by
  unfold sealMirror
  dsimp only
  rw [apply_ite Main.mir, Main.putBit_mir, Main.putBit_mir, ite_self]

theorem sealMirror_shows (b : StateBody) (m : Main) : (sealMirror b m).bit F.TMP_STATUS_SEAL_LIVE = decide (b.sealState = 1) ∧
    (sealMirror b m).bit F.TMP_STATUS_SEAL_LATCH = (m.bit F.TMP_STATUS_SEAL_LATCH || decide (b.sealState = 1)) := by
  have latch (x : Main) : (x.putBit F.TMP_STATUS_SEAL_LATCH true).bit F.TMP_STATUS_SEAL_LIVE = x.bit F.TMP_STATUS_SEAL_LIVE :=
    congrArg (bitOf · 0) (Main.get_put_bits _ _ _ _ _ _ (by decide) (by decide))
  have live (on : Bool) : (m.putBit F.TMP_STATUS_SEAL_LIVE on).bit F.TMP_STATUS_SEAL_LATCH = m.bit F.TMP_STATUS_SEAL_LATCH :=
    congrArg (bitOf · 0) (Main.get_put_bits _ _ _ _ _ _ (by decide) (by decide))
  unfold sealMirror
  dsimp only
  by_cases h : b.sealState = 1
  · rw [decide_eq_true h, h, if_pos (by rfl), latch, bit_putBit_same _ F.TMP_STATUS_SEAL_LIVE _ 0, bit_putBit_same _ F.TMP_STATUS_SEAL_LATCH true 0,
      Bool.or_true]
    exact ⟨rfl, rfl⟩
  · rw [decide_eq_false h, beq_false_of_ne h, if_neg (by decide), bit_putBit_same _ F.TMP_STATUS_SEAL_LIVE _ 0, live, Bool.or_false]
    exact ⟨rfl, rfl⟩

/-! ### Store D (R499, R500) -/

theorem mirrors_closeD (m : Main) : Mirrors regs ps m (closeD m) :=
  ((keeps_setClosed m 0).mirrors (mute_setClosed m 0)).trans (mirrors_record ..)

theorem keeps_closeD (m : Main) : Keeps m (closeD m) := (keeps_setClosed m 0).trans (keeps_record ..)

theorem mute_closeD (m : Main) : Mute ks m (closeD m) := (mute_setClosed m 0).trans (mute_record ..)

theorem Mute.recAt {area pos : Nat} (h : Mute ks m m') (hlt : sofKey 0 area pos < 16384) (hk : ¬ ks (sofKey 0 area pos)) :
    recAt m' 0 area pos = recAt m 0 area pos := h.recs _ hlt hk

theorem recAt_putRec (m : Main) (store area pos : Nat) (r : Option SofRec) : recAt (putRec m store area pos r) store area pos = r :=
  sget_sset_same ..

/-- A new record of the mirror is delivered. -/
def deliverRec (r : Option SofRec) (fresh : Bool) (m : Main) : Main :=
  match r, fresh with
  | some x, true => deliverLive m 0 x false
  | _, _ => m

def closeFirst (first : Bool) (m : Main) : Main := if first then closeD m else m

theorem mirrorRec_eq (area pos : Nat) (r : Option SofRec) (fresh : Bool) (m : Main) :
    mirrorRec area pos r fresh m =
      closeFirst (area == 0 && pos == 767 && (recAt m 0 0 767).isNone && r.isSome) (deliverRec r fresh (putRec m 0 area pos r)) := rfl

/-- What follows a record put to the mirror, its delivery and the closing of FIRST, is reports. -/
theorem reported_putRec (first : Bool) (r : Option SofRec) (fresh : Bool) (m : Main) :
    Keeps m (closeFirst first (deliverRec r fresh m)) ∧ Mute ks m (closeFirst first (deliverRec r fresh m)) := by
  have close (x : Main) : Keeps x (closeFirst first x) ∧ Mute ks x (closeFirst first x) := by
    unfold closeFirst
    split
    · exact ⟨keeps_closeD x, mute_closeD x⟩
    · exact ⟨Keeps.refl x, Mute.refl ks x⟩
  have deliver : Keeps m (deliverRec r fresh m) ∧ Mute ks m (deliverRec r fresh m) := by
    unfold deliverRec
    split
    · exact ⟨keeps_deliverLive .., mute_deliverLive ..⟩
    · exact ⟨Keeps.refl m, Mute.refl ks m⟩
  exact ⟨deliver.1.trans (close _).1, deliver.2.trans (close _).2⟩

theorem keeps_mirrorRec (area pos : Nat) (r : Option SofRec) (fresh : Bool) (m : Main) : Keeps m (mirrorRec area pos r fresh m) := by
  rw [mirrorRec_eq]
  exact (keeps_putRec ..).trans (reported_putRec (ks := fun _ => False) ..).1

theorem mute_mirrorRec (area pos : Nat) (r : Option SofRec) (fresh : Bool) (m : Main) :
    Mute (· = sofKey 0 area pos) m (mirrorRec area pos r fresh m) := by
  rw [mirrorRec_eq]
  have put : Mute (· = sofKey 0 area pos) m (putRec m 0 area pos r) := Mute.putRec m 0 area pos r (Or.inr rfl)
  exact put.trans (reported_putRec ..).2

theorem recAt_mirrorRec {area pos : Nat} (r : Option SofRec) (fresh : Bool) (m : Main) (h : sofKey 0 area pos < 16384) :
    recAt (mirrorRec area pos r fresh m) 0 area pos = r := by
  rw [mirrorRec_eq, (reported_putRec (ks := fun _ => False) ..).2.recAt h not_false, recAt_putRec]

/-- The mirror of store D is written: no event of the mirror fires, and RECNO stands. -/
structure Copies (m m' : Main) : Prop where
  keeps : Keeps m m'
  mute : Mute (fun _ => True) m m'

theorem Copies.refl (m : Main) : Copies m m := ⟨Keeps.refl m, Mute.refl _ m⟩

theorem Copies.trans (h : Copies m m') (g : Copies m' m'') : Copies m m'' := ⟨h.keeps.trans g.keeps, h.mute.trans g.mute⟩

theorem Copies.foldl {α : Type} (f : Main → α → Main) (h : ∀ x m, Copies m (f m x)) (l : List α) (m : Main) : Copies m (l.foldl f m) := by
  induction l generalizing m with
  | nil => exact Copies.refl m
  | cons x t ih => exact (h x m).trans (ih _)

theorem copies_mirrorRec (area pos : Nat) (r : Option SofRec) (fresh : Bool) (m : Main) : Copies m (mirrorRec area pos r fresh m) :=
  ⟨keeps_mirrorRec .., (mute_mirrorRec ..).mono fun _ _ => trivial⟩

/-! ### The record count -/

theorem recNo_setRecNo (m : Main) (n : Nat) : recNo (setRecNo m 0 n) 0 = n % 2 ^ 48 := by
  have low : (setRecNo m 0 n).get F.SOF_RECNO_LO 0 = n % 2 ^ 32 := by
    unfold setRecNo
    rw [Main.get_put_addr _ _ _ _ _ _ (by decide), Main.get_put_same _ F.SOF_RECNO_LO _ _ (by decide)]
    exact Nat.mod_mod _ _
  have high : (setRecNo m 0 n).get F.SOF_RECNO_HI 0 = n / 2 ^ 32 % 2 ^ 16 := Main.get_put_same _ F.SOF_RECNO_HI _ _ (by decide)
  unfold recNo
  rw [low, high]
  omega

theorem pends_setRecNo (m : Main) (n : Nat) {k : Nat} (hk : k < 64) : pends (setRecNo m 0 n) k = pends m k := by
  have put (x : Main) (f : Field) (v : Nat) (h : ∀ j < 2, f.addr 0 ≠ F.GLB_EVT_PEND.addr j) : pends (x.put f v) k = pends x k :=
    pends_setWord_ne x _ h hk
  exact (put _ F.SOF_RECNO_HI _ (by decide)).trans (put m F.SOF_RECNO_LO _ (by decide))

/-- What the newest records leave (R500). -/
structure NewestTaken (b : StateBody) (m m' : Main) : Prop where
  keeps : Keeps m m'
  pend : ∀ k < 64, k ∉ reportEvents → pends m' k = pends m k
  count : recNo m' 0 = b.logCount % 2 ^ 48

theorem newestTaken_mirrorNewest (b : StateBody) (m : Main) : NewestTaken b m (mirrorNewest b m) := by
  have copies (x : Main) : Copies (setRecNo m 0 b.logCount) x →
      Copies (setRecNo m 0 b.logCount) (if 4 < b.logCount - recNo m 0 then record 0x03E0 (b.logCount - recNo m 0 - 4) 0 0 0 x else x) := by
    intro h
    split
    · exact h.trans ⟨keeps_record .., mute_record ..⟩
    · exact h
  have newest : Copies (setRecNo m 0 b.logCount) (mirrorNewest b m) :=
    copies _ (Copies.foldl _ (fun _ x => copies_mirrorRec _ _ _ _ x) _ _)
  refine ⟨(keeps_setRecNo m 0 b.logCount (by decide)).trans newest.keeps, fun k hk hr => ?_, ?_⟩
  · rw [newest.mute.pend k hk hr, pends_setRecNo m _ hk]
  · rw [newest.mute.recNo, recNo_setRecNo]

/-! ### The replayed records -/

/-- Area and position of a replayed record. -/
def replayArea (p : Nat) : Nat := if p < 1024 then 0 else 1
def replayAt (p : Nat) : Nat := if p < 1024 then p else p - 1024

def replayRec (b : StateBody) (m : Main) (i : Nat) : Main :=
  if 9216 ≤ b.replayPos + i ∨ recAt m 0 (replayArea (b.replayPos + i)) (replayAt (b.replayPos + i)) = (b.replay[i]?).getD none then m
  else mirrorRec (replayArea (b.replayPos + i)) (replayAt (b.replayPos + i)) ((b.replay[i]?).getD none) true m

theorem mirrorReplay_eq (b : StateBody) (m : Main) : mirrorReplay b m = (List.range 4).foldl (replayRec b) m := rfl

/-- Positions have keys of their own, those of the two areas in store D. -/
theorem replayKey (p : Nat) : sofKey 0 (replayArea p) (replayAt p) = if p < 1024 then p else p + 7168 := by
  unfold replayArea replayAt sofKey
  split <;> omega

theorem mute_replayRec (b : StateBody) (m : Main) (i : Nat) :
    Mute (· = sofKey 0 (replayArea (b.replayPos + i)) (replayAt (b.replayPos + i))) m (replayRec b m i) := by
  unfold replayRec
  exact Mute.ite _ (Mute.refl _ m) (mute_mirrorRec ..)

theorem copies_mirrorReplay (b : StateBody) (m : Main) : Copies m (mirrorReplay b m) := by
  rw [mirrorReplay_eq]
  refine Copies.foldl _ (fun i x => ?_) _ m
  unfold replayRec
  split
  · exact Copies.refl x
  · exact copies_mirrorRec ..

theorem recAt_replayRec {b : StateBody} (m : Main) {i : Nat} (h : b.replayPos + i < 9216) :
    recAt (replayRec b m i) 0 (replayArea (b.replayPos + i)) (replayAt (b.replayPos + i)) = (b.replay[i]?).getD none := by
  unfold replayRec
  split
  · next hsame => exact hsame.resolve_left (by omega)
  · exact recAt_mirrorRec _ _ _ (by rw [replayKey]; split <;> omega)

theorem recAt_mirrorReplay {b : StateBody} (m : Main) {i : Nat} (hi : i < 4) (h : b.replayPos + i < 9216) :
    recAt (mirrorReplay b m) 0 (replayArea (b.replayPos + i)) (replayAt (b.replayPos + i)) = (b.replay[i]?).getD none := by
  have apart (j : Nat) (hj : j ≠ i) (x : Main) : Mute (· ≠ sofKey 0 (replayArea (b.replayPos + i)) (replayAt (b.replayPos + i))) x (replayRec b x j) :=
    (mute_replayRec b x j).mono fun k hk => by
      subst hk
      rw [replayKey, replayKey]
      split <;> split <;> omega
  obtain ⟨x, -, late⟩ := foldl_visit (Mute.refl _) Mute.trans (replayRec b) List.nodup_range (List.mem_range.2 hi) (fun j _ hj x => apart j hj x) m
  rw [mirrorReplay_eq, late.recAt (by rw [replayKey]; split <;> omega) (not_not.2 rfl), recAt_replayRec x h]

/-! ### A verified STATE -/

theorem spendReserve_leaves (b : StateBody) (m : Main) :
    Mirrors (fun _ => False) [.mir] m (spendReserve b m) ∧ ∃ spent, (spendReserve b m).mir = { m.mir with spent := spent } := by
  unfold spendReserve
  split
  · exact ⟨(Mirrors.mir m _).trans (mirrors_closeD _), true, (keeps_closeD _).mir⟩
  · exact ⟨Mirrors.refl _ _ m, m.mir.spent, rfl⟩

/-- What a verified STATE frame leaves. -/
structure StateTaken (f : DmrFrame) (b : StateBody) (m m' : Main) : Prop where
  framesOk : m'.get F.DMR_CNT 0 = (m.get F.DMR_CNT 0 + 1) % 2 ^ 32
  state : m'.mir.state = some b
  snap : m'.mir.snap = m.mir.snap
  word : m'.word 0x0A0900 = sealWord b
  breaks : m'.get F.DMR_SEAL_CNT 0 = b.breaks % 2 ^ 32
  sessions : m'.get F.DMR_SEAL_CNT 1 = b.sessions % 2 ^ 32
  live : m'.bit F.TMP_STATUS_SEAL_LIVE = decide (b.sealState = 1)
  latch : m'.bit F.TMP_STATUS_SEAL_LATCH = (m.bit F.TMP_STATUS_SEAL_LATCH || decide (b.sealState = 1))
  pend : ∀ k ∈ sealEventNos, pends m' k = (sealFires m.mir.state b k && eventEnabled m k || pends m k)
  count : recNo m' 0 = b.logCount % 2 ^ 48
  replay : ∀ i < 4, b.replayPos + i < 9216 →
    recAt m' 0 (replayArea (b.replayPos + i)) (replayAt (b.replayPos + i)) = (b.replay[i]?).getD none
  reports : Reports (fun a => inBlock 0x0A a ∨ a = 0x111020) [.mir] m m'

/-- The seal is shown and its events are told. -/
structure StateFront (f : DmrFrame) (b : StateBody) (m z : Main) : Prop where
  framesOk : z.get F.DMR_CNT 0 = (m.get F.DMR_CNT 0 + 1) % 2 ^ 32
  state : z.mir.state = some b
  snap : z.mir.snap = m.mir.snap
  word : z.word 0x0A0900 = sealWord b
  breaks : z.get F.DMR_SEAL_CNT 0 = b.breaks % 2 ^ 32
  sessions : z.get F.DMR_SEAL_CNT 1 = b.sessions % 2 ^ 32
  pend : ∀ k ∈ sealEventNos, pends z k = (sealFires m.mir.state b k && eventEnabled m k || pends m k)
  reports : Reports (inBlock 0x0A) [.mir] m z

theorem sealEvent_quiet {k : Nat} (hk : k ∈ sealEventNos) : k < 64 ∧ k ∉ reportEvents :=
  (by decide : ∀ x ∈ sealEventNos, x < 64 ∧ x ∉ reportEvents) k hk

theorem stateFront (f : DmrFrame) (b : StateBody) (m : Main) : StateFront f b m (tellState m.mir.state b (showSeal b (frameVerified f m))) := by
  have good := mirrors_frameVerified f m
  have hmir := mir_frameVerified f m
  have hok := (verified_frameVerified f m).framesOk
  generalize frameVerified f m = x at good hmir hok
  have shown := sealShown_showSeal b x
  generalize showSeal b x = y at shown
  have told := keeps_tellState m.mir.state b y
  have enabled {k : Nat} (hk : k ∈ sealEventNos) : eventEnabled y k = eventEnabled m k := by
    have field (g : Field) (hg : g.addr 0 = 0x0A0918) : y.bit g = m.bit g :=
      (shown.mirrors.reports.bit g 0 0 (by rw [hg]; unfold sealRegs wordsIn; omega) (Or.inl (by rw [hg]))).trans
        (good.reports.bit g 0 0 (by rw [hg]; decide) (Or.inl (by rw [hg])))
    simp only [sealEventNos, List.mem_cons, List.not_mem_nil, or_false] at hk
    rcases hk with rfl | rfl
    · exact field F.DMR_SEAL_EVT_EVT7_EN rfl
    · exact field F.DMR_SEAL_EVT_EVT41_EN rfl
  refine ⟨?_, ?_, ?_, ?_, ?_, ?_, fun k hk => ?_, ?_⟩
  · rw [told.get F.DMR_CNT 0 rfl, shown.mirrors.reports.get F.DMR_CNT 0 (by unfold sealRegs wordsIn; decide), hok]
  · rw [told.mir, shown.mir]
  · rw [told.mir, shown.mir, hmir]
  · rw [told.word _ rfl, shown.word]
  · rw [told.get F.DMR_SEAL_CNT 0 rfl, shown.breaks]
  · rw [told.get F.DMR_SEAL_CNT 1 rfl, shown.sessions]
  · obtain ⟨hlt, hr⟩ := sealEvent_quiet hk
    rw [pends_tellState _ _ _ hk, enabled hk, shown.mirrors.mute.pend k hlt hr, good.mute.pend k hlt hr]
  · exact ((good.reports.mono (by decide : ∀ a ∈ [0x0A0008, 0x0A0020, 0x0A0028], a / 65536 = 0x0A)).trans
      (shown.mirrors.reports.mono fun _ => sealRegs_block)).trans (told.reports _ _)

theorem stateTaken {f : DmrFrame} {b : StateBody} {m z : Main} (front : StateFront f b m z) :
    StateTaken f b m (spendReserve b (mirrorReplay b (mirrorNewest b (sealMirror b z)))) := by
  have tmp := mirrors_sealMirror (ps := [.mir]) b z
  obtain ⟨live, latch⟩ := sealMirror_shows b z
  have hmir := mir_sealMirror b z
  generalize sealMirror b z = w at tmp live latch hmir
  have newest := newestTaken_mirrorNewest b w
  generalize mirrorNewest b w = v at newest
  have replay := copies_mirrorReplay b v
  have hreplay (i : Nat) (hi : i < 4) := recAt_mirrorReplay (b := b) v hi
  generalize mirrorReplay b v = u at replay hreplay
  obtain ⟨spend, spent, hspent⟩ := spendReserve_leaves b u
  have kept : Reports (fun _ => False) [.mir] w (spendReserve b u) :=
    ((newest.keeps.trans replay.keeps).reports _ _).trans spend.reports
  have all : Reports (· = 0x111020) [.mir] z (spendReserve b u) := tmp.reports.trans (kept.mono fun _ => False.elim)
  have mir : (spendReserve b u).mir = { z.mir with spent := spent } := by rw [hspent, replay.keeps.mir, newest.keeps.mir, hmir]
  refine ⟨?_, ?_, ?_, ?_, ?_, ?_, ?_, ?_, fun k hk => ?_, ?_, fun i hi hp => ?_, ?_⟩
  · rw [all.get F.DMR_CNT 0 (by decide), front.framesOk]
  · rw [mir, front.state]
  · rw [mir, front.snap]
  · rw [all.word (by decide) (by omega), front.word]
  · rw [all.get F.DMR_SEAL_CNT 0 (by decide), front.breaks]
  · rw [all.get F.DMR_SEAL_CNT 1 (by decide), front.sessions]
  · rw [kept.bit F.TMP_STATUS_SEAL_LIVE 0 0 not_false, live]
  · rw [kept.bit F.TMP_STATUS_SEAL_LATCH 0 0 not_false, latch,
      front.reports.bit F.TMP_STATUS_SEAL_LATCH 0 0 (by unfold inBlock; decide)]
  · obtain ⟨hlt, hr⟩ := sealEvent_quiet hk
    rw [spend.mute.pend k hlt hr, replay.mute.pend k hlt hr, newest.pend k hlt hr, tmp.mute.pend k hlt hr, front.pend k hk]
  · rw [spend.mute.recNo, replay.mute.recNo, newest.count]
  · rw [spend.mute.recAt (by rw [replayKey]; split <;> omega) not_false, hreplay i hi hp]
  · exact (front.reports.mono fun _ => Or.inl).trans (all.mono fun _ => Or.inr)

theorem stateTaken_stateGood (f : DmrFrame) (b : StateBody) (m : Main) : StateTaken f b m (stateGood f b m) := by
  rw [stateGood_eq]
  exact stateTaken (stateFront f b m)

end Sys2Proof.Machine
end

section
/-!
SUPPORT. The read of the totals, and 30 ms without a SNAPSHOT (R280, R287, R288).
-/
namespace Sys2Proof.Machine

variable {m m' : Main}

/-! ### The latched totals -/

/-- Pairs written one after another. -/
def pairs (lo hi : Nat → Nat) (n : Nat) : List Nat := (List.range n).flatMap fun i => [lo i, hi i]

/-- The words that a read of the totals latches. -/
def totWords (b : SnapBody) : List Nat := pairs (b.totals.getD · 0 % 2 ^ 32) (b.totals.getD · 0 / 2 ^ 32) 32

def legacyWords (b : SnapBody) : List Nat := (List.range 32).map fun k => b.totals.getD k 0 / 1000000 % 2 ^ 32

def latchTotals (b : SnapBody) (m : Main) : Main :=
  (m.putWords (F.DMR_TOT_WIN.addr 0) (totWords b)).putWords (F.DMR_LEGACY_WIN.addr 0) (legacyWords b)

def latchStep (n : Nat) (m : Main) : Main := (m.put F.DMR_TOT_STEP_STEP_LO n).put F.DMR_TOT_STEP_HI_STEP_HI (n / 2 ^ 32)

theorem totRead_snapshot {f : DmrFrame} {b : SnapBody} (hs : m.mir.snap = some f) (hb : f.body = .snapshot b) :
    totRead m = latchStep f.stepNo (latchTotals b m) := by
  unfold totRead
  rw [hs]
  dsimp only
  rw [hb]
  rfl

/-- Without a SNAPSHOT the read latches nothing. -/
theorem totRead_none (h : ∀ f b, m.mir.snap = some f → f.body ≠ .snapshot b) : totRead m = m := by
  unfold totRead
  split
  · rfl
  · next f hs =>
    split
    · next b hb => exact absurd hb (h f b hs)
    · rfl

theorem pairs_succ (lo hi : Nat → Nat) (n : Nat) : pairs lo hi (n + 1) = pairs lo hi n ++ [lo n, hi n] := by
  simp [pairs, List.range_succ]

theorem length_pairs (lo hi : Nat → Nat) (n : Nat) : (pairs lo hi n).length = 2 * n := by
  induction n with
  | zero => rfl
  | succ n ih =>
    rw [pairs_succ, List.length_append, ih]
    rfl

theorem getElem?_pairs (lo hi : Nat → Nat) {n k : Nat} (hk : k < n) :
    (pairs lo hi n)[2 * k]? = some (lo k) ∧ (pairs lo hi n)[2 * k + 1]? = some (hi k) := by
  induction n with
  | zero => cases hk
  | succ n ih =>
    have len := length_pairs lo hi n
    rw [pairs_succ]
    rcases Nat.lt_succ_iff_lt_or_eq.1 hk with h | rfl
    · rw [List.getElem?_append_left (by omega), List.getElem?_append_left (by omega)]
      exact ih h
    · rw [List.getElem?_append_right (by omega), List.getElem?_append_right (by omega), len, Nat.sub_self,
        show 2 * k + 1 - 2 * k = 1 by omega]
      exact ⟨rfl, rfl⟩

theorem word_putWords_some (m : Main) (a : Nat) {ws : List Nat} {k v : Nat} (h : ws[k]? = some v) :
    (m.putWords a ws).word (a + 4 * k) = v % 2 ^ 32 := by
  obtain ⟨hk, rfl⟩ := List.getElem?_eq_some_iff.1 h
  exact word_putWords m a ws hk

theorem length_totWords (b : SnapBody) : (totWords b).length = 64 := length_pairs _ _ 32

theorem length_legacyWords (b : SnapBody) : (legacyWords b).length = 32 := by simp [legacyWords]

/-- A register that is one field. -/
theorem word_eq_get (m : Main) (f : Field) (i : Nat) (hf : f.lo = 0 ∧ f.width = 32 := by decide) : m.word (f.addr i) = m.get f i := by
  obtain ⟨hlo, hwidth⟩ := hf
  unfold Main.get
  rw [hlo, hwidth, Nat.pow_zero, Nat.div_one, Nat.mod_eq_of_lt (Main.word_lt ..)]

/-- What a read of the totals latches from a SNAPSHOT of step `n` (R287, R288). -/
structure TotLatched (n : Nat) (b : SnapBody) (m m' : Main) : Prop where
  totals : ∀ k < 32, m'.word (0x0A0600 + 8 * k) = b.totals.getD k 0 % 2 ^ 32 ∧
    m'.word (0x0A0604 + 8 * k) = b.totals.getD k 0 / 2 ^ 32 % 2 ^ 32 ∧ m'.word (0x0A0700 + 4 * k) = b.totals.getD k 0 / 1000000 % 2 ^ 32
  stepLo : m'.word 0x0A0780 = n % 2 ^ 32
  stepHi : m'.get F.DMR_TOT_STEP_HI_STEP_HI = n / 2 ^ 32 % 2 ^ 16
  frame : Frame (fun a => 0x0A0600 ≤ a ∧ a ≤ 0x0A0784) [] m m'

theorem frame_latchStep (n : Nat) (m : Main) : Frame (fun a => 0x0A0780 ≤ a ∧ a ≤ 0x0A0784) [] m (latchStep n m) :=
  (Frame.setWord [] m _ _ (by decide)).trans (Frame.setWord [] _ _ _ (by decide))

theorem totLatched (n : Nat) (b : SnapBody) (m : Main) : TotLatched n b m (latchStep n (latchTotals b m)) := by
  have tot : Frame (wordsIn 0x0A0600 0x0A0700) [] m (m.putWords (F.DMR_TOT_WIN.addr 0) (totWords b)) :=
    Frame.putWords [] m _ _ fun k hk => by rw [length_totWords] at hk; simp only [wordsIn, F.DMR_TOT_WIN, Field.addr]; omega
  have htot {j v : Nat} (h : (totWords b)[j]? = some v) := word_putWords_some m (F.DMR_TOT_WIN.addr 0) h
  unfold latchTotals
  generalize m.putWords (F.DMR_TOT_WIN.addr 0) (totWords b) = x at tot htot
  have legacy : Frame (wordsIn 0x0A0700 0x0A0780) [] x (x.putWords (F.DMR_LEGACY_WIN.addr 0) (legacyWords b)) :=
    Frame.putWords [] x _ _ fun k hk => by rw [length_legacyWords] at hk; simp only [wordsIn, F.DMR_LEGACY_WIN, Field.addr]; omega
  have hlegacy {j v : Nat} (h : (legacyWords b)[j]? = some v) := word_putWords_some x (F.DMR_LEGACY_WIN.addr 0) h
  generalize x.putWords (F.DMR_LEGACY_WIN.addr 0) (legacyWords b) = y at legacy hlegacy
  have step := frame_latchStep n y
  have word {a v : Nat} (ha : a < 0x0A0780) (h : y.word a = v) : (latchStep n y).word a = v := (step.1 a (by omega)).trans h
  have window {a v : Nat} (ha : a < 0x0A0700) (h : x.word a = v) : (latchStep n y).word a = v :=
    word (by omega) ((legacy.1 a (by unfold wordsIn; omega)).trans h)
  refine ⟨fun k hk => ?_, ?_, Main.get_put_same _ F.DMR_TOT_STEP_HI_STEP_HI _ _ (by decide), ?_⟩
  · obtain ⟨hlow, hhigh⟩ := getElem?_pairs (b.totals.getD · 0 % 2 ^ 32) (b.totals.getD · 0 / 2 ^ 32) hk
    refine ⟨window (by omega) ?_, window (by omega) ?_, word (by omega) ?_⟩
    · rw [show 0x0A0600 + 8 * k = F.DMR_TOT_WIN.addr 0 + 4 * (2 * k) by simp only [F.DMR_TOT_WIN, Field.addr]; omega, htot hlow, Nat.mod_mod]
    · rw [show 0x0A0604 + 8 * k = F.DMR_TOT_WIN.addr 0 + 4 * (2 * k + 1) by simp only [F.DMR_TOT_WIN, Field.addr]; omega, htot hhigh]
    · have view : (legacyWords b)[k]? = some (b.totals.getD k 0 / 1000000 % 2 ^ 32) := by simp [legacyWords, hk]
      exact (hlegacy view).trans (Nat.mod_mod _ _)
  · refine (word_eq_get _ F.DMR_TOT_STEP_STEP_LO 0).trans ((Main.get_put_addr _ F.DMR_TOT_STEP_HI_STEP_HI F.DMR_TOT_STEP_STEP_LO _ 0 0 (by decide)).trans ?_)
    exact Main.get_put_same _ F.DMR_TOT_STEP_STEP_LO _ _ (by decide)
  · exact ((tot.mono (fun a ha => by unfold wordsIn at ha; omega) (List.Subset.refl _)).trans
      (legacy.mono (fun a ha => by unfold wordsIn at ha; omega) (List.Subset.refl _))).trans
      (step.mono (fun a ha => by omega) (List.Subset.refl _))

theorem out_putWords (m : Main) (a : Nat) (ws : List Nat) : (m.putWords a ws).out = m.out := by
  induction ws generalizing m a with
  | nil => rfl
  | cons w t ih => exact (ih _ _).trans (Main.setWord_out ..)

/-- Latching answers nothing. -/
theorem out_totRead {f : DmrFrame} {b : SnapBody} (hs : m.mir.snap = some f) (hb : f.body = .snapshot b) : (totRead m).out = m.out := by
  rw [totRead_snapshot hs hb]
  unfold latchStep latchTotals
  rw [Main.put_out, Main.put_out, out_putWords, out_putWords]

/-! ### The host's read -/

/-- Where the dormer's block answers, the read latches and answers the first word (R287). -/
theorem dmrTotRead_reaches (h : hostReaches 0x0A m) : hostRead 0x0A0600 (fun m => (totRead m, (totRead m).word 0x0A0600)) m =
    (totRead (accessed m)).emit (.readData 0x0A0600 ((totRead (accessed m)).word 0x0A0600)) :=
  hostRead_reaches (a := 0x0A0600) h _

/-- Where it does not answer, nothing is latched and zero is read. -/
theorem dmrTotRead_daylight (hd : m.host.d3hot = false) (hm : m.mode = 6) :
    hostRead 0x0A0600 (fun m => (totRead m, (totRead m).word 0x0A0600)) m = (accessed m).emit (.readData 0x0A0600 0) := by
  have shut : blockOpen (0x0A0600 / 0x10000) m = false := by simp [blockOpen, hm]
  exact hostRead_shut hd (by omega) shut _

theorem frame_answered (m : Main) (o : Output) : Frame (fun _ => False) [.host] m ((accessed m).emit o) :=
  (Frame.accessed _ m (by decide)).trans (Frame.emit _ _ _ _)

theorem TotLatched.emit {n : Nat} {b : SnapBody} (h : TotLatched n b m m') (o : Output) : TotLatched n b m (m'.emit o) := by
  have word (a : Nat) : (m'.emit o).word a = m'.word a := rfl
  have get (f : Field) : (m'.emit o).get f = m'.get f := rfl
  refine ⟨fun k hk => ?_, (word _).trans h.stepLo, (get _).trans h.stepHi, h.frame.trans (Frame.emit _ _ _ _)⟩
  rw [word, word, word]
  exact h.totals k hk

/-- What a read of the totals leaves of a SNAPSHOT of step `n`. -/
theorem totLatched_answered {f : DmrFrame} {b : SnapBody} (hs : m.mir.snap = some f) (hb : f.body = .snapshot b) (o : Output) :
    TotLatched f.stepNo b (accessed m) ((totRead (accessed m)).emit o) := by
  have hs' : (accessed m).mir.snap = some f := hs
  rw [totRead_snapshot hs' hb]
  exact (totLatched f.stepNo b (accessed m)).emit o

end Sys2Proof.Machine
end

section
/-!
The obligation on the frames of the dormer link and the read of the totals (O33).
-/
namespace Sys2Proof.Machine

variable {f : DmrFrame} {o : List Byte} {b : StateBody} {m m' : Main}

/-! ### A frame that fails -/

/-- What a frame that is discarded leaves (R280). -/
structure MicFailed (m m' : Main) : Prop where
  counts : m'.get F.DMR_CNT 1 = (m.get F.DMR_CNT 1 + 1) % 2 ^ 32
  reports : Reports (· = F.DMR_CNT.addr 1) [.mir] m m'
  mir : ({ m'.mir with upRun := m.mir.upRun } : Mir) = m.mir

theorem micFailed_frameFailed (o : List Byte) (m : Main) : MicFailed m (frameFailed o m) := by
  obtain ⟨counts, reports, mir⟩ := frameFailed_counts (ps := [.mir]) o m
  exact ⟨counts, reports, by rw [mir]⟩

/-- A frame that does not verify breaks the run of SNAPSHOTs. -/
theorem micFailed_breaks (o : List Byte) (m : Main) : MicFailed m (frameFailed o { m with mir := { m.mir with upRun := 0 } }) := by
  have broken : Mirrors (· = F.DMR_CNT.addr 1) [.mir] m { m with mir := { m.mir with upRun := 0 } } := Mirrors.mir m _
  have count := (Mirrors.mir (regs := fun _ => False) (ps := [.mir]) m { m.mir with upRun := 0 }).reports.get F.DMR_CNT 1 not_false
  obtain ⟨counts, reports, mir⟩ := frameFailed_counts (ps := [.mir]) o { m with mir := { m.mir with upRun := 0 } }
  exact ⟨counts.trans (by rw [count]), broken.reports.trans reports, by rw [mir]⟩

/-- The rows of the link, each with the kind it takes. -/
def linkRows (o : List Byte) : List (Nat × Instr) := [(1, .snapshotRx o), (2, .infoRx o), (3, .intervalRx o), (4, .profileRx o), (5, .stateRx o)]

theorem answers_snapshotRx (s : State) (o : List Byte) {P : Main → Prop}
    (good : ∀ f b, linkFrame s.main o = some f → f.body = .snapshot b → P (residSample (snapshotGood o f b s.main)))
    (other : ∀ f, linkFrame s.main o = some f → frameKind f.body ≠ 1 → P (frameFailed o s.main))
    (failed : linkFrame s.main o = none → P (frameFailed o { s.main with mir := { s.main.mir with upRun := 0 } })) :
    AnswersMain (.snapshotRx o) s P := by
  refine ⟨_, rfl, ?_⟩
  dsimp only [snapshotRx]
  cases hf : linkFrame s.main o with
  | none => exact failed hf
  | some f =>
    dsimp only
    cases hb : f.body with
    | snapshot b => exact good f b hf hb
    | _ => exact other f hf (by rw [hb]; simp [frameKind])

/-- A row that finds no frame of its kind discards the octets. -/
theorem linkRow_fails {s : State} {p : Nat × Instr} (hp : p ∈ linkRows o) (h : ∀ f, linkFrame s.main o = some f → p.1 ≠ frameKind f.body) :
    AnswersMain p.2 s (MicFailed s.main) := by
  have fails := micFailed_frameFailed o s.main
  simp only [linkRows, List.mem_cons, List.not_mem_nil, or_false] at hp
  rcases hp with rfl | rfl | rfl | rfl | rfl
  · exact answers_snapshotRx s o (fun f b hf hb => absurd (by rw [hb]; rfl) (h f hf)) (fun _ _ _ => fails) fun _ => micFailed_breaks o s.main
  all_goals
    refine ⟨_, rfl, ?_⟩
    simp only [infoRx, intervalRx, profileRx, stateRx]
    split
    · next f hf =>
      split
      · next hb => exact absurd (by rw [hb]; rfl) (h f hf)
      · exact fails
    · exact fails

/-! ### A frame that verifies -/

theorem Verified.counts (h : Verified f m m') : m'.get F.DMR_CNT 0 = (m.get F.DMR_CNT 0 + 1) % 2 ^ 32 ∧
    (∀ q n, m.mir.lastSeq = some (q, n) → m'.get F.DMR_CNT 2 =
      (m.get F.DMR_CNT 2 + min (f.seq - (q + 1)) (f.stepNo - n - (if frameKind f.body = 1 then 1 else 0))) % 2 ^ 32) ∧
    (m.mir.lastSeq = none → m'.get F.DMR_CNT 2 = (m.get F.DMR_CNT 2 + 0) % 2 ^ 32) ∧
    m'.mir.lastSeq = some (f.seq, f.stepNo) ∧ m'.get F.DMR_LINK_LAST_SEQ = f.seq % 2 ^ 16 ∧ Reports (inBlock 0x0A) [.mir, .pur] m m' := by
  refine ⟨h.framesOk, fun q n hl => ?_, fun hl => ?_, h.lastSeq, h.shown, h.reports⟩ <;>
    · rw [h.seqGap, hl]
      rfl

/-! ### SNAPSHOT -/

theorem SnapTaken.alarm_shows (h : SnapTaken o f m m') : m'.get F.DMR_ALARM_OPEN_CT = f.openCt % 2 ^ 16 ∧
    m'.get F.DMR_ALARM_AT_REST = f.feeders / 16 % 16 ∧ m'.bit F.DMR_ALARM_MISSING_N = f.vstate.testBit 2 ∧
    m'.bit F.DMR_ALARM_PSEQ_WRONG = if f.vstate % 4 = 2 then m.bit F.DMR_ALARM_PSEQ_WRONG else decide (f.vstate % 4 = 1) := by
  obtain ⟨-, open', rest, -⟩ := alarmWord_fields f (m.word 0x0A000C)
  have word (g : Field) (hg : g.addr 0 = 0x0A000C) (x : Main) : x.get g = x.word 0x0A000C / 2 ^ g.lo % 2 ^ g.width := by
    unfold Main.get
    rw [hg]
  have bit (g : Field) (hg : g.addr 0 = 0x0A000C ∧ 0 < g.width) (x : Main) : x.bit g = bitOf (x.word 0x0A000C) g.lo := by
    rw [Main.bit_eq_bitOf_word x g 0 hg.2, hg.1, Nat.add_zero]
  refine ⟨?_, ?_, ?_, ?_⟩
  · rw [word F.DMR_ALARM_OPEN_CT rfl, h.alarm]
    show alarmWord f _ / 65536 % 65536 = _
    exact (congrArg (· % 65536) open').trans (Nat.mod_mod _ _)
  · rw [word F.DMR_ALARM_AT_REST rfl, h.alarm]
    show alarmWord f _ / 4096 % 16 = _
    rw [rest]
    unfold bits
    omega
  · rw [bit F.DMR_ALARM_MISSING_N (by decide), h.alarm]
    exact alarmWord_missingN f _
  · rw [bit F.DMR_ALARM_PSEQ_WRONG (by decide), bit F.DMR_ALARM_PSEQ_WRONG (by decide) m, h.alarm]
    exact alarmWord_pseqWrong f _

/-- Events 37 to 40, each as enabled, with LINK_UP. -/
theorem SnapTaken.tells (h : SnapTaken o f m m') {k : Nat} (hk : k ∈ alarmEventNos) : pends m' k = true ↔ pends m k = true ∨
    (m'.bit F.DMR_LINK_LINK_UP = true ∧ eventEnabled m k = true ∧ alarmFires m.mir.alarmSeen (m'.word 0x0A000C) k = true) := by
  rw [h.pend k hk, Bool.or_eq_true, Bool.and_eq_true, Bool.and_eq_true, or_comm, and_assoc, and_comm (a := alarmFires _ _ _ = true)]

/-- What each of events 37 to 40 says of DMR_ALARM (R282). -/
theorem SnapTaken.events (h : SnapTaken o f m m') :
    let was := m.mir.alarmSeen
    let up := m'.bit F.DMR_LINK_LINK_UP
    let ev (n : Nat) (c : Prop) : Prop := pends m' n = true ↔ pends m n = true ∨ c
    ev 37 (up = true ∧ m.bit F.DMR_EVT_EN_EVT37_EN = true ∧ was.testBit 10 ≠ m'.bit F.DMR_ALARM_PSEQ_WRONG) ∧
    ev 38 (up = true ∧ m.bit F.DMR_EVT_EN_EVT38_EN = true ∧ was.testBit 11 ≠ m'.bit F.DMR_ALARM_MISSING_N) ∧
    ev 39 (up = true ∧ m.bit F.DMR_EVT_EN_EVT39_EN = true ∧
      ((∃ i, 16 ≤ i ∧ i < 32 ∧ was.testBit i = false ∧ (m'.word 0x0A000C).testBit i = true) ∨ (65536 ≤ was ∧ m'.get F.DMR_ALARM_OPEN_CT = 0))) ∧
    ev 40 (up = true ∧ m.bit F.DMR_EVT_EN_EVT40_EN = true ∧ was / 4096 % 16 ≠ m'.get F.DMR_ALARM_AT_REST) := by
  intro was up ev
  have lt : m'.word 0x0A000C < 2 ^ 32 := Main.word_lt ..
  have openCt : m'.get F.DMR_ALARM_OPEN_CT = m'.word 0x0A000C / 65536 := by
    have field : m'.get F.DMR_ALARM_OPEN_CT = m'.word 0x0A000C / 65536 % 65536 := rfl
    omega
  have atRest (x : Nat) : bits x 15 12 = x / 4096 % 16 := rfl
  have flag (g : Field) (j : Nat) (hg : g.addr 0 = 0x0A000C ∧ g.lo = j ∧ 0 < g.width) : m'.bit g = bitOf (m'.word 0x0A000C) j := by
    obtain ⟨haddr, hlo, hw⟩ := hg
    rw [Main.bit_eq_bitOf_word m' g 0 hw, haddr, hlo, Nat.add_zero]
  refine ⟨?_, ?_, ?_, ?_⟩
  · rw [flag F.DMR_ALARM_PSEQ_WRONG 10 (by decide), ← bitOf_eq_testBit, ← bne_iff_ne]
    exact h.tells (k := 37) (by decide)
  · rw [flag F.DMR_ALARM_MISSING_N 11 (by decide), ← bitOf_eq_testBit, ← bne_iff_ne]
    exact h.tells (k := 38) (by decide)
  · rw [openCt, ← openCt_told lt]
    exact h.tells (k := 39) (by decide)
  · have get : m'.get F.DMR_ALARM_AT_REST = m'.word 0x0A000C / 4096 % 16 := rfl
    rw [get, ← atRest, ← atRest, ← bne_iff_ne]
    exact h.tells (k := 40) (by decide)

/-! ### STATE -/

theorem bit_of_get {m : Main} {g : Field} {on : Bool} (h : m.get g = natOf on) : m.bit g = on := by
  unfold Main.bit
  rw [h]
  cases on <;> rfl

theorem StateTaken.shows (h : StateTaken f b m m') : m'.get F.DMR_SEAL_SEAL_STATE = b.sealState % 4 ∧ m'.get F.DMR_SEAL_SESSION = b.session % 4 ∧
    m'.get F.DMR_SEAL_RESULT = b.result % 256 ∧ m'.get F.DMR_SEAL_NEXT_SEQ = b.nextSeq % 2 ^ 16 ∧ m'.bit F.DMR_SEAL_GATE_OPEN = b.gateOpen ∧
    m'.bit F.DMR_SEAL_LID_OPEN = b.lidOpen ∧ m'.bit F.DMR_SEAL_METER_FAULT = b.meterFault := by
  obtain ⟨-, next, result, session, state, fault, gate, lid⟩ := sealWord_fields b
  have field (g : Field) (hg : g.addr 0 = 0x0A0900) : m'.get g = sealWord b / 2 ^ g.lo % 2 ^ g.width := by
    unfold Main.get
    rw [hg, h.word]
  exact ⟨(field F.DMR_SEAL_SEAL_STATE rfl).trans state, (field F.DMR_SEAL_SESSION rfl).trans session, (field F.DMR_SEAL_RESULT rfl).trans result,
    (field F.DMR_SEAL_NEXT_SEQ rfl).trans next, bit_of_get ((field F.DMR_SEAL_GATE_OPEN rfl).trans gate),
    bit_of_get ((field F.DMR_SEAL_LID_OPEN rfl).trans ((congrArg (· % 2) (Nat.div_one _)).trans lid)),
    bit_of_get ((field F.DMR_SEAL_METER_FAULT rfl).trans fault)⟩

/-- Events 7 and 41, each as enabled. -/
theorem StateTaken.tells (h : StateTaken f b m m') {k : Nat} (hk : k ∈ sealEventNos) :
    pends m' k = true ↔ pends m k = true ∨ (eventEnabled m k = true ∧ sealFires m.mir.state b k = true) := by
  rw [h.pend k hk, Bool.or_eq_true, Bool.and_eq_true, or_comm, and_comm]

theorem sealChange_iff (old : Option StateBody) (b : StateBody) :
    sealFires old b 7 = true ↔ ∃ p, old = some p ∧ (p.sealState ≠ b.sealState ∨ p.lidOpen ≠ b.lidOpen) := by
  cases old <;> simp [sealFires]

theorem ovf_iff (old : Option StateBody) (b : StateBody) : sealFires old b 41 = true ↔ true ∈ b.ovf := by
  simp [sealFires]

/-! ### The obligation -/

theorem linkTimeout_leaves (m : Main) : (linkTimeout m).bit F.DMR_LINK_LINK_UP = false ∧ (linkTimeout m).mir = { m.mir with upRun := 0 } ∧
    Frame (· = F.DMR_LINK_LINK_UP.addr 0) [.mir] m (linkTimeout m) := by
  have down : Frame (· = F.DMR_LINK_LINK_UP.addr 0) [.mir] m (m.putBit F.DMR_LINK_LINK_UP false) := Frame.setWord _ m _ _ rfl
  have hbit : (m.putBit F.DMR_LINK_LINK_UP false).bit F.DMR_LINK_LINK_UP = false := bit_putBit_same m F.DMR_LINK_LINK_UP false 0
  unfold linkTimeout
  generalize m.putBit F.DMR_LINK_LINK_UP false = x at down hbit
  have run := Mirrors.mir (regs := fun _ => False) (ps := [.mir]) x { m.mir with upRun := 0 }
  exact ⟨(run.reports.bit F.DMR_LINK_LINK_UP 0 0 not_false).trans hbit, rfl, down.trans (Frame.mir _ x _ (by decide))⟩

/-- Settles O33: `linkRow_fails` for what is discarded, `snapTaken_snapshotGood`, `infoTaken_infoGood`, `intervalTaken`, `posted_profile` and
`stateTaken_stateGood` for what verifies, and `totLatched_answered` for the read of the totals. -/
theorem mirrorShowsVerifiedFrames : Obligations.MirrorShowsVerifiedFrames := by
  unfold Obligations.MirrorShowsVerifiedFrames
  intro s o cnt rows failed verified posted ev
  have discarded (p : Nat × Instr) (hp : p ∈ rows) (h : ∀ f, linkFrame s.main o = some f → p.1 ≠ frameKind f.body) : AnswersMain p.2 s failed :=
    (linkRow_fails hp h).mono fun _ hm => ⟨hm.counts, hm.reports, hm.mir⟩
  have gone {f : DmrFrame} {P : Prop} (hn : linkFrame s.main o = none) (hf : linkFrame s.main o = some f) : P := by
    rw [hn] at hf
    cases hf
  refine ⟨fun hn p hp => discarded p hp fun f hf => gone hn hf, fun f hf => ⟨fun p hp hk => discarded p hp fun g hg => ?_, fun b hb => ?_,
    fun ident meas hb => ?_, fun n w hb => ?_, fun n k w hb => ?_, fun b hb => ?_⟩, ?_, fun hd => ?_, fun hd hm => ?_, fun hd hm => ?_, fun hr => ?_⟩
  · obtain rfl : f = g := Option.some.inj (hf.symm.trans hg)
    exact hk
  · have frame {g : DmrFrame} (hg : linkFrame s.main o = some g) : f = g := Option.some.inj (hf.symm.trans hg)
    refine answers_snapshotRx s o (fun g b' hg hb' => ?_) (fun g hg hk => absurd (by rw [← frame hg, hb]; rfl) hk) fun hn => gone hn hf
    obtain rfl := frame hg
    have taken := snapTaken_snapshotGood o f b' s.main
    obtain ⟨openCt, atRest, missingN, pseqWrong⟩ := taken.alarm_shows
    obtain ⟨event37, event38, event39, event40⟩ := taken.events
    exact ⟨taken.verified.counts, taken.snap, taken.linkUp, taken.words, openCt, taken.noload, taken.reverse, atRest, missingN, pseqWrong,
      taken.alarmSeen, event37, event38, event39, event40⟩
  · refine ⟨_, rfl, ?_⟩
    have taken := infoTaken_infoGood f ident meas s.main
    have step : infoRx o s.main = infoGood f ident meas s.main := by unfold infoRx; rw [hf]; dsimp only; rw [hb]
    rw [step]
    exact ⟨taken.verified.counts, taken.count, taken.words, taken.romId, taken.valid, taken.approved, taken.mir⟩
  · refine ⟨_, rfl, ?_⟩
    have taken := intervalTaken (f := f) (o := o) (n := n) (length_interval hf hb) s.main
    have step : intervalRx o s.main = fire 19 (uplPost 3 o (showInterval n w (frameVerified f s.main))) := by
      unfold intervalRx; rw [hf]; dsimp only; rw [hb]; rfl
    rw [step]
    exact ⟨taken.posted.verified.counts, taken.number, taken.words, taken.told, taken.posted.waits, taken.posted.mir⟩
  · refine ⟨_, rfl, ?_⟩
    have taken := posted_profile f o s.main
    have step : profileRx o s.main = uplPost 3 o (frameVerified f s.main) := by unfold profileRx; rw [hf]; dsimp only; rw [hb]
    rw [step]
    exact ⟨taken.verified.counts, taken.waits, taken.mir⟩
  · refine ⟨_, rfl, ?_⟩
    have taken := stateTaken_stateGood f b s.main
    have step : stateRx o s.main = stateGood f b s.main := by unfold stateRx; rw [hf]; dsimp only; rw [hb]
    rw [step]
    obtain ⟨sealState, session, result, nextSeq, gateOpen, lidOpen, meterFault⟩ := taken.shows
    generalize stateGood f b s.main = m at taken sealState session result nextSeq gateOpen lidOpen meterFault
    have change : ev m 7 _ := taken.tells (k := 7) (by decide)
    have ovf : ev m 41 _ := taken.tells (k := 41) (by decide)
    rw [sealChange_iff] at change
    rw [ovf_iff] at ovf
    exact ⟨taken.framesOk, taken.state, taken.snap, sealState, session, result, nextSeq, gateOpen, lidOpen, meterFault, taken.breaks,
      taken.sessions, taken.live, taken.latch, change, ovf, taken.count, fun k hk => taken.replay k k.isLt hk, taken.reports⟩
  · exact ⟨_, rfl, linkTimeout_leaves s.main⟩
  · exact answersMain_of rfl (hostRead_d3hot hd ..)
  · exact answersMain_of rfl (hostRead_ship hd hm ..)
  · refine answersMain_of rfl ?_
    rw [dmrTotRead_daylight hd hm]
    exact ⟨rfl, frame_answered s.main _⟩
  · refine ⟨fun hnone => answersMain_of rfl ?_, fun g b hs hb => answersMain_of rfl ?_⟩
    · have hnone' : ∀ f b, (accessed s.main).mir.snap = some f → f.body ≠ .snapshot b := hnone
      rw [dmrTotRead_reaches hr, totRead_none hnone']
      exact ⟨rfl, frame_answered s.main _⟩
    · rw [dmrTotRead_reaches hr]
      have taken := totLatched_answered hs hb (.readData 0x0A0600 ((totRead (accessed s.main)).word 0x0A0600))
      refine ⟨?_, fun k => taken.totals k k.isLt, taken.stepLo, taken.stepHi, ?_⟩
      · exact congrArg (_ :: ·) (out_totRead (m := accessed s.main) hs hb)
      · exact (Frame.accessed _ s.main (by decide)).trans (taken.frame.mono (fun _ => id) (by decide))

end Sys2Proof.Machine
end
